-- ==== Sys2Proof/Word.lean ====
section
/-! DEFINITION. The word types of the K9 and their plainest arithmetic (spec 00_scope.md R4, R9, R10; 04 R81). -/

namespace Sys2Proof

/-- A 64-bit scalar register or status register value (R81, R44). -/
abbrev Word := BitVec 64

/-- A byte of memory (R4). -/
abbrev Byte := BitVec 8

/-- `zext(x, n)` of R10: the low `n` bits of `x` read as a natural. -/
def zextN (x n : Nat) : Nat := x % 2 ^ n

/-- `sext(x, n)` of R10: the low `n` bits of `x` read as a two's-complement integer. -/
def sextN (x n : Nat) : Int :=
  let y := x % 2 ^ n
  if y < 2 ^ (n - 1) then (y : Int) else (y : Int) - 2 ^ n

/-- Assignment to a 64-bit register keeps the low bits (R9). -/
def toWord (i : Int) : Word := BitVec.ofInt 64 i

end Sys2Proof
end

