-- ==== Sys2Proof/Types.lean ====
section
/-! DEFINITION. Plain data types that the operands of events carry: the payloads that come from outside the executing
core (packets, agents, fabric requests and answers). They stand apart from Syntax.lean, which holds the one inductive `Instr`. -/

namespace Sys2Proof

/-- A strand is named by its strandid register: launch handle in [63:32], strand index in [31:0] (R74). -/
abbrev StrandId := BitVec 64

/-- Who writes a register of BAR0: the physical function, or virtual function `v` (R63, R381). -/
inductive Requester where
  | pf
  | vf (v : BitVec 5)
  deriving DecidableEq, Repr

/-- A holder of a cached line in the directory (R266, R342): a core's L1, a vcache, the host, or a pool shelf.
`engine` and `fabric` name agents that access lines and hold none. -/
inductive Agent where
  | l1 (core : Nat)
  | vcache (id : Nat)
  | host
  | shelf (i : Nat)
  | engine (e : BitVec 4)
  | fabric
  deriving DecidableEq, Repr

/-- The cache hint of a vector access (R188, R209). -/
inductive Hint where
  | none
  | strm
  | keep
  deriving DecidableEq, Repr

/-- What an access wants of a line (R260, R342): to write it, or only to read, and its cache hint. -/
structure Demand where
  write : Bool
  hint : Hint
  deriving DecidableEq, Repr

/-- What a directory probe asks of a holder (R344, R345): give the line up, or keep a clean shared copy. -/
inductive ProbeKind where
  | invalidate
  | share
  deriving DecidableEq, Repr

/-- One entry (row, column, count) of a causal stamp (R332). -/
structure StampEntry where
  row : BitVec 4
  col : BitVec 4
  count : BitVec 12
  deriving DecidableEq, Repr

/-- A causal stamp as it arrives: the 100-bit field of the header, and the 256-bit extension flits that follow it (R332, R333). -/
structure Stamp where
  field : BitVec 100
  flits : List (BitVec 256)
  deriving DecidableEq, Repr

/-- The four message classes of the hub crossbar (R329). -/
inductive MsgClass where
  | request
  | reply
  | probe
  | writeback
  deriving DecidableEq, Repr

/-- What a request through a fabric window asks (R350, R356); an atomic carries its R42 code. -/
inductive ReqKind where
  | read
  | write
  | atomic (op : BitVec 5)
  deriving DecidableEq, Repr

/-- The answer to a fabric request of this package: data read (or an acknowledgement, or an atomic's old value), poisoned
data, a failed target check with its reason (R356), or a drop of a malformed request (R353). -/
inductive FabResult where
  | ok (data : List Byte)
  | poison
  | fatal (reason : BitVec 8)
  | dropped
  deriving DecidableEq, Repr

/-- The answers to a termination query or an idle-check question (R369, R373). -/
inductive TermAnswer where
  | undecided
  | publish
  | published
  | abort
  | aborted
  | staging
  | doomed
  | inDoubt
  | unknown
  | unreachable
  deriving DecidableEq, Repr

/-- A firmware image (R24): its bytes, and the RSA-4096 signature that it carries over their SHA-512 digest. -/
structure Image where
  body : List Byte
  signature : BitVec 4096
  deriving DecidableEq, Repr

/-- Where a request came from the pod: the port it arrived on (R351) and the endpoint that sent it. -/
structure FabSource where
  port : BitVec 5
  ep : BitVec 10
  deriving DecidableEq, Repr

/-- The external links of R379 and R351 that can fail training. -/
inductive LinkPort where
  | host
  | pool
  | ualink (p : BitVec 5)
  | stack (s : Nat)
  | spoke (d : Nat)
  deriving DecidableEq, Repr

end Sys2Proof
end

