-- ==== Sys2Proof/Syntax.lean ====
section
/-! DEFINITION. The whole instruction syntax: one constructor per row of spec/opcode_table.json. The 221 words carry the
fields of their format (02_instruction_words.md R30 to R43) as bit vectors of the field's width; the 104 events, which have no
word, carry the data that comes from outside the executing core. -/

namespace Sys2Proof

/-- The instructions and events of the K9, one constructor per row of spec/opcode_table.json. -/
inductive Instr where
  /-- ADD, R82: Writes s[a] + s[b] modulo 2^64 to s[d]. -/
  | add (d : BitVec 5) (a : BitVec 5) (b : BitVec 5)
  /-- SUB, R82: Writes s[a] - s[b] modulo 2^64 to s[d]. -/
  | sub (d : BitVec 5) (a : BitVec 5) (b : BitVec 5)
  /-- AND, R82: Writes the bitwise and of s[a] and s[b] to s[d]. -/
  | and (d : BitVec 5) (a : BitVec 5) (b : BitVec 5)
  /-- OR, R82: Writes the bitwise or of s[a] and s[b] to s[d]. -/
  | or (d : BitVec 5) (a : BitVec 5) (b : BitVec 5)
  /-- XOR, R82: Writes the bitwise xor of s[a] and s[b] to s[d]. -/
  | xor (d : BitVec 5) (a : BitVec 5) (b : BitVec 5)
  /-- ANDN, R82: Writes s[a] and not s[b] to s[d]. -/
  | andn (d : BitVec 5) (a : BitVec 5) (b : BitVec 5)
  /-- SLL, R82: Shifts s[a] left by s[b][5:0] into s[d]. -/
  | sll (d : BitVec 5) (a : BitVec 5) (b : BitVec 5)
  /-- SRL, R82: Shifts s[a] right logically by s[b][5:0] into s[d]. -/
  | srl (d : BitVec 5) (a : BitVec 5) (b : BitVec 5)
  /-- SRA, R82: Shifts s[a] right arithmetically by s[b][5:0] into s[d]. -/
  | sra (d : BitVec 5) (a : BitVec 5) (b : BitVec 5)
  /-- ROTR, R82: Rotates s[a] right by s[b][5:0] into s[d]. -/
  | rotr (d : BitVec 5) (a : BitVec 5) (b : BitVec 5)
  /-- MUL, R82: Writes the low 64 bits of the product of s[a] and s[b]. -/
  | mul (d : BitVec 5) (a : BitVec 5) (b : BitVec 5)
  /-- MULH, R82: Writes the high 64 bits of the signed product. -/
  | mulh (d : BitVec 5) (a : BitVec 5) (b : BitVec 5)
  /-- MULHN, R82: Writes the high 64 bits of the natural product. -/
  | mulhn (d : BitVec 5) (a : BitVec 5) (b : BitVec 5)
  /-- DIV, R83: Signed division truncating toward zero, never trapping. -/
  | div (d : BitVec 5) (a : BitVec 5) (b : BitVec 5)
  /-- DIVN, R83: Natural division, all ones for a zero divisor. -/
  | divn (d : BitVec 5) (a : BitVec 5) (b : BitVec 5)
  /-- REM, R83: Signed remainder with the sign of the dividend. -/
  | rem (d : BitVec 5) (a : BitVec 5) (b : BitVec 5)
  /-- REMN, R83: Natural remainder, s[a] for a zero divisor. -/
  | remn (d : BitVec 5) (a : BitVec 5) (b : BitVec 5)
  /-- MIN, R82: Writes the signed minimum of s[a] and s[b]. -/
  | min (d : BitVec 5) (a : BitVec 5) (b : BitVec 5)
  /-- MAX, R82: Writes the signed maximum of s[a] and s[b]. -/
  | max (d : BitVec 5) (a : BitVec 5) (b : BitVec 5)
  /-- MINN, R82: Writes the natural minimum of s[a] and s[b]. -/
  | minn (d : BitVec 5) (a : BitVec 5) (b : BitVec 5)
  /-- MAXN, R82: Writes the natural maximum of s[a] and s[b]. -/
  | maxn (d : BitVec 5) (a : BitVec 5) (b : BitVec 5)
  /-- SLT, R82: Writes 1 when s[a] is signed-less than s[b], else 0. -/
  | slt (d : BitVec 5) (a : BitVec 5) (b : BitVec 5)
  /-- SLTN, R82: Writes 1 when s[a] is natural-less than s[b], else 0. -/
  | sltn (d : BitVec 5) (a : BitVec 5) (b : BitVec 5)
  /-- CLZ, R82: Counts the leading zero bits of s[a]. -/
  | clz (d : BitVec 5) (a : BitVec 5)
  /-- CTZ, R82: Counts the trailing zero bits of s[a]. -/
  | ctz (d : BitVec 5) (a : BitVec 5)
  /-- POPC, R82: Counts the one bits of s[a]. -/
  | popc (d : BitVec 5) (a : BitVec 5)
  /-- BSWAP, R82: Reverses the byte order of s[a]. -/
  | bswap (d : BitVec 5) (a : BitVec 5)
  /-- SEXT, R82: Sign-extends s[a] from 8, 16 or 32 bits. -/
  | sext (d : BitVec 5) (a : BitVec 5) (w : BitVec 2)
  /-- ZEXT, R82: Zero-extends s[a] from 8, 16 or 32 bits. -/
  | zext (d : BitVec 5) (a : BitVec 5) (w : BitVec 2)
  /-- ADDI, R84: Adds the sign-extended immediate to s[a]. -/
  | addi (d : BitVec 5) (a : BitVec 5) (i : BitVec 16)
  /-- ANDI, R84: Ands s[a] with the sign-extended immediate. -/
  | andi (d : BitVec 5) (a : BitVec 5) (i : BitVec 16)
  /-- ORI, R84: Ors s[a] with the sign-extended immediate. -/
  | ori (d : BitVec 5) (a : BitVec 5) (i : BitVec 16)
  /-- XORI, R84: Xors s[a] with the sign-extended immediate. -/
  | xori (d : BitVec 5) (a : BitVec 5) (i : BitVec 16)
  /-- SLTI, R84: Signed compare of s[a] against the immediate. -/
  | slti (d : BitVec 5) (a : BitVec 5) (i : BitVec 16)
  /-- SLTNI, R84: Natural compare of s[a] against the extended immediate. -/
  | sltni (d : BitVec 5) (a : BitVec 5) (i : BitVec 16)
  /-- SHI, R85: Shifts or rotates s[a] by an immediate amount of a chosen kind. -/
  | shi (d : BitVec 5) (a : BitVec 5) (k : BitVec 2) (n : BitVec 6)
  /-- LIH, R84: Loads the sign-extended immediate shifted left by 16. -/
  | lih (d : BitVec 5) (i : BitVec 16)
  /-- INSI, R84: Inserts the immediate into one 16-bit lane of s[d]. -/
  | insi (d : BitVec 5) (l : BitVec 2) (i : BitVec 16)
  /-- ADDPC, R84: Writes pc plus the immediate shifted left by 16. -/
  | addpc (d : BitVec 5) (i : BitVec 16)
  /-- LD, R87: Loads 1, 2, 4 or 8 bytes into s[d], zero- or sign-extended. -/
  | ld (d : BitVec 5) (a : BitVec 5) (w : BitVec 3) (o : BitVec 13)
  /-- ST, R87: Stores the low bytes of s[b] at s[a] plus offset. -/
  | st (b : BitVec 5) (a : BitVec 5) (w : BitVec 3) (o : BitVec 13)
  /-- BEQ, R90: Branches when s[a] equals s[b]. -/
  | beq (b : BitVec 5) (a : BitVec 5) (o : BitVec 13)
  /-- BNE, R90: Branches when s[a] differs from s[b]. -/
  | bne (b : BitVec 5) (a : BitVec 5) (o : BitVec 13)
  /-- BLT, R90: Branches when s[a] is signed-less than s[b]. -/
  | blt (b : BitVec 5) (a : BitVec 5) (o : BitVec 13)
  /-- BGE, R90: Branches when s[a] is signed-greater or equal to s[b]. -/
  | bge (b : BitVec 5) (a : BitVec 5) (o : BitVec 13)
  /-- BLTN, R90: Branches when s[a] is natural-less than s[b]. -/
  | bltn (b : BitVec 5) (a : BitVec 5) (o : BitVec 13)
  /-- BGEN, R90: Branches when s[a] is natural-greater or equal to s[b]. -/
  | bgen (b : BitVec 5) (a : BitVec 5) (o : BitVec 13)
  /-- CALL, R91: Jumps pc-relative and writes the return address to s[d]. -/
  | call (d : BitVec 5) (o : BitVec 21)
  /-- CALLR, R92: Jumps to s[a] and writes the return address to s[d], trapping on a bad target. -/
  | callr (d : BitVec 5) (a : BitVec 5)
  /-- JMPR, R92: Jumps to s[a], trapping on a bad target. -/
  | jmpr (a : BitVec 5)
  /-- SGET, R95: Reads status register n into s[d] after access checks. -/
  | sget (d : BitVec 5) (n : BitVec 11)
  /-- SSET, R95: Writes s[a] to status register n under its owner's rules. -/
  | sset (a : BitVec 5) (n : BitVec 11)
  /-- SXCH, R95: Exchanges s[a] with status register n in one step. -/
  | sxch (d : BitVec 5) (a : BitVec 5) (n : BitVec 11)
  /-- TRAP, R399: Waits for head and raises trap 0x08 with the code in tval. -/
  | trap (c : BitVec 11)
  /-- TRET, R400: Returns from a handler to tpc, restoring level and ie. -/
  | tret
  /-- SVC, R399: Waits for head and raises trap 0x09 with the code in tval. -/
  | svc (c : BitVec 11)
  /-- HALT, R401: Traps 0xE1 on ring and gateway cores; stops fetch on the management core. -/
  | halt
  /-- IDLE, R401: Stalls until a message, a pending event or a pre-emption stop, then advances pc. -/
  | idle
  /-- BKPT, R399: Raises trap 0x0A with the code in tval. -/
  | bkpt (c : BitVec 11)
  /-- FORK, R132: Starts a fork over s[a] iterations with the descriptor at s[b]. -/
  | fork (a : BitVec 5) (b : BitVec 5)
  /-- FORKT, R132: Starts a two-dimensional fork of rows by columns. -/
  | forkt (d : BitVec 5) (a : BitVec 5) (b : BitVec 5)
  /-- ITER, R132: Writes the linear, row or column index of the current iteration. -/
  | iter (d : BitVec 5) (s : BitVec 6)
  /-- ENDI, R132: Ends an iteration, starting the next or finishing and committing the chunk. -/
  | endi
  /-- JOIN, R130: Waits for merge combines and gives the strand the last chunk's state. -/
  | join
  /-- FBREAK, R126: Ends the loop at the current iteration. -/
  | fbreak
  /-- CSPEC, R132: Writes cnum minus the head's cnum. -/
  | cspec (d : BitVec 5)
  /-- HEADW, R132: Waits until the chunk is head. -/
  | headw
  /-- IPOST, R125: Posts a tag for the current iteration. -/
  | ipost (t : BitVec 6)
  /-- IWAIT, R125: Stalls until an older iteration has posted a tag. -/
  | iwait (a : BitVec 5) (t : BitVec 6)
  /-- RDECL, R119: Declares or clears a merge region for the next fork. -/
  | rdecl (d : BitVec 5) (a : BitVec 5) (b : BitVec 5)
  /-- CHAINW, R127: Stalls until a confirmed chain value of a live-in arrives. -/
  | chainw (a : BitVec 5)
  /-- LAUNCH, R75: Submits a launch record to the command processor and writes the status. -/
  | launch (d : BitVec 5) (a : BitVec 5)
  /-- SDONE, R76: Ends the strand, committing, aborting groups and reclaiming the ring. -/
  | sdone
  /-- YIELD, R78: Offers the ring to a waiting launch, pre-empting the strand when one qualifies. -/
  | yield
  /-- RINGID, R79: Writes the index of the occupied ring or 48 + g. -/
  | ringid (d : BitVec 5)
  /-- GRPQ, R79: Reads the member map of a local ring group. -/
  | grpq (d : BitVec 5) (a : BitVec 5)
  /-- SPRIO, R80: Sets the strand's run priority, never above its launch's level. -/
  | sprio (a : BitVec 5)
  /-- STRIDX, R79: Writes the strand index. -/
  | stridx (d : BitVec 5)
  /-- AADD, R293: Atomically adds s[b] to the dword at s[a], returning the old value. -/
  | aadd (d : BitVec 5) (a : BitVec 5) (b : BitVec 5) (p : BitVec 2)
  /-- AAND, R293: Atomic and of s[b] into the dword at s[a]. -/
  | aand (d : BitVec 5) (a : BitVec 5) (b : BitVec 5) (p : BitVec 2)
  /-- AOR, R293: Atomic or of s[b] into the dword at s[a]. -/
  | aor (d : BitVec 5) (a : BitVec 5) (b : BitVec 5) (p : BitVec 2)
  /-- AXOR, R293: Atomic xor of s[b] into the dword at s[a]. -/
  | axor (d : BitVec 5) (a : BitVec 5) (b : BitVec 5) (p : BitVec 2)
  /-- AMIN, R293: Atomic signed minimum with s[b]. -/
  | amin (d : BitVec 5) (a : BitVec 5) (b : BitVec 5) (p : BitVec 2)
  /-- AMAX, R293: Atomic signed maximum with s[b]. -/
  | amax (d : BitVec 5) (a : BitVec 5) (b : BitVec 5) (p : BitVec 2)
  /-- AMINN, R293: Atomic natural minimum with s[b]. -/
  | aminn (d : BitVec 5) (a : BitVec 5) (b : BitVec 5) (p : BitVec 2)
  /-- AMAXN, R293: Atomic natural maximum with s[b]. -/
  | amaxn (d : BitVec 5) (a : BitVec 5) (b : BitVec 5) (p : BitVec 2)
  /-- ASWAP, R293: Atomically swaps s[b] with the dword at s[a]. -/
  | aswap (d : BitVec 5) (a : BitVec 5) (b : BitVec 5) (p : BitVec 2)
  /-- ACAS, R293: Atomic compare-and-swap against s[c]. -/
  | acas (d : BitVec 5) (a : BitVec 5) (b : BitVec 5) (c : BitVec 5) (p : BitVec 2)
  /-- AFADD, R293: Atomic FP32 add on a 4-byte word, rounded to nearest even. -/
  | afadd (d : BitVec 5) (a : BitVec 5) (b : BitVec 5) (p : BitVec 2)
  /-- BINIT, R303: Initialises a barrier record's expected count and releases waiters with status 3. -/
  | binit (a : BitVec 5) (b : BitVec 5)
  /-- BARR, R303: Releases at a scope and arrives at a barrier record without waiting. -/
  | barr (d : BitVec 5) (a : BitVec 5) (s : BitVec 3)
  /-- BWAIT, R303: Waits for the given phase of a barrier record to complete. -/
  | bwait (d : BitVec 5) (a : BitVec 5) (b : BitVec 5)
  /-- BARRW, R303: Arrives at a barrier record and waits for the phase to complete. -/
  | barrw (d : BitVec 5) (a : BitVec 5) (s : BitVec 3)
  /-- BINV, R303: Invalidates a barrier record and releases its waiters with status 4. -/
  | binv (a : BitVec 5)
  /-- GBAR, R305: Arrives at a ring group barrier kept at the hub and waits for its phase. -/
  | gbar (d : BitVec 5) (a : BitVec 5)
  /-- MSEND, R313: Binds a 64-byte message to a target and places it in the retry buffer. -/
  | msend (d : BitVec 5) (a : BitVec 5) (b : BitVec 5)
  /-- MRECV, R317: Waits for and dequeues the oldest inbox message, an acquire. -/
  | mrecv (d : BitVec 5) (a : BitVec 5)
  /-- MPEEK, R317: Returns the sender word of the oldest inbox entry without dequeuing. -/
  | mpeek (d : BitVec 5)
  /-- WAKEW, R318: Stores to a wait word with release order at the home bank, waking waiters. -/
  | wakew (a : BitVec 5) (b : BitVec 5)
  /-- WAITW, R318: Waits until a wait word differs from s[b]. -/
  | waitw (d : BitVec 5) (a : BitVec 5) (b : BitVec 5)
  /-- ECMD, R324: Passes a command record to a stream engine through the engine queue. -/
  | ecmd (d : BitVec 5) (a : BitVec 5) (b : BitVec 5)
  /-- ECMDB, R326: Offers a vector group of command slots to an engine without waiting. -/
  | ecmdb (k : BitVec 5) (a : BitVec 5) (b : BitVec 5)
  /-- TOKS, R320: Places a token push into the named queue. -/
  | toks (q : BitVec 2) (f : BitVec 3)
  /-- TOKW, R320: Places a token pop into the named queue. -/
  | tokw (q : BitVec 2) (f : BitVec 3)
  /-- BQTAKE, R328: Pops the oldest completed block index from the gateway block queue. -/
  | bqtake (d : BitVec 5)
  /-- FSV, R242: Orders earlier scalar accesses before later vector accesses. -/
  | fsv
  /-- FVS, R242: Orders earlier vector accesses before later scalar accesses. -/
  | fvs
  /-- FENCE, R247: Orders the strand's loads, stores or both at a scope. -/
  | fence (k : BitVec 2) (s : BitVec 3)
  /-- FSC, R248: Sequentially consistent fence with a clock barrier. -/
  | fsc
  /-- LDACQ, R249: Acquire load at a scope. -/
  | ldacq (d : BitVec 5) (a : BitVec 5) (w : BitVec 3) (s : BitVec 3)
  /-- STREL, R249: Cumulative release store at a scope. -/
  | strel (d : BitVec 5) (a : BitVec 5) (w : BitVec 2) (s : BitVec 3)
  /-- VCDEF, R262: Installs a plat, defining or resizing a vcache. -/
  | vcdef (d : BitVec 5) (a : BitVec 5)
  /-- VCDEL, R272: Deletes a vcache, draining its whole plat. -/
  | vcdel (d : BitVec 5) (a : BitVec 5)
  /-- VCQRY, R273: Writes a summary of a vcache. -/
  | vcqry (d : BitVec 5) (a : BitVec 5)
  /-- VCSYNC, R274: Invalidates read-only vcache and L1 copies of a range. -/
  | vcsync (a : BitVec 5) (b : BitVec 5)
  /-- VCFLUSH, R274: Writes every dirty copy of a range home. -/
  | vcflush (a : BitVec 5) (b : BitVec 5)
  /-- TLBINV, R289: Drops translations of a page, or all, in the ring's buffers. -/
  | tlbinv (a : BitVec 5)
  /-- TLOGW, R289: Appends a shootdown entry to every die's log, or resets a page class. -/
  | tlogw (a : BitVec 5)
  /-- TLOGA, R289: Applies the translation log of the issuing core's die. -/
  | tloga
  /-- ATRAN, R289: Translates an address as a user access and reports the result or cause. -/
  | atran (d : BitVec 5) (a : BitVec 5) (k : BitVec 2)
  /-- GOPEN, R367: Opens the lowest free Closure group of the endpoint. -/
  | gopen (d : BitVec 5)
  /-- GST, R368: Stages one group store to a fabric destination. -/
  | gst (d : BitVec 5) (a : BitVec 5) (b : BitVec 5) (w : BitVec 2)
  /-- VGST, R368: Stages one group store per active vector element. -/
  | vgst (d : BitVec 5) (a : BitVec 5) (b : BitVec 5) (k : BitVec 3)
  /-- GCOMMIT, R370: Runs the two-phase commit of a group and writes its status. -/
  | gcommit (d : BitVec 5) (a : BitVec 5)
  /-- GABORT, R374: Aborts an open group of the strand. -/
  | gabort (a : BitVec 5)
  /-- GSTAT, R375: Reports the initiator or destination state of a group. -/
  | gstat (d : BitVec 5) (a : BitVec 5)
  /-- GRESOLVE, R376: Publishes or aborts a group held at this package by hand. -/
  | gresolve (a : BitVec 5) (e : BitVec 1)
  /-- PMCR, R433: Reads a strand counter's count. -/
  | pmcr (d : BitVec 5) (j : BitVec 2)
  /-- PMCW, R433: Writes a strand counter's count. -/
  | pmcw (a : BitVec 5) (j : BitVec 2)
  /-- PMCF, R433: Sets the enable bits of all four counters at once. -/
  | pmcf (a : BitVec 5)
  /-- VSETVL, R157: Sets vtype from s[b] and vl from the requested length. -/
  | vsetvl (d : BitVec 5) (a : BitVec 5) (b : BitVec 5)
  /-- VSETVLI, R157: Sets vtype from an immediate and vl from the requested length. -/
  | vsetvli (d : BitVec 5) (a : BitVec 5) (t : BitVec 6)
  /-- VADD, R166: Elementwise exact sum rounded once. -/
  | vadd (k : BitVec 3) (d : BitVec 5) (a : BitVec 5) (b : BitVec 5) (f : BitVec 5) (s : BitVec 1)
  /-- VSUB, R166: Elementwise exact difference rounded once. -/
  | vsub (k : BitVec 3) (d : BitVec 5) (a : BitVec 5) (b : BitVec 5) (f : BitVec 5) (s : BitVec 1)
  /-- VMUL, R166: Elementwise exact product rounded once. -/
  | vmul (k : BitVec 3) (d : BitVec 5) (a : BitVec 5) (b : BitVec 5) (f : BitVec 5) (s : BitVec 1)
  /-- VFMA, R166: Elementwise fused a times b plus the addend. -/
  | vfma (k : BitVec 3) (d : BitVec 5) (a : BitVec 5) (b : BitVec 5) (f : BitVec 5) (s : BitVec 1)
  /-- VFMS, R166: Elementwise fused a times b minus the addend. -/
  | vfms (k : BitVec 3) (d : BitVec 5) (a : BitVec 5) (b : BitVec 5) (f : BitVec 5) (s : BitVec 1)
  /-- VNFMA, R166: Elementwise fused addend minus a times b. -/
  | vnfma (k : BitVec 3) (d : BitVec 5) (a : BitVec 5) (b : BitVec 5) (f : BitVec 5) (s : BitVec 1)
  /-- VDIV, R167: Elementwise division, exact then rounded. -/
  | vdiv (k : BitVec 3) (d : BitVec 5) (a : BitVec 5) (b : BitVec 5) (f : BitVec 5) (s : BitVec 1)
  /-- VSQRT, R166: Elementwise square root rounded once. -/
  | vsqrt (k : BitVec 3) (d : BitVec 5) (a : BitVec 5) (f : BitVec 5)
  /-- VMIN, R168: Elementwise minimum. -/
  | vmin (k : BitVec 3) (d : BitVec 5) (a : BitVec 5) (b : BitVec 5) (f : BitVec 5) (s : BitVec 1)
  /-- VMAX, R168: Elementwise maximum. -/
  | vmax (k : BitVec 3) (d : BitVec 5) (a : BitVec 5) (b : BitVec 5) (f : BitVec 5) (s : BitVec 1)
  /-- VABS, R168: Elementwise absolute value. -/
  | vabs (k : BitVec 3) (d : BitVec 5) (a : BitVec 5) (f : BitVec 5)
  /-- VNEG, R168: Elementwise negation. -/
  | vneg (k : BitVec 3) (d : BitVec 5) (a : BitVec 5) (f : BitVec 5)
  /-- VEXP2, R166: Elementwise base-2 exponential rounded once. -/
  | vexp2 (k : BitVec 3) (d : BitVec 5) (a : BitVec 5) (f : BitVec 5)
  /-- VLOG2, R166: Elementwise base-2 logarithm rounded once. -/
  | vlog2 (k : BitVec 3) (d : BitVec 5) (a : BitVec 5) (f : BitVec 5)
  /-- VRCP, R166: Elementwise reciprocal rounded once. -/
  | vrcp (k : BitVec 3) (d : BitVec 5) (a : BitVec 5) (f : BitVec 5)
  /-- VRSQ, R166: Elementwise reciprocal square root rounded once. -/
  | vrsq (k : BitVec 3) (d : BitVec 5) (a : BitVec 5) (f : BitVec 5)
  /-- VCVT, R169: Elementwise format conversion rounded once. -/
  | vcvt (k : BitVec 3) (d : BitVec 5) (a : BitVec 5) (f : BitVec 5)
  /-- VAND, R170: Elementwise bitwise and. -/
  | vand (k : BitVec 3) (d : BitVec 5) (a : BitVec 5) (b : BitVec 5) (f : BitVec 5) (s : BitVec 1)
  /-- VOR, R170: Elementwise bitwise or. -/
  | vor (k : BitVec 3) (d : BitVec 5) (a : BitVec 5) (b : BitVec 5) (f : BitVec 5) (s : BitVec 1)
  /-- VXOR, R170: Elementwise bitwise xor. -/
  | vxor (k : BitVec 3) (d : BitVec 5) (a : BitVec 5) (b : BitVec 5) (f : BitVec 5) (s : BitVec 1)
  /-- VNOT, R170: Elementwise bitwise inversion. -/
  | vnot (k : BitVec 3) (d : BitVec 5) (a : BitVec 5) (f : BitVec 5)
  /-- VSHL, R170: Elementwise shift left. -/
  | vshl (k : BitVec 3) (d : BitVec 5) (a : BitVec 5) (b : BitVec 5) (f : BitVec 5) (s : BitVec 1)
  /-- VSHR, R170: Elementwise logical shift right. -/
  | vshr (k : BitVec 3) (d : BitVec 5) (a : BitVec 5) (b : BitVec 5) (f : BitVec 5) (s : BitVec 1)
  /-- VSRA, R170: Elementwise arithmetic shift right. -/
  | vsra (k : BitVec 3) (d : BitVec 5) (a : BitVec 5) (b : BitVec 5) (f : BitVec 5) (s : BitVec 1)
  /-- VCMP, R171: Elementwise compare under a condition into a mask register. -/
  | vcmp (k : BitVec 3) (m : BitVec 3) (a : BitVec 5) (b : BitVec 5) (f : BitVec 5) (s : BitVec 1) (c : BitVec 3)
  /-- VREDSUM, R173: Pairwise-tree sum of active elements into element 0. -/
  | vredsum (k : BitVec 3) (d : BitVec 5) (a : BitVec 5) (f : BitVec 5)
  /-- VREDMAX, R173: Pairwise-tree maximum of active elements. -/
  | vredmax (k : BitVec 3) (d : BitVec 5) (a : BitVec 5) (f : BitVec 5)
  /-- VREDMIN, R173: Pairwise-tree minimum of active elements. -/
  | vredmin (k : BitVec 3) (d : BitVec 5) (a : BitVec 5) (f : BitVec 5)
  /-- VSCAN, R174: Inclusive prefix sum of active elements, rounded at each step. -/
  | vscan (k : BitVec 3) (d : BitVec 5) (a : BitVec 5) (f : BitVec 5)
  /-- VSORT, R175: Stable ascending sort of keys with payloads. -/
  | vsort (k : BitVec 3) (d : BitVec 5) (a : BitVec 5) (b : BitVec 5) (f : BitVec 5)
  /-- VTOPK, R176: Selects the k largest keys and their indices. -/
  | vtopk (k : BitVec 3) (d : BitVec 5) (a : BitVec 5) (b : BitVec 5) (f : BitVec 5)
  /-- VCOMP, R177: Compresses elements whose mask bit is set. -/
  | vcomp (k : BitVec 3) (d : BitVec 5) (a : BitVec 5)
  /-- VEXPD, R177: Expands consecutive elements into set mask positions. -/
  | vexpd (k : BitVec 3) (d : BitVec 5) (a : BitVec 5)
  /-- VIOTA, R177: Writes the count of set mask bits below each element. -/
  | viota (k : BitVec 3) (d : BitVec 5)
  /-- VPERM, R178: Permutes elements by an index vector. -/
  | vperm (k : BitVec 3) (d : BitVec 5) (a : BitVec 5) (b : BitVec 5)
  /-- VSLUP, R178: Slides elements up by a scalar offset. -/
  | vslup (k : BitVec 3) (d : BitVec 5) (a : BitVec 5) (b : BitVec 5)
  /-- VSLDN, R178: Slides elements down by a scalar offset. -/
  | vsldn (k : BitVec 3) (d : BitVec 5) (a : BitVec 5) (b : BitVec 5)
  /-- VBCAST, R179: Broadcasts a scalar to every active element. -/
  | vbcast (k : BitVec 3) (d : BitVec 5) (a : BitVec 5)
  /-- VEXTR, R179: Extracts one element into a scalar register. -/
  | vextr (d : BitVec 5) (a : BitVec 5) (b : BitVec 5)
  /-- VINS, R179: Inserts a scalar into one element. -/
  | vins (d : BitVec 5) (a : BitVec 5) (b : BitVec 5)
  /-- VSEL, R179: Selects elements from two sources by the mask. -/
  | vsel (k : BitVec 3) (d : BitVec 5) (a : BitVec 5) (b : BitVec 5)
  /-- KAND, R180: Bitwise and of two mask registers. -/
  | kand (d : BitVec 5) (a : BitVec 5) (b : BitVec 5)
  /-- KOR, R180: Bitwise or of two mask registers. -/
  | kor (d : BitVec 5) (a : BitVec 5) (b : BitVec 5)
  /-- KXOR, R180: Bitwise xor of two mask registers. -/
  | kxor (d : BitVec 5) (a : BitVec 5) (b : BitVec 5)
  /-- KNOT, R180: Bitwise inversion of a mask register. -/
  | knot (d : BitVec 5) (a : BitVec 5)
  /-- KPOP, R180: Counts set mask bits below vl. -/
  | kpop (d : BitVec 5) (a : BitVec 5)
  /-- KFIRST, R180: Writes the index of the lowest set mask bit below vl. -/
  | kfirst (d : BitVec 5) (a : BitVec 5)
  /-- VRAND, R181: Fills active elements from the counter-based generator and advances rngctr. -/
  | vrand (k : BitVec 3) (d : BitVec 5) (f : BitVec 5)
  /-- VPWL, R182: Evaluates a contour table at each active element. -/
  | vpwl (k : BitVec 3) (d : BitVec 5) (a : BitVec 5) (t : BitVec 5) (f : BitVec 5)
  /-- VQUANT, R183: Quantises elements into a block format or E8M0. -/
  | vquant (k : BitVec 3) (d : BitVec 5) (a : BitVec 5) (f : BitVec 5)
  /-- VDEQ, R184: Dequantises a block or E8M0 source to a float. -/
  | vdeq (k : BitVec 3) (d : BitVec 5) (a : BitVec 5) (f : BitVec 5)
  /-- VBADDQ, R185: Adds two block operands exactly and requantises. -/
  | vbaddq (k : BitVec 3) (d : BitVec 5) (a : BitVec 5) (b : BitVec 5) (f : BitVec 5)
  /-- VAMO, R297: Indexed vector atomic at distinct addresses, returning old values. -/
  | vamo (k : BitVec 3) (d : BitVec 5) (a : BitVec 5) (b : BitVec 5) (o : BitVec 5)
  /-- VAMOC, R298: Indexed vector atomic through the scatter-add units, repeats allowed. -/
  | vamoc (k : BitVec 3) (d : BitVec 5) (a : BitVec 5) (b : BitVec 5) (o : BitVec 5)
  /-- VLD, R196: Unit-stride vector load through the address pipeline. -/
  | vld (k : BitVec 3) (v : BitVec 5) (a : BitVec 5) (e : BitVec 2) (h : BitVec 2)
  /-- VST, R196: Unit-stride vector store through the address pipeline. -/
  | vst (k : BitVec 3) (v : BitVec 5) (a : BitVec 5) (e : BitVec 2) (h : BitVec 2)
  /-- VLDS, R191: Strided unordered vector load. -/
  | vlds (k : BitVec 3) (v : BitVec 5) (a : BitVec 5) (b : BitVec 5) (e : BitVec 2) (h : BitVec 2)
  /-- VLDS_O, R193: Strided vector load performed in ascending element order. -/
  | vldsO (k : BitVec 3) (v : BitVec 5) (a : BitVec 5) (b : BitVec 5) (e : BitVec 2) (h : BitVec 2)
  /-- VSTS, R191: Strided unordered vector store. -/
  | vsts (k : BitVec 3) (v : BitVec 5) (a : BitVec 5) (b : BitVec 5) (e : BitVec 2) (h : BitVec 2)
  /-- VSTS_O, R193: Strided vector store performed in ascending element order. -/
  | vstsO (k : BitVec 3) (v : BitVec 5) (a : BitVec 5) (b : BitVec 5) (e : BitVec 2) (h : BitVec 2)
  /-- VLDX, R191: Indexed unordered vector load. -/
  | vldx (k : BitVec 3) (v : BitVec 5) (a : BitVec 5) (b : BitVec 5) (e : BitVec 2) (h : BitVec 2)
  /-- VLDX_O, R193: Indexed vector load performed in ascending element order. -/
  | vldxO (k : BitVec 3) (v : BitVec 5) (a : BitVec 5) (b : BitVec 5) (e : BitVec 2) (h : BitVec 2)
  /-- VSTX, R191: Indexed unordered vector store. -/
  | vstx (k : BitVec 3) (v : BitVec 5) (a : BitVec 5) (b : BitVec 5) (e : BitVec 2) (h : BitVec 2)
  /-- VSTX_O, R193: Indexed vector store performed in ascending element order. -/
  | vstxO (k : BitVec 3) (v : BitVec 5) (a : BitVec 5) (b : BitVec 5) (e : BitVec 2) (h : BitVec 2)
  /-- VLDSEG, R191: Segment load of 2 to 8 fields per element. -/
  | vldseg (k : BitVec 3) (v : BitVec 5) (a : BitVec 5) (e : BitVec 2) (n : BitVec 3) (h : BitVec 2)
  /-- VSTSEG, R191: Segment store of 2 to 8 fields per element. -/
  | vstseg (k : BitVec 3) (v : BitVec 5) (a : BitVec 5) (e : BitVec 2) (n : BitVec 3) (h : BitVec 2)
  /-- VPREF, R204: Unit-stride prefetch into the shared cache, never trapping after dispatch. -/
  | vpref (k : BitVec 3) (a : BitVec 5) (e : BitVec 2) (h : BitVec 2)
  /-- VPREF_S, R204: Strided prefetch into the shared cache. -/
  | vprefS (k : BitVec 3) (a : BitVec 5) (b : BitVec 5) (e : BitVec 2) (h : BitVec 2)
  /-- VPREF_X, R204: Indexed prefetch into the shared cache. -/
  | vprefX (k : BitVec 3) (a : BitVec 5) (b : BitVec 5) (e : BitVec 2) (h : BitVec 2)
  /-- VLDSQ, R207: Takes up to vl elements from the head of a memory queue. -/
  | vldsq (v : BitVec 5) (a : BitVec 5) (b : BitVec 5) (e : BitVec 2)
  /-- VCAPP, R206: Appends masked elements to a memory queue, all or nothing. -/
  | vcapp (k : BitVec 3) (v : BitVec 5) (a : BitVec 5) (b : BitVec 5) (e : BitVec 2)
  /-- MMA, R228: Multiplies two slots into an accumulator over the shape. -/
  | mma (x : BitVec 5) (y : BitVec 5) (z : BitVec 5) (w : BitVec 5) (o : BitVec 2)
  /-- MSLIDE, R228: Multiply-accumulate with A rows offset by the shape's slide. -/
  | mslide (x : BitVec 5) (y : BitVec 5) (z : BitVec 5) (w : BitVec 5) (o : BitVec 2)
  /-- MEW, R230: Combines accumulator cells with a vector row elementwise. -/
  | mew (x : BitVec 5) (y : BitVec 5) (z : BitVec 5) (o : BitVec 2)
  /-- MPWL, R230: Evaluates a contour table on accumulator cells. -/
  | mpwl (x : BitVec 5) (y : BitVec 5) (z : BitVec 5)
  /-- MRNORM, R229: Renormalises a compensated accumulator pair. -/
  | mrnorm (x : BitVec 5)
  /-- MZERO, R229: Zeroes an accumulator and clears its row poison. -/
  | mzero (x : BitVec 5)
  /-- MCLR, R229: Zeroes the accumulator rows selected by a mask. -/
  | mclr (x : BitVec 5) (y : BitVec 5)
  /-- MSHAPE, R223: Writes the shape register and returns the old shape. -/
  | mshape (x : BitVec 5) (y : BitVec 5)
  /-- MCLAIM, R223: Claims accumulators and slots. -/
  | mclaim (y : BitVec 5)
  /-- MREL, R223: Releases accumulators and slots after earlier users finish. -/
  | mrel (y : BitVec 5)
  /-- MLDS, R225: Loads memory rows into a tile slot. -/
  | mlds (x : BitVec 5) (y : BitVec 5) (z : BitVec 5) (w : BitVec 5)
  /-- MLDA, R225: Loads memory rows into an accumulator. -/
  | mlda (x : BitVec 5) (y : BitVec 5) (z : BitVec 5) (w : BitVec 5)
  /-- MSTA, R225: Stores accumulator rows to memory, converting and carrying poison. -/
  | msta (x : BitVec 5) (y : BitVec 5) (z : BitVec 5) (w : BitVec 5)
  /-- MACS, R231: Converts an accumulator region into a slot, optionally transposed. -/
  | macs (x : BitVec 5) (y : BitVec 5) (w : BitVec 5) (t : BitVec 1)
  /-- MROWV_TO_VECTOR, R232: Moves an accumulator row into a vector register, checking poison. -/
  | mrowvToVector (x : BitVec 5) (y : BitVec 5) (z : BitVec 5)
  /-- MROWV_TO_ACCUMULATOR, R232: Moves a vector register into an accumulator row. -/
  | mrowvToAccumulator (x : BitVec 5) (y : BitVec 5) (z : BitVec 5)
  /-- MCURV, R234: Loads a contour table into every core of the ring. -/
  | mcurv (x : BitVec 5) (y : BitVec 5)
  /-- MWAIT, R235: Waits for earlier matrix instructions and reports poisoned resources. -/
  | mwait (x : BitVec 5)
  /-- event NON_INSTRUCTION_WORD, R48: A fetched word that fails decode_check traps without other effect. -/
  | nonInstructionWord (w : BitVec 32)
  /-- event HELD_TRAP_TAKEN, R397: A held trap is taken when its chunk becomes head. -/
  | heldTrapTaken
  /-- event ASYNC_EVENT_TAKEN, R396: A pending asynchronous event is taken between instructions once ie allows. -/
  | asyncEventTaken
  /-- event CORE_STORAGE_ERROR, R403: An uncorrectable core storage error fences the strand and retires its ring. -/
  | coreStorageError (master : BitVec 6)
  /-- event CPLAUNCH, R381: A write of a launch port submits the launch record at the written address. -/
  | cplaunch (who : Requester) (v : BitVec 5) (value : Word)
  /-- event REGISTER_WRITE, R63: A write to a configuration register with no behaviour of its own stores the value. -/
  | registerWrite (who : Requester) (off : Nat) (value : Word)
  /-- event GWBQCFG_WRITE, R327: Configures a gateway block queue, emptying the queue and counters. -/
  | gwbqcfgWrite (who : Requester) (g : BitVec 4) (value : Word)
  /-- event WORLD_SWITCH_OUT, R413: Suspends the outgoing function and pre-empts its strands. -/
  | worldSwitchOut (who : Requester) (value : Word)
  /-- event WORLD_SWITCH_IN, R413: Clears the incoming function's suspension, restores its counters and schedules it. -/
  | worldSwitchIn
  /-- event WORLD_SWITCH_COMPLETE, R413: busy clears once every switch step has finished. -/
  | worldSwitchComplete
  /-- event CPUNFRZ, R405: Thaws a frozen ring, gateway core or engine. -/
  | cpunfrz (who : Requester) (value : Word)
  /-- event MBCMD_COMMIT, R384: Commits the accepted feature words, enabling or refusing the module. -/
  | mbcmdCommit (value : Word)
  /-- event ATTEST_NONCE_WRITE, R445: A nonce write clears atstat unless a report is being prepared. -/
  | attestNonceWrite (nonce : BitVec 512)
  /-- event ATCMD, R445: Starts preparation of an attestation report over the held nonce. -/
  | atcmd (value : Word)
  /-- event ATTEST_REPORT_READY, R445: Firmware writes the report and sets atstat to 1. -/
  | attestReportReady
  /-- event VL_WRITE, R156: A privileged write of vl stores the value clamped to VLMAX. -/
  | vlWrite (value : Word)
  /-- event VTYPE_WRITE, R156: A privileged write of vtype stores it or sets vill. -/
  | vtypeWrite (value : Word)
  /-- event MGLOGW, R444: A write appends a firmware record to the event log. -/
  | mglogw (value : Word)
  /-- event MGTHR_WRITE, R443: Sets the throttle step of each compute die. -/
  | mgthrWrite (value : Word)
  /-- event MGALRT_WRITE, R439: Sets a sensor's alert and release thresholds, clamping rel to alrt. -/
  | mgalrtWrite (value : Word)
  /-- event SCHEDULING_PASS, R69: The command processor places strands of waiting launches by level and deficit. -/
  | schedulingPass
  /-- event QUANTUM_EXPIRY, R71: A launch has waited one quantum and running strands are pre-empted for it. -/
  | quantumExpiry (level : BitVec 2) (v : BitVec 5)
  /-- event PREEMPT_STOP, R408: The head stops after an ENDI and the strand's save begins. -/
  | preemptStop (sid : StrandId)
  /-- event PREEMPT_HEAD_TIMEOUT, R408: The head is stopped after 20 µs without an ENDI. -/
  | preemptHeadTimeout (sid : StrandId)
  /-- event SAVE_COMPLETE, R408: The save slot is written and the ring is cleared and released. -/
  | saveComplete (sid : StrandId)
  /-- event RING_RECLAIM_DONE, R72: Reclaim ends, the ring is marked free and a pass runs. -/
  | ringReclaimDone (master : BitVec 6)
  /-- event SNAPSHOT_ARRIVAL, R105: The fork snapshot reaches a core of the ring. -/
  | snapshotArrival (pos : BitVec 3)
  /-- event CHUNK_START, R100: A chunk starts on its core once its start conditions hold. -/
  | chunkStart
  /-- event CHAIN_VALUE_ARRIVAL, R107: Live-in end values from the preceding chunk reach the next core. -/
  | chainValueArrival (k : BitVec 32)
  /-- event CHAIN_CONFIRMATION, R107: A confirmation of earlier chain values arrives. -/
  | chainConfirmation (k : BitVec 32)
  /-- event STORE_ANNOUNCEMENT, R111: A chunk's store announcement reaches a core and is checked for violations. -/
  | storeAnnouncement
  /-- event HEAD_PASS, R114: Head passes to the next chunk after the head finishes. -/
  | headPass
  /-- event MERGE_COMBINE, R122: A bank arithmetic unit combines a committed partial into memory. -/
  | mergeCombine
  /-- event PACKET_ARRIVAL, R336: A stamped packet reaches a die's hub port and is applied or held. -/
  | packetArrival (src dst : BitVec 4) (seen : Option Stamp)
  /-- event HELD_PACKET_READY, R336: A held early packet becomes ready and is applied. -/
  | heldPacketReady (die src : BitVec 4)
  /-- event HELD_PACKET_TIMEOUT, R348: A packet held over 100 µs is a window fault. -/
  | heldPacketTimeout (die src : BitVec 4)
  /-- event BASELINE, R348: The hub drains streams, poisons unready packets and resets every count. -/
  | baseline
  /-- event DIE_RETIRE, R346: A fenced spoke die is retired and its final counts broadcast. -/
  | dieRetire (die : BitVec 4)
  /-- event HUB_DIE_ERROR, R403: An uncontained hub die fault stops the module. -/
  | hubDieError
  /-- event DIRECTORY_REQUEST, R342: A coherent access reaches the directory, splitting regions on conflict. -/
  | directoryRequest (agent : Agent) (pa : BitVec 52) (demand : Demand)
  /-- event REGION_MERGE, R342: Sibling regions with equal holders merge after 1 ms without conflict. -/
  | regionMerge (pa : BitVec 52)
  /-- event DIRTY_EVICTION, R344: A cache evicts a dirty line, sending the write-back and entering evict-pending. -/
  | dirtyEviction (agent : Agent) (pa : BitVec 52)
  /-- event WRITEBACK_ACK, R344: Home acknowledges a write-back, ending evict-pending. -/
  | writebackAck (agent : Agent) (pa : BitVec 52)
  /-- event PROBE_ARRIVAL, R345: A directory probe reaches a core, held if the line is in pending fill. -/
  | probeArrival (agent : Agent) (pa : BitVec 52) (kind : ProbeKind) (externalWrite : Bool)
  /-- event FILL_REPLY, R345: A data reply installs a line and releases any held probe. -/
  | fillReply (agent : Agent) (pa : BitVec 52)
  /-- event FAR_ATOMIC_AT_BANK, R269: A bank arithmetic unit performs an operation on a line in arrival order. -/
  | farAtomicAtBank (pa : BitVec 52) (wide : Bool) (op : BitVec 5) (x cmp : Word)
  /-- event SCATTER_ADD_APPLY, R270: A scatter-add unit applies a chain of additions once the old value arrives. -/
  | scatterAddApply (pa : BitVec 52)
  /-- event VCACHE_DRAIN_STEP, R263: The background drain moves, writes back or drops one draining line. -/
  | vcacheDrainStep (id : BitVec 8)
  /-- event DRAIN_COMPLETE, R263: The last draining line leaves, parcels return and the completion is sent. -/
  | drainComplete (id : BitVec 8)
  /-- event PARCEL_ERROR, R268: An uncorrectable parcel error fences the parcel and degrades its vcache. -/
  | parcelError (parcel : BitVec 13)
  /-- event MESSAGE_DELIVERY, R314: A retry-buffer entry tries to append its message to the receiver's inbox. -/
  | messageDelivery (sender : Option StrandId)
  /-- event RETRY_DELAY_EXPIRY, R314: The back-off delay of a refused message ends and delivery is tried again. -/
  | retryDelayExpiry (sender : Option StrandId)
  /-- event HUB_MESSAGE_DELIVERY, R447: The hub delivers a hub or command-processor message without retries. -/
  | hubMessageDelivery
  /-- event REMOTE_MESSAGE_ARRIVAL, R312: A message arrives at the message port and is bound at the remote hub. -/
  | remoteMessageArrival (src : BitVec 10) (target : BitVec 32) (payload : BitVec 512) (core : BitVec 9)
  /-- event WAITW_WAKE, R318: A store performed to a wait word makes waiters re-read it. -/
  | waitwWake (pa : BitVec 52)
  /-- event TOKEN_PUSH, R320: A TOKS pushes once earlier instructions of its queue retire. -/
  | tokenPush (q : BitVec 2)
  /-- event TOKEN_POP, R320: A TOKW at the front of its queue pops once the count is nonzero. -/
  | tokenPop (q : BitVec 2)
  /-- event TOKEN_DEADLOCK, R322: Every queue stalled on tokens traps with cause 0x85. -/
  | tokenDeadlock
  /-- event ENGINE_ACCEPT, R324: A queued engine command reaches the front and is accepted when the engine has room. -/
  | engineAccept
  /-- event ENGINE_COPY, R323: An engine copies rows from source to destination. -/
  | engineCopy (e : BitVec 4)
  /-- event ENGINE_FILL, R323: An engine fills destination rows with an 8-byte pattern. -/
  | engineFill (e : BitVec 4)
  /-- event ENGINE_TRANSPOSE, R323: An engine transposes elements from source to destination. -/
  | engineTranspose (e : BitVec 4)
  /-- event ENGINE_QUANTISING_COPY, R323: An engine converts rows to another or a block format. -/
  | engineQuantisingCopy (e : BitVec 4)
  /-- event ENGINE_COMPLETION, R325: After its writes are performed the engine sends a completion message. -/
  | engineCompletion (e : BitVec 4)
  /-- event ENGINE_STORAGE_ERROR, R403: An engine storage error completes its queue with result 3 and retires it. -/
  | engineStorageError (e : BitVec 4)
  /-- event BLOCK_QUEUE_WRITE, R327: A counted fabric write advances a block counter and may push the block. -/
  | blockQueueWrite (port : BitVec 5) (window : BitVec 6) (off : BitVec 36) (len : Nat)
  /-- event FABRIC_WINDOW_REQUEST, R356: A read, write or atomic through a window is checked and performed at the target. -/
  | fabricWindowRequest (src : FabSource) (addr : Word) (kind : ReqKind) (n : Nat) (data : List Byte)
  /-- event VECTOR_REQUEST, R361: A vector request record arrives and its elements are performed through the reply slot. -/
  | vectorRequest (src : BitVec 10) (record : BitVec 2048) (slotData : List Byte)
  /-- event VECTOR_REQUEST_COMPLETION, R362: The completion word arrives and the core moves results and frees the slot. -/
  | vectorRequestCompletion (slot : BitVec 6) (result : FabResult)
  /-- event FABRIC_RESPONSE, R359: A response or acknowledgement of a remote access returns to the requester. -/
  | fabricResponse (id : Nat) (result : FabResult)
  /-- event FABRIC_REQUEST_TIMEOUT, R360: A request unanswered within fxtmo fails. -/
  | fabricRequestTimeout (id : Nat)
  /-- event PORT_LANE_LOSS, R351: A port loses lanes or goes down and requests are respread. -/
  | portLaneLoss (port : BitVec 5) (lanes : BitVec 3)
  /-- event GROUP_STORE_ARRIVAL, R369: A destination checks and stages or discards an arriving group store. -/
  | groupStoreArrival (src : BitVec 10) (g : BitVec 16) (seq : BitVec 32) (window : BitVec 6) (off : BitVec 36) (data : List Byte)
  /-- event GROUP_STORE_ACK, R368: A destination's acknowledgement of a staged store reaches the initiator. -/
  | groupStoreAck (g : BitVec 16) (ep : BitVec 10) (seq : BitVec 32) (result : FabResult)
  /-- event PREPARE, R371: A destination votes on a group and enters in doubt on yes. -/
  | prepare (src : BitVec 10) (g : BitVec 16) (count : Nat) (hash : Word) (dests : List (BitVec 10))
  /-- event VOTE_ARRIVAL, R370: A destination's vote reaches the initiator. -/
  | voteArrival (g : BitVec 16) (ep : BitVec 10) (vote : BitVec 8)
  /-- event VOTE_TIMEOUT, R370: Votes or acknowledgements missing at fxclcfg.vote end the wait. -/
  | voteTimeout (g : BitVec 16)
  /-- event PUBLISH, R371: A destination applies a group's staged stores atomically. -/
  | publish (src : BitVec 10) (g : BitVec 16) (fromInitiator : Bool)
  /-- event ABORT, R371: A destination discards a group's staged stores. -/
  | abort (src : BitVec 10) (g : BitVec 16) (fromInitiator : Bool) (reason : BitVec 8)
  /-- event DECISION_ACK, R370: A destination's acknowledgement of the decision reaches the initiator. -/
  | decisionAck (g : BitVec 16) (ep : BitVec 10) (refused : Bool)
  /-- event DOUBT_TIMER_EXPIRY, R373: A destination holding a group in doubt runs termination. -/
  | doubtTimerExpiry (g : BitVec 16)
  /-- event TERMINATION_QUERY, R373: A participant answers a termination query, becoming marked if flagged. -/
  | terminationQuery (asker : BitVec 10) (g : BitVec 16) (initiatorUnreachable : Bool)
  /-- event STAGING_IDLE_CHECK, R369: A group idle for 100 doubt periods asks its initiator and may be discarded. -/
  | stagingIdleCheck (g : BitVec 16)
  /-- event HOST_MEM_WRITE, R385: A host CXL.mem write to the HDM-DB window is performed at the package. -/
  | hostMemWrite (y : Nat) (data : List Byte)
  /-- event HOST_MEM_READ, R385: A host CXL.mem read of the HDM-DB window is served through the directory. -/
  | hostMemRead (y n : Nat)
  /-- event BACK_INVALIDATION_RESPONSE, R385: A host BIRsp lets the directory perform the waiting access. -/
  | backInvalidationResponse (pa : BitVec 52) (writeback : Option (BitVec 512))
  /-- event HOST_SNOOP, R386: A host snoop of a device-cached host line is answered. -/
  | hostSnoop (pa : BitVec 52) (invalidate : Bool) (newData : Option (BitVec 512))
  /-- event SHELF_BACK_INVALIDATION, R387: A shelf back-invalidation moves a pool line to I under MOESIP. -/
  | shelfBackInvalidation (pa : BitVec 52)
  /-- event SHELF_LOST, R388: A lost shelf's lines enter P and an event is sent. -/
  | shelfLost (i : BitVec 4)
  /-- event SHELF_RESPONSE_TIMEOUT, R388: A shelf silent for 10 ms is treated as lost. -/
  | shelfResponseTimeout (i : BitVec 4)
  /-- event LINK_TRAINING_FAILURE, R379: A link partner needing an unsupported option fails training and is logged. -/
  | linkTrainingFailure (port : LinkPort)
  /-- event COUNTER_WRAP, R432: A strand counter wraps, setting ovf and possibly a pending 0xE3. -/
  | counterWrap (j : BitVec 2)
  /-- event BANK_COUNTER_WRAP, R435: A bank counter wraps and may send a class-4 event. -/
  | bankCounterWrap (v : BitVec 5) (k : BitVec 2)
  /-- event SENSOR_READING, R440: Each 100 µs reading moves a sensor between normal and alert. -/
  | sensorReading (index : BitVec 7) (temp : BitVec 16)
  /-- event ALERT_REPEAT, R440: A sensor still in alert 1 ms after entry or repeat queues a repeat. -/
  | alertRepeat (index : BitVec 7)
  /-- event MANAGEMENT_INTERRUPT, R442: The oldest queued transition is taken by the management core as cause 0xE4. -/
  | managementInterrupt
  /-- event MODULE_RESET, R24: The boot ROM verifies the image and starts firmware or enters recovery. -/
  | moduleReset (strap : Bool) (badStacks badSpokes : List (BitVec 4)) (badParcels : List (BitVec 13)) (logBase : BitVec 36)
  /-- event RECOVERY_IMAGE, R25: A signed image from the host mailbox is verified and written to flash. -/
  | recoveryImage (image : Image) (interrupted : Bool)
  /-- event POOL_BRING_UP, R446: After commit the pool port trains, shelves are enumerated and mbstat bit 3 set. -/
  | poolBringUp (shelves : List (BitVec 4 × Nat × Nat))
  /-- event TAG_POST_ARRIVAL, R125: A tag posted by IPOST, or implicitly at ENDI, reaches a younger chunk's core over the chain and may release its IWAIT. -/
  | tagPostArrival (k : BitVec 32)
  /-- event TERMINATION_ANSWER, R373: An answer to a termination query (or to the idle-check question) reaches the asking destination, which then publishes, aborts or restarts its timer. -/
  | terminationAnswer (g : BitVec 16) (ep : BitVec 10) (answer : TermAnswer)
  /-- event SHELF_RETURN, R388: A lost shelf returns, or a shelf appears later, and is enumerated afresh and written into the shelf table. -/
  | shelfReturn (i : BitVec 4) (base size : Nat)
  /-- event ENDPOINT_UNREACHABLE_REPORT, R360: The pod reports an endpoint unreachable, failing outstanding requests and messages to it and losing Closure participants. -/
  | endpointUnreachableReport (ep : BitVec 10)
  /-- event UALINK_PORT_TRAINED, R351: A UALink port finishes training, after feature acceptance or later, and joins the set of ports that are up. -/
  | ualinkPortTrained (port : BitVec 5)
  deriving DecidableEq, Repr

end Sys2Proof
end

