-- ==== Sys2Proof/WellFormed.lean ====
section
/-! DEFINITION. Well-formed instructions: the ranges of register fields and codes that 02_instruction_words.md gives
(R31, R33 to R43) and that its owning chapters add (R172, R217, R296, R308). A word whose fields break one of them traps with
cause 0x01 (R48), so the decoder refuses it as a code out of range. Events carry no code and have no check. -/

namespace Sys2Proof

/-- The instruction is a word of the opcode table, not an event. -/
def Instr.isWord : Instr → Bool
  | .add _ _ _ => true
  | .sub _ _ _ => true
  | .and _ _ _ => true
  | .or _ _ _ => true
  | .xor _ _ _ => true
  | .andn _ _ _ => true
  | .sll _ _ _ => true
  | .srl _ _ _ => true
  | .sra _ _ _ => true
  | .rotr _ _ _ => true
  | .mul _ _ _ => true
  | .mulh _ _ _ => true
  | .mulhn _ _ _ => true
  | .div _ _ _ => true
  | .divn _ _ _ => true
  | .rem _ _ _ => true
  | .remn _ _ _ => true
  | .min _ _ _ => true
  | .max _ _ _ => true
  | .minn _ _ _ => true
  | .maxn _ _ _ => true
  | .slt _ _ _ => true
  | .sltn _ _ _ => true
  | .clz _ _ => true
  | .ctz _ _ => true
  | .popc _ _ => true
  | .bswap _ _ => true
  | .sext _ _ _ => true
  | .zext _ _ _ => true
  | .addi _ _ _ => true
  | .andi _ _ _ => true
  | .ori _ _ _ => true
  | .xori _ _ _ => true
  | .slti _ _ _ => true
  | .sltni _ _ _ => true
  | .shi _ _ _ _ => true
  | .lih _ _ => true
  | .insi _ _ _ => true
  | .addpc _ _ => true
  | .ld _ _ _ _ => true
  | .st _ _ _ _ => true
  | .beq _ _ _ => true
  | .bne _ _ _ => true
  | .blt _ _ _ => true
  | .bge _ _ _ => true
  | .bltn _ _ _ => true
  | .bgen _ _ _ => true
  | .call _ _ => true
  | .callr _ _ => true
  | .jmpr _ => true
  | .sget _ _ => true
  | .sset _ _ => true
  | .sxch _ _ _ => true
  | .trap _ => true
  | .tret => true
  | .svc _ => true
  | .halt => true
  | .idle => true
  | .bkpt _ => true
  | .fork _ _ => true
  | .forkt _ _ _ => true
  | .iter _ _ => true
  | .endi => true
  | .join => true
  | .fbreak => true
  | .cspec _ => true
  | .headw => true
  | .ipost _ => true
  | .iwait _ _ => true
  | .rdecl _ _ _ => true
  | .chainw _ => true
  | .launch _ _ => true
  | .sdone => true
  | .yield => true
  | .ringid _ => true
  | .grpq _ _ => true
  | .sprio _ => true
  | .stridx _ => true
  | .aadd _ _ _ _ => true
  | .aand _ _ _ _ => true
  | .aor _ _ _ _ => true
  | .axor _ _ _ _ => true
  | .amin _ _ _ _ => true
  | .amax _ _ _ _ => true
  | .aminn _ _ _ _ => true
  | .amaxn _ _ _ _ => true
  | .aswap _ _ _ _ => true
  | .acas _ _ _ _ _ => true
  | .afadd _ _ _ _ => true
  | .binit _ _ => true
  | .barr _ _ _ => true
  | .bwait _ _ _ => true
  | .barrw _ _ _ => true
  | .binv _ => true
  | .gbar _ _ => true
  | .msend _ _ _ => true
  | .mrecv _ _ => true
  | .mpeek _ => true
  | .wakew _ _ => true
  | .waitw _ _ _ => true
  | .ecmd _ _ _ => true
  | .ecmdb _ _ _ => true
  | .toks _ _ => true
  | .tokw _ _ => true
  | .bqtake _ => true
  | .fsv => true
  | .fvs => true
  | .fence _ _ => true
  | .fsc => true
  | .ldacq _ _ _ _ => true
  | .strel _ _ _ _ => true
  | .vcdef _ _ => true
  | .vcdel _ _ => true
  | .vcqry _ _ => true
  | .vcsync _ _ => true
  | .vcflush _ _ => true
  | .tlbinv _ => true
  | .tlogw _ => true
  | .tloga => true
  | .atran _ _ _ => true
  | .gopen _ => true
  | .gst _ _ _ _ => true
  | .vgst _ _ _ _ => true
  | .gcommit _ _ => true
  | .gabort _ => true
  | .gstat _ _ => true
  | .gresolve _ _ => true
  | .pmcr _ _ => true
  | .pmcw _ _ => true
  | .pmcf _ => true
  | .vsetvl _ _ _ => true
  | .vsetvli _ _ _ => true
  | .vadd _ _ _ _ _ _ => true
  | .vsub _ _ _ _ _ _ => true
  | .vmul _ _ _ _ _ _ => true
  | .vfma _ _ _ _ _ _ => true
  | .vfms _ _ _ _ _ _ => true
  | .vnfma _ _ _ _ _ _ => true
  | .vdiv _ _ _ _ _ _ => true
  | .vsqrt _ _ _ _ => true
  | .vmin _ _ _ _ _ _ => true
  | .vmax _ _ _ _ _ _ => true
  | .vabs _ _ _ _ => true
  | .vneg _ _ _ _ => true
  | .vexp2 _ _ _ _ => true
  | .vlog2 _ _ _ _ => true
  | .vrcp _ _ _ _ => true
  | .vrsq _ _ _ _ => true
  | .vcvt _ _ _ _ => true
  | .vand _ _ _ _ _ _ => true
  | .vor _ _ _ _ _ _ => true
  | .vxor _ _ _ _ _ _ => true
  | .vnot _ _ _ _ => true
  | .vshl _ _ _ _ _ _ => true
  | .vshr _ _ _ _ _ _ => true
  | .vsra _ _ _ _ _ _ => true
  | .vcmp _ _ _ _ _ _ _ => true
  | .vredsum _ _ _ _ => true
  | .vredmax _ _ _ _ => true
  | .vredmin _ _ _ _ => true
  | .vscan _ _ _ _ => true
  | .vsort _ _ _ _ _ => true
  | .vtopk _ _ _ _ _ => true
  | .vcomp _ _ _ => true
  | .vexpd _ _ _ => true
  | .viota _ _ => true
  | .vperm _ _ _ _ => true
  | .vslup _ _ _ _ => true
  | .vsldn _ _ _ _ => true
  | .vbcast _ _ _ => true
  | .vextr _ _ _ => true
  | .vins _ _ _ => true
  | .vsel _ _ _ _ => true
  | .kand _ _ _ => true
  | .kor _ _ _ => true
  | .kxor _ _ _ => true
  | .knot _ _ => true
  | .kpop _ _ => true
  | .kfirst _ _ => true
  | .vrand _ _ _ => true
  | .vpwl _ _ _ _ _ => true
  | .vquant _ _ _ _ => true
  | .vdeq _ _ _ _ => true
  | .vbaddq _ _ _ _ _ => true
  | .vamo _ _ _ _ _ => true
  | .vamoc _ _ _ _ _ => true
  | .vld _ _ _ _ _ => true
  | .vst _ _ _ _ _ => true
  | .vlds _ _ _ _ _ _ => true
  | .vldsO _ _ _ _ _ _ => true
  | .vsts _ _ _ _ _ _ => true
  | .vstsO _ _ _ _ _ _ => true
  | .vldx _ _ _ _ _ _ => true
  | .vldxO _ _ _ _ _ _ => true
  | .vstx _ _ _ _ _ _ => true
  | .vstxO _ _ _ _ _ _ => true
  | .vldseg _ _ _ _ _ _ => true
  | .vstseg _ _ _ _ _ _ => true
  | .vpref _ _ _ _ => true
  | .vprefS _ _ _ _ _ => true
  | .vprefX _ _ _ _ _ => true
  | .vldsq _ _ _ _ => true
  | .vcapp _ _ _ _ _ => true
  | .mma _ _ _ _ _ => true
  | .mslide _ _ _ _ _ => true
  | .mew _ _ _ _ => true
  | .mpwl _ _ _ => true
  | .mrnorm _ => true
  | .mzero _ => true
  | .mclr _ _ => true
  | .mshape _ _ => true
  | .mclaim _ => true
  | .mrel _ => true
  | .mlds _ _ _ _ => true
  | .mlda _ _ _ _ => true
  | .msta _ _ _ _ => true
  | .macs _ _ _ _ => true
  | .mrowvToVector _ _ _ => true
  | .mrowvToAccumulator _ _ _ => true
  | .mcurv _ _ => true
  | .mwait _ => true
  | .nonInstructionWord _ => false
  | .heldTrapTaken => false
  | .asyncEventTaken => false
  | .coreStorageError _ => false
  | .cplaunch _ _ _ => false
  | .registerWrite _ _ _ => false
  | .gwbqcfgWrite _ _ _ => false
  | .worldSwitchOut _ _ => false
  | .worldSwitchIn => false
  | .worldSwitchComplete => false
  | .cpunfrz _ _ => false
  | .mbcmdCommit _ => false
  | .attestNonceWrite _ => false
  | .atcmd _ => false
  | .attestReportReady => false
  | .vlWrite _ => false
  | .vtypeWrite _ => false
  | .mglogw _ => false
  | .mgthrWrite _ => false
  | .mgalrtWrite _ => false
  | .schedulingPass => false
  | .quantumExpiry _ _ => false
  | .preemptStop _ => false
  | .preemptHeadTimeout _ => false
  | .saveComplete _ => false
  | .ringReclaimDone _ => false
  | .snapshotArrival _ => false
  | .chunkStart => false
  | .chainValueArrival _ => false
  | .chainConfirmation _ => false
  | .storeAnnouncement => false
  | .headPass => false
  | .mergeCombine => false
  | .packetArrival _ _ _ => false
  | .heldPacketReady _ _ => false
  | .heldPacketTimeout _ _ => false
  | .baseline => false
  | .dieRetire _ => false
  | .hubDieError => false
  | .directoryRequest _ _ _ => false
  | .regionMerge _ => false
  | .dirtyEviction _ _ => false
  | .writebackAck _ _ => false
  | .probeArrival _ _ _ _ => false
  | .fillReply _ _ => false
  | .farAtomicAtBank _ _ _ _ _ => false
  | .scatterAddApply _ => false
  | .vcacheDrainStep _ => false
  | .drainComplete _ => false
  | .parcelError _ => false
  | .messageDelivery _ => false
  | .retryDelayExpiry _ => false
  | .hubMessageDelivery => false
  | .remoteMessageArrival _ _ _ _ => false
  | .waitwWake _ => false
  | .tokenPush _ => false
  | .tokenPop _ => false
  | .tokenDeadlock => false
  | .engineAccept => false
  | .engineCopy _ => false
  | .engineFill _ => false
  | .engineTranspose _ => false
  | .engineQuantisingCopy _ => false
  | .engineCompletion _ => false
  | .engineStorageError _ => false
  | .blockQueueWrite _ _ _ _ => false
  | .fabricWindowRequest _ _ _ _ _ => false
  | .vectorRequest _ _ _ => false
  | .vectorRequestCompletion _ _ => false
  | .fabricResponse _ _ => false
  | .fabricRequestTimeout _ => false
  | .portLaneLoss _ _ => false
  | .groupStoreArrival _ _ _ _ _ _ => false
  | .groupStoreAck _ _ _ _ => false
  | .prepare _ _ _ _ _ => false
  | .voteArrival _ _ _ => false
  | .voteTimeout _ => false
  | .publish _ _ _ => false
  | .abort _ _ _ _ => false
  | .decisionAck _ _ _ => false
  | .doubtTimerExpiry _ => false
  | .terminationQuery _ _ _ => false
  | .stagingIdleCheck _ => false
  | .hostMemWrite _ _ => false
  | .hostMemRead _ _ => false
  | .backInvalidationResponse _ _ => false
  | .hostSnoop _ _ _ => false
  | .shelfBackInvalidation _ => false
  | .shelfLost _ => false
  | .shelfResponseTimeout _ => false
  | .linkTrainingFailure _ => false
  | .counterWrap _ => false
  | .bankCounterWrap _ _ => false
  | .sensorReading _ _ => false
  | .alertRepeat _ => false
  | .managementInterrupt => false
  | .moduleReset _ _ _ _ _ => false
  | .recoveryImage _ _ => false
  | .poolBringUp _ => false
  | .tagPostArrival _ => false
  | .terminationAnswer _ _ _ => false
  | .shelfReturn _ _ _ => false
  | .endpointUnreachableReport _ => false
  | .ualinkPortTrained _ => false

/-- Every field of the instruction lies in the range the spec gives it. -/
def Instr.wf : Instr → Bool
  | .add _ _ _ => true
  | .sub _ _ _ => true
  | .and _ _ _ => true
  | .or _ _ _ => true
  | .xor _ _ _ => true
  | .andn _ _ _ => true
  | .sll _ _ _ => true
  | .srl _ _ _ => true
  | .sra _ _ _ => true
  | .rotr _ _ _ => true
  | .mul _ _ _ => true
  | .mulh _ _ _ => true
  | .mulhn _ _ _ => true
  | .div _ _ _ => true
  | .divn _ _ _ => true
  | .rem _ _ _ => true
  | .remn _ _ _ => true
  | .min _ _ _ => true
  | .max _ _ _ => true
  | .minn _ _ _ => true
  | .maxn _ _ _ => true
  | .slt _ _ _ => true
  | .sltn _ _ _ => true
  | .clz _ _ => true
  | .ctz _ _ => true
  | .popc _ _ => true
  | .bswap _ _ => true
  | .sext _ _ w => decide (w.toNat ≠ 3)  -- R33
  | .zext _ _ w => decide (w.toNat ≠ 3)  -- R33
  | .addi _ _ _ => true
  | .andi _ _ _ => true
  | .ori _ _ _ => true
  | .xori _ _ _ => true
  | .slti _ _ _ => true
  | .sltni _ _ _ => true
  | .shi _ _ _ _ => true
  | .lih _ _ => true
  | .insi _ _ _ => true
  | .addpc _ _ => true
  | .ld _ _ w _ => decide (w.toNat ≠ 7)  -- R34
  | .st _ _ w _ => decide (w.toNat ≤ 3)  -- R34
  | .beq _ _ _ => true
  | .bne _ _ _ => true
  | .blt _ _ _ => true
  | .bge _ _ _ => true
  | .bltn _ _ _ => true
  | .bgen _ _ _ => true
  | .call _ _ => true
  | .callr _ _ => true
  | .jmpr _ => true
  | .sget _ _ => true
  | .sset _ _ => true
  | .sxch _ _ _ => true
  | .trap _ => true
  | .tret => true
  | .svc _ => true
  | .halt => true
  | .idle => true
  | .bkpt _ => true
  | .fork _ b => decide (b.toNat % 2 = 0)  -- R36
  | .forkt _ _ b => decide (b.toNat % 2 = 0)  -- R36
  | .iter _ s => decide (s.toNat ≤ 2)  -- R36
  | .endi => true
  | .join => true
  | .fbreak => true
  | .cspec _ => true
  | .headw => true
  | .ipost t => decide (t.toNat ≤ 7)  -- R36
  | .iwait _ t => decide (t.toNat ≤ 7)  -- R36
  | .rdecl d _ _ => decide (d.toNat ≤ 3)  -- R36
  | .chainw _ => true
  | .launch _ _ => true
  | .sdone => true
  | .yield => true
  | .ringid _ => true
  | .grpq _ _ => true
  | .sprio _ => true
  | .stridx _ => true
  | .aadd _ _ _ p => decide (p.toNat ≤ 2)  -- R42
  | .aand _ _ _ p => decide (p.toNat ≤ 2)  -- R42
  | .aor _ _ _ p => decide (p.toNat ≤ 2)  -- R42
  | .axor _ _ _ p => decide (p.toNat ≤ 2)  -- R42
  | .amin _ _ _ p => decide (p.toNat ≤ 2)  -- R42
  | .amax _ _ _ p => decide (p.toNat ≤ 2)  -- R42
  | .aminn _ _ _ p => decide (p.toNat ≤ 2)  -- R42
  | .amaxn _ _ _ p => decide (p.toNat ≤ 2)  -- R42
  | .aswap _ _ _ p => decide (p.toNat ≤ 2)  -- R42
  | .acas _ _ _ _ p => decide (p.toNat ≤ 2)  -- R42
  | .afadd _ _ _ p => decide (p.toNat ≤ 2)  -- R42
  | .binit _ _ => true
  | .barr _ _ s => decide (s.toNat ≤ 4)  -- R37
  | .bwait _ _ _ => true
  | .barrw _ _ s => decide (s.toNat ≤ 4)  -- R37
  | .binv _ => true
  | .gbar _ _ => true
  | .msend _ _ _ => true
  | .mrecv _ _ => true
  | .mpeek _ => true
  | .wakew _ _ => true
  | .waitw _ _ _ => true
  | .ecmd _ _ _ => true
  | .ecmdb k _ _ => decide (k.toNat ≠ 0 ∧ k.toNat ≤ 7)  -- R308
  | .toks _ _ => true
  | .tokw _ _ => true
  | .bqtake _ => true
  | .fsv => true
  | .fvs => true
  | .fence k s => decide (k.toNat ≠ 0 ∧ s.toNat ≤ 4)  -- R37, R38
  | .fsc => true
  | .ldacq _ _ w s => decide (w.toNat ≠ 7 ∧ s.toNat ≤ 4)  -- R34, R37
  | .strel _ _ _ s => decide (s.toNat ≤ 4)  -- R37
  | .vcdef _ _ => true
  | .vcdel _ _ => true
  | .vcqry _ _ => true
  | .vcsync _ _ => true
  | .vcflush _ _ => true
  | .tlbinv _ => true
  | .tlogw _ => true
  | .tloga => true
  | .atran _ _ k => decide (k.toNat ≠ 3)  -- R38
  | .gopen _ => true
  | .gst _ _ _ _ => true
  | .vgst _ _ _ _ => true
  | .gcommit _ _ => true
  | .gabort _ => true
  | .gstat _ _ => true
  | .gresolve _ _ => true
  | .pmcr _ _ => true
  | .pmcw _ _ => true
  | .pmcf _ => true
  | .vsetvl _ _ _ => true
  | .vsetvli _ _ _ => true
  | .vadd _ _ _ _ _ _ => true
  | .vsub _ _ _ _ _ _ => true
  | .vmul _ _ _ _ _ _ => true
  | .vfma _ _ _ _ _ _ => true
  | .vfms _ _ _ _ _ _ => true
  | .vnfma _ _ _ _ _ _ => true
  | .vdiv _ _ _ _ _ _ => true
  | .vsqrt _ _ _ _ => true
  | .vmin _ _ _ _ _ _ => true
  | .vmax _ _ _ _ _ _ => true
  | .vabs _ _ _ _ => true
  | .vneg _ _ _ _ => true
  | .vexp2 _ _ _ _ => true
  | .vlog2 _ _ _ _ => true
  | .vrcp _ _ _ _ => true
  | .vrsq _ _ _ _ => true
  | .vcvt _ _ _ _ => true
  | .vand _ _ _ _ _ _ => true
  | .vor _ _ _ _ _ _ => true
  | .vxor _ _ _ _ _ _ => true
  | .vnot _ _ _ _ => true
  | .vshl _ _ _ _ _ _ => true
  | .vshr _ _ _ _ _ _ => true
  | .vsra _ _ _ _ _ _ => true
  | .vcmp _ m _ _ _ _ _ => decide (m.toNat ≠ 0)  -- R39
  | .vredsum _ _ _ _ => true
  | .vredmax _ _ _ _ => true
  | .vredmin _ _ _ _ => true
  | .vscan _ _ _ _ => true
  | .vsort _ _ _ _ _ => true
  | .vtopk _ _ _ _ _ => true
  | .vcomp _ _ _ => true
  | .vexpd _ _ _ => true
  | .viota _ _ => true
  | .vperm _ _ _ _ => true
  | .vslup _ _ _ _ => true
  | .vsldn _ _ _ _ => true
  | .vbcast _ _ _ => true
  | .vextr _ _ _ => true
  | .vins _ _ _ => true
  | .vsel _ _ _ _ => true
  | .kand d a b => decide ((d.toNat ≠ 0 ∧ d.toNat ≤ 7) ∧ a.toNat ≤ 7 ∧ b.toNat ≤ 7)  -- R31, R172
  | .kor d a b => decide ((d.toNat ≠ 0 ∧ d.toNat ≤ 7) ∧ a.toNat ≤ 7 ∧ b.toNat ≤ 7)  -- R31, R172
  | .kxor d a b => decide ((d.toNat ≠ 0 ∧ d.toNat ≤ 7) ∧ a.toNat ≤ 7 ∧ b.toNat ≤ 7)  -- R31, R172
  | .knot d a => decide ((d.toNat ≠ 0 ∧ d.toNat ≤ 7) ∧ a.toNat ≤ 7)  -- R31, R172
  | .kpop _ a => decide (a.toNat ≤ 7)  -- R31, R172
  | .kfirst _ a => decide (a.toNat ≤ 7)  -- R31, R172
  | .vrand _ _ _ => true
  | .vpwl _ _ _ t _ => decide (t.toNat ≤ 7)  -- R172
  | .vquant _ _ _ _ => true
  | .vdeq _ _ _ _ => true
  | .vbaddq _ _ _ _ _ => true
  | .vamo _ _ _ _ o => decide (o.toNat ≤ 8 ∨ o.toNat = 10)  -- R40
  | .vamoc _ _ _ _ o => decide (o.toNat ≤ 7 ∨ o.toNat = 10)  -- R40, R296
  | .vld _ _ _ _ h => decide (h.toNat ≠ 3)  -- R41
  | .vst _ _ _ _ h => decide (h.toNat ≠ 3)  -- R41
  | .vlds _ _ _ _ _ h => decide (h.toNat ≠ 3)  -- R41
  | .vldsO _ _ _ _ _ h => decide (h.toNat ≠ 3)  -- R41
  | .vsts _ _ _ _ _ h => decide (h.toNat ≠ 3)  -- R41
  | .vstsO _ _ _ _ _ h => decide (h.toNat ≠ 3)  -- R41
  | .vldx _ _ _ _ _ h => decide (h.toNat ≠ 3)  -- R41
  | .vldxO _ _ _ _ _ h => decide (h.toNat ≠ 3)  -- R41
  | .vstx _ _ _ _ _ h => decide (h.toNat ≠ 3)  -- R41
  | .vstxO _ _ _ _ _ h => decide (h.toNat ≠ 3)  -- R41
  | .vldseg _ _ _ _ n h => decide (n.toNat ≠ 0 ∧ h.toNat ≠ 3)  -- R41
  | .vstseg _ _ _ _ n h => decide (n.toNat ≠ 0 ∧ h.toNat ≠ 3)  -- R41
  | .vpref _ _ _ h => decide (h.toNat ≠ 3)  -- R41
  | .vprefS _ _ _ _ h => decide (h.toNat ≠ 3)  -- R41
  | .vprefX _ _ _ _ h => decide (h.toNat ≠ 3)  -- R41
  | .vldsq _ _ _ _ => true
  | .vcapp _ _ _ _ _ => true
  | .mma x y z _ o => decide ((x.toNat ≤ 7 ∧ (o.toNat % 2 = 1 → x.toNat % 2 = 0)) ∧ y.toNat ≤ 15 ∧ z.toNat ≤ 15)  -- R31, R217
  | .mslide x y z _ o => decide ((x.toNat ≤ 7 ∧ (o.toNat % 2 = 1 → x.toNat % 2 = 0)) ∧ y.toNat ≤ 15 ∧ z.toNat ≤ 15)  -- R31, R217
  | .mew x y _ _ => decide (x.toNat ≤ 7 ∧ y.toNat ≤ 7)  -- R31
  | .mpwl x y z => decide (x.toNat ≤ 7 ∧ y.toNat ≤ 7 ∧ z.toNat ≤ 7)  -- R31, R217
  | .mrnorm x => decide (x.toNat ≤ 7 ∧ x.toNat % 2 = 0)  -- R31, R217
  | .mzero x => decide (x.toNat ≤ 7)  -- R31
  | .mclr x y => decide (x.toNat ≤ 7 ∧ y.toNat ≤ 7)  -- R31
  | .mshape _ _ => true
  | .mclaim _ => true
  | .mrel _ => true
  | .mlds x _ _ _ => decide (x.toNat ≤ 15)  -- R31
  | .mlda x _ _ _ => decide (x.toNat ≤ 7)  -- R31
  | .msta x _ _ _ => decide (x.toNat ≤ 7)  -- R31
  | .macs x y _ _ => decide (x.toNat ≤ 15 ∧ y.toNat ≤ 7)  -- R31
  | .mrowvToVector _ y _ => decide (y.toNat ≤ 7)  -- R31
  | .mrowvToAccumulator x _ _ => decide (x.toNat ≤ 7)  -- R31
  | .mcurv x _ => decide (x.toNat ≤ 7)  -- R217
  | .mwait _ => true
  | .nonInstructionWord _ => true
  | .heldTrapTaken => true
  | .asyncEventTaken => true
  | .coreStorageError _ => true
  | .cplaunch _ _ _ => true
  | .registerWrite _ _ _ => true
  | .gwbqcfgWrite _ _ _ => true
  | .worldSwitchOut _ _ => true
  | .worldSwitchIn => true
  | .worldSwitchComplete => true
  | .cpunfrz _ _ => true
  | .mbcmdCommit _ => true
  | .attestNonceWrite _ => true
  | .atcmd _ => true
  | .attestReportReady => true
  | .vlWrite _ => true
  | .vtypeWrite _ => true
  | .mglogw _ => true
  | .mgthrWrite _ => true
  | .mgalrtWrite _ => true
  | .schedulingPass => true
  | .quantumExpiry _ _ => true
  | .preemptStop _ => true
  | .preemptHeadTimeout _ => true
  | .saveComplete _ => true
  | .ringReclaimDone _ => true
  | .snapshotArrival _ => true
  | .chunkStart => true
  | .chainValueArrival _ => true
  | .chainConfirmation _ => true
  | .storeAnnouncement => true
  | .headPass => true
  | .mergeCombine => true
  | .packetArrival _ _ _ => true
  | .heldPacketReady _ _ => true
  | .heldPacketTimeout _ _ => true
  | .baseline => true
  | .dieRetire _ => true
  | .hubDieError => true
  | .directoryRequest _ _ _ => true
  | .regionMerge _ => true
  | .dirtyEviction _ _ => true
  | .writebackAck _ _ => true
  | .probeArrival _ _ _ _ => true
  | .fillReply _ _ => true
  | .farAtomicAtBank _ _ _ _ _ => true
  | .scatterAddApply _ => true
  | .vcacheDrainStep _ => true
  | .drainComplete _ => true
  | .parcelError _ => true
  | .messageDelivery _ => true
  | .retryDelayExpiry _ => true
  | .hubMessageDelivery => true
  | .remoteMessageArrival _ _ _ _ => true
  | .waitwWake _ => true
  | .tokenPush _ => true
  | .tokenPop _ => true
  | .tokenDeadlock => true
  | .engineAccept => true
  | .engineCopy _ => true
  | .engineFill _ => true
  | .engineTranspose _ => true
  | .engineQuantisingCopy _ => true
  | .engineCompletion _ => true
  | .engineStorageError _ => true
  | .blockQueueWrite _ _ _ _ => true
  | .fabricWindowRequest _ _ _ _ _ => true
  | .vectorRequest _ _ _ => true
  | .vectorRequestCompletion _ _ => true
  | .fabricResponse _ _ => true
  | .fabricRequestTimeout _ => true
  | .portLaneLoss _ _ => true
  | .groupStoreArrival _ _ _ _ _ _ => true
  | .groupStoreAck _ _ _ _ => true
  | .prepare _ _ _ _ _ => true
  | .voteArrival _ _ _ => true
  | .voteTimeout _ => true
  | .publish _ _ _ => true
  | .abort _ _ _ _ => true
  | .decisionAck _ _ _ => true
  | .doubtTimerExpiry _ => true
  | .terminationQuery _ _ _ => true
  | .stagingIdleCheck _ => true
  | .hostMemWrite _ _ => true
  | .hostMemRead _ _ => true
  | .backInvalidationResponse _ _ => true
  | .hostSnoop _ _ _ => true
  | .shelfBackInvalidation _ => true
  | .shelfLost _ => true
  | .shelfResponseTimeout _ => true
  | .linkTrainingFailure _ => true
  | .counterWrap _ => true
  | .bankCounterWrap _ _ => true
  | .sensorReading _ _ => true
  | .alertRepeat _ => true
  | .managementInterrupt => true
  | .moduleReset _ _ _ _ _ => true
  | .recoveryImage _ _ => true
  | .poolBringUp _ => true
  | .tagPostArrival _ => true
  | .terminationAnswer _ _ _ => true
  | .shelfReturn _ _ _ => true
  | .endpointUnreachableReport _ => true
  | .ualinkPortTrained _ => true

end Sys2Proof
end

