-- ==== Sys2Proof/Decode.lean ====
section
/-! DEFINITION. The decoder of instruction words, total on all 32-bit words, and the encoder of well-formed words
(02_instruction_words.md R27 to R48). A word that is no instruction is refused by name; the trap cause the refusal stands for
is `DecodeError.cause` (R48). The encoder writes each word as the chapters do: base word plus fields at their places. -/

namespace Sys2Proof

/-- Why a word is not an instruction (R48). -/
inductive DecodeError where
  /-- All zeros or all ones: cause 0x02. -/
  | allZerosOrOnes
  /-- A major opcode that R32 reserves or calls illegal: cause 0x01. -/
  | reservedMajor
  /-- A function code that appears in no table (R33 to R43): cause 0x01. -/
  | unassignedFunction
  /-- A nonzero reserved field (R30): cause 0x01. -/
  | reservedNonzero
  /-- A register number or code out of range (R31, R34 to R43): cause 0x01. -/
  | codeOutOfRange
  deriving DecidableEq, Repr

/-- The trap cause of R48 that a refusal stands for. -/
def DecodeError.cause : DecodeError → Nat
  | .allZerosOrOnes => 0x02
  | .reservedMajor => 0x01
  | .unassignedFunction => 0x01
  | .reservedNonzero => 0x01
  | .codeOutOfRange => 0x01

/-- The field of `n` bits at bit `lo` of the word (R30). -/
def fld (w : BitVec 32) (lo n : Nat) : BitVec n := BitVec.ofNat n (w.toNat / 2 ^ lo)

/-- A candidate instruction is accepted when the word has the row's fixed bits and its fields are in range (R30, R31). -/
def accept (w : BitVec 32) (mask pat : Nat) (i : Instr) : Except DecodeError Instr :=
  if w &&& BitVec.ofNat 32 mask ≠ BitVec.ofNat 32 pat then .error .reservedNonzero
  else if i.wf then .ok i else .error .codeOutOfRange

/-- Scalar RR ALU, major 0x01 (R33). -/
def decodeRR (w : BitVec 32) : Except DecodeError Instr :=
  match (fld w 0 6).toNat with
  | 0 => accept w 0xFC0007FF 0x04000000 (.add (fld w 21 5) (fld w 16 5) (fld w 11 5))
  | 1 => accept w 0xFC0007FF 0x04000001 (.sub (fld w 21 5) (fld w 16 5) (fld w 11 5))
  | 2 => accept w 0xFC0007FF 0x04000002 (.and (fld w 21 5) (fld w 16 5) (fld w 11 5))
  | 3 => accept w 0xFC0007FF 0x04000003 (.or (fld w 21 5) (fld w 16 5) (fld w 11 5))
  | 4 => accept w 0xFC0007FF 0x04000004 (.xor (fld w 21 5) (fld w 16 5) (fld w 11 5))
  | 5 => accept w 0xFC0007FF 0x04000005 (.andn (fld w 21 5) (fld w 16 5) (fld w 11 5))
  | 8 => accept w 0xFC0007FF 0x04000008 (.sll (fld w 21 5) (fld w 16 5) (fld w 11 5))
  | 9 => accept w 0xFC0007FF 0x04000009 (.srl (fld w 21 5) (fld w 16 5) (fld w 11 5))
  | 10 => accept w 0xFC0007FF 0x0400000A (.sra (fld w 21 5) (fld w 16 5) (fld w 11 5))
  | 11 => accept w 0xFC0007FF 0x0400000B (.rotr (fld w 21 5) (fld w 16 5) (fld w 11 5))
  | 16 => accept w 0xFC0007FF 0x04000010 (.mul (fld w 21 5) (fld w 16 5) (fld w 11 5))
  | 17 => accept w 0xFC0007FF 0x04000011 (.mulh (fld w 21 5) (fld w 16 5) (fld w 11 5))
  | 18 => accept w 0xFC0007FF 0x04000012 (.mulhn (fld w 21 5) (fld w 16 5) (fld w 11 5))
  | 20 => accept w 0xFC0007FF 0x04000014 (.div (fld w 21 5) (fld w 16 5) (fld w 11 5))
  | 21 => accept w 0xFC0007FF 0x04000015 (.divn (fld w 21 5) (fld w 16 5) (fld w 11 5))
  | 22 => accept w 0xFC0007FF 0x04000016 (.rem (fld w 21 5) (fld w 16 5) (fld w 11 5))
  | 23 => accept w 0xFC0007FF 0x04000017 (.remn (fld w 21 5) (fld w 16 5) (fld w 11 5))
  | 24 => accept w 0xFC0007FF 0x04000018 (.min (fld w 21 5) (fld w 16 5) (fld w 11 5))
  | 25 => accept w 0xFC0007FF 0x04000019 (.max (fld w 21 5) (fld w 16 5) (fld w 11 5))
  | 26 => accept w 0xFC0007FF 0x0400001A (.minn (fld w 21 5) (fld w 16 5) (fld w 11 5))
  | 27 => accept w 0xFC0007FF 0x0400001B (.maxn (fld w 21 5) (fld w 16 5) (fld w 11 5))
  | 28 => accept w 0xFC0007FF 0x0400001C (.slt (fld w 21 5) (fld w 16 5) (fld w 11 5))
  | 29 => accept w 0xFC0007FF 0x0400001D (.sltn (fld w 21 5) (fld w 16 5) (fld w 11 5))
  | 32 => accept w 0xFC00FFFF 0x04000020 (.clz (fld w 21 5) (fld w 16 5))
  | 33 => accept w 0xFC00FFFF 0x04000021 (.ctz (fld w 21 5) (fld w 16 5))
  | 34 => accept w 0xFC00FFFF 0x04000022 (.popc (fld w 21 5) (fld w 16 5))
  | 35 => accept w 0xFC00FFFF 0x04000023 (.bswap (fld w 21 5) (fld w 16 5))
  | 36 => accept w 0xFC00FF3F 0x04000024 (.sext (fld w 21 5) (fld w 16 5) (fld w 6 2))
  | 37 => accept w 0xFC00FF3F 0x04000025 (.zext (fld w 21 5) (fld w 16 5) (fld w 6 2))
  | _ => .error .unassignedFunction

/-- Jump register family, major 0x10 (R36). -/
def decodeJumpReg (w : BitVec 32) : Except DecodeError Instr :=
  match (fld w 0 5).toNat with
  | 0 => accept w 0xFC00FFFF 0x40000000 (.callr (fld w 21 5) (fld w 16 5))
  | 1 => accept w 0xFFE0FFFF 0x40000001 (.jmpr (fld w 16 5))
  | _ => .error .unassignedFunction

/-- System family, major 0x11 (R36). -/
def decodeSystem (w : BitVec 32) : Except DecodeError Instr :=
  match (fld w 0 5).toNat with
  | 0 => accept w 0xFC1F001F 0x44000000 (.sget (fld w 21 5) (fld w 5 11))
  | 1 => accept w 0xFFE0001F 0x44000001 (.sset (fld w 16 5) (fld w 5 11))
  | 2 => accept w 0xFC00001F 0x44000002 (.sxch (fld w 21 5) (fld w 16 5) (fld w 5 11))
  | 4 => accept w 0xFFFF001F 0x44000004 (.trap (fld w 5 11))
  | 5 => accept w 0xFFFFFFFF 0x44000005 (.tret)
  | 6 => accept w 0xFFFF001F 0x44000006 (.svc (fld w 5 11))
  | 7 => accept w 0xFFFFFFFF 0x44000007 (.halt)
  | 8 => accept w 0xFFFFFFFF 0x44000008 (.idle)
  | 9 => accept w 0xFFFF001F 0x44000009 (.bkpt (fld w 5 11))
  | _ => .error .unassignedFunction

/-- Fork family, major 0x12 (R36). -/
def decodeFork (w : BitVec 32) : Except DecodeError Instr :=
  match (fld w 0 5).toNat with
  | 0 => accept w 0xFFE007FF 0x48000000 (.fork (fld w 16 5) (fld w 11 5))
  | 1 => accept w 0xFC0007FF 0x48000001 (.forkt (fld w 21 5) (fld w 16 5) (fld w 11 5))
  | 2 => accept w 0xFC1FF81F 0x48000002 (.iter (fld w 21 5) (fld w 5 6))
  | 3 => accept w 0xFFFFFFFF 0x48000003 (.endi)
  | 4 => accept w 0xFFFFFFFF 0x48000004 (.join)
  | 5 => accept w 0xFFFFFFFF 0x48000005 (.fbreak)
  | 6 => accept w 0xFC1FFFFF 0x48000006 (.cspec (fld w 21 5))
  | 7 => accept w 0xFFFFFFFF 0x48000007 (.headw)
  | 8 => accept w 0xFFFFF81F 0x48000008 (.ipost (fld w 5 6))
  | 9 => accept w 0xFFE0F81F 0x48000009 (.iwait (fld w 16 5) (fld w 5 6))
  | 10 => accept w 0xFC0007FF 0x4800000A (.rdecl (fld w 21 5) (fld w 16 5) (fld w 11 5))
  | 11 => accept w 0xFFE0FFFF 0x4800000B (.chainw (fld w 16 5))
  | _ => .error .unassignedFunction

/-- Strand family, major 0x13 (R36). -/
def decodeStrand (w : BitVec 32) : Except DecodeError Instr :=
  match (fld w 0 5).toNat with
  | 0 => accept w 0xFC00FFFF 0x4C000000 (.launch (fld w 21 5) (fld w 16 5))
  | 1 => accept w 0xFFFFFFFF 0x4C000001 (.sdone)
  | 2 => accept w 0xFFFFFFFF 0x4C000002 (.yield)
  | 3 => accept w 0xFC1FFFFF 0x4C000003 (.ringid (fld w 21 5))
  | 4 => accept w 0xFC00FFFF 0x4C000004 (.grpq (fld w 21 5) (fld w 16 5))
  | 5 => accept w 0xFFE0FFFF 0x4C000005 (.sprio (fld w 16 5))
  | 6 => accept w 0xFC1FFFFF 0x4C000006 (.stridx (fld w 21 5))
  | _ => .error .unassignedFunction

/-- Scalar atomics, major 0x14 (R42). -/
def decodeAtomic (w : BitVec 32) : Except DecodeError Instr :=
  match (fld w 0 4).toNat with
  | 0 => accept w 0xFC0007CF 0x50000000 (.aadd (fld w 21 5) (fld w 16 5) (fld w 11 5) (fld w 4 2))
  | 1 => accept w 0xFC0007CF 0x50000001 (.aand (fld w 21 5) (fld w 16 5) (fld w 11 5) (fld w 4 2))
  | 2 => accept w 0xFC0007CF 0x50000002 (.aor (fld w 21 5) (fld w 16 5) (fld w 11 5) (fld w 4 2))
  | 3 => accept w 0xFC0007CF 0x50000003 (.axor (fld w 21 5) (fld w 16 5) (fld w 11 5) (fld w 4 2))
  | 4 => accept w 0xFC0007CF 0x50000004 (.amin (fld w 21 5) (fld w 16 5) (fld w 11 5) (fld w 4 2))
  | 5 => accept w 0xFC0007CF 0x50000005 (.amax (fld w 21 5) (fld w 16 5) (fld w 11 5) (fld w 4 2))
  | 6 => accept w 0xFC0007CF 0x50000006 (.aminn (fld w 21 5) (fld w 16 5) (fld w 11 5) (fld w 4 2))
  | 7 => accept w 0xFC0007CF 0x50000007 (.amaxn (fld w 21 5) (fld w 16 5) (fld w 11 5) (fld w 4 2))
  | 8 => accept w 0xFC0007CF 0x50000008 (.aswap (fld w 21 5) (fld w 16 5) (fld w 11 5) (fld w 4 2))
  | 9 => accept w 0xFC00000F 0x50000009 (.acas (fld w 21 5) (fld w 16 5) (fld w 11 5) (fld w 6 5) (fld w 4 2))
  | 10 => accept w 0xFC0007CF 0x5000000A (.afadd (fld w 21 5) (fld w 16 5) (fld w 11 5) (fld w 4 2))
  | _ => .error .codeOutOfRange

/-- Barriers, major 0x15 (R38). -/
def decodeBarrier (w : BitVec 32) : Except DecodeError Instr :=
  match (fld w 0 5).toNat with
  | 0 => accept w 0xFFE007FF 0x54000000 (.binit (fld w 16 5) (fld w 11 5))
  | 1 => accept w 0xFC00FF1F 0x54000001 (.barr (fld w 21 5) (fld w 16 5) (fld w 5 3))
  | 2 => accept w 0xFC0007FF 0x54000002 (.bwait (fld w 21 5) (fld w 16 5) (fld w 11 5))
  | 3 => accept w 0xFC00FF1F 0x54000003 (.barrw (fld w 21 5) (fld w 16 5) (fld w 5 3))
  | 4 => accept w 0xFFE0FFFF 0x54000004 (.binv (fld w 16 5))
  | 5 => accept w 0xFC00FFFF 0x54000005 (.gbar (fld w 21 5) (fld w 16 5))
  | _ => .error .unassignedFunction

/-- Messages, engines and tokens, major 0x16 (R38). -/
def decodeMessage (w : BitVec 32) : Except DecodeError Instr :=
  match (fld w 0 5).toNat with
  | 0 => accept w 0xFC0007FF 0x58000000 (.msend (fld w 21 5) (fld w 16 5) (fld w 11 5))
  | 1 => accept w 0xFC00FFFF 0x58000001 (.mrecv (fld w 21 5) (fld w 16 5))
  | 2 => accept w 0xFC1FFFFF 0x58000002 (.mpeek (fld w 21 5))
  | 3 => accept w 0xFFE007FF 0x58000003 (.wakew (fld w 16 5) (fld w 11 5))
  | 4 => accept w 0xFC0007FF 0x58000004 (.waitw (fld w 21 5) (fld w 16 5) (fld w 11 5))
  | 5 => accept w 0xFC0007FF 0x58000005 (.ecmd (fld w 21 5) (fld w 16 5) (fld w 11 5))
  | 6 => accept w 0xFC0007FF 0x58000006 (.ecmdb (fld w 21 5) (fld w 16 5) (fld w 11 5))
  | 7 => accept w 0xFFFFF91F 0x58000007 (.toks (fld w 9 2) (fld w 5 3))
  | 8 => accept w 0xFFFFF91F 0x58000008 (.tokw (fld w 9 2) (fld w 5 3))
  | 9 => accept w 0xFC1FFFFF 0x58000009 (.bqtake (fld w 21 5))
  | _ => .error .unassignedFunction

/-- Fences, acquire and release, major 0x17 (R38). -/
def decodeFence (w : BitVec 32) : Except DecodeError Instr :=
  match (fld w 0 5).toNat with
  | 0 => accept w 0xFFFFFFFF 0x5C000000 (.fsv)
  | 1 => accept w 0xFFFFFFFF 0x5C000001 (.fvs)
  | 2 => accept w 0xFFFFFC1F 0x5C000002 (.fence (fld w 8 2) (fld w 5 3))
  | 3 => accept w 0xFFFFFFFF 0x5C000003 (.fsc)
  | 4 => accept w 0xFC00F81F 0x5C000004 (.ldacq (fld w 21 5) (fld w 16 5) (fld w 8 3) (fld w 5 3))
  | 5 => accept w 0xFC00FC1F 0x5C000005 (.strel (fld w 21 5) (fld w 16 5) (fld w 8 2) (fld w 5 3))
  | _ => .error .unassignedFunction

/-- Vcache family, major 0x18 (R38). -/
def decodeVcache (w : BitVec 32) : Except DecodeError Instr :=
  match (fld w 0 5).toNat with
  | 0 => accept w 0xFC00FFFF 0x60000000 (.vcdef (fld w 21 5) (fld w 16 5))
  | 1 => accept w 0xFC00FFFF 0x60000001 (.vcdel (fld w 21 5) (fld w 16 5))
  | 2 => accept w 0xFC00FFFF 0x60000002 (.vcqry (fld w 21 5) (fld w 16 5))
  | 3 => accept w 0xFFE007FF 0x60000003 (.vcsync (fld w 16 5) (fld w 11 5))
  | 4 => accept w 0xFFE007FF 0x60000004 (.vcflush (fld w 16 5) (fld w 11 5))
  | _ => .error .unassignedFunction

/-- Translation family, major 0x19 (R38). -/
def decodeTranslation (w : BitVec 32) : Except DecodeError Instr :=
  match (fld w 0 5).toNat with
  | 0 => accept w 0xFFE0FFFF 0x64000000 (.tlbinv (fld w 16 5))
  | 1 => accept w 0xFFE0FFFF 0x64000001 (.tlogw (fld w 16 5))
  | 2 => accept w 0xFFFFFFFF 0x64000002 (.tloga)
  | 3 => accept w 0xFC00FF9F 0x64000003 (.atran (fld w 21 5) (fld w 16 5) (fld w 5 2))
  | _ => .error .unassignedFunction

/-- Closure family, major 0x1A (R38). -/
def decodeClosure (w : BitVec 32) : Except DecodeError Instr :=
  match (fld w 0 5).toNat with
  | 0 => accept w 0xFC1FFFFF 0x68000000 (.gopen (fld w 21 5))
  | 1 => accept w 0xFC0004FF 0x68000001 (.gst (fld w 21 5) (fld w 16 5) (fld w 11 5) (fld w 8 2))
  | 2 => accept w 0xFC0000FF 0x68000002 (.vgst (fld w 21 5) (fld w 16 5) (fld w 11 5) (fld w 8 3))
  | 3 => accept w 0xFC00FFFF 0x68000003 (.gcommit (fld w 21 5) (fld w 16 5))
  | 4 => accept w 0xFFE0FFFF 0x68000004 (.gabort (fld w 16 5))
  | 5 => accept w 0xFC00FFFF 0x68000005 (.gstat (fld w 21 5) (fld w 16 5))
  | 6 => accept w 0xFFE0FFDF 0x68000006 (.gresolve (fld w 16 5) (fld w 5 1))
  | _ => .error .unassignedFunction

/-- Counters, major 0x1B (R38). -/
def decodeCounter (w : BitVec 32) : Except DecodeError Instr :=
  match (fld w 0 5).toNat with
  | 0 => accept w 0xFC1FFF9F 0x6C000000 (.pmcr (fld w 21 5) (fld w 5 2))
  | 1 => accept w 0xFFE0FF9F 0x6C000001 (.pmcw (fld w 16 5) (fld w 5 2))
  | 2 => accept w 0xFFE0FFFF 0x6C000002 (.pmcf (fld w 16 5))
  | _ => .error .unassignedFunction

/-- Vector configuration, major 0x1C (R38). -/
def decodeVConfig (w : BitVec 32) : Except DecodeError Instr :=
  match (fld w 0 5).toNat with
  | 0 => accept w 0xFC0007FF 0x70000000 (.vsetvl (fld w 21 5) (fld w 16 5) (fld w 11 5))
  | 1 => accept w 0xFC00F81F 0x70000001 (.vsetvli (fld w 21 5) (fld w 16 5) (fld w 5 6))
  | _ => .error .unassignedFunction

/-- Conditional branches, major 0x0E (R35). -/
def decodeBranch (w : BitVec 32) : Except DecodeError Instr :=
  match (fld w 13 3).toNat with
  | 0 => accept w 0xFC00E000 0x38000000 (.beq (fld w 21 5) (fld w 16 5) (fld w 0 13))
  | 1 => accept w 0xFC00E000 0x38002000 (.bne (fld w 21 5) (fld w 16 5) (fld w 0 13))
  | 2 => accept w 0xFC00E000 0x38004000 (.blt (fld w 21 5) (fld w 16 5) (fld w 0 13))
  | 3 => accept w 0xFC00E000 0x38006000 (.bge (fld w 21 5) (fld w 16 5) (fld w 0 13))
  | 4 => accept w 0xFC00E000 0x38008000 (.bltn (fld w 21 5) (fld w 16 5) (fld w 0 13))
  | 5 => accept w 0xFC00E000 0x3800A000 (.bgen (fld w 21 5) (fld w 16 5) (fld w 0 13))
  | _ => .error .codeOutOfRange

/-- Vector arithmetic page 1, majors 0x20 to 0x27 (R39). -/
def decodeVPage1 (w : BitVec 32) : Except DecodeError Instr :=
  match (fld w 0 5).toNat with
  | 0 => accept w 0xE000001F 0x80000000 (.vadd (fld w 26 3) (fld w 21 5) (fld w 16 5) (fld w 11 5) (fld w 6 5) (fld w 5 1))
  | 1 => accept w 0xE000001F 0x80000001 (.vsub (fld w 26 3) (fld w 21 5) (fld w 16 5) (fld w 11 5) (fld w 6 5) (fld w 5 1))
  | 2 => accept w 0xE000001F 0x80000002 (.vmul (fld w 26 3) (fld w 21 5) (fld w 16 5) (fld w 11 5) (fld w 6 5) (fld w 5 1))
  | 3 => accept w 0xE000001F 0x80000003 (.vfma (fld w 26 3) (fld w 21 5) (fld w 16 5) (fld w 11 5) (fld w 6 5) (fld w 5 1))
  | 4 => accept w 0xE000001F 0x80000004 (.vfms (fld w 26 3) (fld w 21 5) (fld w 16 5) (fld w 11 5) (fld w 6 5) (fld w 5 1))
  | 5 => accept w 0xE000001F 0x80000005 (.vnfma (fld w 26 3) (fld w 21 5) (fld w 16 5) (fld w 11 5) (fld w 6 5) (fld w 5 1))
  | 6 => accept w 0xE000001F 0x80000006 (.vdiv (fld w 26 3) (fld w 21 5) (fld w 16 5) (fld w 11 5) (fld w 6 5) (fld w 5 1))
  | 7 => accept w 0xE000F83F 0x80000007 (.vsqrt (fld w 26 3) (fld w 21 5) (fld w 16 5) (fld w 6 5))
  | 8 => accept w 0xE000001F 0x80000008 (.vmin (fld w 26 3) (fld w 21 5) (fld w 16 5) (fld w 11 5) (fld w 6 5) (fld w 5 1))
  | 9 => accept w 0xE000001F 0x80000009 (.vmax (fld w 26 3) (fld w 21 5) (fld w 16 5) (fld w 11 5) (fld w 6 5) (fld w 5 1))
  | 10 => accept w 0xE000F83F 0x8000000A (.vabs (fld w 26 3) (fld w 21 5) (fld w 16 5) (fld w 6 5))
  | 11 => accept w 0xE000F83F 0x8000000B (.vneg (fld w 26 3) (fld w 21 5) (fld w 16 5) (fld w 6 5))
  | 12 => accept w 0xE000F83F 0x8000000C (.vexp2 (fld w 26 3) (fld w 21 5) (fld w 16 5) (fld w 6 5))
  | 13 => accept w 0xE000F83F 0x8000000D (.vlog2 (fld w 26 3) (fld w 21 5) (fld w 16 5) (fld w 6 5))
  | 14 => accept w 0xE000F83F 0x8000000E (.vrcp (fld w 26 3) (fld w 21 5) (fld w 16 5) (fld w 6 5))
  | 15 => accept w 0xE000F83F 0x8000000F (.vrsq (fld w 26 3) (fld w 21 5) (fld w 16 5) (fld w 6 5))
  | 16 => accept w 0xE000F83F 0x80000010 (.vcvt (fld w 26 3) (fld w 21 5) (fld w 16 5) (fld w 6 5))
  | 17 => accept w 0xE000001F 0x80000011 (.vand (fld w 26 3) (fld w 21 5) (fld w 16 5) (fld w 11 5) (fld w 6 5) (fld w 5 1))
  | 18 => accept w 0xE000001F 0x80000012 (.vor (fld w 26 3) (fld w 21 5) (fld w 16 5) (fld w 11 5) (fld w 6 5) (fld w 5 1))
  | 19 => accept w 0xE000001F 0x80000013 (.vxor (fld w 26 3) (fld w 21 5) (fld w 16 5) (fld w 11 5) (fld w 6 5) (fld w 5 1))
  | 20 => accept w 0xE000F83F 0x80000014 (.vnot (fld w 26 3) (fld w 21 5) (fld w 16 5) (fld w 6 5))
  | 21 => accept w 0xE000001F 0x80000015 (.vshl (fld w 26 3) (fld w 21 5) (fld w 16 5) (fld w 11 5) (fld w 6 5) (fld w 5 1))
  | 22 => accept w 0xE000001F 0x80000016 (.vshr (fld w 26 3) (fld w 21 5) (fld w 16 5) (fld w 11 5) (fld w 6 5) (fld w 5 1))
  | 23 => accept w 0xE000001F 0x80000017 (.vsra (fld w 26 3) (fld w 21 5) (fld w 16 5) (fld w 11 5) (fld w 6 5) (fld w 5 1))
  | 24 => accept w 0xE3000018 0x80000018 (.vcmp (fld w 26 3) (fld w 21 3) (fld w 16 5) (fld w 11 5) (fld w 6 5) (fld w 5 1) (fld w 0 3))
  | 25 => accept w 0xE3000018 0x80000018 (.vcmp (fld w 26 3) (fld w 21 3) (fld w 16 5) (fld w 11 5) (fld w 6 5) (fld w 5 1) (fld w 0 3))
  | 26 => accept w 0xE3000018 0x80000018 (.vcmp (fld w 26 3) (fld w 21 3) (fld w 16 5) (fld w 11 5) (fld w 6 5) (fld w 5 1) (fld w 0 3))
  | 27 => accept w 0xE3000018 0x80000018 (.vcmp (fld w 26 3) (fld w 21 3) (fld w 16 5) (fld w 11 5) (fld w 6 5) (fld w 5 1) (fld w 0 3))
  | 28 => accept w 0xE3000018 0x80000018 (.vcmp (fld w 26 3) (fld w 21 3) (fld w 16 5) (fld w 11 5) (fld w 6 5) (fld w 5 1) (fld w 0 3))
  | 29 => accept w 0xE3000018 0x80000018 (.vcmp (fld w 26 3) (fld w 21 3) (fld w 16 5) (fld w 11 5) (fld w 6 5) (fld w 5 1) (fld w 0 3))
  | 30 => accept w 0xE3000018 0x80000018 (.vcmp (fld w 26 3) (fld w 21 3) (fld w 16 5) (fld w 11 5) (fld w 6 5) (fld w 5 1) (fld w 0 3))
  | 31 => accept w 0xE3000018 0x80000018 (.vcmp (fld w 26 3) (fld w 21 3) (fld w 16 5) (fld w 11 5) (fld w 6 5) (fld w 5 1) (fld w 0 3))
  | _ => .error .unassignedFunction

/-- Vector page 2, majors 0x30 to 0x37 (R40). -/
def decodeVPage2 (w : BitVec 32) : Except DecodeError Instr :=
  match (fld w 0 6).toNat with
  | 0 => accept w 0xE000F83F 0xC0000000 (.vredsum (fld w 26 3) (fld w 21 5) (fld w 16 5) (fld w 6 5))
  | 1 => accept w 0xE000F83F 0xC0000001 (.vredmax (fld w 26 3) (fld w 21 5) (fld w 16 5) (fld w 6 5))
  | 2 => accept w 0xE000F83F 0xC0000002 (.vredmin (fld w 26 3) (fld w 21 5) (fld w 16 5) (fld w 6 5))
  | 3 => accept w 0xE000F83F 0xC0000003 (.vscan (fld w 26 3) (fld w 21 5) (fld w 16 5) (fld w 6 5))
  | 8 => accept w 0xE000003F 0xC0000008 (.vsort (fld w 26 3) (fld w 21 5) (fld w 16 5) (fld w 11 5) (fld w 6 5))
  | 9 => accept w 0xE000003F 0xC0000009 (.vtopk (fld w 26 3) (fld w 21 5) (fld w 16 5) (fld w 11 5) (fld w 6 5))
  | 16 => accept w 0xE000FFFF 0xC0000010 (.vcomp (fld w 26 3) (fld w 21 5) (fld w 16 5))
  | 17 => accept w 0xE000FFFF 0xC0000011 (.vexpd (fld w 26 3) (fld w 21 5) (fld w 16 5))
  | 18 => accept w 0xE01FFFFF 0xC0000012 (.viota (fld w 26 3) (fld w 21 5))
  | 19 => accept w 0xE00007FF 0xC0000013 (.vperm (fld w 26 3) (fld w 21 5) (fld w 16 5) (fld w 11 5))
  | 20 => accept w 0xE00007FF 0xC0000014 (.vslup (fld w 26 3) (fld w 21 5) (fld w 16 5) (fld w 11 5))
  | 21 => accept w 0xE00007FF 0xC0000015 (.vsldn (fld w 26 3) (fld w 21 5) (fld w 16 5) (fld w 11 5))
  | 22 => accept w 0xE000FFFF 0xC0000016 (.vbcast (fld w 26 3) (fld w 21 5) (fld w 16 5))
  | 23 => accept w 0xFC0007FF 0xC0000017 (.vextr (fld w 21 5) (fld w 16 5) (fld w 11 5))
  | 24 => accept w 0xFC0007FF 0xC0000018 (.vins (fld w 21 5) (fld w 16 5) (fld w 11 5))
  | 25 => accept w 0xE00007FF 0xC0000019 (.vsel (fld w 26 3) (fld w 21 5) (fld w 16 5) (fld w 11 5))
  | 32 => accept w 0xFC0007FF 0xC0000020 (.kand (fld w 21 5) (fld w 16 5) (fld w 11 5))
  | 33 => accept w 0xFC0007FF 0xC0000021 (.kor (fld w 21 5) (fld w 16 5) (fld w 11 5))
  | 34 => accept w 0xFC0007FF 0xC0000022 (.kxor (fld w 21 5) (fld w 16 5) (fld w 11 5))
  | 35 => accept w 0xFC00FFFF 0xC0000023 (.knot (fld w 21 5) (fld w 16 5))
  | 36 => accept w 0xFC00FFFF 0xC0000024 (.kpop (fld w 21 5) (fld w 16 5))
  | 37 => accept w 0xFC00FFFF 0xC0000025 (.kfirst (fld w 21 5) (fld w 16 5))
  | 40 => accept w 0xE01FF83F 0xC0000028 (.vrand (fld w 26 3) (fld w 21 5) (fld w 6 5))
  | 41 => accept w 0xE000003F 0xC0000029 (.vpwl (fld w 26 3) (fld w 21 5) (fld w 16 5) (fld w 11 5) (fld w 6 5))
  | 42 => accept w 0xE000F83F 0xC000002A (.vquant (fld w 26 3) (fld w 21 5) (fld w 16 5) (fld w 6 5))
  | 43 => accept w 0xE000F83F 0xC000002B (.vdeq (fld w 26 3) (fld w 21 5) (fld w 16 5) (fld w 6 5))
  | 44 => accept w 0xE000003F 0xC000002C (.vbaddq (fld w 26 3) (fld w 21 5) (fld w 16 5) (fld w 11 5) (fld w 6 5))
  | 48 => accept w 0xE000003F 0xC0000030 (.vamo (fld w 26 3) (fld w 21 5) (fld w 16 5) (fld w 11 5) (fld w 6 5))
  | 49 => accept w 0xE000003F 0xC0000031 (.vamoc (fld w 26 3) (fld w 21 5) (fld w 16 5) (fld w 11 5) (fld w 6 5))
  | _ => .error .unassignedFunction

/-- Matrix compute, major 0x38 (R43). -/
def decodeMatrix (w : BitVec 32) : Except DecodeError Instr :=
  match (fld w 0 4).toNat with
  | 0 => accept w 0xFC00000F 0xE0000000 (.mma (fld w 21 5) (fld w 16 5) (fld w 11 5) (fld w 6 5) (fld w 4 2))
  | 1 => accept w 0xFC00000F 0xE0000001 (.mslide (fld w 21 5) (fld w 16 5) (fld w 11 5) (fld w 6 5) (fld w 4 2))
  | 2 => accept w 0xFC0007CF 0xE0000002 (.mew (fld w 21 5) (fld w 16 5) (fld w 11 5) (fld w 4 2))
  | 3 => accept w 0xFC0007FF 0xE0000003 (.mpwl (fld w 21 5) (fld w 16 5) (fld w 11 5))
  | 4 => accept w 0xFC1FFFFF 0xE0000004 (.mrnorm (fld w 21 5))
  | 5 => accept w 0xFC1FFFFF 0xE0000005 (.mzero (fld w 21 5))
  | 6 => accept w 0xFC00FFFF 0xE0000006 (.mclr (fld w 21 5) (fld w 16 5))
  | _ => .error .unassignedFunction

/-- Matrix data and slots, major 0x39 (R43); fn[4] of MROWV is its direction (R217). -/
def decodeMatrixData (w : BitVec 32) : Except DecodeError Instr :=
  match (fld w 0 4).toNat with
  | 0 => accept w 0xFC00FFFF 0xE4000000 (.mshape (fld w 21 5) (fld w 16 5))
  | 1 => accept w 0xFFE0FFFF 0xE4000001 (.mclaim (fld w 16 5))
  | 2 => accept w 0xFFE0FFFF 0xE4000002 (.mrel (fld w 16 5))
  | 3 => accept w 0xFC00003F 0xE4000003 (.mlds (fld w 21 5) (fld w 16 5) (fld w 11 5) (fld w 6 5))
  | 4 => accept w 0xFC00003F 0xE4000004 (.mlda (fld w 21 5) (fld w 16 5) (fld w 11 5) (fld w 6 5))
  | 5 => accept w 0xFC00003F 0xE4000005 (.msta (fld w 21 5) (fld w 16 5) (fld w 11 5) (fld w 6 5))
  | 6 => accept w 0xFC00F82F 0xE4000006 (.macs (fld w 21 5) (fld w 16 5) (fld w 6 5) (fld w 4 1))
  | 7 => if (fld w 4 1).toNat = 0 then accept w 0xFC0007FF 0xE4000007 (.mrowvToVector (fld w 21 5) (fld w 16 5) (fld w 11 5)) else accept w 0xFC0007FF 0xE4000017 (.mrowvToAccumulator (fld w 21 5) (fld w 16 5) (fld w 11 5))
  | 8 => accept w 0xFC00FFFF 0xE4000008 (.mcurv (fld w 21 5) (fld w 16 5))
  | 9 => accept w 0xFC1FFFFF 0xE4000009 (.mwait (fld w 21 5))
  | _ => .error .unassignedFunction

/-- Vector memory, majors 0x28 to 0x2F (R41): the mode selects the addressing, nf the operation outside segment mode. -/
def decodeVMem (w : BitVec 32) : Except DecodeError Instr :=
  let nf := (fld w 3 3).toNat
  let st := (fld w 2 1).toNat
  match (fld w 8 3).toNat with
  | 0 =>
    if nf = 0 then (if st = 0 then accept w 0xE000FF3C 0xA0000000 (.vld (fld w 26 3) (fld w 21 5) (fld w 16 5) (fld w 6 2) (fld w 0 2))
      else accept w 0xE000FF3C 0xA0000004 (.vst (fld w 26 3) (fld w 21 5) (fld w 16 5) (fld w 6 2) (fld w 0 2)))
    else if nf = 6 then (if st = 0 then accept w 0xFC00073F 0xA0000030 (.vldsq (fld w 21 5) (fld w 16 5) (fld w 11 5) (fld w 6 2))
      else accept w 0xE000073F 0xA0000034 (.vcapp (fld w 26 3) (fld w 21 5) (fld w 16 5) (fld w 11 5) (fld w 6 2)))
    else if nf = 7 ∧ st = 0 then accept w 0xE3E0FF3C 0xA0000038 (.vpref (fld w 26 3) (fld w 16 5) (fld w 6 2) (fld w 0 2))
    else .error .codeOutOfRange
  | 1 =>
    if nf = 0 then (if st = 0 then accept w 0xE000073C 0xA0000100 (.vlds (fld w 26 3) (fld w 21 5) (fld w 16 5) (fld w 11 5) (fld w 6 2) (fld w 0 2))
      else accept w 0xE000073C 0xA0000104 (.vsts (fld w 26 3) (fld w 21 5) (fld w 16 5) (fld w 11 5) (fld w 6 2) (fld w 0 2)))
    else if nf = 7 ∧ st = 0 then accept w 0xE3E0073C 0xA0000138 (.vprefS (fld w 26 3) (fld w 16 5) (fld w 11 5) (fld w 6 2) (fld w 0 2))
    else .error .codeOutOfRange
  | 2 =>
    if nf = 0 then (if st = 0 then accept w 0xE000073C 0xA0000200 (.vldx (fld w 26 3) (fld w 21 5) (fld w 16 5) (fld w 11 5) (fld w 6 2) (fld w 0 2))
      else accept w 0xE000073C 0xA0000204 (.vstx (fld w 26 3) (fld w 21 5) (fld w 16 5) (fld w 11 5) (fld w 6 2) (fld w 0 2)))
    else if nf = 7 ∧ st = 0 then accept w 0xE3E0073C 0xA0000238 (.vprefX (fld w 26 3) (fld w 16 5) (fld w 11 5) (fld w 6 2) (fld w 0 2))
    else .error .codeOutOfRange
  | 3 =>
    if st = 0 then accept w 0xE000FF04 0xA0000300 (.vldseg (fld w 26 3) (fld w 21 5) (fld w 16 5) (fld w 6 2) (fld w 3 3) (fld w 0 2))
    else accept w 0xE000FF04 0xA0000304 (.vstseg (fld w 26 3) (fld w 21 5) (fld w 16 5) (fld w 6 2) (fld w 3 3) (fld w 0 2))
  | 4 =>
    if nf = 0 then (if st = 0 then accept w 0xE000073C 0xA0000400 (.vldxO (fld w 26 3) (fld w 21 5) (fld w 16 5) (fld w 11 5) (fld w 6 2) (fld w 0 2))
      else accept w 0xE000073C 0xA0000404 (.vstxO (fld w 26 3) (fld w 21 5) (fld w 16 5) (fld w 11 5) (fld w 6 2) (fld w 0 2)))
    else .error .codeOutOfRange
  | 5 =>
    if nf = 0 then (if st = 0 then accept w 0xE000073C 0xA0000500 (.vldsO (fld w 26 3) (fld w 21 5) (fld w 16 5) (fld w 11 5) (fld w 6 2) (fld w 0 2))
      else accept w 0xE000073C 0xA0000504 (.vstsO (fld w 26 3) (fld w 21 5) (fld w 16 5) (fld w 11 5) (fld w 6 2) (fld w 0 2)))
    else .error .codeOutOfRange
  | _ => .error .codeOutOfRange

/-- The decoder: R48's checks that look at the word alone, in their order, then R32's major opcode. (DEDUCED, log entry 97.) -/
def decode (w : BitVec 32) : Except DecodeError Instr :=
  if w = 0x00000000#32 ∨ w = 0xFFFFFFFF#32 then .error .allZerosOrOnes else
  match (fld w 26 6).toNat with
  | 0x01 => decodeRR w
  | 0x02 => accept w 0xFC000000 0x08000000 (.addi (fld w 21 5) (fld w 16 5) (fld w 0 16))
  | 0x03 => accept w 0xFC000000 0x0C000000 (.andi (fld w 21 5) (fld w 16 5) (fld w 0 16))
  | 0x04 => accept w 0xFC000000 0x10000000 (.ori (fld w 21 5) (fld w 16 5) (fld w 0 16))
  | 0x05 => accept w 0xFC000000 0x14000000 (.xori (fld w 21 5) (fld w 16 5) (fld w 0 16))
  | 0x06 => accept w 0xFC000000 0x18000000 (.slti (fld w 21 5) (fld w 16 5) (fld w 0 16))
  | 0x07 => accept w 0xFC000000 0x1C000000 (.sltni (fld w 21 5) (fld w 16 5) (fld w 0 16))
  | 0x08 => accept w 0xFC003FC0 0x20000000 (.shi (fld w 21 5) (fld w 16 5) (fld w 14 2) (fld w 0 6))
  | 0x09 => accept w 0xFC1F0000 0x24000000 (.lih (fld w 21 5) (fld w 0 16))
  | 0x0A => accept w 0xFC1C0000 0x28000000 (.insi (fld w 21 5) (fld w 16 2) (fld w 0 16))
  | 0x0B => accept w 0xFC1F0000 0x2C000000 (.addpc (fld w 21 5) (fld w 0 16))
  | 0x0C => accept w 0xFC000000 0x30000000 (.ld (fld w 21 5) (fld w 16 5) (fld w 13 3) (fld w 0 13))
  | 0x0D => accept w 0xFC000000 0x34000000 (.st (fld w 21 5) (fld w 16 5) (fld w 13 3) (fld w 0 13))
  | 0x0E => decodeBranch w
  | 0x0F => accept w 0xFC000000 0x3C000000 (.call (fld w 21 5) (fld w 0 21))
  | 0x10 => decodeJumpReg w
  | 0x11 => decodeSystem w
  | 0x12 => decodeFork w
  | 0x13 => decodeStrand w
  | 0x14 => decodeAtomic w
  | 0x15 => decodeBarrier w
  | 0x16 => decodeMessage w
  | 0x17 => decodeFence w
  | 0x18 => decodeVcache w
  | 0x19 => decodeTranslation w
  | 0x1A => decodeClosure w
  | 0x1B => decodeCounter w
  | 0x1C => decodeVConfig w
  | 0x20 => decodeVPage1 w
  | 0x21 => decodeVPage1 w
  | 0x22 => decodeVPage1 w
  | 0x23 => decodeVPage1 w
  | 0x24 => decodeVPage1 w
  | 0x25 => decodeVPage1 w
  | 0x26 => decodeVPage1 w
  | 0x27 => decodeVPage1 w
  | 0x28 => decodeVMem w
  | 0x29 => decodeVMem w
  | 0x2A => decodeVMem w
  | 0x2B => decodeVMem w
  | 0x2C => decodeVMem w
  | 0x2D => decodeVMem w
  | 0x2E => decodeVMem w
  | 0x2F => decodeVMem w
  | 0x30 => decodeVPage2 w
  | 0x31 => decodeVPage2 w
  | 0x32 => decodeVPage2 w
  | 0x33 => decodeVPage2 w
  | 0x34 => decodeVPage2 w
  | 0x35 => decodeVPage2 w
  | 0x36 => decodeVPage2 w
  | 0x37 => decodeVPage2 w
  | 0x38 => decodeMatrix w
  | 0x39 => decodeMatrixData w
  | _ => .error .reservedMajor

/-- The word with the given base and fields (value, place), as the chapters write words. -/
def mkWord (base : Nat) (fields : List (Nat × Nat)) : BitVec 32 :=
  BitVec.ofNat 32 (fields.foldl (fun acc f => acc + f.1 * 2 ^ f.2) base)

/-- The encoder, from the encoding tables of the spec. An event has no word; its encoding is given as 0, the word that is
never an instruction (R48). -/
def encode : Instr → BitVec 32
  | .add d a b => mkWord 0x04000000 [(d.toNat, 21), (a.toNat, 16), (b.toNat, 11)]
  | .sub d a b => mkWord 0x04000001 [(d.toNat, 21), (a.toNat, 16), (b.toNat, 11)]
  | .and d a b => mkWord 0x04000002 [(d.toNat, 21), (a.toNat, 16), (b.toNat, 11)]
  | .or d a b => mkWord 0x04000003 [(d.toNat, 21), (a.toNat, 16), (b.toNat, 11)]
  | .xor d a b => mkWord 0x04000004 [(d.toNat, 21), (a.toNat, 16), (b.toNat, 11)]
  | .andn d a b => mkWord 0x04000005 [(d.toNat, 21), (a.toNat, 16), (b.toNat, 11)]
  | .sll d a b => mkWord 0x04000008 [(d.toNat, 21), (a.toNat, 16), (b.toNat, 11)]
  | .srl d a b => mkWord 0x04000009 [(d.toNat, 21), (a.toNat, 16), (b.toNat, 11)]
  | .sra d a b => mkWord 0x0400000A [(d.toNat, 21), (a.toNat, 16), (b.toNat, 11)]
  | .rotr d a b => mkWord 0x0400000B [(d.toNat, 21), (a.toNat, 16), (b.toNat, 11)]
  | .mul d a b => mkWord 0x04000010 [(d.toNat, 21), (a.toNat, 16), (b.toNat, 11)]
  | .mulh d a b => mkWord 0x04000011 [(d.toNat, 21), (a.toNat, 16), (b.toNat, 11)]
  | .mulhn d a b => mkWord 0x04000012 [(d.toNat, 21), (a.toNat, 16), (b.toNat, 11)]
  | .div d a b => mkWord 0x04000014 [(d.toNat, 21), (a.toNat, 16), (b.toNat, 11)]
  | .divn d a b => mkWord 0x04000015 [(d.toNat, 21), (a.toNat, 16), (b.toNat, 11)]
  | .rem d a b => mkWord 0x04000016 [(d.toNat, 21), (a.toNat, 16), (b.toNat, 11)]
  | .remn d a b => mkWord 0x04000017 [(d.toNat, 21), (a.toNat, 16), (b.toNat, 11)]
  | .min d a b => mkWord 0x04000018 [(d.toNat, 21), (a.toNat, 16), (b.toNat, 11)]
  | .max d a b => mkWord 0x04000019 [(d.toNat, 21), (a.toNat, 16), (b.toNat, 11)]
  | .minn d a b => mkWord 0x0400001A [(d.toNat, 21), (a.toNat, 16), (b.toNat, 11)]
  | .maxn d a b => mkWord 0x0400001B [(d.toNat, 21), (a.toNat, 16), (b.toNat, 11)]
  | .slt d a b => mkWord 0x0400001C [(d.toNat, 21), (a.toNat, 16), (b.toNat, 11)]
  | .sltn d a b => mkWord 0x0400001D [(d.toNat, 21), (a.toNat, 16), (b.toNat, 11)]
  | .clz d a => mkWord 0x04000020 [(d.toNat, 21), (a.toNat, 16)]
  | .ctz d a => mkWord 0x04000021 [(d.toNat, 21), (a.toNat, 16)]
  | .popc d a => mkWord 0x04000022 [(d.toNat, 21), (a.toNat, 16)]
  | .bswap d a => mkWord 0x04000023 [(d.toNat, 21), (a.toNat, 16)]
  | .sext d a w => mkWord 0x04000024 [(d.toNat, 21), (a.toNat, 16), (w.toNat, 6)]
  | .zext d a w => mkWord 0x04000025 [(d.toNat, 21), (a.toNat, 16), (w.toNat, 6)]
  | .addi d a i => mkWord 0x08000000 [(d.toNat, 21), (a.toNat, 16), (i.toNat, 0)]
  | .andi d a i => mkWord 0x0C000000 [(d.toNat, 21), (a.toNat, 16), (i.toNat, 0)]
  | .ori d a i => mkWord 0x10000000 [(d.toNat, 21), (a.toNat, 16), (i.toNat, 0)]
  | .xori d a i => mkWord 0x14000000 [(d.toNat, 21), (a.toNat, 16), (i.toNat, 0)]
  | .slti d a i => mkWord 0x18000000 [(d.toNat, 21), (a.toNat, 16), (i.toNat, 0)]
  | .sltni d a i => mkWord 0x1C000000 [(d.toNat, 21), (a.toNat, 16), (i.toNat, 0)]
  | .shi d a k n => mkWord 0x20000000 [(d.toNat, 21), (a.toNat, 16), (k.toNat, 14), (n.toNat, 0)]
  | .lih d i => mkWord 0x24000000 [(d.toNat, 21), (i.toNat, 0)]
  | .insi d l i => mkWord 0x28000000 [(d.toNat, 21), (l.toNat, 16), (i.toNat, 0)]
  | .addpc d i => mkWord 0x2C000000 [(d.toNat, 21), (i.toNat, 0)]
  | .ld d a w o => mkWord 0x30000000 [(d.toNat, 21), (a.toNat, 16), (w.toNat, 13), (o.toNat, 0)]
  | .st b a w o => mkWord 0x34000000 [(b.toNat, 21), (a.toNat, 16), (w.toNat, 13), (o.toNat, 0)]
  | .beq b a o => mkWord 0x38000000 [(b.toNat, 21), (a.toNat, 16), (o.toNat, 0)]
  | .bne b a o => mkWord 0x38002000 [(b.toNat, 21), (a.toNat, 16), (o.toNat, 0)]
  | .blt b a o => mkWord 0x38004000 [(b.toNat, 21), (a.toNat, 16), (o.toNat, 0)]
  | .bge b a o => mkWord 0x38006000 [(b.toNat, 21), (a.toNat, 16), (o.toNat, 0)]
  | .bltn b a o => mkWord 0x38008000 [(b.toNat, 21), (a.toNat, 16), (o.toNat, 0)]
  | .bgen b a o => mkWord 0x3800A000 [(b.toNat, 21), (a.toNat, 16), (o.toNat, 0)]
  | .call d o => mkWord 0x3C000000 [(d.toNat, 21), (o.toNat, 0)]
  | .callr d a => mkWord 0x40000000 [(d.toNat, 21), (a.toNat, 16)]
  | .jmpr a => mkWord 0x40000001 [(a.toNat, 16)]
  | .sget d n => mkWord 0x44000000 [(d.toNat, 21), (n.toNat, 5)]
  | .sset a n => mkWord 0x44000001 [(a.toNat, 16), (n.toNat, 5)]
  | .sxch d a n => mkWord 0x44000002 [(d.toNat, 21), (a.toNat, 16), (n.toNat, 5)]
  | .trap c => mkWord 0x44000004 [(c.toNat, 5)]
  | .tret => mkWord 0x44000005 []
  | .svc c => mkWord 0x44000006 [(c.toNat, 5)]
  | .halt => mkWord 0x44000007 []
  | .idle => mkWord 0x44000008 []
  | .bkpt c => mkWord 0x44000009 [(c.toNat, 5)]
  | .fork a b => mkWord 0x48000000 [(a.toNat, 16), (b.toNat, 11)]
  | .forkt d a b => mkWord 0x48000001 [(d.toNat, 21), (a.toNat, 16), (b.toNat, 11)]
  | .iter d s => mkWord 0x48000002 [(d.toNat, 21), (s.toNat, 5)]
  | .endi => mkWord 0x48000003 []
  | .join => mkWord 0x48000004 []
  | .fbreak => mkWord 0x48000005 []
  | .cspec d => mkWord 0x48000006 [(d.toNat, 21)]
  | .headw => mkWord 0x48000007 []
  | .ipost t => mkWord 0x48000008 [(t.toNat, 5)]
  | .iwait a t => mkWord 0x48000009 [(a.toNat, 16), (t.toNat, 5)]
  | .rdecl d a b => mkWord 0x4800000A [(d.toNat, 21), (a.toNat, 16), (b.toNat, 11)]
  | .chainw a => mkWord 0x4800000B [(a.toNat, 16)]
  | .launch d a => mkWord 0x4C000000 [(d.toNat, 21), (a.toNat, 16)]
  | .sdone => mkWord 0x4C000001 []
  | .yield => mkWord 0x4C000002 []
  | .ringid d => mkWord 0x4C000003 [(d.toNat, 21)]
  | .grpq d a => mkWord 0x4C000004 [(d.toNat, 21), (a.toNat, 16)]
  | .sprio a => mkWord 0x4C000005 [(a.toNat, 16)]
  | .stridx d => mkWord 0x4C000006 [(d.toNat, 21)]
  | .aadd d a b p => mkWord 0x50000000 [(d.toNat, 21), (a.toNat, 16), (b.toNat, 11), (p.toNat, 4)]
  | .aand d a b p => mkWord 0x50000001 [(d.toNat, 21), (a.toNat, 16), (b.toNat, 11), (p.toNat, 4)]
  | .aor d a b p => mkWord 0x50000002 [(d.toNat, 21), (a.toNat, 16), (b.toNat, 11), (p.toNat, 4)]
  | .axor d a b p => mkWord 0x50000003 [(d.toNat, 21), (a.toNat, 16), (b.toNat, 11), (p.toNat, 4)]
  | .amin d a b p => mkWord 0x50000004 [(d.toNat, 21), (a.toNat, 16), (b.toNat, 11), (p.toNat, 4)]
  | .amax d a b p => mkWord 0x50000005 [(d.toNat, 21), (a.toNat, 16), (b.toNat, 11), (p.toNat, 4)]
  | .aminn d a b p => mkWord 0x50000006 [(d.toNat, 21), (a.toNat, 16), (b.toNat, 11), (p.toNat, 4)]
  | .amaxn d a b p => mkWord 0x50000007 [(d.toNat, 21), (a.toNat, 16), (b.toNat, 11), (p.toNat, 4)]
  | .aswap d a b p => mkWord 0x50000008 [(d.toNat, 21), (a.toNat, 16), (b.toNat, 11), (p.toNat, 4)]
  | .acas d a b c p => mkWord 0x50000009 [(d.toNat, 21), (a.toNat, 16), (b.toNat, 11), (c.toNat, 6), (p.toNat, 4)]
  | .afadd d a b p => mkWord 0x5000000A [(d.toNat, 21), (a.toNat, 16), (b.toNat, 11), (p.toNat, 4)]
  | .binit a b => mkWord 0x54000000 [(a.toNat, 16), (b.toNat, 11)]
  | .barr d a s => mkWord 0x54000001 [(d.toNat, 21), (a.toNat, 16), (s.toNat, 5)]
  | .bwait d a b => mkWord 0x54000002 [(d.toNat, 21), (a.toNat, 16), (b.toNat, 11)]
  | .barrw d a s => mkWord 0x54000003 [(d.toNat, 21), (a.toNat, 16), (s.toNat, 5)]
  | .binv a => mkWord 0x54000004 [(a.toNat, 16)]
  | .gbar d a => mkWord 0x54000005 [(d.toNat, 21), (a.toNat, 16)]
  | .msend d a b => mkWord 0x58000000 [(d.toNat, 21), (a.toNat, 16), (b.toNat, 11)]
  | .mrecv d a => mkWord 0x58000001 [(d.toNat, 21), (a.toNat, 16)]
  | .mpeek d => mkWord 0x58000002 [(d.toNat, 21)]
  | .wakew a b => mkWord 0x58000003 [(a.toNat, 16), (b.toNat, 11)]
  | .waitw d a b => mkWord 0x58000004 [(d.toNat, 21), (a.toNat, 16), (b.toNat, 11)]
  | .ecmd d a b => mkWord 0x58000005 [(d.toNat, 21), (a.toNat, 16), (b.toNat, 11)]
  | .ecmdb k a b => mkWord 0x58000006 [(k.toNat, 21), (a.toNat, 16), (b.toNat, 11)]
  | .toks q f => mkWord 0x58000007 [(q.toNat, 9), (f.toNat, 5)]
  | .tokw q f => mkWord 0x58000008 [(q.toNat, 9), (f.toNat, 5)]
  | .bqtake d => mkWord 0x58000009 [(d.toNat, 21)]
  | .fsv => mkWord 0x5C000000 []
  | .fvs => mkWord 0x5C000001 []
  | .fence k s => mkWord 0x5C000002 [(k.toNat, 8), (s.toNat, 5)]
  | .fsc => mkWord 0x5C000003 []
  | .ldacq d a w s => mkWord 0x5C000004 [(d.toNat, 21), (a.toNat, 16), (w.toNat, 8), (s.toNat, 5)]
  | .strel d a w s => mkWord 0x5C000005 [(d.toNat, 21), (a.toNat, 16), (w.toNat, 8), (s.toNat, 5)]
  | .vcdef d a => mkWord 0x60000000 [(d.toNat, 21), (a.toNat, 16)]
  | .vcdel d a => mkWord 0x60000001 [(d.toNat, 21), (a.toNat, 16)]
  | .vcqry d a => mkWord 0x60000002 [(d.toNat, 21), (a.toNat, 16)]
  | .vcsync a b => mkWord 0x60000003 [(a.toNat, 16), (b.toNat, 11)]
  | .vcflush a b => mkWord 0x60000004 [(a.toNat, 16), (b.toNat, 11)]
  | .tlbinv a => mkWord 0x64000000 [(a.toNat, 16)]
  | .tlogw a => mkWord 0x64000001 [(a.toNat, 16)]
  | .tloga => mkWord 0x64000002 []
  | .atran d a k => mkWord 0x64000003 [(d.toNat, 21), (a.toNat, 16), (k.toNat, 5)]
  | .gopen d => mkWord 0x68000000 [(d.toNat, 21)]
  | .gst d a b w => mkWord 0x68000001 [(d.toNat, 21), (a.toNat, 16), (b.toNat, 11), (w.toNat, 8)]
  | .vgst d a b k => mkWord 0x68000002 [(d.toNat, 21), (a.toNat, 16), (b.toNat, 11), (k.toNat, 8)]
  | .gcommit d a => mkWord 0x68000003 [(d.toNat, 21), (a.toNat, 16)]
  | .gabort a => mkWord 0x68000004 [(a.toNat, 16)]
  | .gstat d a => mkWord 0x68000005 [(d.toNat, 21), (a.toNat, 16)]
  | .gresolve a e => mkWord 0x68000006 [(a.toNat, 16), (e.toNat, 5)]
  | .pmcr d j => mkWord 0x6C000000 [(d.toNat, 21), (j.toNat, 5)]
  | .pmcw a j => mkWord 0x6C000001 [(a.toNat, 16), (j.toNat, 5)]
  | .pmcf a => mkWord 0x6C000002 [(a.toNat, 16)]
  | .vsetvl d a b => mkWord 0x70000000 [(d.toNat, 21), (a.toNat, 16), (b.toNat, 11)]
  | .vsetvli d a t => mkWord 0x70000001 [(d.toNat, 21), (a.toNat, 16), (t.toNat, 5)]
  | .vadd k d a b f s => mkWord 0x80000000 [(k.toNat, 26), (d.toNat, 21), (a.toNat, 16), (b.toNat, 11), (f.toNat, 6), (s.toNat, 5)]
  | .vsub k d a b f s => mkWord 0x80000001 [(k.toNat, 26), (d.toNat, 21), (a.toNat, 16), (b.toNat, 11), (f.toNat, 6), (s.toNat, 5)]
  | .vmul k d a b f s => mkWord 0x80000002 [(k.toNat, 26), (d.toNat, 21), (a.toNat, 16), (b.toNat, 11), (f.toNat, 6), (s.toNat, 5)]
  | .vfma k d a b f s => mkWord 0x80000003 [(k.toNat, 26), (d.toNat, 21), (a.toNat, 16), (b.toNat, 11), (f.toNat, 6), (s.toNat, 5)]
  | .vfms k d a b f s => mkWord 0x80000004 [(k.toNat, 26), (d.toNat, 21), (a.toNat, 16), (b.toNat, 11), (f.toNat, 6), (s.toNat, 5)]
  | .vnfma k d a b f s => mkWord 0x80000005 [(k.toNat, 26), (d.toNat, 21), (a.toNat, 16), (b.toNat, 11), (f.toNat, 6), (s.toNat, 5)]
  | .vdiv k d a b f s => mkWord 0x80000006 [(k.toNat, 26), (d.toNat, 21), (a.toNat, 16), (b.toNat, 11), (f.toNat, 6), (s.toNat, 5)]
  | .vsqrt k d a f => mkWord 0x80000007 [(k.toNat, 26), (d.toNat, 21), (a.toNat, 16), (f.toNat, 6)]
  | .vmin k d a b f s => mkWord 0x80000008 [(k.toNat, 26), (d.toNat, 21), (a.toNat, 16), (b.toNat, 11), (f.toNat, 6), (s.toNat, 5)]
  | .vmax k d a b f s => mkWord 0x80000009 [(k.toNat, 26), (d.toNat, 21), (a.toNat, 16), (b.toNat, 11), (f.toNat, 6), (s.toNat, 5)]
  | .vabs k d a f => mkWord 0x8000000A [(k.toNat, 26), (d.toNat, 21), (a.toNat, 16), (f.toNat, 6)]
  | .vneg k d a f => mkWord 0x8000000B [(k.toNat, 26), (d.toNat, 21), (a.toNat, 16), (f.toNat, 6)]
  | .vexp2 k d a f => mkWord 0x8000000C [(k.toNat, 26), (d.toNat, 21), (a.toNat, 16), (f.toNat, 6)]
  | .vlog2 k d a f => mkWord 0x8000000D [(k.toNat, 26), (d.toNat, 21), (a.toNat, 16), (f.toNat, 6)]
  | .vrcp k d a f => mkWord 0x8000000E [(k.toNat, 26), (d.toNat, 21), (a.toNat, 16), (f.toNat, 6)]
  | .vrsq k d a f => mkWord 0x8000000F [(k.toNat, 26), (d.toNat, 21), (a.toNat, 16), (f.toNat, 6)]
  | .vcvt k d a f => mkWord 0x80000010 [(k.toNat, 26), (d.toNat, 21), (a.toNat, 16), (f.toNat, 6)]
  | .vand k d a b f s => mkWord 0x80000011 [(k.toNat, 26), (d.toNat, 21), (a.toNat, 16), (b.toNat, 11), (f.toNat, 6), (s.toNat, 5)]
  | .vor k d a b f s => mkWord 0x80000012 [(k.toNat, 26), (d.toNat, 21), (a.toNat, 16), (b.toNat, 11), (f.toNat, 6), (s.toNat, 5)]
  | .vxor k d a b f s => mkWord 0x80000013 [(k.toNat, 26), (d.toNat, 21), (a.toNat, 16), (b.toNat, 11), (f.toNat, 6), (s.toNat, 5)]
  | .vnot k d a f => mkWord 0x80000014 [(k.toNat, 26), (d.toNat, 21), (a.toNat, 16), (f.toNat, 6)]
  | .vshl k d a b f s => mkWord 0x80000015 [(k.toNat, 26), (d.toNat, 21), (a.toNat, 16), (b.toNat, 11), (f.toNat, 6), (s.toNat, 5)]
  | .vshr k d a b f s => mkWord 0x80000016 [(k.toNat, 26), (d.toNat, 21), (a.toNat, 16), (b.toNat, 11), (f.toNat, 6), (s.toNat, 5)]
  | .vsra k d a b f s => mkWord 0x80000017 [(k.toNat, 26), (d.toNat, 21), (a.toNat, 16), (b.toNat, 11), (f.toNat, 6), (s.toNat, 5)]
  | .vcmp k m a b f s c => mkWord 0x80000018 [(k.toNat, 26), (m.toNat, 21), (a.toNat, 16), (b.toNat, 11), (f.toNat, 6), (s.toNat, 5), (c.toNat, 0)]
  | .vredsum k d a f => mkWord 0xC0000000 [(k.toNat, 26), (d.toNat, 21), (a.toNat, 16), (f.toNat, 6)]
  | .vredmax k d a f => mkWord 0xC0000001 [(k.toNat, 26), (d.toNat, 21), (a.toNat, 16), (f.toNat, 6)]
  | .vredmin k d a f => mkWord 0xC0000002 [(k.toNat, 26), (d.toNat, 21), (a.toNat, 16), (f.toNat, 6)]
  | .vscan k d a f => mkWord 0xC0000003 [(k.toNat, 26), (d.toNat, 21), (a.toNat, 16), (f.toNat, 6)]
  | .vsort k d a b f => mkWord 0xC0000008 [(k.toNat, 26), (d.toNat, 21), (a.toNat, 16), (b.toNat, 11), (f.toNat, 6)]
  | .vtopk k d a b f => mkWord 0xC0000009 [(k.toNat, 26), (d.toNat, 21), (a.toNat, 16), (b.toNat, 11), (f.toNat, 6)]
  | .vcomp k d a => mkWord 0xC0000010 [(k.toNat, 26), (d.toNat, 21), (a.toNat, 16)]
  | .vexpd k d a => mkWord 0xC0000011 [(k.toNat, 26), (d.toNat, 21), (a.toNat, 16)]
  | .viota k d => mkWord 0xC0000012 [(k.toNat, 26), (d.toNat, 21)]
  | .vperm k d a b => mkWord 0xC0000013 [(k.toNat, 26), (d.toNat, 21), (a.toNat, 16), (b.toNat, 11)]
  | .vslup k d a b => mkWord 0xC0000014 [(k.toNat, 26), (d.toNat, 21), (a.toNat, 16), (b.toNat, 11)]
  | .vsldn k d a b => mkWord 0xC0000015 [(k.toNat, 26), (d.toNat, 21), (a.toNat, 16), (b.toNat, 11)]
  | .vbcast k d a => mkWord 0xC0000016 [(k.toNat, 26), (d.toNat, 21), (a.toNat, 16)]
  | .vextr d a b => mkWord 0xC0000017 [(d.toNat, 21), (a.toNat, 16), (b.toNat, 11)]
  | .vins d a b => mkWord 0xC0000018 [(d.toNat, 21), (a.toNat, 16), (b.toNat, 11)]
  | .vsel k d a b => mkWord 0xC0000019 [(k.toNat, 26), (d.toNat, 21), (a.toNat, 16), (b.toNat, 11)]
  | .kand d a b => mkWord 0xC0000020 [(d.toNat, 21), (a.toNat, 16), (b.toNat, 11)]
  | .kor d a b => mkWord 0xC0000021 [(d.toNat, 21), (a.toNat, 16), (b.toNat, 11)]
  | .kxor d a b => mkWord 0xC0000022 [(d.toNat, 21), (a.toNat, 16), (b.toNat, 11)]
  | .knot d a => mkWord 0xC0000023 [(d.toNat, 21), (a.toNat, 16)]
  | .kpop d a => mkWord 0xC0000024 [(d.toNat, 21), (a.toNat, 16)]
  | .kfirst d a => mkWord 0xC0000025 [(d.toNat, 21), (a.toNat, 16)]
  | .vrand k d f => mkWord 0xC0000028 [(k.toNat, 26), (d.toNat, 21), (f.toNat, 6)]
  | .vpwl k d a t f => mkWord 0xC0000029 [(k.toNat, 26), (d.toNat, 21), (a.toNat, 16), (t.toNat, 11), (f.toNat, 6)]
  | .vquant k d a f => mkWord 0xC000002A [(k.toNat, 26), (d.toNat, 21), (a.toNat, 16), (f.toNat, 6)]
  | .vdeq k d a f => mkWord 0xC000002B [(k.toNat, 26), (d.toNat, 21), (a.toNat, 16), (f.toNat, 6)]
  | .vbaddq k d a b f => mkWord 0xC000002C [(k.toNat, 26), (d.toNat, 21), (a.toNat, 16), (b.toNat, 11), (f.toNat, 6)]
  | .vamo k d a b o => mkWord 0xC0000030 [(k.toNat, 26), (d.toNat, 21), (a.toNat, 16), (b.toNat, 11), (o.toNat, 6)]
  | .vamoc k d a b o => mkWord 0xC0000031 [(k.toNat, 26), (d.toNat, 21), (a.toNat, 16), (b.toNat, 11), (o.toNat, 6)]
  | .vld k v a e h => mkWord 0xA0000000 [(k.toNat, 26), (v.toNat, 21), (a.toNat, 16), (e.toNat, 6), (h.toNat, 0)]
  | .vst k v a e h => mkWord 0xA0000004 [(k.toNat, 26), (v.toNat, 21), (a.toNat, 16), (e.toNat, 6), (h.toNat, 0)]
  | .vlds k v a b e h => mkWord 0xA0000100 [(k.toNat, 26), (v.toNat, 21), (a.toNat, 16), (b.toNat, 11), (e.toNat, 6), (h.toNat, 0)]
  | .vldsO k v a b e h => mkWord 0xA0000500 [(k.toNat, 26), (v.toNat, 21), (a.toNat, 16), (b.toNat, 11), (e.toNat, 6), (h.toNat, 0)]
  | .vsts k v a b e h => mkWord 0xA0000104 [(k.toNat, 26), (v.toNat, 21), (a.toNat, 16), (b.toNat, 11), (e.toNat, 6), (h.toNat, 0)]
  | .vstsO k v a b e h => mkWord 0xA0000504 [(k.toNat, 26), (v.toNat, 21), (a.toNat, 16), (b.toNat, 11), (e.toNat, 6), (h.toNat, 0)]
  | .vldx k v a b e h => mkWord 0xA0000200 [(k.toNat, 26), (v.toNat, 21), (a.toNat, 16), (b.toNat, 11), (e.toNat, 6), (h.toNat, 0)]
  | .vldxO k v a b e h => mkWord 0xA0000400 [(k.toNat, 26), (v.toNat, 21), (a.toNat, 16), (b.toNat, 11), (e.toNat, 6), (h.toNat, 0)]
  | .vstx k v a b e h => mkWord 0xA0000204 [(k.toNat, 26), (v.toNat, 21), (a.toNat, 16), (b.toNat, 11), (e.toNat, 6), (h.toNat, 0)]
  | .vstxO k v a b e h => mkWord 0xA0000404 [(k.toNat, 26), (v.toNat, 21), (a.toNat, 16), (b.toNat, 11), (e.toNat, 6), (h.toNat, 0)]
  | .vldseg k v a e n h => mkWord 0xA0000300 [(k.toNat, 26), (v.toNat, 21), (a.toNat, 16), (e.toNat, 6), (n.toNat, 3), (h.toNat, 0)]
  | .vstseg k v a e n h => mkWord 0xA0000304 [(k.toNat, 26), (v.toNat, 21), (a.toNat, 16), (e.toNat, 6), (n.toNat, 3), (h.toNat, 0)]
  | .vpref k a e h => mkWord 0xA0000038 [(k.toNat, 26), (a.toNat, 16), (e.toNat, 6), (h.toNat, 0)]
  | .vprefS k a b e h => mkWord 0xA0000138 [(k.toNat, 26), (a.toNat, 16), (b.toNat, 11), (e.toNat, 6), (h.toNat, 0)]
  | .vprefX k a b e h => mkWord 0xA0000238 [(k.toNat, 26), (a.toNat, 16), (b.toNat, 11), (e.toNat, 6), (h.toNat, 0)]
  | .vldsq v a b e => mkWord 0xA0000030 [(v.toNat, 21), (a.toNat, 16), (b.toNat, 11), (e.toNat, 6)]
  | .vcapp k v a b e => mkWord 0xA0000034 [(k.toNat, 26), (v.toNat, 21), (a.toNat, 16), (b.toNat, 11), (e.toNat, 6)]
  | .mma x y z w o => mkWord 0xE0000000 [(x.toNat, 21), (y.toNat, 16), (z.toNat, 11), (w.toNat, 6), (o.toNat, 4)]
  | .mslide x y z w o => mkWord 0xE0000001 [(x.toNat, 21), (y.toNat, 16), (z.toNat, 11), (w.toNat, 6), (o.toNat, 4)]
  | .mew x y z o => mkWord 0xE0000002 [(x.toNat, 21), (y.toNat, 16), (z.toNat, 11), (o.toNat, 4)]
  | .mpwl x y z => mkWord 0xE0000003 [(x.toNat, 21), (y.toNat, 16), (z.toNat, 11)]
  | .mrnorm x => mkWord 0xE0000004 [(x.toNat, 21)]
  | .mzero x => mkWord 0xE0000005 [(x.toNat, 21)]
  | .mclr x y => mkWord 0xE0000006 [(x.toNat, 21), (y.toNat, 16)]
  | .mshape x y => mkWord 0xE4000000 [(x.toNat, 21), (y.toNat, 16)]
  | .mclaim y => mkWord 0xE4000001 [(y.toNat, 16)]
  | .mrel y => mkWord 0xE4000002 [(y.toNat, 16)]
  | .mlds x y z w => mkWord 0xE4000003 [(x.toNat, 21), (y.toNat, 16), (z.toNat, 11), (w.toNat, 6)]
  | .mlda x y z w => mkWord 0xE4000004 [(x.toNat, 21), (y.toNat, 16), (z.toNat, 11), (w.toNat, 6)]
  | .msta x y z w => mkWord 0xE4000005 [(x.toNat, 21), (y.toNat, 16), (z.toNat, 11), (w.toNat, 6)]
  | .macs x y w t => mkWord 0xE4000006 [(x.toNat, 21), (y.toNat, 16), (w.toNat, 6), (t.toNat, 4)]
  | .mrowvToVector x y z => mkWord 0xE4000007 [(x.toNat, 21), (y.toNat, 16), (z.toNat, 11)]
  | .mrowvToAccumulator x y z => mkWord 0xE4000017 [(x.toNat, 21), (y.toNat, 16), (z.toNat, 11)]
  | .mcurv x y => mkWord 0xE4000008 [(x.toNat, 21), (y.toNat, 16)]
  | .mwait x => mkWord 0xE4000009 [(x.toNat, 21)]
  | .nonInstructionWord _ => 0#32
  | .heldTrapTaken => 0#32
  | .asyncEventTaken => 0#32
  | .coreStorageError _ => 0#32
  | .cplaunch _ _ _ => 0#32
  | .registerWrite _ _ _ => 0#32
  | .gwbqcfgWrite _ _ _ => 0#32
  | .worldSwitchOut _ _ => 0#32
  | .worldSwitchIn => 0#32
  | .worldSwitchComplete => 0#32
  | .cpunfrz _ _ => 0#32
  | .mbcmdCommit _ => 0#32
  | .attestNonceWrite _ => 0#32
  | .atcmd _ => 0#32
  | .attestReportReady => 0#32
  | .vlWrite _ => 0#32
  | .vtypeWrite _ => 0#32
  | .mglogw _ => 0#32
  | .mgthrWrite _ => 0#32
  | .mgalrtWrite _ => 0#32
  | .schedulingPass => 0#32
  | .quantumExpiry _ _ => 0#32
  | .preemptStop _ => 0#32
  | .preemptHeadTimeout _ => 0#32
  | .saveComplete _ => 0#32
  | .ringReclaimDone _ => 0#32
  | .snapshotArrival _ => 0#32
  | .chunkStart => 0#32
  | .chainValueArrival _ => 0#32
  | .chainConfirmation _ => 0#32
  | .storeAnnouncement => 0#32
  | .headPass => 0#32
  | .mergeCombine => 0#32
  | .packetArrival _ _ _ => 0#32
  | .heldPacketReady _ _ => 0#32
  | .heldPacketTimeout _ _ => 0#32
  | .baseline => 0#32
  | .dieRetire _ => 0#32
  | .hubDieError => 0#32
  | .directoryRequest _ _ _ => 0#32
  | .regionMerge _ => 0#32
  | .dirtyEviction _ _ => 0#32
  | .writebackAck _ _ => 0#32
  | .probeArrival _ _ _ _ => 0#32
  | .fillReply _ _ => 0#32
  | .farAtomicAtBank _ _ _ _ _ => 0#32
  | .scatterAddApply _ => 0#32
  | .vcacheDrainStep _ => 0#32
  | .drainComplete _ => 0#32
  | .parcelError _ => 0#32
  | .messageDelivery _ => 0#32
  | .retryDelayExpiry _ => 0#32
  | .hubMessageDelivery => 0#32
  | .remoteMessageArrival _ _ _ _ => 0#32
  | .waitwWake _ => 0#32
  | .tokenPush _ => 0#32
  | .tokenPop _ => 0#32
  | .tokenDeadlock => 0#32
  | .engineAccept => 0#32
  | .engineCopy _ => 0#32
  | .engineFill _ => 0#32
  | .engineTranspose _ => 0#32
  | .engineQuantisingCopy _ => 0#32
  | .engineCompletion _ => 0#32
  | .engineStorageError _ => 0#32
  | .blockQueueWrite _ _ _ _ => 0#32
  | .fabricWindowRequest _ _ _ _ _ => 0#32
  | .vectorRequest _ _ _ => 0#32
  | .vectorRequestCompletion _ _ => 0#32
  | .fabricResponse _ _ => 0#32
  | .fabricRequestTimeout _ => 0#32
  | .portLaneLoss _ _ => 0#32
  | .groupStoreArrival _ _ _ _ _ _ => 0#32
  | .groupStoreAck _ _ _ _ => 0#32
  | .prepare _ _ _ _ _ => 0#32
  | .voteArrival _ _ _ => 0#32
  | .voteTimeout _ => 0#32
  | .publish _ _ _ => 0#32
  | .abort _ _ _ _ => 0#32
  | .decisionAck _ _ _ => 0#32
  | .doubtTimerExpiry _ => 0#32
  | .terminationQuery _ _ _ => 0#32
  | .stagingIdleCheck _ => 0#32
  | .hostMemWrite _ _ => 0#32
  | .hostMemRead _ _ => 0#32
  | .backInvalidationResponse _ _ => 0#32
  | .hostSnoop _ _ _ => 0#32
  | .shelfBackInvalidation _ => 0#32
  | .shelfLost _ => 0#32
  | .shelfResponseTimeout _ => 0#32
  | .linkTrainingFailure _ => 0#32
  | .counterWrap _ => 0#32
  | .bankCounterWrap _ _ => 0#32
  | .sensorReading _ _ => 0#32
  | .alertRepeat _ => 0#32
  | .managementInterrupt => 0#32
  | .moduleReset _ _ _ _ _ => 0#32
  | .recoveryImage _ _ => 0#32
  | .poolBringUp _ => 0#32
  | .tagPostArrival _ => 0#32
  | .terminationAnswer _ _ _ => 0#32
  | .shelfReturn _ _ _ => 0#32
  | .endpointUnreachableReport _ => 0#32
  | .ualinkPortTrained _ => 0#32

/-- The instruction that the decoder reads from a word numbered as the opcode table numbers it. Every word of the table is one
32-bit word (R27), stored little-endian: bits the table leaves out are 0, and none stands above 32. -/
def decodeTableWord (nbits w : Nat) : Option Instr :=
  if 32 < nbits ∨ 2 ^ nbits ≤ w then none
  else match decode (BitVec.ofNat 32 w) with
    | .ok i => some i
    | .error _ => none

end Sys2Proof
end

