-- ==== Sys2Proof/Config.lean ====
section
/-! DEFINITION. What an implementation fixes, and the free values: constants without a body, so that nothing can be proved of
their values (00_scope.md R5; log entries 6, 7, 16). A number a rule states is not here; it stands with the rule's definition. -/

namespace Sys2Proof.Config

/-- FREE VALUE of R5: the undefined value of width `w`, at step counter `n`, for the datum named `key`. -/
opaque freeBits (n key w : Nat) : BitVec w

/-- FREE VALUE: what a byte of host or pool memory holds that this module has not written (R446 step 3: such memory holds what
its own system leaves there). -/
opaque foreignByte (pa : Nat) : BitVec 8

/-- FREE VALUE: the launch handle the implementation proposes for its `n`-th admission (R75: its choice within a bound). -/
opaque handleGuess (n : Nat) : BitVec 32

/-- FREE VALUE: which of two elements of one unordered store to one address wins (R194), at step counter `n`, address `a`,
writers `i` and `j`: true when the later index wins. -/
opaque laterWins (n a i j : Nat) : Bool

/-- The hash of a destination endpoint and address bits [51:6] by which the package spreads requests over its ports (R351). -/
opaque portHash (ep line : Nat) : Nat

/-- Module identity (R445): serial number, certificate length and bytes. -/
opaque serial : BitVec 128
opaque certLength : Nat
opaque certByte (i : Nat) : BitVec 8

/-- The RSA-4096 signature over the 152 bytes of a report (R445). The spec names the algorithm and no key. -/
opaque signature (report : BitVec 1216) : BitVec 4096

/-- The boot ROM's RSA-4096 test of a signature over the 64 bytes of a SHA-512 digest (R24). The spec names the algorithm and no
key. -/
opaque imageSigned (digest : List (BitVec 8)) (signature : BitVec 4096) : Bool

end Sys2Proof.Config
end

