-- ==== Sys2Proof/Machine/State.lean ====
section
/-! DEFINITION. The state of one K9 module: every piece of state the spec gives the machine, as plain data, and the state
right after module reset. The executing agent is the focus: chunk context `x` of strand `st`; every other strand stands in
`parked`, every other chunk context of the focus strand in `st.fork`. INVENTORY.md lists each field with its rule. -/

namespace Sys2Proof.Machine

/-- Why the machine stops. -/
inductive Fault where
  /-- Raised by `step` alone, when the module has stopped under R403 (hub die error) or R441 (hub or store sensor at trip)
  and no module reset is next in the input list. Safe: the spec gives a stopped module no further step. -/
  | moduleStopped
  deriving DecidableEq, Repr

/-- Why an instruction has no meaning in the model. -/
inductive Refusal where
  /-- Raised by `exec` for an instruction the model does not give a meaning. Safe: the machine stops where the hardware runs. -/
  | notModelled (mnemonic : String)
  deriving DecidableEq, Repr

/-! ## Chunk contexts -/

/-- A trap with its record (R392 to R394). -/
structure TrapRec where
  cause : BitVec 8
  akind : BitVec 2 := 0
  pc : BitVec 54
  tval : Word := 0
  telem : Word := 0
  tstride : Word := 0
  tremain : Word := 0
  deriving DecidableEq, Repr

/-- One 8-byte word of a chunk's versions (R109, R110): `word` is its physical address over 8. `src` names the chunk, and the
count of that chunk's stores, from which the exposed read took its value; none for the committed value. -/
structure Version where
  word : Nat
  data : Word
  exposed : Bool
  src : Option (Nat × Nat)
  written : Bool
  wseq : Nat
  deriving DecidableEq, Repr

/-- One partial value of a merge region (R121): region, virtual and physical address of the element, its page's vcache, value. -/
structure Partial where
  region : Nat
  va : Nat
  pa : Nat
  vc : Nat
  value : Word
  deriving DecidableEq, Repr

/-- An inline loop (R131): the FORK address, the ENDI address once known, the iteration count, the columns (0 for FORK) and
the current index. -/
structure Inline where
  forkPc : BitVec 54
  endiPc : Option (BitVec 54)
  count : Nat
  cols : Nat
  index : Nat
  deriving DecidableEq, Repr

/-- Which loop the JOIN that must stand at pc ends (R129, R131). -/
inductive JoinKind where
  | outer
  | inline
  deriving DecidableEq, Repr

/-- What a chunk context is doing (R99, R116): running a chunk, holding a finished one until it commits, or free. -/
inductive CtxPhase where
  | running
  | finished
  | idle
  deriving DecidableEq, Repr

/-- The outcome of the fabric request that the instruction at pc waits for (R358, R362). -/
inductive Reply where
  /-- Sent, not answered: request number. -/
  | waiting (id : Nat)
  /-- Answered with these bytes. -/
  | data (bytes : List Byte)
  /-- Answered with poison. -/
  | poison
  /-- No response, or the endpoint is unreachable (R360). -/
  | failed
  deriving DecidableEq, Repr

/-- One access of a vector or matrix instruction as the address pipeline leaves it (R195, R198): element or row, field or
part, virtual address, bytes, and its translation. -/
structure PipeItem where
  i : Nat
  f : Nat
  va : Word
  n : Nat
  pa : Nat
  vc : Nat
  kind : Nat
  deriving DecidableEq, Repr

/-- The address pipeline's work for the instruction at pc: the accesses that passed, and the first failure (element, address,
cause). It is kept while requests through fabric windows are out. -/
structure Pipe where
  items : List PipeItem
  fault : Option (Nat × Word × BitVec 8)
  deriving DecidableEq, Repr

/-- What a chunk that executed an ordering instruction while it was speculative has still to do once it is head, before its
next instruction (R250): wait for the acknowledgements of .SYS, and for FSC the barrier of every die as well, sent or not. -/
inductive Owed where
  | nothing
  | sys
  | barrier
  | sent
  deriving DecidableEq, Repr

/-- A chunk context: the state that each chunk of a fork has for itself (R105, R106). Outside a fork, the strand's own. -/
structure Ctx where
  phase : CtxPhase
  pc : BitVec 54
  sreg : Vector Word 32
  vreg : Vector (BitVec 16384) 32
  kreg : Vector (BitVec 2048) 8
  vl : Word
  vtype : Word
  vbeg : Word
  rngkey : BitVec 32
  rngctr : Word
  cnum : BitVec 32
  citer : BitVec 32
  pos : BitVec 3
  inline : Option Inline
  /-- The JOIN that must stand at an address (R129): which loop it ends, and the address. -/
  joinDue : Option (JoinKind × BitVec 54)
  broke : Bool
  claim : BitVec 24
  dirty : BitVec 24
  shape : Word
  /-- Accumulator rows with a defined value: key 256 × accumulator + row. -/
  acc : List (Nat × BitVec 8192)
  /-- Slot rows with a defined value: key 256 × slot + row. -/
  slot : List (Nat × BitVec 4096)
  accPoison : Vector (BitVec 256) 8
  slotPoison : Vector (BitVec 256) 16
  vers : List Version
  /-- Lines (physical address over 64) that the chunk's versions hold poisoned (R225), and those that they cover whole with data
  that takes the line out of P (R387). -/
  poisonLines : List Nat
  cleanLines : List Nat
  partials : List Partial
  held : Option TrapRec
  /-- Live-ins neither present nor predicted, and not yet written (R107). -/
  await : BitVec 32
  /-- Start values received or predicted for live-ins (R108). -/
  starts : List (Nat × Word)
  /-- Every live-in of this chunk is confirmed (R107). -/
  confirmed : Bool
  /-- Tags posted by the current iteration, and by earlier ones of the chunk (R125). -/
  posts : List (Nat × Nat)
  /-- Posts of older chunks that have arrived (R125). -/
  seen : List (Nat × Nat)
  /-- Run priority that an SPRIO of a speculative chunk sets at commit (R80). -/
  sprio : Option (BitVec 2)
  /-- Count of the chunk's stores, so that an announcement and a later read can be told apart (R111). -/
  seq : Nat
  /-- Replies of the fabric requests of the instruction at pc, in their order. -/
  replies : List Reply
  /-- The address pipeline of the instruction at pc, while replies are awaited (R198, R202). -/
  pipe : Option Pipe
  owed : Owed
  deriving DecidableEq, Repr

/-! ## Strands -/

/-- Where a strand is (R60, R408, R438). -/
inductive Place where
  | ring (r : Nat)
  | gateway (g : Nat)
  | management
  | saved
  deriving DecidableEq, Repr

/-- The life of a strand on its place: running; asked to stop, since a time, and whether the head has reached the point where it
stops (R408); being saved; frozen (R405). -/
inductive Phase where
  | running
  | stopping (since : Nat) (due : Bool)
  | saving
  | frozen
  deriving DecidableEq, Repr

/-- The trap registers of R391 and R392. -/
structure TrapRegs where
  status : Word
  tvec : Word
  tcause : Word
  tpc : Word
  tval : Word
  telem : Word
  tstride : Word
  tremain : Word
  tscratch : Word
  deriving DecidableEq, Repr

/-- A declared merge region (R119). -/
structure Region where
  base : Nat
  len : Nat
  op : Nat
  fmt : Nat
  deriving DecidableEq, Repr

/-- One register of a predictor entry (R108). -/
structure PredReg where
  reg : Nat
  last : Word
  lastc : Nat
  stride : Word
  conf : Nat
  deriving DecidableEq, Repr

/-- An entry of the induction predictor (R108); the list of entries runs from the most to the least recently used. -/
structure PredEntry where
  site : BitVec 16
  regs : List PredReg
  deriving DecidableEq, Repr

/-- The fork snapshot (R105). -/
structure Snap where
  sreg : Vector Word 32
  vreg : Vector (BitVec 16384) 32
  kreg : Vector (BitVec 2048) 8
  vl : Word
  vtype : Word
  vbeg : Word
  rngkey : BitVec 32
  rngctr : Word
  claim : BitVec 24
  shape : Word
  deriving DecidableEq, Repr

/-- A store announcement under way (R111): storing chunk, word stored to, that chunk's store count. -/
structure Ann where
  cnum : Nat
  word : Nat
  seq : Nat
  deriving DecidableEq, Repr

/-- Live-in end values for chunk `dst`, confirmed or not (R107). -/
structure ChainMsg where
  dst : Nat
  vals : List (Nat × Word)
  confirmed : Bool
  deriving DecidableEq, Repr

/-- A posted tag: iteration, tag, chunk that posted it (R125). -/
structure Post where
  iter : Nat
  tag : Nat
  cnum : Nat
  deriving DecidableEq, Repr

/-- A merge combine under way to a bank (R122). -/
structure Combine where
  pa : Nat
  vc : Nat
  op : Nat
  fmt : Nat
  value : Word
  deriving DecidableEq, Repr

/-- A fork in progress (R99 to R133). -/
structure Fork where
  forkPc : BitVec 54
  endiPc : Option (BitVec 54)
  even : Word
  odd : Word
  tiled : Bool
  rows : Nat
  cols : Nat
  /-- Iterations per chunk (FORK), or rectangle height (FORKT). -/
  high : Nat
  /-- Rectangle width (FORKT). -/
  wide : Nat
  count : Nat
  nchunks : Nat
  /-- Chunk c runs on ring position (posBase + c) mod 8 (R100, R411). -/
  posBase : Nat
  snap : Snap
  /-- The level at which the fork was entered: the level of its speculative chunks (R118). -/
  level : Nat
  /-- Ring positions that the snapshot has reached (R105). -/
  snapAt : BitVec 8
  /-- Chunk contexts in flight other than the focus of the strand. -/
  chunks : List Ctx
  /-- Next chunk to start. -/
  next : Nat
  /-- Chunks committed: the head's number. -/
  committed : Nat
  /-- The head has committed and head has not yet passed (R114). -/
  passing : Bool
  squashCount : List (Nat × Nat)
  anns : List Ann
  /-- Chain values under way, and those that have arrived. -/
  chain : List ChainMsg
  arrived : List ChainMsg
  /-- Confirmations under way, by receiving chunk. -/
  confirms : List Nat
  /-- Largest chunk whose first confirmed value has updated the predictor (R108). -/
  updated : Nat
  posts : List Post
  /-- A chunk in flight has executed FBREAK (R126). -/
  breaking : Option Nat
  /-- Merge combines that have not yet reached their banks (R122). -/
  combines : List Combine
  deriving DecidableEq, Repr

/-- A message in an inbox: 512-bit payload and sender word (R310, R317). -/
structure Msg where
  payload : BitVec 512
  sender : Word
  /-- The message was delivered poisoned (R347). -/
  bad : Bool := false
  deriving DecidableEq, Repr

/-- Where a bound message goes: a strand of this package, or a core of a remote package (R312). -/
inductive Receiver where
  | strand (id : StrandId)
  | remote (ep : BitVec 10) (core : BitVec 9)
  deriving DecidableEq, Repr

/-- An entry of the retry buffer (R314): tries made, delay in µs, time of the next try. -/
structure RetryMsg where
  msg : Msg
  rcv : Receiver
  tries : Nat
  delay : Nat
  due : Nat
  deriving DecidableEq, Repr

/-- An instruction held in a queue (R186, R220, R320). `x` is the chunk context at its issue: the scalar operands the front end
read for it, the address pipeline with the translations it took (R195, R198), and, together with the token counts, the contour
tables and the strand's trap and translation registers, what the strand returns to when the instruction traps (R196, R322);
instructions before it that are performed later bring it up to date. -/
structure QItem where
  instr : Instr
  /-- The record an ECMD has read (R324). -/
  cmd : BitVec 512 := 0
  /-- Place in program order among the strand's queued instructions. -/
  seq : Nat
  x : Ctx
  tokens : Vector (BitVec 4) 8
  tables : Vector (BitVec 768) 8
  trap : TrapRegs
  ptroot : Word
  asid : Word
  /-- A fork runs (cflags[0]). -/
  active : Bool
  deriving DecidableEq, Repr

/-- A store waiting in a store buffer (R241): physical address, bytes, vcache; its place in program order among the strand's
stores and, as a queue's, among its queued instructions; and whether it is performed with respect to the strand's own core,
for accesses of the other class too (R247, R249, R320). -/
structure BufStore where
  pa : Nat
  data : List Byte
  vcache : Nat
  seq : Nat := 0
  issue : Nat := 0
  joined : Bool := false
  deriving DecidableEq, Repr

/-- What a pending wait is for (R306, R401, R410): a barrier record at a physical address, a local group, or IDLE's end. -/
inductive WaitKind where
  | bwait (pa : Nat)
  | barrw (pa : Nat)
  | gbar (group : Nat)
  | idle
  deriving DecidableEq, Repr

/-- A pending barrier wait: the phase awaited, and the status and phase delivered once released. -/
structure Wait where
  kind : WaitKind
  phase : BitVec 32
  delivered : Option (BitVec 8 × BitVec 32)
  deriving DecidableEq, Repr

/-- A strand (R60, R74). -/
structure Strand where
  place : Place
  phase : Phase
  id : StrandId
  n : BitVec 32
  vf : BitVec 5
  prio : BitVec 2
  runPrio : BitVec 2
  trap : TrapRegs
  ptroot : Word
  asid : Word
  pmcfg : Vector Word 4
  ovfPend : BitVec 4
  ccount : BitVec 32
  fsite : BitVec 16
  fsquash : BitVec 32
  /-- cflags[0], [1], [2] and [4] (R103); [3] and [5] are computed. -/
  active : Bool
  serial : Bool
  nopred : Bool
  broke : Bool
  regions : Vector (Option Region) 4
  fork : Option Fork
  pred : List PredEntry
  tables : Vector (BitVec 768) 8
  inbox : List Msg
  overflow : List Msg
  /-- Overflow messages that have left the overflow inbox (R410). -/
  ovHead : BitVec 32
  lost : BitVec 10
  retry : List RetryMsg
  tokens : Vector (BitVec 4) 8
  vqueue : List QItem
  mqueue : List QItem
  equeue : List QItem
  /-- Instructions placed in queues so far. -/
  qcount : Nat
  sbuf : List BufStore
  vbuf : List BufStore
  /-- Stores that have entered the buffers so far. -/
  stores : Nat
  /-- Addresses of failed fabric stores not yet reported, oldest first (R360). -/
  failedStores : List Word
  /-- A fatal context error answered for this strand: it stops before the next instruction (R357). -/
  fatal : Option TrapRec
  fatalEp : BitVec 10
  fatalWin : BitVec 6
  wait : Option Wait
  /-- Save slot of the pool (R407). -/
  saveSlot : Option Nat
  startedAt : Nat
  resumeNext : Bool
  deriving DecidableEq, Repr

/-- A strand with the chunk context that stands for it while it is not the focus. -/
structure Runner where
  x : Ctx
  st : Strand
  deriving DecidableEq, Repr

/-! ## Memory, translation -/

/-- A cached translation (R282): the buffer that holds it (ring number, or 48 + gateway core), page base and size, leaf fields. -/
structure TlbEntry where
  master : Nat
  asid : BitVec 16
  vpage : Nat
  large : Bool
  entry : Word
  deriving DecidableEq, Repr

/-- The class of an HBM page (R284). -/
inductive PageClass where
  | priv (ring : Nat)
  | shared
  deriving DecidableEq, Repr

/-- A strand waiting at a barrier record (R303): a BARRW waiter keeps the phase its arrival joined. -/
structure Waiter where
  id : StrandId
  pa : Nat
  phase : BitVec 32
  joined : Bool
  deriving DecidableEq, Repr

/-- An addition pending in a scatter-add unit (R270). -/
structure Scatter where
  pa : Nat
  /-- Vcache of the page (R435). -/
  vc : Nat
  wide : Bool
  op : Nat
  value : Word
  owner : StrandId
  deriving DecidableEq, Repr

/-- A line copy on the read-only path (R253): vcache, line address over 64, its 64 bytes, and the launches admitted when it was
made. -/
structure RoCopy where
  vcache : Nat
  line : Nat
  data : BitVec 512
  born : Nat
  deriving DecidableEq, Repr

/-! ## Command processor -/

/-- A launch from admission to its completion word (R64, R68, R77). -/
structure Launch where
  handle : BitVec 32
  vf : BitVec 5
  entry : Word
  args : Word
  nring : Nat
  ngate : Nat
  argsize : Nat
  prio : BitVec 2
  gang : Bool
  notify : Bool
  maps : List Word
  rngkey : BitVec 32
  stack : Word
  stacksize : Nat
  target : BitVec 32
  done : Word
  ptroot : Word
  asid : Word
  tvec : Word
  /-- Handle of the launch of the strand that issued it; none for a host-submitted one (R312). -/
  issuer : Option (BitVec 32)
  /-- Strand indices not yet placed, ascending, then saved strands to resume (R71). -/
  toPlace : List Nat
  toResume : List Nat
  endedOk : Nat
  endedFault : Nat
  /-- Time from which R71 counts, once a pass has found it unable to place. -/
  waitFrom : Option Nat
  /-- Launches admitted up to this one (R253). -/
  serial : Nat := 0
  deriving DecidableEq, Repr

/-- An entry of the ring-group table (R66, R305). -/
structure Group where
  handle : BitVec 32
  index : Nat
  strands : Word
  map : BitVec 64
  phase : BitVec 32
  arrived : List Nat
  suspended : Bool
  deriving DecidableEq, Repr

/-- A ring or gateway core as the command processor sees it (R72, R403). -/
inductive Master where
  | free
  | occupied
  | reclaiming
  | retired
  deriving DecidableEq, Repr

/-- A message the hub or the command processor sends (R447). -/
structure HubMsg where
  rcv : Option StrandId
  msg : Msg
  deriving DecidableEq, Repr

/-- A message of a remote package that this hub has bound and not yet acknowledged (R315): its entry, and its sender. -/
structure RemoteMsg where
  entry : RetryMsg
  ep : BitVec 10
  core : BitVec 9
  deriving DecidableEq, Repr

/-- Progress of a world switch (R413). -/
inductive WorldSwitch where
  | idle
  | out
  | inn
  deriving DecidableEq, Repr

/-- The command processor (R63, R390). -/
structure Cp where
  vfcfg : Vector Word 32
  plstat : Vector Word 32
  parta : Vector Word 32
  proot : Vector Word 32
  evtgt : Vector Word 32
  ptvec : Vector Word 32
  phys : Vector Word 32
  quant : Word
  svbase : Word
  svcnt : Word
  wsw : Word
  susp : BitVec 32
  switch : WorldSwitch
  launches : List Launch
  handleCount : Nat
  deficit : List (Nat × Int)
  lastServed : Vector (BitVec 5) 4
  diePtr : Nat
  groups : List Group
  masters : Vector Master 64
  hubOut : List HubMsg
  remoteIn : List RemoteMsg
  bankCtr : Vector Word 128
  bankFrozen : BitVec 32
  deriving DecidableEq, Repr

/-! ## Package fabric and Closure -/

/-- What kind of access a request in flight belongs to. -/
inductive FabKind where
  | read
  | write
  | atomic
  | vector
  | message
  | engine
  | engineRead
  | group
  deriving DecidableEq, Repr

/-- A request of this package in flight (R358, R360). A request that carries group stores names the group, the sequence number of
the first and their count (R361, R368). -/
structure FabReq where
  id : Nat
  kind : FabKind
  owner : StrandId
  va : Word
  ep : BitVec 10
  window : BitVec 6
  off : Nat
  slot : Option Nat
  sentAt : Nat
  group : Option (Nat × Nat × Nat) := none
  deriving DecidableEq, Repr

/-- What this package has put on the fabric, newest first: endpoint, target address (R353), and payload. -/
structure FabOut where
  ep : BitVec 10
  addr : Word
  payload : List Byte
  deriving DecidableEq, Repr

/-- Fabric registers and ports (R351, R354, R355, R435). -/
structure Fab where
  fxep : Word
  fxtmo : Word
  fxclcfg : Word
  fxacl : Vector Word 16
  wina : Vector Word 64
  winb : Vector Word 64
  winc : Vector Word 64
  lanes : Vector (BitVec 3) 32
  sent : Vector (BitVec 48) 32
  rcvd : Vector (BitVec 48) 32
  nextId : Nat
  reqs : List FabReq
  unreachable : List (BitVec 10)
  out : List FabOut
  deriving DecidableEq, Repr

/-- One destination of an initiated group (R365, R370): stores sent with their hash and acknowledgements, its vote (0 is yes; 4
stands for unreachable, 5 for missing), and how it answered the decision. -/
structure Dest where
  ep : BitVec 10
  count : Nat
  hash : Word
  acked : Nat
  vote : Option (BitVec 8)
  done : Bool
  refused : Bool
  deriving DecidableEq, Repr

/-- State of an initiated group (R375). -/
inductive GState where
  | open_
  | doomed
  | committing
  | published
  | aborted
  | pending
  deriving DecidableEq, Repr

/-- A group this endpoint initiates, or the last finished instance of a local group (R364, R423). `since` is when the current wait
of GCOMMIT began, `waited` that its wait for acknowledgements has ended, `publish` the decision (R370). -/
structure Group1 where
  loc : Nat
  owner : StrandId
  vf : BitVec 5
  state : GState
  held : Bool
  seq : Nat
  dests : List Dest
  reason : BitVec 8
  lostStore : Bool
  since : Nat
  publish : Bool
  waited : Bool
  /-- A GCOMMIT of the group has begun and not yet returned. -/
  inCommit : Bool
  deriving DecidableEq, Repr

/-- A staged group store (R369). -/
structure Staged where
  seq : BitVec 32
  window : BitVec 6
  off : Nat
  pa : Nat
  vc : Nat
  data : List Byte
  deriving DecidableEq, Repr

/-- State of a group at a destination (R369, R375). -/
inductive DState where
  | staging
  | doomed
  | inDoubt
  | published
  | aborted
  deriving DecidableEq, Repr

/-- A group at this package as destination (R369 to R373): staged stores, the number held when it finished, the participants that
PREPARE listed, and its termination: marked, reported, resolved by hand, the initiator's outcome acknowledged, answers so far. -/
structure Group2 where
  g : BitVec 16
  state : DState
  stores : List Staged
  /-- Windows of the stores that have been staged (R375, R376). -/
  windows : List (BitVec 6)
  held : Nat
  reason : BitVec 8
  parties : List (BitVec 10)
  marked : Bool
  reported : Bool
  resolved : Bool
  outcomeAcked : Bool
  since : Nat
  /-- A question to the initiator or the participants is out. -/
  asking : Bool
  answers : List (BitVec 10 × TermAnswer)
  deriving DecidableEq, Repr

/-- Closure state of the package (R364, R369). -/
structure Clo where
  mine : List Group1
  here : List Group2
  deriving DecidableEq, Repr

/-! ## Die fabric -/

/-- What a destination sends once it has applied a packet: a reply, or a write-through to home (R329, R425). `answers` is the line of
a read that it replies to. -/
structure Onward where
  dst : Nat
  cls : MsgClass
  writes : List Nat := []
  answers : Option Nat := none
  deriving DecidableEq, Repr

/-- A packet that is to be sent (R329): its class, the lines it writes, what its destination sends on, the line that it asks to read
(R341), and the line of a read that it answers. -/
structure Mail where
  cls : MsgClass
  writes : List Nat := []
  follow : List Onward := []
  read : Option Nat := none
  answers : Option Nat := none
  deriving DecidableEq, Repr

/-- A counted packet between dies (R329, R332). -/
structure Packet where
  mail : Mail
  stamp : Stamp
  deriving DecidableEq, Repr

/-- A packet in the early buffer of its destination (R336): when it was held. -/
structure Held where
  die : Nat
  src : Nat
  packet : Packet
  since : Nat
  deriving DecidableEq, Repr

/-- A read that is outstanding at the hub's combining node (R341): line, requesting and home die, and the expanded stamp of its
stream when it was sent. -/
structure HubRead where
  line : Nat
  src : Nat
  home : Nat
  stamp : List (BitVec 12)
  deriving DecidableEq, Repr

/-- Clocks, streams and early buffers (R331 to R348). Absent clock entries are 0. -/
structure Net where
  clock : List (Nat × BitVec 12)
  /-- Entries of a sender's clock changed since it last sent on a stream: key (s, d, j, e). -/
  changed : List Nat
  /-- Last ack a sender received on a stream. -/
  acks : List (Nat × BitVec 12)
  /-- Packets applied from a source since the die last sent it any packet (R338). -/
  unacked : List (Nat × Nat)
  /-- Packets that wait at their die, oldest first, while the clock window of their stream is closed (R338). -/
  stalled : List (Nat × Mail)
  transit : List (Nat × Packet)
  early : List Held
  /-- Class queues of a die that are full: 4 × die + class (R330). -/
  full : List Nat
  reads : List HubRead
  /-- Retired dies with the final counts per destination (R346). -/
  retired : List (Nat × List (Nat × BitVec 12))
  deriving DecidableEq, Repr

/-! ## Shared cache and directory -/

/-- The contents of a plat (R257). -/
structure Plat where
  id : Nat
  repl : Bool
  policy : Nat
  line : Nat
  owner : Nat
  fast : Bool
  waymask : BitVec 16
  map : BitVec 512
  deriving DecidableEq, Repr

/-- A defined vcache 2–255 (R262, R263, R272). -/
structure Vcache where
  id : Nat
  current : Option Plat
  draining : Option Plat
  deleting : Bool
  degraded : Bool
  issuer : Option StrandId
  moved : Nat
  written : Nat
  deriving DecidableEq, Repr

/-- State of a cached line (R344, R345, R387). -/
inductive LineState where
  | modified
  | owned
  | exclusive
  | shared
  | evictPending
  | pendingFill
  deriving DecidableEq, Repr

/-- A 64-byte sector of a cached line: its holder, address over 64, state, generation (true: current plat, R263), way, a probe held
until the fill and whether it is of an external write (R345), its place in the order of replacement (the least leaves first, R259,
R260), and whether a fill under way is for a write (R260). -/
structure CLine where
  holder : Agent
  line : Nat
  state : LineState
  current : Bool
  way : Nat
  probe : Option (ProbeKind × Bool)
  age : Nat := 0
  want : Bool := false
  deriving DecidableEq, Repr

/-- A directory region (R342): first line, number of lines (a power of two), holders, time of its last conflict. -/
structure DirRegion where
  base : Nat
  size : Nat
  holders : List Agent
  conflictAt : Nat
  used : Nat
  deriving DecidableEq, Repr

/-- A back-invalidation to the host (R385): for a write or a read, of which strand (0: another agent), and answered; an answered one
holds host requests for its line until the strand's access is performed. -/
structure BackInv where
  line : Nat
  write : Bool
  owner : StrandId
  answered : Bool
  deriving DecidableEq, Repr

/-- Vcaches, fenced parcels, cached lines, directory (R256, R268, R342). -/
structure Cache where
  vcaches : List Vcache
  fenced : List (BitVec 13)
  /-- A parcel of vcache 1 has been fenced (R273). -/
  sysDegraded : Bool
  lines : List CLine
  /-- Accesses so far, from which lines take their place in the order of replacement. -/
  uses : Nat
  dir : List DirRegion
  backInv : List BackInv
  /-- Host requests held behind a back-invalidation, in order of arrival: address, bytes (none: a read). -/
  hostHeld : List (Nat × Option (List Byte))
  deriving DecidableEq, Repr

/-! ## Engines, gateway queues, mailbox, management, boot -/

/-- A page of an accepted engine command (R323): its translation at acceptance, or the cause that refused it (0: none). -/
structure PageXl where
  page : Nat
  write : Bool
  cause : BitVec 8
  pa : Nat
  vc : Nat
  kind : Nat
  deriving DecidableEq, Repr

/-- An accepted engine command (R323): the 64-byte record, its issuer, and the translations made at acceptance. -/
structure EngCmd where
  record : BitVec 512
  issuer : StrandId
  vf : BitVec 5
  pages : List PageXl
  /-- When it was accepted, and how many identical commands of its ring were merged into it (R324). -/
  acceptedAt : Nat
  merged : Nat
  /-- How far it has come: moves carried out, bytes written, the first poisoned source byte, and the replies of the fabric reads
  of the move under way (R323, R325). -/
  moves : Nat
  written : Nat
  bad : Option Word
  reads : List Reply
  /-- Outcome once performed: result, failing address, bytes written (R325). -/
  result : Option (BitVec 8 × Word × Nat)
  deriving DecidableEq, Repr

/-- A stream engine (R323, R325, R403). -/
structure Engine where
  cmds : List EngCmd
  frozen : Bool
  retired : Bool
  deriving DecidableEq, Repr

/-- A gateway block queue (R327). -/
structure GwQueue where
  cfg : Word
  queue : List Nat
  waiting : List Nat
  bytes : List (Nat × Nat)
  deriving DecidableEq, Repr

/-- Mailbox and attestation registers (R382, R445). -/
structure Mailbox where
  mbstat : Word
  fw : Vector Word 4
  fa : Vector Word 4
  hdmcfg : Word
  tlbase : Word
  evtail : Word
  evhead : Word
  events : Vector (BitVec 512) 32
  shelves : Vector (Word × Word) 16
  nonce : BitVec 512
  atstat : BitVec 2
  report : BitVec 5312
  deriving DecidableEq, Repr

/-- A temperature sensor (R439, R440). -/
structure Sensor where
  temp : BitVec 16
  rel : BitVec 16
  alrt : BitVec 16
  alert : Bool
  since : Nat
  deriving DecidableEq, Repr

/-- Management registers and interrupts (R439 to R444). -/
structure Mgmt where
  sel : BitVec 7
  sensors : Vector Sensor 96
  thr : BitVec 32
  energy : BitVec 32
  cpw : BitVec 16
  modw : BitVec 16
  tail : Word
  trip : BitVec 16
  /-- Sensors of compute dies in a trip (R441). -/
  tripped : BitVec 96
  /-- Interrupts waiting: sensor and the tval it carries, oldest first (R442). -/
  irqs : List (Nat × Word)
  halted : Bool
  deriving DecidableEq, Repr

/-- What the boot ROM and the flash are doing (R24 to R26). -/
inductive Boot where
  /-- Just reset: the boot ROM has not yet verified the image. -/
  | rom
  /-- Recovery: the mailbox accepts a signed image. -/
  | recovery
  /-- Verified firmware runs; bring-up did not complete (R446 step 1). -/
  | halted
  /-- Bring-up complete. -/
  | ready
  deriving DecidableEq, Repr

/-- A pool shelf (R380, R388): base and size, present or lost. -/
structure Shelf where
  base : Nat
  size : Nat
  lost : Bool
  deriving DecidableEq, Repr

/-- What the step reads before it runs an instruction of the focus (DESIGN CHOICE, log entry 3). -/
inductive Input where
  /-- An event of the opcode table happens. -/
  | event (i : Instr)
  /-- Another strand becomes the focus: its place in `parked`. -/
  | turn (index : Nat)
  /-- Another chunk context of the focus strand becomes the focus: its place in the fork's list. -/
  | chunk (index : Nat)
  /-- The clock advances by so many µs. -/
  | elapse (us : Nat)
  /-- The oldest store of the scalar (false) or vector (true) buffer of the focus strand becomes visible. -/
  | drain (vector : Bool)
  /-- A read-only copy is dropped, or one is made of a line now. -/
  | dropRo (index : Nat)
  | fillRo (vcache : BitVec 8) (line : Nat)
  /-- The queue of a die for a message class is full, or has room again (R330). -/
  | classQueue (die : BitVec 4) (cls : MsgClass) (full : Bool)
  /-- Counter `j` of the focus strand counts `k` clock events (R430). -/
  | clocks (j : BitVec 2) (k : Nat)
  /-- Counter `k` of function `v` counts `n` bank events whose requester the model does not name (R435). -/
  | bank (v : BitVec 5) (k : BitVec 2) (n : Nat)
  /-- Power and energy readings (R439). -/
  | power (energy : BitVec 32) (cpw modw : BitVec 16)
  deriving DecidableEq, Repr

/-- The state of the module. -/
structure State where
  x : Ctx
  st : Strand
  parked : List Runner
  mem : List Host.Cell
  poison : List Nat
  /-- Address ranges of shelves that have been lost, all poison but the lines written whole since (R388). -/
  lostRanges : List (Nat × Nat)
  rewritten : List Nat
  sram : List Host.Cell
  tlb : List TlbEntry
  classes : List (Nat × PageClass)
  contention : List (Nat × BitVec 2)
  /-- Core whose atomic a bank last performed on a line (R294). -/
  lastFar : List (Nat × Nat)
  waiters : List Waiter
  scatter : List Scatter
  roCopies : List RoCopy
  cp : Cp
  fab : Fab
  clo : Clo
  net : Net
  cache : Cache
  eng : Vector Engine 16
  gwq : Vector GwQueue 16
  mbx : Mailbox
  mg : Mgmt
  boot : Boot
  /-- The firmware image in flash; none after a write that a reset cut short (R24, R26). -/
  flash : Option Image
  shelves : Vector (Option Shelf) 16
  poolUp : Bool
  time : Nat
  undef : Nat
  inputs : List Input
  /-- Set by an instruction that completes; the step counts it (R430). -/
  retired : Bool
  stopped : Bool
  deriving DecidableEq, Repr

/-! ## Reset -/

/-- A chunk context with every register 0 (R74, R215; log entry 1 for the management core). -/
def Ctx.zero : Ctx where
  phase := .running
  pc := 0
  sreg := Vector.replicate 32 0
  vreg := Vector.replicate 32 0
  kreg := Vector.replicate 8 0
  vl := 0
  vtype := 0
  vbeg := 0
  rngkey := 0
  rngctr := 0
  cnum := 0
  citer := 0
  pos := 0
  inline := none
  joinDue := none
  broke := false
  claim := 0
  dirty := 0
  shape := 0
  acc := []
  slot := []
  accPoison := Vector.replicate 8 0
  slotPoison := Vector.replicate 16 0
  vers := []
  poisonLines := []
  cleanLines := []
  partials := []
  held := none
  await := 0
  starts := []
  confirmed := true
  posts := []
  seen := []
  sprio := none
  seq := 0
  replies := []
  pipe := none
  owed := .nothing

/-- Trap registers at strand entry (R391, R392). -/
def TrapRegs.zero : TrapRegs where
  status := 0
  tvec := 0
  tcause := 0
  tpc := 0
  tval := 0
  telem := 0
  tstride := 0
  tremain := 0
  tscratch := 0

/-- A strand with every field as at strand entry (R74), on no place. -/
def Strand.zero : Strand where
  place := .saved
  phase := .running
  id := 0
  n := 0
  vf := 0
  prio := 0
  runPrio := 0
  trap := TrapRegs.zero
  ptroot := 0
  asid := 0
  pmcfg := Vector.replicate 4 0
  ovfPend := 0
  ccount := 0
  fsite := 0
  fsquash := 0
  active := false
  serial := false
  nopred := false
  broke := false
  regions := Vector.replicate 4 none
  fork := none
  pred := []
  tables := Vector.replicate 8 0
  inbox := []
  overflow := []
  ovHead := 0
  lost := 0
  retry := []
  tokens := Vector.replicate 8 0
  vqueue := []
  mqueue := []
  equeue := []
  qcount := 0
  sbuf := []
  vbuf := []
  stores := 0
  failedStores := []
  fatal := none
  fatalEp := 0
  fatalWin := 0
  wait := none
  saveSlot := none
  startedAt := 0
  resumeNext := false

/-- The management core after reset: machine level always, so lvl and plvl are 3 (R438). -/
def Strand.management : Strand :=
  { Strand.zero with place := .management, trap := { TrapRegs.zero with status := 0xF } }

/-- The command processor after reset (R63, R390, R70). -/
def Cp.reset : Cp where
  vfcfg := Vector.replicate 32 1
  plstat := Vector.replicate 32 0
  parta := Vector.replicate 32 0
  proot := Vector.replicate 32 0
  evtgt := Vector.replicate 32 0
  ptvec := Vector.replicate 32 0
  phys := Vector.replicate 32 0
  quant := 2000
  svbase := 0
  svcnt := 0
  wsw := 0
  susp := 0
  switch := .idle
  launches := []
  handleCount := 0
  deficit := []
  lastServed := Vector.replicate 4 31
  diePtr := 8
  groups := []
  masters := Vector.replicate 64 .free
  hubOut := []
  remoteIn := []
  bankCtr := Vector.replicate 128 0
  bankFrozen := 0

/-- Fabric registers after reset (R354, R355): fxtmo 1,000; fxclcfg allow 64, vote 2,000, doubt 2,000; ports down. -/
def Fab.reset : Fab where
  fxep := 0
  fxtmo := 1000
  fxclcfg := 64 * 2 ^ 32 + 2000 * 2 ^ 16 + 2000
  fxacl := Vector.replicate 16 0
  wina := Vector.replicate 64 0
  winb := Vector.replicate 64 0
  winc := Vector.replicate 64 0
  lanes := Vector.replicate 32 0
  sent := Vector.replicate 32 0
  rcvd := Vector.replicate 32 0
  nextId := 0
  reqs := []
  unreachable := []
  out := []

/-- The mailbox after reset (R382, R445). -/
def Mailbox.reset : Mailbox where
  mbstat := 0
  fw := Vector.replicate 4 0
  fa := Vector.replicate 4 0
  hdmcfg := 0
  tlbase := 0
  evtail := 0
  evhead := 0
  events := Vector.replicate 32 0
  shelves := Vector.replicate 16 (0, 0)
  nonce := 0
  atstat := 0
  report := 0

/-- Management registers after reset (R439). -/
def Mgmt.reset : Mgmt where
  sel := 0
  sensors := Vector.replicate 96 { temp := 0, rel := 0x0640, alrt := 0x0690, alert := false, since := 0 }
  thr := 0
  energy := 0
  cpw := 0
  modw := 0
  tail := 0
  trip := 0x07D0
  tripped := 0
  irqs := []
  halted := false

/-- The die fabric after reset: every count 0, nothing in flight (R331, R348). -/
def Net.reset : Net where
  clock := []
  changed := []
  acks := []
  unacked := []
  stalled := []
  transit := []
  early := []
  full := []
  reads := []
  retired := []

/-- The module right after reset: the boot ROM has control, no strand exists, the focus is the management core. -/
def State.reset : State where
  x := Ctx.zero
  st := Strand.management
  parked := []
  mem := []
  poison := []
  lostRanges := []
  rewritten := []
  sram := []
  tlb := []
  classes := []
  contention := []
  lastFar := []
  waiters := []
  scatter := []
  roCopies := []
  cp := Cp.reset
  fab := Fab.reset
  clo := { mine := [], here := [] }
  net := Net.reset
  cache := { vcaches := [], fenced := [], sysDegraded := false, lines := [], uses := 0, dir := [], backInv := [], hostHeld := [] }
  eng := Vector.replicate 16 { cmds := [], frozen := false, retired := false }
  gwq := Vector.replicate 16 { cfg := 0, queue := [], waiting := [], bytes := [] }
  mbx := Mailbox.reset
  mg := Mgmt.reset
  boot := .rom
  flash := none
  shelves := Vector.replicate 16 none
  poolUp := false
  time := 0
  undef := 0
  inputs := []
  retired := false
  stopped := false

end Sys2Proof.Machine
end

