-- ==== Sys2Proof/Machine/Mem.lean ====
section
/-! DEFINITION. Named operations on memory: the canonical list of cells, the physical map (17 R380), poison marks (17 R387),
squash (05 R112, R113), and performing a store. -/

namespace Sys2Proof.Machine

/-! ## Vectors and bit fields -/

/-- Element `i` of a vector; `d` outside it, and no caller goes outside it. -/
def vget {α : Type} {n : Nat} (v : Vector α n) (d : α) (i : Nat) : α := v.toArray.getD i d

def vset {α : Type} {n : Nat} (v : Vector α n) (i : Nat) (a : α) : Vector α n := v.setIfInBounds i a

/-- x[lo + n − 1 : lo] (R4) of a natural. -/
def nbits (x lo n : Nat) : Nat := x / 2 ^ lo % 2 ^ n

/-- x[lo + n − 1 : lo] of a word, as a natural. -/
def bits (x : Word) (lo n : Nat) : Nat := nbits x.toNat lo n

def bit (x : Word) (i : Nat) : Bool := x.getLsbD i

/-- x with bits [lo + n − 1 : lo] replaced by the low n bits of v. -/
def putBits (x : Word) (lo n : Nat) (v : Nat) : Word :=
  let m : Word := BitVec.ofNat 64 ((2 ^ n - 1) * 2 ^ lo)
  (x &&& ~~~m) ||| BitVec.ofNat 64 (v % 2 ^ n * 2 ^ lo)

/-! ## The list of cells -/

/-- The byte an address holds when the list has no entry for it: zero in HBM (R446 step 3), the free value in host and pool
memory. (DESIGN CHOICE, log entry 5.) -/
def unlisted (pa : Nat) : Byte := if pa < 0xC000000000 then 0 else Config.foreignByte pa

namespace Memory

/-- The byte at an address. -/
def read (m : List Host.Cell) (dflt : Nat → Byte) (a : Nat) : Byte :=
  match m with
  | [] => dflt a
  | c :: cs => if c.1 = a then c.2 else read cs dflt a

/-- Write one byte, keeping addresses rising and dropping an entry equal to what an unlisted address reads as. -/
def write (m : List Host.Cell) (dflt : Nat → Byte) (a : Nat) (b : Byte) : List Host.Cell :=
  match m with
  | [] => if b = dflt a then [] else [(a, b)]
  | c :: cs =>
    if c.1 < a then c :: write cs dflt a b
    else if c.1 = a then (if b = dflt a then cs else (a, b) :: cs)
    else if b = dflt a then c :: cs else (a, b) :: c :: cs

/-- The canonical form: addresses strictly rising, no entry equal to the unlisted value. -/
def wf (dflt : Nat → Byte) : List Host.Cell → Bool
  | [] => true
  | [c] => decide (c.2 ≠ dflt c.1)
  | c :: d :: cs => decide (c.2 ≠ dflt c.1) && decide (c.1 < d.1) && wf dflt (d :: cs)

def writeBytes (m : List Host.Cell) (dflt : Nat → Byte) (a : Nat) : List Byte → List Host.Cell
  | [] => m
  | b :: bs => writeBytes (write m dflt a b) dflt (a + 1) bs

def readBytes (m : List Host.Cell) (dflt : Nat → Byte) (a n : Nat) : List Byte :=
  (List.range n).map (fun i => read m dflt (a + i))

end Memory

/-- Bytes, least significant first, as a natural (R4). -/
def leNat : List Byte → Nat
  | [] => 0
  | b :: bs => b.toNat + 256 * leNat bs

/-- A natural as n bytes, least significant first (R4). -/
def leBytes : Nat → Nat → List Byte
  | 0, _ => []
  | n + 1, x => BitVec.ofNat 8 x :: leBytes n (x / 256)

/-! ## The physical map (R380) -/

def isHbm (pa : Nat) : Bool := pa < 0xC000000000
def isHostMem (pa : Nat) : Bool := 0x100000000000 ≤ pa && pa < 0x200000000000
def isPool (pa : Nat) : Bool := 0x8000000000000 ≤ pa && pa < 0x10000000000000

/-- Byte `pa` of physical memory. -/
def State.memByte (s : State) (pa : Nat) : Byte := Memory.read s.mem unlisted pa

def State.memBytes (s : State) (pa n : Nat) : List Byte := Memory.readBytes s.mem unlisted pa n

def State.mem64 (s : State) (pa : Nat) : Word := BitVec.ofNat 64 (leNat (s.memBytes pa 8))

/-- Write bytes of physical memory, with no other effect. -/
def State.pokeBytes (s : State) (pa : Nat) (bs : List Byte) : State :=
  { s with mem := Memory.writeBytes s.mem unlisted pa bs }

/-! ## Poison marks: one per 64-byte line, in rising order -/

def insertNat (a : Nat) : List Nat → List Nat
  | [] => [a]
  | b :: bs => if a < b then a :: b :: bs else if a = b then b :: bs else b :: insertNat a bs

/-- The byte lies in the range of a shelf that has been lost, on a line not written whole since (R388). -/
def State.lostByte (s : State) (pa : Nat) : Bool :=
  s.lostRanges.any (fun r => decide (r.1 ≤ pa) && decide (pa < r.1 + r.2)) && !s.rewritten.contains (pa / 64)

/-- The byte reads as poison: its line is marked, its shelf is lost, or its store die has been retired (R347).
(DEDUCED, log entry 61.) -/
def State.poisoned (s : State) (pa : Nat) : Bool :=
  s.poison.contains (pa / 64) || s.lostByte pa ||
    (isHbm pa && s.net.retired.any (fun r => r.1 == 9 + pa / 4096 % 12 / 3))

def State.markPoison (s : State) (line : Nat) : State := { s with poison := insertNat line s.poison }

/-- A line leaves P: it has been written whole. -/
def State.clearPoison (s : State) (line : Nat) : State :=
  let s := { s with poison := s.poison.filter (· != line) }
  if s.lostByte (line * 64) then { s with rewritten := insertNat line s.rewritten } else s

/-! ## Chunks: who is head (R99, R114) -/

/-- The chunk context is the head of the strand's fork, or no fork runs. -/
def headOf (x : Ctx) (st : Strand) : Bool :=
  match st.fork with
  | none => true
  | some f => decide (f.nchunks ≤ f.committed) || (decide (x.cnum.toNat = f.committed) && !f.passing)

/-- The focus is a speculative chunk. -/
def State.spec (s : State) : Bool := !headOf s.x s.st

/-! ## Squash (R113) -/

/-- A chunk context that runs nothing, at the place of a discarded or committed one. -/
def idleCtx (pos : BitVec 3) : Ctx := { Ctx.zero with phase := .idle, pos := pos }

def bumpCount (k : Nat) : List (Nat × Nat) → List (Nat × Nat)
  | [] => [(k, 1)]
  | p :: ps => if p.1 = k then (k, p.2 + 1) :: ps else p :: bumpCount k ps

/-- Add k to the counters of a strand that count event `ev`, at user level or above (R430 to R432). -/
def Strand.countBy (st : Strand) (ev k : Nat) (user : Bool) : Strand :=
  if st.place = .management then st
  else (List.range 4).foldl (fun st j =>
    let w := vget st.pmcfg 0 j
    if bit w 63 && bits w 48 8 == ev && (user || !bit w 60) && k != 0 then
      let c := bits w 0 48 + k
      let w := putBits w 0 48 c
      if c < 2 ^ 48 then { st with pmcfg := vset st.pmcfg j w }
      else
        let st := { st with pmcfg := vset st.pmcfg j (putBits w 62 1 1) }
        if bit w 61 then
          { st with
            ovfPend := st.ovfPend ||| (1#4 <<< j)
            trap := { st.trap with status := putBits st.trap.status 11 1 1 } }
        else st
    else st) st

/-- Discard every chunk of the fork from `k` on: contexts, announcements, chain values and posts of the discarded. The
count is charged unless the discard is one of pre-emption or FBREAK (R126, R133). -/
def discardFrom (k : Nat) (charge : Bool) (r : Runner) : Runner :=
  match r.st.fork with
  | none => r
  | some f =>
    let live := (r.x :: f.chunks).filter (fun c => c.phase != .idle)
    let gone := live.filter (fun c => k ≤ c.cnum.toNat)
    let counts := if charge then gone.foldl (fun l c => bumpCount c.cnum.toNat l) f.squashCount else f.squashCount
    let f' := { f with
      chunks := f.chunks.filter (fun c => decide (c.cnum.toNat < k) || c.phase == .idle)
      next := min f.next k
      anns := f.anns.filter (fun a => a.cnum < k)
      chain := f.chain.filter (fun m => m.dst ≤ k)
      arrived := f.arrived.filter (fun m => m.dst ≤ k)
      confirms := f.confirms.filter (· ≤ k)
      posts := f.posts.filter (fun p => p.cnum < k)
      breaking := match f.breaking with | some b => if k ≤ b then none else some b | none => none
      squashCount := counts }
    let x' := if decide (k ≤ r.x.cnum.toNat) && r.x.phase != .idle then { idleCtx r.x.pos with cnum := r.x.cnum } else r.x
    let serial := r.st.serial || (charge && counts.any (fun p => p.2 ≥ 4))
    let st := if charge then r.st.countBy 0x07 1 (bits r.st.trap.status 0 2 == 0) else r.st
    { x := x'
      st := { st with
        fork := some f', serial := serial
        fsquash := if charge then (if r.st.fsquash = 0xFFFFFFFF#32 then r.st.fsquash else r.st.fsquash + 1)
          else r.st.fsquash } }

/-- squash(from_cnum): never applied to the head; nothing happens when no chunk from there on is in flight (R113). -/
def squashFrom (k : Nat) (r : Runner) : Runner :=
  match r.st.fork with
  | none => r
  | some f =>
    if k ≤ f.committed ∧ !f.passing then r
    else if ((r.x :: f.chunks).any (fun c => c.phase != .idle && decide (k ≤ c.cnum.toNat))) then discardFrom k true r
    else r

def State.squash (s : State) (k : Nat) : State :=
  let r := squashFrom k { x := s.x, st := s.st }
  { s with x := r.x, st := r.st }

/-! ## External writes and speculative reads (R112) -/

def exposes (line : Nat) (c : Ctx) : Bool := c.vers.any (fun v => v.exposed && v.word / 8 == line)

/-- The oldest speculative chunk of a strand that has an exposed read in the line. -/
def oldestExposed (line : Nat) (r : Runner) : Option Nat :=
  match r.st.fork with
  | none => none
  | some f =>
    ((r.x :: f.chunks).filter (fun c => c.phase != .idle && !headOf c r.st && exposes line c)).foldl
      (fun acc c => match acc with
        | none => some c.cnum.toNat
        | some k => some (min k c.cnum.toNat)) none

/-- An agent other than the strand itself writes the line: its oldest speculative reader is squashed (R112). -/
def externalWrite (line : Nat) (r : Runner) : Runner :=
  match oldestExposed line r with
  | none => r
  | some k => squashFrom k r

/-- External write by an agent that is no strand, or by the focus strand (`own`: leave the focus strand out). -/
def State.writeSeen (s : State) (own : Bool) (line : Nat) : State :=
  let parked := s.parked.map (externalWrite line)
  if own then { s with parked := parked }
  else
    let r := externalWrite line { x := s.x, st := s.st }
    { s with x := r.x, st := r.st, parked := parked }

/-! ## Barrier waiters released by plain stores (R303) -/

/-- Deliver a status and phase to a waiting strand. -/
def releaseWait (status : BitVec 8) (phase : BitVec 32) (st : Strand) : Strand :=
  match st.wait with
  | some w => if w.delivered.isNone then { st with wait := some { w with delivered := some (status, phase) } } else st
  | none => st

def State.mapStrand (s : State) (id : StrandId) (f : Strand → Strand) : State :=
  if s.st.id = id ∧ s.st.place ≠ .management then { s with st := f s.st }
  else { s with parked := s.parked.map (fun r =>
    if r.st.id = id ∧ r.st.place ≠ .management then { r with st := f r.st } else r) }

/-- Release the waiters of the record at `pa` that `sel` picks: a BARRW waiter's result phase is the one its arrival joined,
a BWAIT waiter's the record's phase at release (R303). -/
def State.releaseAt (s : State) (pa : Nat) (sel : Waiter → Bool) (status : BitVec 8) (recPhase : BitVec 32) : State :=
  let out := s.waiters.filter (fun w => w.pa == pa && sel w)
  let s := { s with waiters := s.waiters.filter (fun w => !(w.pa == pa && sel w)) }
  out.foldl (fun s w => s.mapStrand w.id (releaseWait status (if w.joined then w.phase else recPhase))) s

/-- The phase field of the barrier record at `pa` (R300). -/
def State.recPhase (s : State) (pa : Nat) : BitVec 32 := BitVec.ofNat 32 (leNat (s.memBytes (pa + 8) 4))

/-- A plain store has touched the line: every waiter of a record there is released as disturbed. -/
def State.disturb (s : State) (line : Nat) : State :=
  if s.waiters.any (fun w => w.pa == line * 64) then s.releaseAt (line * 64) (fun _ => true) 2 (s.recPhase (line * 64))
  else s

/-! ## Performing a store -/

/-- The lines an access of `n` bytes at `pa` touches. -/
def linesOf (pa n : Nat) : List Nat :=
  if n = 0 then [] else (List.range ((pa + n - 1) / 64 - pa / 64 + 1)).map (fun i => pa / 64 + i)

/-- A store of the focus strand (`own`) or of another agent is performed in memory: the bytes change, waiting barriers are
disturbed (R303), other strands' speculative readers are squashed (R112). -/
def State.perform (s : State) (own : Bool) (pa : Nat) (bs : List Byte) : State :=
  let s := s.pokeBytes pa bs
  (linesOf pa bs.length).foldl (fun s l => (s.writeSeen own l).disturb l) s

/-- A write by an agent that never traps on poison (R387): a line it covers whole leaves P; a partial write leaves it. -/
def State.performWhole (s : State) (pa : Nat) (bs : List Byte) : State :=
  let covered := (linesOf pa bs.length).filter (fun l => decide (pa ≤ l * 64) && decide (l * 64 + 64 ≤ pa + bs.length))
  let s := covered.foldl (fun s l => s.clearPoison l) s
  s.perform false pa bs

end Sys2Proof.Machine
end

