-- ==== Sys2Proof/Machine/Hub.lean ====
section
/-! DEFINITION. The hub: the event log and the mailbox (25 R444, 17 R382), hub messages to supervisors (14 R312, R447, 18 R406), and
the bank counters (24 R435, R436). -/

namespace Sys2Proof.Machine

/-! ## Dies -/

/-- Die of a ring or gateway core (R11, R13). -/
def dieOfMaster (m : Nat) : Nat := if m < 48 then 1 + m / 6 else 0

def Place.master? : Place → Option Nat
  | .ring r => some r
  | .gateway g => some (48 + g)
  | .management => none
  | .saved => none

/-! ## Strands by name and place -/

def State.strands (s : State) : List Strand := s.st :: s.parked.map (·.st)

def State.strand? (s : State) (p : Strand → Bool) : Option Strand := s.strands.find? p

def isStrandOf (id : StrandId) (st : Strand) : Bool := st.id == id && st.place != .management

def State.strandById (s : State) (id : StrandId) : Option Strand := s.strand? (isStrandOf id)

def idHandle (id : StrandId) : BitVec 32 := (id >>> 32).setWidth 32
def idIndex (id : StrandId) : Nat := (id.setWidth 32).toNat
def mkId (h : BitVec 32) (i : Nat) : StrandId := h ++ BitVec.ofNat 32 i

def State.launch? (s : State) (h : BitVec 32) : Option Launch := s.cp.launches.find? (fun l => l.handle == h)

def State.setLaunch (s : State) (l : Launch) : State :=
  { s with cp := { s.cp with launches := s.cp.launches.map (fun m => if m.handle = l.handle then l else m) } }

/-- The die on which a strand runs; the hub for one that is on no core. -/
def State.dieOfStrand (s : State) (id : StrandId) : Nat :=
  match (s.strandById id).bind (·.place.master?) with | some m => dieOfMaster m | none => 0

/-- A fresh free value of width w (R5). -/
def State.free (s : State) (key w : Nat) : State × BitVec w := ({ s with undef := s.undef + 1 }, Config.freeBits s.undef key w)

/-! ## Event log and mailbox -/

/-- Write one entry of the event log (R444). -/
def State.logEntry (s : State) (v : Word) : State :=
  let c := s.mg.tail.toNat
  let a := 0x3E000 + c % 512 * 16
  let sram := Memory.writeBytes s.sram (fun _ => 0) a (leBytes 8 s.time ++ leBytes 8 v.toNat)
  { s with sram := sram, mg := { s.mg with tail := s.mg.tail + 1 } }

/-- A device record: die and cause are placed as R444 says; the source code and the detail, of which the spec gives no
values, are free (DESIGN CHOICE, log entry 7). -/
def State.log (s : State) (die cause : Nat) : State :=
  let (s, v) := s.free 1 64
  s.logEntry (putBits (putBits (putBits v 63 1 0) 8 4 die) 0 8 cause)

/-- A device record whose detail, bits [62:15], the rule names; the source code is free (DESIGN CHOICE, log entry 7). -/
def State.logWith (s : State) (die cause detail : Nat) : State :=
  let (s, v) := s.free 1 3
  s.logEntry (BitVec.ofNat 64 (detail % 2 ^ 48 * 2 ^ 15 + v.toNat * 2 ^ 12 + die % 16 * 2 ^ 8 + cause % 256))

/-- Fields of a little-endian record: offset, length in bytes, value. -/
def record (fs : List (Nat × Nat × Nat)) : Nat :=
  fs.foldl (fun acc f => acc + f.2.2 % 256 ^ f.2.1 * 256 ^ f.1) 0

/-- Write an event record to the mailbox (R382). -/
def State.mailEvent (s : State) (r : Nat) : State :=
  let c := s.mbx.evtail.toNat
  let lost := decide (32 ≤ (s.mbx.evtail - s.mbx.evhead).toNat)
  let s := { s with mbx := { s.mbx with
    events := vset s.mbx.events (c % 32) (BitVec.ofNat 512 r), evtail := s.mbx.evtail + 1 } }
  if lost then s.log 0 0 else s

/-! ## Message targets and hub messages (R312, R447) -/

/-- The strand on a ring (0–47) or gateway core (48 + g). -/
def State.occupant (s : State) (m : Nat) : Option Strand := s.strand? (fun st => st.place.master? == some m)

/-- Bind a target for a sender of the given launch: 1 invalid, 2 no strand. -/
def State.bindTarget (s : State) (launch : Option (BitVec 32)) (t : BitVec 32) : Except Nat Receiver :=
  let v := t.toNat
  let core := v % 512
  match v / 2 ^ 30 with
  | 0 =>
    if nbits v 24 6 ≠ 0 then .error 1
    else match launch.bind (fun h => s.launch? h) with
      | none => .error 1
      | some l =>
        if v % 2 ^ 24 ≥ l.nring + l.ngate then .error 1
        else match s.strandById (mkId l.handle (v % 2 ^ 24)) with
          | some st => .ok (.strand st.id)
          | none => .error 2
  | 1 =>
    if nbits v 9 21 ≠ 0 ∨ core > 399 then .error 1
    else match s.occupant (if core < 384 then core / 8 else 48 + (core - 384)) with
      | some st => .ok (.strand st.id)
      | none => .error 2
  | 2 =>
    if nbits v 29 1 ≠ 0 ∨ nbits v 9 10 ≠ 0 ∨ core > 399 then .error 1
    else .ok (.remote (BitVec.ofNat 10 (nbits v 19 10)) (BitVec.ofNat 9 core))
  | _ => .error 1

/-- The port that a request takes: one of those that are up, by the hash of endpoint and address (R351). -/
def Fab.portFor (f : Fab) (ep : Nat) (addr : Word) : Option Nat :=
  let up := (List.range 32).filter (fun p => vget f.lanes 0 p != 0)
  up[Config.portHash ep (addr.toNat / 64 % 2 ^ 46) % up.length]?

/-- Put a request or message on the package fabric (R350, R353), through its port; its flits are a free number (R435). With no port up
nothing leaves, and the request goes unanswered. -/
def State.fabOut (s : State) (ep : Nat) (addr : Word) (payload : List Byte) : State :=
  if !bit s.fab.fxep 16 then s
  else match s.fab.portFor ep addr with
    | none => s
    | some p =>
      let (s, n) := s.free 3 12
      { s with fab := { s.fab with
        out := { ep := BitVec.ofNat 10 ep, addr := addr, payload := payload } :: s.fab.out
        sent := vset s.fab.sent p (vget s.fab.sent 0 p + n.setWidth 48) } }

/-- Addresses of the vector-request, message and Closure ports (R353). -/
def portVector : Word := 0x4000000000000000
def portMessage : Word := 0x8000000000000000
def portClosure : Word := 0xC000000000000000

/-- Send a hub message (R447): queued for HUB_MESSAGE_DELIVERY, or sent over the fabric to a remote package. -/
def State.hubSend (s : State) (rcv : Except Nat Receiver) (m : Msg) : State :=
  match rcv with
  | .error _ => s.log 0 0
  | .ok (.strand id) => { s with cp := { s.cp with hubOut := s.cp.hubOut ++ [{ rcv := some id, msg := m }] } }
  | .ok (.remote ep _) => s.fabOut ep.toNat portMessage (leBytes 64 m.payload.toNat)

/-- Sender word of a hub event or of the command processor (R317). -/
def hubSender (cls : Nat) : Word := BitVec.ofNat 64 (cls * 2 ^ 60 + 0xFFFFFFFF)

/-- A class-4 message to the supervisor event strand of function v (R390, R406). -/
def State.tellSupervisor (s : State) (v : Nat) (r : Nat) : State :=
  let t := vget s.cp.evtgt 0 v
  if !bit t 32 then s
  else s.hubSend (s.bindTarget none (t.setWidth 32)) { payload := BitVec.ofNat 512 r, sender := hubSender 4 }

/-- The event record of R406. -/
def eventRecord (kind master : Nat) (id : StrandId) (r : TrapRec) (extra win : Nat) : Nat :=
  record [(0, 2, kind), (2, 1, master), (3, 1, r.cause.toNat), (4, 1, r.akind.toNat), (8, 8, id.toNat), (16, 8, r.pc.toNat),
    (24, 8, r.tval.toNat), (32, 4, r.telem.toNat), (36, 4, r.tremain.toNat), (40, 2, extra), (42, 1, win)]

/-- Send a containment event to the supervisor of v and to the mailbox (R406). -/
def State.sendEvent (s : State) (v r : Nat) : State := (s.tellSupervisor v r).mailEvent r

/-! ## Bank counters (R435, R436) -/

def State.vcache? (s : State) (id : Nat) : Option Vcache := s.cache.vcaches.find? (fun v => v.id == id)

/-- The plat that governs new accesses: the current one, or while a deletion drains the draining one. -/
def Vcache.plat? (v : Vcache) : Option Plat := match v.current with | some p => some p | none => v.draining

/-- The function to which a bank event is attributed: the owner of the line's vcache, else the requesting agent's. -/
def State.bankFunction (s : State) (vc : Nat) (req : Option Nat) : Option Nat :=
  match (s.vcache? vc).bind Vcache.plat? with
  | some p => if p.owner < 32 then some p.owner else req
  | none => req

/-- The function of the focus as a requesting agent; the management core has none. -/
def State.ownFunction (s : State) : Option Nat := if s.st.place = .management then none else some s.st.vf.toNat

/-- Counter k of function v counts n events: a wrap sets ovf, and with oie sends the event of kind 8. -/
def State.bankAdd (s : State) (v k n : Nat) : State :=
  let w := vget s.cp.bankCtr 0 (v * 4 + k)
  let c := bits w 0 48 + n
  let put (w : Word) : State := { s with cp := { s.cp with bankCtr := vset s.cp.bankCtr (v * 4 + k) (putBits w 0 48 c) } }
  if c < 2 ^ 48 then put w
  else if bit w 61 then (put (putBits w 62 1 1)).tellSupervisor v (record [(0, 2, 8), (2, 1, k)])
  else put (putBits w 62 1 1)

/-- Counter k of function v counts: it is enabled, and not frozen by a world switch. -/
def State.bankCounts (s : State) (v k : Nat) : Bool := bit (vget s.cp.bankCtr 0 (v * 4 + k)) 63 && !s.cp.bankFrozen.getLsbD v

/-- A bank event of a line of vcache `vc`, for the requesting function: 1 a hit, 2 a miss, 3 a far atomic, 4 a merge combine, 5 a
scatter-add chain, 6 a write-back. (DESIGN CHOICE, log entry 118.) -/
def State.countBank (s : State) (ev vc : Nat) (req : Option Nat) : State :=
  match s.bankFunction vc req with
  | none => s
  | some v => (List.range 4).foldl (fun s k =>
      if s.bankCounts v k && bits (vget s.cp.bankCtr 0 (v * 4 + k)) 48 8 == ev then s.bankAdd v k 1 else s) s

/-- The bank events of which the model does not name the requester, and which count on the word of an input. -/
def outsideEvent (ev : Nat) : Bool := ev == 1 || ev == 2 || ev == 3 || ev == 6

/-- Counter k of function v counts n events of that kind. -/
def State.bankInput (s : State) (v k n : Nat) : State :=
  if s.bankCounts v k && outsideEvent (bits (vget s.cp.bankCtr 0 (v * 4 + k)) 48 8) then s.bankAdd v k n else s

end Sys2Proof.Machine
end

