-- ==== Sys2Proof/Machine/Net.lean ====
section
/-! DEFINITION. Sending a counted packet of the die fabric: the matrix clock (15 R331), stamps as they are laid out (R332, R333,
R335), the clock window (R338) and the merging of reads at the hub (R341). -/

namespace Sys2Proof.Machine

/-- cmax of R331: the later of two counts. -/
def covers (a c : BitVec 12) : Bool := (a - c).toNat < 2048
def cmax (a c : BitVec 12) : BitVec 12 := if covers a c then a else c

def lookupD {α : Type} (d : α) (k : Nat) : List (Nat × α) → α
  | [] => d
  | p :: ps => if p.1 = k then p.2 else lookupD d k ps

def update {α : Type} (k : Nat) (v : α) : List (Nat × α) → List (Nat × α)
  | [] => [(k, v)]
  | p :: ps => if p.1 = k then (k, v) :: ps else p :: update k v ps

/-- Key of clock entry [j][e] of die x, and of stream (s, d). -/
def clkKey (x j e : Nat) : Nat := (x * 16 + j) * 16 + e
def strKey (src dst : Nat) : Nat := src * 16 + dst

def Net.count (n : Net) (x j e : Nat) : BitVec 12 := lookupD 0 (clkKey x j e) n.clock

/-- Set an entry of die x's clock and mark it changed for every stream x sends on (R335). -/
def Net.setCount (n : Net) (x j e : Nat) (c : BitVec 12) : Net :=
  if n.count x j e = c then n
  else { n with
    clock := update (clkKey x j e) c n.clock
    changed := (List.range 13).foldl (fun l d => insertNat (strKey x d * 256 + (j * 16 + e)) l) n.changed }

/-! ## Stamps (R332, R333, R335) -/

/-- An entry in 20 bits: row, column, count. -/
def entryCode (e : StampEntry) : Nat := (e.row.toNat * 16 + e.col.toNat) * 4096 + e.count.toNat

def entryOf (v : Nat) : StampEntry :=
  { row := BitVec.ofNat 4 (v / 65536), col := BitVec.ofNat 4 (v / 4096), count := BitVec.ofNat 12 v }

/-- Entries laid out from bit 0 up, 20 bits each. -/
def layEntries (es : List StampEntry) : Nat := es.foldr (fun e acc => entryCode e + 2 ^ 20 * acc) 0

/-- The entries of a field: the first n of those that stand from bit 0 up. -/
def readEntries (v n : Nat) : List StampEntry := (List.range n).map (fun i => entryOf (nbits v (20 * i) 20))

/-- Entries of a sender's clock other than [s][d] changed since it last sent to d, by row and column (R335). -/
def Net.stampEntries (n : Net) (src dst : Nat) : List StampEntry :=
  (n.changed.filter (fun k => k / 256 == strKey src dst && k % 256 != src * 16 + dst)).map (fun k =>
    { row := BitVec.ofNat 4 (k % 256 / 16), col := BitVec.ofNat 4 (k % 16),
      count := n.count src (k % 256 / 16) (k % 16) })

def chunksOf12 : Nat → List StampEntry → List (List StampEntry)
  | 0, _ => []
  | _, [] => []
  | k + 1, l => l.take 12 :: chunksOf12 k (l.drop 12)

/-- An extension flit: how many follow it, and its entries (R333). -/
def layFlit (more : Nat) (es : List StampEntry) : BitVec 256 :=
  BitVec.ofNat 256 (more * 2 ^ 244 + es.length * 2 ^ 240 + layEntries es)

/-- Lay entries out in the stamp field and extension flits (R332, R333). -/
def layStamp (ack : BitVec 12) (es : List StampEntry) : Stamp :=
  let rest := chunksOf12 13 (es.drop 4)
  let here := es.take 4
  { field := BitVec.ofNat 100 (rest.length * 2 ^ 96 + here.length * 2 ^ 92 + ack.toNat * 2 ^ 80 + layEntries here)
    flits := (List.range rest.length).map (fun i => layFlit (rest.length - 1 - i) (rest.getD i [])) }

def stampExt (p : Stamp) : Nat := nbits p.field.toNat 96 4
def stampN (p : Stamp) : Nat := nbits p.field.toNat 92 4
def stampAck (p : Stamp) : BitVec 12 := BitVec.ofNat 12 (nbits p.field.toNat 80 12)
def flitMore (f : BitVec 256) : Nat := nbits f.toNat 244 4
def flitCount (f : BitVec 256) : Nat := nbits f.toNat 240 4
def flitEntries (f : BitVec 256) : List StampEntry := readEntries f.toNat (flitCount f)

def allEntries (p : Stamp) : List StampEntry := readEntries p.field.toNat (stampN p) ++ p.flits.flatMap flitEntries

/-! ## Read merging (R341) -/

/-- The expanded stamp of the stream (s, h): what s knows of the packets to h. A request's own place in its stream is not among its
causes (DEDUCED, log entry 110). -/
def Net.expanded (n : Net) (src home : Nat) : List (BitVec 12) := (List.range 13).map (fun j => n.count src j home)

/-- The first read of a line still out at the hub that one from `src` may be merged with. -/
def Net.twinRead (n : Net) (src home line : Nat) : Option HubRead :=
  n.reads.find? (fun r => r.line == line && r.home == home && r.src != src && r.stamp == n.expanded src home)

/-- The request of an outstanding read is still on its way to its home. -/
def Mail.asks (m : Mail) (line : Nat) : Bool := m.read == some line && !m.follow.isEmpty

/-- The reply to a merged read: a copy in the requester's own stream. -/
def copyTo (src line : Nat) : Onward := { dst := src, cls := .reply, answers := some line }

/-- Add a copy of its reply to a request on its way, in transit or held at its home. -/
def Net.joinRead (n : Net) (r : HubRead) (src : Nat) : Net :=
  let add (p : Packet) : Packet := { p with mail := { p.mail with follow := p.mail.follow ++ [copyTo src r.line] } }
  { n with
    transit := n.transit.map (fun t => if t.1 = strKey r.src r.home && t.2.mail.asks r.line then (t.1, add t.2) else t)
    early := n.early.map (fun h => if h.die = r.home ∧ h.src = r.src ∧ h.packet.mail.asks r.line then { h with packet := add h.packet }
      else h) }

def Net.readOnWay (n : Net) (r : HubRead) : Bool :=
  n.transit.any (fun t => t.1 == strKey r.src r.home && t.2.mail.asks r.line) ||
    n.early.any (fun h => h.die == r.home && h.src == r.src && h.packet.mail.asks r.line)

/-! ## Class queues (R330) -/

def classCode : MsgClass → Nat
  | .request => 0
  | .reply => 1
  | .probe => 2
  | .writeback => 3

/-- Key of the queue of a die for a class. -/
def queueKey (die : Nat) (c : MsgClass) : Nat := die * 4 + classCode c

/-! ## Sending (R331) -/

/-- A retired die takes no part (R346). -/
def Net.gone (n : Net) (src dst : Nat) : Bool := n.retired.any (fun r => r.1 == src || r.1 == dst)

/-- The clock window of a stream is open (R338). -/
def Net.windowOpen (n : Net) (src dst : Nat) : Bool :=
  src == dst || decide ((n.count src src dst - lookupD 0 (strKey src dst) n.acks).toNat < 1536)

/-- A counted packet is stamped and enters its stream. -/
def Net.stamp (n : Net) (src dst : Nat) (m : Mail) : Net :=
  let n := n.setCount src src dst (n.count src src dst + 1)
  let p : Packet := { mail := m, stamp := layStamp (n.count src dst src) (n.stampEntries src dst) }
  { n with
    changed := n.changed.filter (fun k => k / 256 != strKey src dst)
    unacked := n.unacked.filter (fun q => q.1 != strKey src dst)
    transit := n.transit ++ [(strKey src dst, p)] }

/-- Send a packet, which waits at its die while the window of its stream is closed. -/
def Net.post (n : Net) (src dst : Nat) (m : Mail) : Net :=
  if n.gone src dst then n
  else if n.windowOpen src dst && !n.stalled.any (fun q => q.1 == strKey src dst) then n.stamp src dst m
  else { n with stalled := n.stalled ++ [(strKey src dst, m)] }

/-- Send a read request: merged with an equal one that is out, its packet asks for no reply of its own (R341). -/
def Net.postRead (n : Net) (src dst line : Nat) (m : Mail) : Net :=
  if n.gone src dst then n
  else match n.twinRead src dst line with
    | some r =>
      let t := n.post src dst { m with follow := [] }
      if t.readOnWay r then t.joinRead r src else t.post dst src { cls := .reply, answers := some line }
    | none =>
      let r : HubRead := { line := line, src := src, home := dst, stamp := n.expanded src dst }
      { n with reads := n.reads ++ [r] }.post src dst m

/-- What a die that has applied a packet, or that serves itself, sends on. -/
def Net.onward (n : Net) (die : Nat) (fs : List Onward) : Net :=
  fs.foldl (fun n f => if f.dst = die then n else n.post die f.dst { cls := f.cls, writes := f.writes, answers := f.answers }) n

/-- Send a packet from die src to die dst; within a die nothing is stamped, and only what follows goes out. -/
def Net.send (n : Net) (src dst : Nat) (m : Mail) : Net :=
  if src = dst then n.onward dst m.follow
  else match m.read with
    | some line => n.postRead src dst line m
    | none => n.post src dst m

/-- The oldest packets of a stream that waited go out while its window is open. -/
def Net.flush (src dst : Nat) : Nat → Net → Net
  | 0, n => n
  | k + 1, n =>
    match n.stalled.find? (fun q => q.1 == strKey src dst) with
    | none => n
    | some q =>
      if n.windowOpen src dst then Net.flush src dst k ({ n with stalled := n.stalled.erase q }.stamp src dst q.2) else n

/-- An acknowledgement reaches the sender of a stream (R338). -/
def Net.acked (n : Net) (src dst : Nat) (a : BitVec 12) : Net :=
  Net.flush src dst n.stalled.length { n with acks := update (strKey src dst) a n.acks }

/-- A request with its reply, writing lines or none. -/
def Mail.ask (writes : List Nat) (back : Nat) : Mail := { cls := .request, writes := writes, follow := [{ dst := back, cls := .reply }] }

/-- A request to read a line. -/
def Mail.load (line back : Nat) : Mail := { cls := .request, read := some line, follow := [copyTo back line] }

/-- The next packet of a stream would name a packet that a retired die never sent: it would be delivered poisoned (R347). -/
def Net.lostAhead (n : Net) (src dst : Nat) : Bool :=
  src != dst && (n.stampEntries src dst).any (fun e => e.col.toNat == dst && n.retired.any (fun r =>
    r.1 == e.row.toNat && !covers (lookupD 0 dst r.2) e.count))

end Sys2Proof.Machine
end

