-- ==== Sys2Proof/Machine/Cache.lean ====
section
/-! DEFINITION. The shared cache and the directory: which bank and way a line takes (11 R255 to R259), what an access leaves in a
holder (R260, R263, R266), evictions and write-backs (15 R344), regions of the directory (R342, R343), and the packets of accesses
(15 R329, 10 R425). -/

namespace Sys2Proof.Machine

/-! ## Dies -/

def State.die (s : State) : Nat := match s.st.place.master? with | some m => dieOfMaster m | none => 0

/-- Home die of a physical address: the store die of its stack, or the hub for host and pool memory (R15, R21). -/
def homeDie (pa : Nat) : Nat := if isHbm pa then 9 + (pa / 4096 % 12) / 3 else 0

/-! ## Vcaches: policy and placement (R256 to R260) -/

/-- Write policy: 0 write-back, 1 write-through, 2 write-around, 3 read-only, 4 streaming; vcache 1 is write-back. -/
def State.policy (s : State) (id : Nat) : Nat :=
  match (s.vcache? id).bind Vcache.plat? with
  | some p => p.policy
  | none => 0

/-- 16-bit xor-fold of the line number (R259). -/
def xorFold16 : Nat → Nat → Nat
  | 0, _ => 0
  | k + 1, x => (x % 2 ^ 16) ^^^ xorFold16 k (x / 2 ^ 16)

/-- The k-th set bit of the bank map (R259). -/
def kthBank (map : BitVec 512) (k : Nat) : Nat :=
  (((List.range 512).filter (fun b => map.getLsbD b)).getD k 0)

def bankCount (map : BitVec 512) : Nat := ((List.range 512).filter (fun b => map.getLsbD b)).length

/-- The bank of a line in a plat (R259). -/
def Plat.bankOf (p : Plat) (pa : Nat) : Nat :=
  kthBank p.map (xorFold16 4 (pa / (64 * 2 ^ p.line)) % bankCount p.map)

/-- Set of a line in a plat (R259). -/
def Plat.setOf (p : Plat) (pa : Nat) : Nat := pa / (64 * 2 ^ p.line) % (131072 / (64 * 2 ^ p.line))

/-- The die on which a bank stands (R14). -/
def dieOfBank (b : Nat) : Nat := if b < 384 then 1 + b / 48 else 9 + (b - 384) / 32

/-- Vcache 1 spreads lines over all 512 banks with the same hash (R256, R259). -/
def sysBank (pa : Nat) : Nat := xorFold16 4 (pa / 64) % 512

/-- A parcel is fenced (R255, R268). -/
def State.parcelFenced (s : State) (bank way : Nat) : Bool := s.cache.fenced.contains (BitVec.ofNat 13 (bank * 16 + way))

def Plat.hasParcel (p : Plat) (bank way : Nat) : Bool := p.map.getLsbD bank && p.waymask.getLsbD way

def Vcache.plats (v : Vcache) : List Plat := v.current.toList ++ v.draining.toList

def Vcache.holdsParcel (v : Vcache) (b w : Nat) : Bool := v.plats.any (fun p => p.hasParcel b w)

/-- A plat, or vcache 1 in the parcels that no other vcache owns, may put a line in this way of a bank (R256, R268). -/
def State.wayOpen (s : State) (p : Option Plat) (bank way : Nat) : Bool :=
  !s.parcelFenced bank way && (match p with
    | some p => p.waymask.getLsbD way
    | none => !s.cache.vcaches.any (fun v => v.holdsParcel bank way))

/-- No way is left in a bank for a plat, or for vcache 1 (R268). -/
def State.wayless (s : State) (p : Option Plat) (bank : Nat) : Bool := !(List.range 16).any (fun w => s.wayOpen p bank w)

/-- The plat that new accesses of a vcache go by: none for vcaches 0 and 1 and an undefined one. -/
def State.platOf (s : State) (id : Nat) : Option Plat := (s.vcache? id).bind Vcache.plat?

/-- The bank of a line under a plat, or under vcache 1. -/
def bankUnder (p : Option Plat) (pa : Nat) : Nat := match p with | some p => p.bankOf pa | none => sysBank pa

/-- The bank of the line has no way left for the page's vcache. -/
def State.bare (s : State) (vc pa : Nat) : Bool := vc != 0 && s.wayless (s.platOf vc) (bankUnder (s.platOf vc) pa)

/-- The bank whose arithmetic unit serves the line under its page's vcache (R269). -/
def State.serveBank (s : State) (vc pa : Nat) : Nat :=
  match s.platOf vc with
  | some p => if p.policy = 3 ∨ s.wayless (some p) (p.bankOf pa) then sysBank pa else p.bankOf pa
  | none => sysBank pa

/-- The die that serves a load or store of the line: home for vcache 0, else its bank's (R425). -/
def State.serveDie (s : State) (vc pa : Nat) : Nat := if vc = 0 then homeDie pa else dieOfBank (s.serveBank vc pa)

/-- A line of vcache 0, of a write-through or write-around vcache, or of a bank with no way left, is never held in L1 (R268,
R425). -/
def State.uncached (s : State) (vc pa : Nat) : Bool := vc == 0 || s.policy vc == 1 || s.policy vc == 2 || s.bare vc pa

/-! ## Packets of accesses (R329, R425) -/

/-- One line's read or write, from a die to the one that serves the line; a write to a bank that is no home goes on to home. -/
def State.lineMail (s : State) (src vc line : Nat) (write : Bool) : State :=
  let d := s.serveDie vc (line * 64)
  let h := homeDie (line * 64)
  let m : Mail :=
    if write then { cls := .request, writes := [line],
                    follow := if vc = 0 ∨ h = d then [] else [{ dst := h, cls := .request, writes := [line] }] }
    else if d = h then Mail.load line src
    else Mail.ask [] src
  { s with net := s.net.send src d m }

/-- The packets of an access of n bytes by an agent on a die. -/
def State.agentLines (s : State) (src vc pa n : Nat) (write : Bool) : State :=
  (linesOf pa n).foldl (fun s l => s.lineMail src vc l write) s

/-- The packets of a store that leaves the core at once (R425). -/
def State.storePackets (s : State) (vc pa n : Nat) : State :=
  (linesOf pa n).foldl (fun s l => if s.uncached vc (l * 64) then s.lineMail s.die vc l true else s) s

/-- The packets of a load that goes to the serving bank or home (R425): a request and the reply to it. -/
def State.loadPackets (s : State) (vc pa n : Nat) : State :=
  (linesOf pa n).foldl (fun s l => if s.uncached vc (l * 64) then s.lineMail s.die vc l false else s) s

/-- A step at the arithmetic unit of the line's bank (R269): the request and its reply. -/
def State.bankPackets (s : State) (vc pa n : Nat) : State :=
  { s with net := (linesOf pa n).foldl (fun net l => net.send s.die (s.serveDie vc (l * 64)) (Mail.ask [l] s.die)) s.net }

/-- The streams that an uncached access takes are open; otherwise its sender stalls (R338). -/
def State.windowOpen (s : State) (vc pa n : Nat) : Bool :=
  (linesOf pa n).all (fun l => !s.uncached vc (l * 64) || s.net.windowOpen s.die (s.serveDie vc (l * 64)))

/-- The streams that a step at the bank takes are open (R338). -/
def State.bankOpen (s : State) (vc pa n : Nat) : Bool := (linesOf pa n).all (fun l => s.net.windowOpen s.die (s.serveDie vc (l * 64)))

/-- A step at the bank would be delivered poisoned (R347). -/
def State.lostStep (s : State) (vc pa n : Nat) : Bool :=
  !s.net.retired.isEmpty && (linesOf pa n).any (fun l => s.net.lostAhead s.die (s.serveDie vc (l * 64)))

/-- A read of these bytes would be delivered poisoned, for a packet that a retired die never sent (R347). -/
def State.lostRead (s : State) (vc pa n : Nat) : Bool :=
  !s.net.retired.isEmpty && (linesOf pa n).any (fun l => s.uncached vc (l * 64) && s.net.lostAhead s.die (s.serveDie vc (l * 64)))

/-! ## Holders -/

/-- An agent that keeps copies of lines. -/
def holds : Agent → Bool
  | .l1 _ => true
  | .vcache _ => true
  | .host => true
  | .shelf _ => true
  | .engine _ => false
  | .fabric => false

/-- A line is owned by a holder: it may be written there without asking. -/
def owns : LineState → Bool
  | .modified => true
  | .owned => true
  | .exclusive => true
  | .shared => false
  | .evictPending => false
  | .pendingFill => false

def isDirty : LineState → Bool
  | .modified => true
  | .owned => true
  | .exclusive => false
  | .shared => false
  | .evictPending => false
  | .pendingFill => false

/-- A line after its dirty data has gone home. -/
def cleaned : LineState → LineState
  | .modified => .exclusive
  | .owned => .shared
  | .exclusive => .exclusive
  | .shared => .shared
  | .evictPending => .evictPending
  | .pendingFill => .pendingFill

def isVcacheHolder : Agent → Bool
  | .l1 _ => false
  | .vcache _ => true
  | .host => false
  | .shelf _ => false
  | .engine _ => false
  | .fabric => false

/-- The plat under which a vcache's line lies: of its generation (R263). -/
def State.platOfLine (s : State) (id : Nat) (current : Bool) : Option Plat :=
  (s.vcache? id).bind (fun v => if current then v.current else v.draining)

/-- Die on which a holder of a line stands. -/
def State.dieOfHolder (s : State) (a : Agent) (current : Bool) (line : Nat) : Nat :=
  match a with
  | .l1 core => dieOfMaster (if core < 384 then core / 8 else 48 + (core - 384))
  | .vcache id => if id = 0 then homeDie (line * 64) else dieOfBank (bankUnder (s.platOfLine id current) (line * 64))
  | .host => 0
  | .shelf _ => 0
  | .engine e => 1 + e.toNat / 2
  | .fabric => 0

def CLine.die (c : CLine) (s : State) : Nat := s.dieOfHolder c.holder c.current c.line

/-- A read-only vcache takes no snoops, and is no holder to the directory (R260, R266). -/
def State.unsnooped (s : State) (a : Agent) : Bool := match a with
  | .vcache id => s.policy id == 3
  | .l1 _ => false
  | .host => false
  | .shelf _ => false
  | .engine _ => false
  | .fabric => false

def State.cline? (s : State) (a : Agent) (line : Nat) : Option CLine :=
  s.cache.lines.find? (fun c => c.holder == a && c.line == line)

def State.setLine (s : State) (c : CLine) : State :=
  { s with cache := { s.cache with lines := s.cache.lines.map (fun q =>
      if q.holder = c.holder ∧ q.line = c.line then c else q) } }

def State.dropLine (s : State) (a : Agent) (line : Nat) : State :=
  { s with cache := { s.cache with lines := s.cache.lines.filter (fun c => !(c.holder == a && c.line == line)) } }

/-- Keep the lines that `f` says, each as it gives it. -/
def State.mapLines (s : State) (f : CLine → Option CLine) : State :=
  { s with cache := { s.cache with lines := s.cache.lines.filterMap f } }

/-- A bank event of a line in a vcache, by no requester that the model names (R435); a write-back that leaves a line in evict-pending
counts when it is acknowledged (DESIGN CHOICE, log entry 118). -/
def State.countHeld (s : State) (ev : Nat) (a : Agent) : State := match a with
  | .vcache id => s.countBank ev id none
  | .l1 _ => s
  | .host => s
  | .shelf _ => s
  | .engine _ => s
  | .fabric => s

/-! ## Write-backs (R344) -/

/-- The write-back of a dirty line goes home at once; its copy is in evict-pending. -/
def State.writeBack (s : State) (c : CLine) : State :=
  let d := c.die s
  let m : Mail := { cls := .writeback, writes := [c.line], follow := [{ dst := d, cls := .reply }] }
  ({ s with net := s.net.send d (homeDie (c.line * 64)) m }).setLine { c with state := .evictPending, probe := none, want := false }

/-- A line leaves its holder: written back when dirty, else dropped. A line on its way in or out stays. -/
def State.evictLine (s : State) (c : CLine) : State :=
  if isDirty c.state then s.writeBack c
  else if c.state = .evictPending ∨ c.state = .pendingFill then s
  else s.dropLine c.holder c.line

/-- Every line that `p` picks leaves its holder. -/
def State.evictAll (s : State) (p : CLine → Bool) : State := (s.cache.lines.filter p).foldl State.evictLine s

/-- A line of these lines stays where it is, clean; dirty data has gone home (R274). -/
def State.cleanLine (s : State) (c : CLine) : State :=
  if !isDirty c.state then s
  else
    let m : Mail := { cls := .writeback, writes := [c.line], follow := [{ dst := c.die s, cls := .reply }] }
    (({ s with net := s.net.send (c.die s) (homeDie (c.line * 64)) m }).countHeld 6 c.holder).setLine { c with state := cleaned c.state }

/-! ## Lines of a vcache: one or more sectors of one way (R255, R257, R259) -/

/-- Sectors of a line of a vcache. -/
def spanUnder (p : Option Plat) : Nat := match p with | some p => 2 ^ p.line | none => 1

/-- First 64-byte line of the vcache line that holds `line`. -/
def lineBase (p : Option Plat) (line : Nat) : Nat := line / spanUnder p * spanUnder p

/-- Every 64-byte line of the vcache line that holds `line`. -/
def sectorsUnder (p : Option Plat) (line : Nat) : List Nat := (List.range (spanUnder p)).map (fun i => lineBase p line + i)

/-- The sector of a way in which a 64-byte line lies. -/
def sectorUnder (p : Option Plat) (line : Nat) : Nat :=
  match p with
  | some p => p.setOf (line * 64) * 2 ^ p.line + line % 2 ^ p.line
  | none => line % 2048

/-- The two lines are sectors of one line of one holder. -/
def State.sameLine (s : State) (a b : CLine) : Bool :=
  a.holder == b.holder && a.current == b.current &&
    (match a.holder with
     | .vcache id => lineBase (s.platOfLine id a.current) a.line == lineBase (s.platOfLine id a.current) b.line
     | _ => a.line == b.line)

/-- The sectors that a holder has of the line of `c`. -/
def State.sectorsOf (s : State) (c : CLine) : List CLine := s.cache.lines.filter (s.sameLine c)

/-- The bank and sector that a vcache's line occupies, and its way; none for another holder's, and for one that has left. -/
def State.spot (s : State) (c : CLine) : Option (Nat × Nat × Nat) :=
  match c.holder with
  | .vcache id =>
    if c.state = .evictPending then none
    else
      let p := s.platOfLine id c.current
      some (bankUnder p (c.line * 64), c.way, sectorUnder p c.line)
  | _ => none

/-- Lines of vcaches in the sectors of a way that a new line of `p` at `line` would take. -/
def State.inWay (s : State) (p : Option Plat) (line way : Nat) : List CLine :=
  let bank := bankUnder p (line * 64)
  let sectors := (sectorsUnder p line).map (sectorUnder p)
  s.cache.lines.filter (fun c => match s.spot c with
    | some (b, w, i) => b == bank && w == way && sectors.contains i
    | none => false)

/-- The ways that a line of `p` may take in its bank. -/
def State.waysFor (s : State) (p : Option Plat) (line : Nat) : List Nat :=
  (List.range 16).filter (fun w => s.wayOpen p (bankUnder p (line * 64)) w)

/-- A free way for a line of `p`. -/
def State.freeWay (s : State) (p : Option Plat) (line : Nat) : Option Nat :=
  (s.waysFor p line).find? (fun w => (s.inWay p line w).isEmpty)

/-- The way whose line leaves first: the least recently used, or with FIFO the first allocated. A line on its way in does not
leave. -/
def State.victimWay (s : State) (p : Option Plat) (line : Nat) : Option Nat :=
  let cands := (s.waysFor p line).filter (fun w => (s.inWay p line w).all (fun c => c.state != .pendingFill))
  let key (w : Nat) : Nat := (s.inWay p line w).foldl (fun m c => max m c.age) 0
  cands.foldl (fun best w => match best with
    | none => some w
    | some b => if key w < key b then some w else some b) none

/-! ## What leaves a draining plat (R263) -/

/-- A line of the draining generation that can leave. -/
def drains (id : Nat) (c : CLine) : Bool :=
  c.holder == .vcache id && !c.current && c.state != .evictPending && c.state != .pendingFill

/-- Count a line moved or written back, once for a line of several sectors (R264). -/
def State.countDrain (s : State) (id : Nat) (moved : Bool) : State :=
  { s with cache := { s.cache with vcaches := s.cache.vcaches.map (fun v =>
      if v.id != id then v else if moved then { v with moved := v.moved + 1 } else { v with written := v.written + 1 }) } }

/-- Every sector of a line moves to the current plat, in a way. -/
def State.moveLine (s : State) (c : CLine) (way : Nat) : State :=
  s.mapLines (fun q => some (if s.sameLine c q then { q with current := true, way := way } else q))

/-- One line of the draining generation leaves, whole: dropped, moved to a free way of the current plat, or written back. -/
def State.drainLine (s : State) (v : Vcache) (old : Plat) (c : CLine) : State :=
  let dirty := (s.sectorsOf c).any (fun q => isDirty q.state)
  let sameSpan := match v.current with | some p => p.line == old.line | none => false
  if old.policy = 3 ∨ !dirty then s.evictAll (s.sameLine c)
  else match if sameSpan then s.freeWay v.current c.line else none with
    | some w => (s.moveLine c w).countDrain v.id true
    | none => (s.evictAll (s.sameLine c)).countDrain v.id false

/-- Lines of vcaches in a way make room for another (R259, R263). -/
def State.clearWay (s : State) (p : Option Plat) (line way : Nat) : State :=
  (s.inWay p line way).foldl (fun s c =>
    match c.holder with
    | .vcache id =>
      match c.current, s.vcache? id with
      | false, some v => (match v.draining with
        | some _ =>
          let dirty := (s.sectorsOf c).any (fun q => isDirty q.state)
          let t := s.evictAll (s.sameLine c)
          if dirty then t.countDrain id false else t
        | none => s.evictAll (s.sameLine c))
      | _, _ => s.evictAll (s.sameLine c)
    | _ => s) s

/-! ## An access of a vcache (R260, R263, R209) -/

/-- The place in the order of replacement that an access gives a line: first evicted under streaming and .STRM, else last. -/
def State.ageFor (s : State) (stream : Bool) : Nat := if stream then 0 else s.cache.uses + 1

/-- A line is allocated in the current plat, in pending fill, with every sector; nothing where no way can take it. -/
def State.allocate (s : State) (id : Nat) (p : Option Plat) (line : Nat) (write stream : Bool) : State :=
  match (s.freeWay p line).orElse (fun _ => s.victimWay p line) with
  | none => s
  | some w =>
    let t := s.clearWay p line w
    let new := ((sectorsUnder p line).filter (fun l => (t.cline? (.vcache id) l).isNone)).map (fun l =>
      ({ holder := .vcache id, line := l, state := .pendingFill, current := true, way := w, probe := none, age := t.ageFor stream
         want := write && l == line } : CLine))
    { t with cache := { t.cache with lines := t.cache.lines ++ new, uses := t.cache.uses + 1 } }

/-- A line of the draining plat that an access hits moves to the current one, over a victim where none is free; one of another line
size is written back instead, and is then a miss. -/
def State.promote (s : State) (v : Vcache) (c : CLine) : State :=
  match v.current with
  | none => s
  | some p =>
    let same := match v.draining with | some q => q.line == p.line | none => true
    if !same then s.evictAll (s.sameLine c)
    else match (s.freeWay (some p) c.line).orElse (fun _ => s.victimWay (some p) c.line) with
      | none => s.evictAll (s.sameLine c)
      | some w => ((s.clearWay (some p) c.line w).moveLine c w).countDrain v.id true

/-- A hit counts as a use: with LRU and without streaming the line becomes the last to leave. -/
def State.useLine (s : State) (c : CLine) (fifo stream : Bool) : State :=
  let t := { s with cache := { s.cache with uses := s.cache.uses + 1 } }
  if fifo && !stream then t
  else t.mapLines (fun q => some (if t.sameLine c q then { q with age := if stream then 0 else t.cache.uses } else q))

/-- A write hit of a line that is not owned waits for the grant; a line that is owned becomes dirty. -/
def State.dirtyHit (s : State) (c : CLine) : State :=
  if owns c.state then s.setLine { c with state := .modified }
  else if c.state = .shared then s.setLine { c with state := .pendingFill, want := true }
  else if c.state = .pendingFill then s.setLine { c with want := true }
  else s

/-- What a hit leaves, by write policy (R260). -/
def State.policyHit (s : State) (policy : Nat) (c : CLine) (write : Bool) : State :=
  if !write then s
  else if policy = 2 then s.evictAll (s.sameLine c)
  else if policy = 1 ∨ policy = 3 then s
  else s.dirtyHit c

/-- An access of vcache `id` to a line: a hit in the current plat, a hit in the draining one, which moves first, or a miss, which
allocates as the policy says. -/
def State.vcAccess (s : State) (id line : Nat) (write : Bool) (hint : Hint) : State :=
  let v := s.vcache? id
  let p := v.bind (·.current)
  if id = 0 ∨ (1 < id ∧ p.isNone) then s
  else
    let policy := match p with | some p => p.policy | none => 0
    let stream := policy == 4 || (hint == .strm && policy != 3 && policy != 2)
    let fifo := match p with | some p => p.repl | none => false
    let t : State := match v, s.cline? (.vcache id) line with
      | some v, some c => if c.current || c.state == .evictPending then s else s.promote v c
      | _, _ => s
    match t.cline? (.vcache id) line with
    | some c =>
      if c.state = .evictPending then t
      else ((t.countBank 1 id none).useLine c fifo stream).policyHit policy c write
    | none =>
      let t := t.countBank 2 id none
      if t.bare id (line * 64) || (write && (policy == 1 || policy == 2 || policy == 3)) then t
      else t.allocate id p line write stream

/-- A copy in an L1, at the host or in a shelf as an access leaves it: a miss is in pending fill. -/
def State.copyAccess (s : State) (a : Agent) (line : Nat) (write : Bool) : State :=
  match s.cline? a line with
  | some c => if write then s.dirtyHit c else s
  | none =>
    let c : CLine := { holder := a, line := line, state := .pendingFill, current := true, way := 0, probe := none, want := write }
    { s with cache := { s.cache with lines := s.cache.lines ++ [c] } }

/-- The agent's copy as its request leaves it. -/
def State.dirCopy (s : State) (a : Agent) (line : Nat) (write : Bool) (hint : Hint) : State :=
  match a with
  | .vcache id => s.vcAccess id line write hint
  | .engine _ => s
  | .fabric => s
  | a => s.copyAccess a line write

/-- The sectors that an access of a vcache has newly put in pending fill: `t` after it, `s` before. -/
def State.newFills (s t : State) (a : Agent) (line : Nat) : List Nat :=
  let new (c : CLine) : Bool := c.holder == a && c.state == .pendingFill && (s.cline? a c.line).isNone
  match t.cline? a line with
  | none => []
  | some c => ((t.sectorsOf c).filter new).map (·.line)

/-- The hint of an access acts on lines that are held (R209): under .STRM they leave the shared cache first and do not stay in the
core's L1, under .KEEP they leave last. -/
def State.hintLine (s : State) (core vc line : Nat) (hint : Hint) : State :=
  if hint == .none || vc == 0 || s.policy vc == 2 || s.policy vc == 3 then s
  else
    let t := match s.cline? (.vcache vc) line with
      | some c => s.useLine c false (hint == .strm)
      | none => s
    if hint == .strm then t.evictAll (fun c => c.holder == .l1 core && c.line == line) else t

/-! ## Owning a line (R269, R294) -/

/-- The directory probes the holders of these copies (R329), whose answers go back to it. -/
def State.sendProbes (s : State) (cs : List CLine) : State :=
  { s with net := cs.foldl (fun n c => n.send 0 (c.die s) { cls := .probe, follow := [{ dst := 0, cls := .reply }] }) s.net }

/-- The copies that `sel` picks are recalled, with the other sectors of their lines: dirty data goes home (R266). A read-only vcache
takes no probe, and the host is asked apart. -/
def State.recall (s : State) (sel : CLine → Bool) : State :=
  let cs := s.cache.lines.filter (fun c => sel c && c.holder != .host && !s.unsnooped c.holder && c.state != .evictPending)
  (cs.flatMap s.sectorsOf).foldl State.evictLine (s.sendProbes cs)

/-- Every copy of a line but read-only ones, and those that `a` has, is recalled. -/
def State.recallFrom (s : State) (a : Option Agent) (line : Nat) : State :=
  s.recall (fun c => c.line == line && some c.holder != a)

/-- A core takes a line with ownership, and writes it (R294). -/
def State.takeLine (s : State) (core line : Nat) : State :=
  let t := s.recallFrom (some (.l1 core)) line
  match t.cline? (.l1 core) line with
  | some c => t.setLine { c with state := .modified, probe := none, want := false }
  | none =>
    let c : CLine := { holder := .l1 core, line := line, state := .modified, current := true, way := 0, probe := none }
    { t with cache := { t.cache with lines := t.cache.lines ++ [c] } }

/-! ## The host (R385) -/

/-- Lines of an access that the host may hold: for a write in any state, for a read other than shared (R385). -/
def State.hostLines (s : State) (write : Bool) (pa n : Nat) : List Nat :=
  (linesOf pa n).filter (fun l => s.cache.lines.any (fun c =>
    c.line == l && c.holder == .host && (write || c.state != .shared)))

/-- The directory asks the host for lines, each once (R385). -/
def State.askHost (s : State) (write : Bool) (owner : StrandId) (ls : List Nat) : State :=
  let new := ls.filter (fun l => !s.cache.backInv.any (fun b => b.line == l))
  let asks := new.map (fun l => ({ line := l, write := write, owner := owner, answered := false } : BackInv))
  { s with cache := { s.cache with backInv := s.cache.backInv ++ asks } }

/-! ## Regions of the directory (R342, R343) -/

def State.regionFor (s : State) (line : Nat) : Option DirRegion :=
  s.cache.dir.find? (fun r => decide (r.base ≤ line) && decide (line < r.base + r.size))

/-- An access by an agent that the entry does not list conflicts when it writes, or reads a line that another holder owns. -/
def State.conflicts (s : State) (r : DirRegion) (a : Agent) (line : Nat) (write : Bool) : Bool :=
  !r.holders.contains a &&
    (write || s.cache.lines.any (fun c => c.line == line && c.holder != a && owns c.state))

/-- Halve the part that holds the line, down to one line; the holders stand under both halves. -/
def splitTo (line now : Nat) : Nat → DirRegion → List DirRegion
  | 0, r => [r]
  | n + 1, r =>
    if r.size ≤ 1 then [{ r with conflictAt := now }]
    else
      let h := r.size / 2
      let lo : DirRegion := { r with size := h, conflictAt := now }
      let hi : DirRegion := { r with base := r.base + h, size := h, conflictAt := now }
      if line < r.base + h then splitTo line now n lo ++ [hi] else lo :: splitTo line now n hi

/-- Every holder gives up the lines of a page, dirty data going home; the host is asked for those it holds (R343, R289). -/
def State.emptyPage (s : State) (page : Nat) : State :=
  let mine (c : CLine) : Bool := c.line / 1024 == page
  let host := (s.cache.lines.filter (fun c => mine c && c.holder == .host)).map (·.line)
  ((s.evictAll (fun c => mine c && c.holder != .host)).askHost true 0 host)

/-- The least recently used entry of another page goes: its page's lines leave their holders (R343). -/
def State.dirEvict (s : State) (page : Nat) : State :=
  match s.cache.dir.filter (fun r => r.base / 1024 != page) with
  | [] => s
  | r :: rs =>
    let v := rs.foldl (fun m q => if q.used < m.used then q else m) r
    let t := s.emptyPage (v.base / 1024)
    { t with cache := { t.cache with dir := (t.cache.dir.filter (· != v)).map (fun q =>
        if q.base / 1024 = v.base / 1024 then { q with holders := q.holders.filter (· == .host) } else q) } }

/-- Room for n more entries (R343). -/
def State.dirRoom (s : State) (page n : Nat) : State :=
  (List.range n).foldl (fun s _ => if s.cache.dir.length + n ≤ 4194304 then s else s.dirEvict page) s

/-- The largest aligned part of a page that holds the line and overlaps no entry. -/
def State.freshRegion (s : State) (line : Nat) : Nat → DirRegion
  | 0 => { base := line, size := 1, holders := [], conflictAt := s.time, used := s.time }
  | k + 1 =>
    let n := 2 ^ (k + 1)
    let b := line / n * n
    if s.cache.dir.any (fun r => decide (r.base < b + n) && decide (b < r.base + r.size)) then s.freshRegion line k
    else { base := b, size := n, holders := [], conflictAt := s.time, used := s.time }

/-- Record the access in the entry of the line, and the agent as a holder when it keeps a copy. (DESIGN CHOICE, log entry 21.) -/
def State.dirEnter (s : State) (a : Agent) (line : Nat) (write keep : Bool) : State :=
  let add (r : DirRegion) : DirRegion :=
    { r with holders := (if keep && holds a && !s.unsnooped a && !r.holders.contains a then r.holders ++ [a] else r.holders), used := s.time }
  match s.regionFor line with
  | none =>
    let s := s.dirRoom (line / 1024) 1
    let r := s.freshRegion line 10
    { s with cache := { s.cache with dir := s.cache.dir ++ [add r] } }
  | some r =>
    let parts := if s.conflicts r a line write then splitTo line s.time 10 r else [r]
    let touched (q : DirRegion) : DirRegion := if q.base ≤ line ∧ line < q.base + q.size then add q else q
    let s := s.dirRoom (line / 1024) (parts.length - 1)
    { s with cache := { s.cache with dir := s.cache.dir.flatMap (fun q => if q = r then parts.map touched else [q]) } }

/-- The directory no longer lists a holder for the line's entry when that entry is one line. -/
def State.dirLeave (s : State) (a : Agent) (line : Nat) : State :=
  { s with cache := { s.cache with dir := s.cache.dir.map (fun r =>
      if r.base = line ∧ r.size = 1 then { r with holders := r.holders.filter (· != a) } else r) } }

/-- The class of an HBM page (R284). -/
def classOf (s : State) (page : Nat) : Option PageClass := (s.classes.find? (fun c => c.1 == page)).map (·.2)

/-- The line is one that the directory tracks: on a shared HBM page, or in host or pool memory (R284, R342). -/
def State.tracked (s : State) (pa : Nat) : Bool :=
  if isHbm pa then classOf s (pa / 65536) == some .shared else isHostMem pa || isPool pa

/-! ## Probes (R266, R345) -/

/-- Act on a probe of a line that is installed: the whole line of the holder is given up, dirty sectors written back, or kept as a
clean shared copy. One in evict-pending answers only; a read-only vcache takes none. -/
def State.actProbe (s : State) (c : CLine) (k : ProbeKind) : State :=
  if c.state = .evictPending || s.unsnooped c.holder then s
  else match k with
    | .invalidate => (s.sectorsOf c).foldl (fun s q => (s.evictLine q).dirLeave q.holder q.line) s
    | .share => (s.sectorsOf c).foldl (fun s q =>
        let t := s.cleanLine q
        if q.state = .evictPending ∨ q.state = .pendingFill then t else t.setLine { q with state := .shared, probe := none }) s

/-- An access of an agent reaches the directory (R342): it is entered, and probes go to the other holders of the line (R329), for a
write to all of them, for a read to those that own it. -/
def State.dirSees (s : State) (a : Agent) (line : Nat) (write : Bool) : State :=
  if !s.tracked (line * 64) then s
  else
    let t := s.dirEnter a line write (s.cline? a line).isSome
    t.sendProbes (t.cache.lines.filter (fun c =>
      c.line == line && c.holder != a && c.holder != .host && !t.unsnooped c.holder && c.state != .evictPending && (write || owns c.state)))

/-- A holder asks home for a line, through the directory. -/
def State.fillRequest (s : State) (a : Agent) (line : Nat) (write : Bool) : State :=
  let t := s.dirSees a line write
  let d := t.dieOfHolder a true line
  { t with net := t.net.send d (homeDie (line * 64)) (Mail.load line d) }

/-- An access of vcache 0 goes to home through the directory, which first recalls a dirty copy, and every copy for a write (R266). -/
def State.bypassRecall (s : State) (line : Nat) (write : Bool) : State :=
  s.recall (fun c => c.line == line && (write || isDirty c.state))

end Sys2Proof.Machine
end

