-- ==== Sys2Proof/Machine/Num.lean ====
section
/-! DEFINITION. Numbers: the 23 formats, exact values, and the one rounding (06_number_formats.md R134 to R153).
An exact value is a binary rational, or a real strictly between two neighbouring ones (`sticky`), which is all that rounding
needs to know of a quotient, a root, a power or a logarithm. -/

namespace Sys2Proof.Machine

/-! ## Formats -/

/-- Width in bits of a format code (R134); a block format by its elements. -/
def fmtWidth (c : Nat) : Nat :=
  match c with
  | 0x00 => 8 | 0x01 => 16 | 0x02 => 32 | 0x03 => 64
  | 0x04 => 8 | 0x05 => 16 | 0x06 => 32 | 0x07 => 64
  | 0x08 => 64 | 0x09 => 32 | 0x0A => 16 | 0x0B => 16
  | 0x0C => 8 | 0x0D => 8 | 0x0E => 6 | 0x0F => 6 | 0x10 => 4
  | 0x11 => 8
  | 0x12 => 8 | 0x13 => 6 | 0x14 => 6 | 0x15 => 4 | 0x16 => 4
  | _ => 0

/-- Codes 0x17 to 0x1F are illegal formats (R134). -/
def fmtLegal (c : Nat) : Bool := c < 0x17
def isInt (c : Nat) : Bool := c < 8
def isSigned (c : Nat) : Bool := c < 4
def isFloat (c : Nat) : Bool := 8 ≤ c && c < 0x11
def isE8M0 (c : Nat) : Bool := c == 0x11
def isBlock (c : Nat) : Bool := 0x12 ≤ c && c < 0x17

/-- The element format of a block format (R134); any other format is its own. -/
def elemFmt (c : Nat) : Nat :=
  match c with
  | 0x12 => 0x0D | 0x13 => 0x0E | 0x14 => 0x0F | 0x15 => 0x10 | 0x16 => 0x10
  | c => c

/-- Exponent bits, fraction bits and bias of a float format (R135). -/
structure FloatFmt where
  eb : Nat
  mb : Nat
  bias : Int
  hasInf : Bool
  hasNan : Bool
  deriving DecidableEq, Repr

/-- The float formats of R135; any other code is read as FP32, and no caller gives one. -/
def floatFmt (c : Nat) : FloatFmt :=
  match c with
  | 0x08 => ⟨11, 52, 1023, true, true⟩
  | 0x09 => ⟨8, 23, 127, true, true⟩
  | 0x0A => ⟨5, 10, 15, true, true⟩
  | 0x0B => ⟨8, 7, 127, true, true⟩
  | 0x0C => ⟨5, 2, 15, true, true⟩
  | 0x0D => ⟨4, 3, 7, false, true⟩
  | 0x0E => ⟨3, 2, 3, false, false⟩
  | 0x0F => ⟨2, 3, 1, false, false⟩
  | 0x10 => ⟨2, 1, 1, false, false⟩
  | _ => ⟨8, 23, 127, true, true⟩

/-- Canonical NaN of a format, +0 where it has none (R135, R141). -/
def canonNan (c : Nat) : Nat :=
  match c with
  | 0x08 => 0x7FF8000000000000
  | 0x09 => 0x7FC00000
  | 0x0A => 0x7E00
  | 0x0B => 0x7FC0
  | 0x0C => 0x7E
  | 0x0D => 0x7F
  | _ => 0

/-- The formats that ftz acts on (R141, R143): FP64, FP32, FP16, BF16. -/
def flushes (c : Nat) : Bool := c == 8 || c == 9 || c == 0xA || c == 0xB

/-! ## Exact values -/

/-- An exact value: NaN, a signed infinity, or (−1)^neg × m × 2^e; with `sticky`, some value strictly between m and m + 1
times 2^e in magnitude. A zero has m = 0 and keeps its sign. -/
inductive XVal where
  | nan
  | inf (neg : Bool)
  | fin (neg : Bool) (m : Nat) (e : Int) (sticky : Bool)
  deriving DecidableEq, Repr

namespace XVal

def zero (neg : Bool) : XVal := .fin neg 0 0 false

/-- An integer source; 0 is +0 (R142). -/
def ofInt (i : Int) : XVal := .fin (decide (i < 0)) i.natAbs 0 false

def isNan : XVal → Bool
  | .nan => true
  | .inf _ => false
  | .fin _ _ _ _ => false

def isInf : XVal → Bool
  | .inf _ => true
  | .nan => false
  | .fin _ _ _ _ => false

def isZero : XVal → Bool
  | .fin _ m _ st => m == 0 && !st
  | .nan => false
  | .inf _ => false

def sign : XVal → Bool
  | .nan => false
  | .inf n => n
  | .fin n _ _ _ => n

def neg : XVal → XVal
  | .nan => .nan
  | .inf n => .inf !n
  | .fin n m e st => .fin (!n) m e st

def abs : XVal → XVal
  | .nan => .nan
  | .inf _ => .inf false
  | .fin _ m e st => .fin false m e st

/-- floor(log2 |x|) of a nonzero finite value. -/
def ilog2 : XVal → Int
  | .fin _ m e _ => (Nat.log2 m : Int) + e
  | .nan => 0
  | .inf _ => 0

/-- The signed integer value of a finite exact value in units of 2^u, where u is at most its exponent. -/
def scaled (x : XVal) (u : Int) : Int :=
  match x with
  | .fin n m e _ => let v : Int := (m * 2 ^ (e - u).toNat : Nat); if n then -v else v
  | .nan => 0
  | .inf _ => 0

def expo : XVal → Int
  | .fin _ _ e _ => e
  | .nan => 0
  | .inf _ => 0

/-- Exact sum (R142). `down`: rounding is toward −∞, so that an exact zero of operands of opposite sign is −0. -/
def add (down : Bool) (a b : XVal) : XVal :=
  match a, b with
  | .nan, _ => .nan
  | _, .nan => .nan
  | .inf n, .inf k => if n == k then .inf n else .nan
  | .inf n, .fin _ _ _ _ => .inf n
  | .fin _ _ _ _, .inf k => .inf k
  | .fin n m e st, .fin k l f sf =>
    if m == 0 && !st then (if l == 0 && !sf then (if n == k then zero n else zero down) else .fin k l f sf)
    else if l == 0 && !sf then .fin n m e st
    else
      let u := min e f
      let v := (XVal.fin n m e st).scaled u + (XVal.fin k l f sf).scaled u
      if v = 0 then zero down else .fin (decide (v < 0)) v.natAbs u false

/-- Exact product (R142). -/
def mul (a b : XVal) : XVal :=
  match a, b with
  | .nan, _ => .nan
  | _, .nan => .nan
  | .inf n, .inf k => .inf (n != k)
  | .inf n, .fin k l _ sf => if l == 0 && !sf then .nan else .inf (n != k)
  | .fin n m _ st, .inf k => if m == 0 && !st then .nan else .inf (n != k)
  | .fin n m e _, .fin k l f _ => if m * l = 0 then zero (n != k) else .fin (n != k) (m * l) (e + f) false

/-- The quotient of two nonzero finite magnitudes, to at least 140 significant bits. -/
def quot (n : Bool) (m : Nat) (e : Int) (l : Nat) (f : Int) : XVal :=
  let sh := 141 + Nat.log2 l - Nat.log2 m
  let num := m * 2 ^ sh
  .fin n (num / l) (e - f - sh) (decide (num % l ≠ 0))

/-- Exact quotient (R142). -/
def div (a b : XVal) : XVal :=
  match a, b with
  | .nan, _ => .nan
  | _, .nan => .nan
  | .inf _, .inf _ => .nan
  | .inf n, .fin k _ _ _ => .inf (n != k)
  | .fin n _ _ _, .inf k => zero (n != k)
  | .fin n m e _, .fin k l f _ =>
    if m = 0 then (if l = 0 then .nan else zero (n != k))
    else if l = 0 then .inf (n != k)
    else quot (n != k) m e l f

/-- Compare two values that are not NaN: the sign of a − b. Zeros of both signs are equal. -/
def cmp (a b : XVal) : Ordering :=
  match a, b with
  | .inf n, .inf k => if n == k then .eq else if n then .lt else .gt
  | .inf n, _ => if n then .lt else .gt
  | _, .inf k => if k then .gt else .lt
  | .fin n m e st, .fin k l f sf =>
    let u := min e f
    compare ((XVal.fin n m e st).scaled u) ((XVal.fin k l f sf).scaled u)
  | .nan, _ => .eq
  | _, .nan => .eq

def lt (a b : XVal) : Bool := cmp a b == .lt
def le (a b : XVal) : Bool := cmp a b != .gt

/-- Order for VMIN and VMAX: −0 below +0 (R168). -/
def ltSigned (a b : XVal) : Bool :=
  if a.isZero && b.isZero then a.sign && !b.sign else lt a b

/-- VMIN and VMAX (R168): NaN when either is NaN. -/
def minOf (a b : XVal) : XVal := if a.isNan || b.isNan then .nan else if ltSigned b a then b else a
def maxOf (a b : XVal) : XVal := if a.isNan || b.isNan then .nan else if ltSigned a b then b else a

end XVal

/-- Integer square root by bits: the largest r below 2^k, on top of `r`, with r × r × c ≤ n. -/
def rootBits (n c : Nat) : Nat → Nat → Nat
  | 0, r => r
  | k + 1, r => rootBits n c k (if (r + 2 ^ k) * (r + 2 ^ k) * c ≤ n then r + 2 ^ k else r)

/-- √(m × 2^e) of a positive magnitude, to at least 140 bits. -/
def sqrtFin (m : Nat) (e : Int) : XVal :=
  let sh := (if Nat.log2 m < 282 then 282 - Nat.log2 m else 0)
  let sh := if (e - sh) % 2 = 0 then sh else sh + 1
  let n := m * 2 ^ sh
  let r := rootBits n 1 (Nat.log2 n / 2 + 1) 0
  .fin false r ((e - sh) / 2) (decide (r * r ≠ n))

/-- 1 / √(m × 2^e) of a positive magnitude, to at least 140 bits. -/
def rsqrtFin (m : Nat) (e : Int) : XVal :=
  let k := 284 + Nat.log2 m
  let k := if (e + k) % 2 = 0 then k else k + 1
  let n := 2 ^ k
  let r := rootBits n m (k / 2 + 1) 0
  .fin false r (-((e + k) / 2)) (decide (r * r * m ≠ n))

/-- Bounds on 2^(bits of f below the point), each a number of units 2^−w: `roots` runs through 2^(1/2), 2^(1/4), …
(DEDUCED, log entry 22.) -/
def exp2Bounds (w : Nat) (f : Nat) : Nat → Nat × Nat → Nat × Nat → Nat × Nat
  | 0, _, acc => acc
  | k + 1, root, acc =>
    let lo := rootBits (root.1 * 2 ^ w) 1 (w + 2) 0
    let hi := rootBits (root.2 * 2 ^ w) 1 (w + 2) 0 + 1
    let acc := if f.testBit k then (acc.1 * lo / 2 ^ w, acc.2 * hi / 2 ^ w + 1) else acc
    exp2Bounds w f k (lo, hi) acc

/-- The integer part of 2^(f / 2^n) × 2^200, at the first working precision of the list whose two bounds agree; the last
one is taken as it is. -/
def exp2Frac (f n : Nat) : List Nat → Nat
  | [] => 2 ^ 200
  | w :: ws =>
    let b := exp2Bounds w f n (2 * 2 ^ w, 2 * 2 ^ w) (2 ^ w, 2 ^ w)
    let lo := b.1 / 2 ^ (w - 200)
    let hi := b.2 / 2 ^ (w - 200)
    if lo = hi then lo else match ws with
      | [] => lo
      | _ :: _ => exp2Frac f n ws

/-- 2^a (R166). An integer a gives an exact power; any other binary rational gives an irrational power, never a tie. -/
def exp2X : XVal → XVal
  | .nan => .nan
  | .inf n => if n then .zero false else .inf false
  | .fin n m e _ =>
    if m = 0 then .fin false 1 0 false
    else if (Nat.log2 m : Int) + e ≥ 16 then (if n then .fin false 1 (-60000) true else .fin false 1 60000 true)
    else if (Nat.log2 m : Int) + e < -202 then
      (if n then .fin false (2 ^ 201 - 1) (-201) true else .fin false (2 ^ 201) (-201) true)
    else
      let a : Int := if n then -(m : Int) else m
      if e ≥ 0 then .fin false 1 (a * 2 ^ e.toNat) false
      else
        let k := (-e).toNat
        let i := a.fdiv (2 ^ k)
        let f := (a - i * 2 ^ k).toNat
        if f = 0 then .fin false 1 i false
        else .fin false (exp2Frac f k [512, 1024, 2048, 8192]) (i - 200) true

/-- Fraction bits of log2 x for bounds lo ≤ x × 2^w ≤ hi with 1 ≤ x < 2; none when a bit is not decided. -/
def log2Bits (w : Nat) : Nat → Nat × Nat → Nat → Option Nat
  | 0, _, acc => some acc
  | k + 1, x, acc =>
    let lo := x.1 * x.1 / 2 ^ w
    let hi := x.2 * x.2 / 2 ^ w + 1
    if lo ≥ 2 * 2 ^ w then log2Bits w k (lo / 2, hi / 2 + 1) (2 * acc + 1)
    else if hi < 2 * 2 ^ w then log2Bits w k (lo, hi) (2 * acc)
    else none

/-- 200 fraction bits of log2 (m / 2^(log2 m)) at the first working precision that decides them. -/
def log2Frac (m : Nat) : List Nat → Nat
  | [] => 0
  | w :: ws =>
    let x := m * 2 ^ w / 2 ^ Nat.log2 m
    match log2Bits w 200 (x, if m * 2 ^ w % 2 ^ Nat.log2 m = 0 then x else x + 1) 0 with
    | some f => f
    | none => log2Frac m ws

/-- log2 a (R166). A power of two gives its exponent exactly; any other binary rational gives an irrational. -/
def log2X : XVal → XVal
  | .nan => .nan
  | .inf n => if n then .nan else .inf false
  | .fin n m e _ =>
    if m = 0 then .inf true
    else if n then .nan
    else
      let i := (Nat.log2 m : Int) + e
      if m = 2 ^ Nat.log2 m then .ofInt i
      else
        let f := log2Frac m [768, 2048, 8192, 32768]
        if 0 ≤ i then .fin false (i.toNat * 2 ^ 200 + f) (-200) true
        else .fin true ((-i).toNat * 2 ^ 200 - f - 1) (-200) true

/-- √a, 1/a and 1/√a with the special inputs of R166. -/
def sqrtX : XVal → XVal
  | .nan => .nan
  | .inf n => if n then .nan else .inf false
  | .fin n m e _ => if m = 0 then .zero n else if n then .nan else sqrtFin m e

def rcpX (a : XVal) : XVal := XVal.div (.ofInt 1) a

def rsqrtX : XVal → XVal
  | .nan => .nan
  | .inf n => if n then .nan else .zero false
  | .fin n m e _ => if m = 0 then .inf n else if n then .nan else rsqrtFin m e

/-! ## Reading formats -/

/-- A float pattern of format `c` as its exact value (R135). -/
def readFloat (c bits : Nat) : XVal :=
  let f := floatFmt c
  let frac := bits % 2 ^ f.mb
  let ex := bits / 2 ^ f.mb % 2 ^ f.eb
  let neg := (bits / 2 ^ (f.mb + f.eb)) % 2 = 1
  if f.hasInf && ex == 2 ^ f.eb - 1 then (if frac = 0 then .inf neg else .nan)
  else if f.hasNan && !f.hasInf && ex == 2 ^ f.eb - 1 && frac == 2 ^ f.mb - 1 then .nan
  else if ex = 0 then (if frac = 0 then .zero neg else .fin neg frac (1 - f.bias - f.mb) false)
  else .fin neg (2 ^ f.mb + frac) ((ex : Int) - f.bias - f.mb) false

/-- An integer pattern of format `c` as an integer (R134). -/
def readInt (c bits : Nat) : Int :=
  if isSigned c then sextN bits (fmtWidth c) else (zextN bits (fmtWidth c) : Nat)

/-- E8M0 (R136): 2^(e − 127), and 0xFF is NaN. -/
def readE8M0 (b : Nat) : XVal := if b % 256 = 255 then .nan else .fin false 1 ((b % 256 : Nat) - 127) false

/-- UE5M3, the XF4 block scale (R138). -/
def readUE5M3 (s : Nat) : XVal :=
  let s := s % 256
  let e := s / 8
  let f := s % 8
  if s = 255 then .nan
  else if e = 0 then (if f = 0 then .zero false else .fin false f (-17) false)
  else .fin false (8 + f) ((e : Int) - 15 - 3) false

/-- Exponent of the smallest normal of a float format. -/
def emin (c : Nat) : Int := 1 - (floatFmt c).bias

/-- A source read under ftz: an FP64, FP32, FP16 or BF16 subnormal reads as a zero of its sign (R143). -/
def flushSource (c : Nat) (ftz : Bool) (x : XVal) : XVal :=
  if ftz && flushes c && !x.isNan && !x.isInf && !x.isZero && decide (x.ilog2 < emin c) then .zero x.sign else x

/-! ## Rounding (R141) -/

/-- The integer nearest to m (or between m and m + 1) divided by 2^s under mode; `neg` is the value's sign. -/
def roundShift (mode : Nat) (neg : Bool) (m s : Nat) (sticky : Bool) : Nat :=
  if s = 0 then
    (if sticky && ((mode == 2 && neg) || (mode == 3 && !neg)) then m + 1 else m)
  else
    let q := m / 2 ^ s
    let r := m % 2 ^ s
    let half := 2 ^ (s - 1)
    let inexact := r ≠ 0 ∨ sticky
    let up : Bool := match mode with
      | 0 => decide (r > half) || (decide (r = half) && (sticky || decide (q % 2 = 1)))
      | 1 => false
      | 2 => neg && decide inexact
      | _ => !neg && decide inexact
    if up then q + 1 else q

/-- The magnitude of a finite value in units of 2^u, rounded under mode. -/
def roundUnits (mode : Nat) (neg : Bool) (m : Nat) (e u : Int) (sticky : Bool) : Nat :=
  if u ≤ e then roundShift mode neg (m * 2 ^ (e - u).toNat) 0 sticky
  else roundShift mode neg m (u - e).toNat sticky

def largestInt (c : Nat) : Int := if isSigned c then 2 ^ (fmtWidth c - 1) - 1 else 2 ^ fmtWidth c - 1
def smallestInt (c : Nat) : Int := if isSigned c then -(2 ^ (fmtWidth c - 1)) else 0

/-- An exact integer into an integer format: itself, clamped under sat, or modulo 2^w (R141). -/
def narrowInt (c : Nat) (sat : Bool) (n : Int) : Nat :=
  let n := if sat then max (smallestInt c) (min n (largestInt c)) else n
  (n % 2 ^ fmtWidth c).toNat

/-- The integer branch of round_to. -/
def roundToInt (c mode : Nat) (sat : Bool) : XVal → Nat
  | .nan => 0
  | .inf neg => narrowInt c false (if neg then smallestInt c else largestInt c)
  | .fin neg m e st =>
    let n : Int := (roundUnits mode neg m e 0 st : Nat)
    narrowInt c sat (if neg then -n else n)

/-- The pattern of (−1)^neg × n × 2^q, which the format holds: n has at most mb + 1 bits, q ≥ emin − mb. -/
def packFloat (c : Nat) (neg : Bool) (n : Nat) (q : Int) : Nat :=
  let f := floatFmt c
  let sg := if neg then 2 ^ (f.mb + f.eb) else 0
  let (n, q) := if n = 2 ^ (f.mb + 1) then (n / 2, q + 1) else (n, q)
  if n < 2 ^ f.mb then sg + n
  else sg + (q + f.mb + f.bias).toNat * 2 ^ f.mb + (n - 2 ^ f.mb)

/-- Largest finite pattern (R135). -/
def maxFinite (c : Nat) (neg : Bool) : Nat :=
  let f := floatFmt c
  let sg := if neg then 2 ^ (f.mb + f.eb) else 0
  if f.hasInf then sg + (2 ^ f.eb - 1) * 2 ^ f.mb - 1
  else if f.hasNan then sg + 2 ^ (f.mb + f.eb) - 2
  else sg + 2 ^ (f.mb + f.eb) - 1

def infinity (c : Nat) (neg : Bool) : Nat :=
  let f := floatFmt c
  (if neg then 2 ^ (f.mb + f.eb) else 0) + (2 ^ f.eb - 1) * 2 ^ f.mb

/-- inf_result of R141. -/
def infResult (c : Nat) (sat neg : Bool) : Nat :=
  let f := floatFmt c
  if f.hasInf then infinity c neg
  else if sat || !f.hasNan then maxFinite c neg
  else canonNan c

/-- overflow of R141. -/
def overflowResult (c mode : Nat) (sat neg : Bool) : Nat :=
  let f := floatFmt c
  if sat then maxFinite c neg
  else if !f.hasInf then (if f.hasNan then canonNan c else maxFinite c neg)
  else match mode with
    | 0 => infinity c neg
    | 1 => maxFinite c neg
    | 2 => if neg then infinity c true else maxFinite c false
    | _ => if neg then maxFinite c true else infinity c false

/-- The float branch of round_to. -/
def roundToFloat (c mode : Nat) (sat ftz : Bool) : XVal → Nat
  | .nan => canonNan c
  | .inf neg => infResult c sat neg
  | .fin neg m e st =>
    let f := floatFmt c
    if m = 0 ∧ !st then packFloat c neg 0 0
    else
      let lg := (Nat.log2 m : Int) + e
      if ftz && flushes c && decide (lg < emin c) then packFloat c neg 0 0
      else
        let q := max (lg - f.mb) (emin c - f.mb)
        let n := roundUnits mode neg m e q st
        let top := readFloat c (maxFinite c false)
        if XVal.lt top (.fin false n q false) then overflowResult c mode sat neg
        else packFloat c neg n q

/-- round_to(fmt, mode, x) of R141, as a pattern of the format's width. -/
def roundTo (c mode : Nat) (sat ftz : Bool) (x : XVal) : Nat :=
  if isInt c then roundToInt c mode sat x else roundToFloat c mode sat ftz x

/-! ## The format descriptor (R140) -/

/-- The fields of a format descriptor. -/
structure FD where
  fa : Nat
  fb : Nat
  fdst : Nat
  sat : Bool
  rm : Nat
  ftz : Bool
  deriving DecidableEq, Repr

def readFD (w : Word) : FD where
  fa := w.toNat % 32
  fb := w.toNat / 2 ^ 5 % 32
  fdst := w.toNat / 2 ^ 10 % 32
  sat := decide (w.toNat / 2 ^ 15 % 2 = 1)
  rm := w.toNat / 2 ^ 16 % 4
  ftz := decide (w.toNat / 2 ^ 18 % 2 = 1)

/-- R140: bits [63:19] zero and no code 0x17 to 0x1F in any field, used or not. (DEDUCED, log entry 24.) -/
def fdLegal (w : Word) : Bool :=
  let d := readFD w
  decide (w.toNat / 2 ^ 19 = 0) && fmtLegal d.fa && fmtLegal d.fb && fmtLegal d.fdst

/-- The tensor scale of XF4 is positive, finite and normal (R138). -/
def tensorScaleOk (w : Word) : Bool :=
  let b := w.toNat % 2 ^ 32
  decide (0x00800000 ≤ b ∧ b < 0x7F800000)

def tensorScale (w : Word) : XVal := readFloat 9 (w.toNat % 2 ^ 32)

/-! ## Element values (R137, R138, R143) -/

/-- The exact value of an element: pattern `bits` of format `c`, scale byte `sb` of its block, tensor scale `t`; `ftz` flushes
subnormal sources of the four wide formats. -/
def elemValue (c : Nat) (ftz : Bool) (bits sb : Nat) (t : XVal) : XVal :=
  if isInt c then .ofInt (readInt c bits)
  else if isFloat c then flushSource c ftz (readFloat c bits)
  else if isE8M0 c then readE8M0 bits
  else if c = 0x16 then XVal.mul (XVal.mul (readFloat (elemFmt c) bits) (readUE5M3 sb)) t
  else XVal.mul (readFloat (elemFmt c) bits) (readE8M0 sb)

/-- A floating immediate converted into format fb (R145): a BF16 pattern, rounded under the FD. For a block format the
element format is used with scale 1. (DEDUCED, log entry 44.) -/
def immediateValue (d : FD) (w : Word) : XVal :=
  let c := elemFmt d.fb
  let x := readFloat 0x0B (w.toNat % 2 ^ 16)
  let bits := roundTo c d.rm d.sat d.ftz x
  -- "A BF16 subnormal immediate therefore reads as zero even when fb is FP32 or FP64" (R145)
  if d.ftz && flushes d.fb && !x.isNan && !x.isInf && !x.isZero && decide (x.ilog2 < emin 0x0B) then .zero x.sign
  else flushSource d.fb d.ftz (readFloat c bits)

/-! ## Quantisation (R146, R147) -/

/-- emax of the element formats (R146). -/
def elemEmax (c : Nat) : Int :=
  match c with
  | 0x0D => 8 | 0x0E => 4 | 0x0F => 2 | _ => 2

/-- The values of one block: for each element, its value when active. -/
def blockAmax (vs : List (Option XVal)) : XVal :=
  vs.foldl (fun acc v => match v with
    | some (.fin _ m e st) => if XVal.lt acc (.fin false m e st) then .fin false m e st else acc
    | _ => acc) (.zero false)

/-- Quantise one block into format `c`: the new scale byte and, for each active element, its pattern; none for a block
with no active element (R146, R147). -/
def quantBlock (c : Nat) (rm : Nat) (sat : Bool) (t : XVal) (vs : List (Option XVal)) : Option (Nat × List (Option Nat)) :=
  let ef := elemFmt c
  let anyNan := vs.any (fun v => match v with | some .nan => true | _ => false)
  let anyInf := vs.any (fun v => match v with | some (.inf _) => true | _ => false)
  let amax := blockAmax vs
  if vs.all (fun v => v.isNone) then none
  else if anyNan || (anyInf && !sat) then some (0xFF, vs.map (fun v => v.map (fun _ => 0)))
  else if amax.isZero then
    some (if c = 0x16 && anyInf then 0xFE else 0x00,
      vs.map (fun v => v.map (fun x => if x.isInf then maxFinite ef x.sign else 0)))
  else
    let scale : Nat := if c = 0x16 then
        let want := XVal.mul (.ofInt 6) t
        ((List.range 255).find? (fun s => XVal.le amax (XVal.mul (readUE5M3 s) want))).getD 0xFE
      else (max (-127) (min (amax.ilog2 - elemEmax ef) 127) + 127).toNat
    let unit := if c = 0x16 then XVal.mul (readUE5M3 scale) t else readE8M0 scale
    some (scale, vs.map (fun v => v.map (fun x =>
      if x.isInf then maxFinite ef x.sign else roundTo ef rm true false (XVal.div x unit))))

/-! ## Contour tables (R152, R153) -/

/-- Halfword j of a table. -/
def tableHalf (t : BitVec 768) (j : Nat) : Nat := t.toNat / 2 ^ (16 * j) % 2 ^ 16

/-- The segment that evaluates x: the largest j in 1 to 15 with b_j ≤ x, else 0. -/
def curveSegment (t : BitVec 768) (x : XVal) : Nat :=
  ((List.range 15).map (· + 1)).foldl
    (fun acc j => let b := readFloat 0x0B (tableHalf t (3 * j)); if !b.isNan && XVal.le b x then j else acc) 0

/-- curve_eval(table, x): an FP32 pattern (R153). -/
def curveEval (t : BitVec 768) (x : XVal) : Nat :=
  if x.isNan then canonNan 9
  else
    let j := curveSegment t x
    let a := readFloat 0x0B (tableHalf t (3 * j + 1))
    let c := readFloat 0x0B (tableHalf t (3 * j + 2))
    roundTo 9 0 false false (XVal.add false (XVal.mul a x) c)

/-! ## VRAND (R151) -/

/-- vrand_bits for the 64-bit counter value `ctr`. -/
def vrandBits (key : BitVec 32) (ctr : Word) : Nat :=
  let x : BitVec 32 := ctr.setWidth 32 ^^^ (ctr >>> 32).setWidth 32 ^^^ key
  let x := x ^^^ (x >>> 16)
  let x := x * 0x2C1B3C6D#32
  let x := x ^^^ (x >>> 15)
  let x := x * 0x297A2D39#32
  let x := x ^^^ (x >>> 16)
  x.toNat

def vrandUniform (key : BitVec 32) (ctr : Word) : XVal := .fin false (vrandBits key ctr / 2 ^ 8) (-24) false

/-! ## Compensated pairs (R150) -/

/-- The pair (hi, lo) after the exact value x has been formed. -/
def pairSplit (x : XVal) : Nat × Nat :=
  let hi := roundTo 9 0 false false x
  let h := readFloat 9 hi
  if h.isNan || h.isInf then (hi, 0)
  else (hi, roundTo 9 0 false false (XVal.add false x h.neg))

/-- Group sizes of R149. -/
def groupSize (c : Nat) : Nat :=
  match c with
  | 0x09 => 1
  | 0x0A => 4 | 0x0B => 4
  | 0x10 => 16 | 0x15 => 16 | 0x16 => 16
  | _ => 8

/-- The limit on K of R216. -/
def kLimit (c : Nat) : Nat :=
  match fmtWidth c with
  | 32 => 128 | 16 => 256 | 8 => 512 | 6 => 640 | _ => 1024

/-- The 14 matrix operand formats of R227. -/
def isMatrixFmt (c : Nat) : Bool :=
  c == 0x00 || c == 0x09 || c == 0x0A || c == 0x0B || c == 0x0C || c == 0x0D || c == 0x0E || c == 0x0F || c == 0x10 ||
    c == 0x12 || c == 0x13 || c == 0x14 || c == 0x15 || c == 0x16

end Sys2Proof.Machine
end

