-- ==== Sys2Proof/Machine/Atom.lean ====
section
/-! DEFINITION. The step of an atomic (13 R293), merge partials (05 R121) and a step at a bank (05 R122). -/

namespace Sys2Proof.Machine

/-- What an atomic of width w stores, none when it stores nothing (R293). -/
def atomicNew (op w old x cmp : Nat) : Option Nat :=
  match op with
  | 0 => some ((old + x) % 2 ^ w)
  | 1 => some (old &&& x)
  | 2 => some (old ||| x)
  | 3 => some (old ^^^ x)
  | 4 => some (if sextN old w ≤ sextN x w then old else x)
  | 5 => some (if sextN old w ≥ sextN x w then old else x)
  | 6 => some (if old ≤ x then old else x)
  | 7 => some (if old ≥ x then old else x)
  | 8 => some x
  | 9 => if old = cmp then some x else none
  | _ => some (roundTo 9 0 false false (XVal.add false (readFloat 9 old) (readFloat 9 (x % 2 ^ 32))))

/-- Element width in bytes of a merge region's format (R119). -/
def Region.size (r : Region) : Nat := fmtWidth r.fmt / 8

/-- The atomic operation that merges in a region (R119). -/
def Region.atomic (r : Region) : Nat :=
  match r.op with
  | 0 => 0
  | 1 => 10
  | 2 => if isSigned r.fmt then 5 else 7
  | 3 => if isSigned r.fmt then 4 else 6
  | _ => 2

/-- The identity a partial starts at (R121). -/
def Region.identity (r : Region) : Nat :=
  let w := fmtWidth r.fmt
  match r.op with
  | 0 => 0
  | 1 => 0x80000000
  | 2 => if isSigned r.fmt then 2 ^ (w - 1) else 0
  | 3 => if isSigned r.fmt then 2 ^ (w - 1) - 1 else 2 ^ w - 1
  | _ => 0

/-- The arithmetic unit of a bank holds lines exclusively: every other copy is recalled (R269). -/
def State.bankHolds (s : State) (pa n : Nat) : State := (linesOf pa n).foldl (fun s l => s.recallFrom none l) s

/-- A step goes to the bank that serves its line, which holds it exclusively (R269). -/
def State.atBank (s : State) (vc pa n : Nat) : State := (s.bankPackets vc pa n).bankHolds pa n

/-- memory := op(memory, value) at the bank that serves the line (R122, R269): one step towards every other access. -/
def State.bankApply (s : State) (own : Bool) (vc pa n op : Nat) (x : Nat) : State :=
  match atomicNew op (8 * n) (leNat (s.memBytes pa n)) x 0 with
  | some v => (s.atBank vc pa n).perform own pa (leBytes n v)
  | none => s

end Sys2Proof.Machine
end

