-- ==== Sys2Proof/Machine/Stores.lean ====
section
/-! DEFINITION. The two store buffers and the two classes of access (10 R239 to R243), the scatter-add units (11 R270, 13 R298),
draining, and the versions of a chunk with their announcements (05 R109 to R111). -/

namespace Sys2Proof.Machine

/-! ## The two store buffers (R241) -/

/-- The store covers the byte at `pa`: that byte. -/
def BufStore.byteAt (e : BufStore) (pa : Nat) : Option Byte :=
  if e.pa ≤ pa ∧ pa < e.pa + e.data.length then e.data[pa - e.pa]? else none

/-- The byte a list of buffered stores gives address `pa`, youngest store first; none where no store covers it. -/
def bufByte (b : List BufStore) (pa : Nat) : Option Byte := b.reverse.findSome? (fun e => e.byteAt pa)

/-- The youngest store of a list that covers `pa`: its place in program order, and its byte there. -/
def bufLast (b : List BufStore) (pa : Nat) : Option (Nat × Byte) :=
  b.reverse.findSome? (fun e => (e.byteAt pa).map (fun v => (e.seq, v)))

/-- The later of two stores in program order. -/
def laterStore (a b : Option (Nat × Byte)) : Option (Nat × Byte) :=
  match a, b with
  | some p, some q => if p.1 < q.1 then some q else some p
  | none, b => b
  | a, none => a

/-- The buffer of a class, and of the other. -/
def State.buffer (s : State) (vector : Bool) : List BufStore := if vector then s.st.vbuf else s.st.sbuf

def State.setBuffer (s : State) (vector : Bool) (b : List BufStore) : State :=
  if vector then { s with st := { s.st with vbuf := b } } else { s with st := { s.st with sbuf := b } }

/-- The byte the focus strand reads at `pa` with an access of the given class (vector or scalar): its own latest buffered store
of that class, or of the other class once it is performed with respect to the core, else memory (R240, R241, R321). -/
def State.viewByte (s : State) (vector : Bool) (pa : Nat) : Byte :=
  ((laterStore (bufLast (s.buffer vector) pa) (bufLast ((s.buffer !vector).filter (·.joined)) pa)).map (·.2)).getD (s.memByte pa)

def State.viewBytes (s : State) (vector : Bool) (pa n : Nat) : List Byte :=
  (List.range n).map (fun i => s.viewByte vector (pa + i))

/-- The byte with the stores of both classes laid over memory in program order, as a younger chunk or a walk reads it (R110,
R281). -/
def State.joinByte (s : State) (pa : Nat) : Byte :=
  ((laterStore (bufLast s.st.sbuf pa) (bufLast s.st.vbuf pa)).map (·.2)).getD (s.memByte pa)

def State.joinBytes (s : State) (pa n : Nat) : List Byte := (List.range n).map (fun i => s.joinByte (pa + i))

def BufStore.overlaps (e : BufStore) (pa n : Nat) : Bool := decide (e.pa < pa + n) && decide (pa < e.pa + e.data.length)

/-- Every buffered store that `sel` picks is performed with respect to the strand's own core from now on. -/
def State.joinStores (s : State) (vector : Bool) (sel : BufStore → Bool) : State :=
  s.setBuffer vector ((s.buffer vector).map (fun e => if sel e then { e with joined := true } else e))

/-- A store enters the buffer of its class. While a fork runs, younger chunks read both classes in program order (R110), so the
stores of the other class under it keep that order. -/
def State.bufferStore (s : State) (vector : Bool) (pa vc : Nat) (bs : List Byte) : State :=
  let b : BufStore := { pa := pa, data := bs, vcache := vc, seq := s.st.stores, issue := s.st.qcount }
  let s := s.setBuffer vector (s.buffer vector ++ [b])
  let s := { s with st := { s.st with stores := s.st.stores + 1 } }
  if s.st.fork.isSome then s.joinStores (!vector) (fun e => e.overlaps pa bs.length) else s

/-! ## The scatter-add units (R270, R298) -/

/-- One addition on the bytes at its address, at its own width. -/
def Scatter.step (bs : List Byte) (c : Scatter) : List Byte :=
  let n := if c.wide then 8 else 4
  let old := leNat (bs.take n)
  leBytes n ((atomicNew c.op (8 * n) old c.value.toNat 0).getD old) ++ bs.drop n

/-- Apply every addition that pends at an address, in arrival order, as one store after the recall of cached copies (R270). -/
def State.applyScatter (s : State) (pa : Nat) : State :=
  let here := s.scatter.filter (fun c => c.pa == pa)
  match here with
  | [] => s
  | c :: _ =>
    let bs := here.foldl Scatter.step (s.memBytes pa (if here.any (·.wide) then 8 else 4))
    let own := here.all (fun d => d.owner == c.owner) && c.owner == s.st.id
    let t := ({ s with scatter := s.scatter.filter (fun c => c.pa != pa) } : State).countBank 5 c.vc ((s.strandById c.owner).map (·.vf.toNat))
    (t.recallFrom none (pa / 64)).perform own pa bs

/-- Every pending addition of a strand is applied. -/
def State.flushScatter (s : State) (id : StrandId) : State :=
  (s.scatter.filter (fun c => c.owner == id)).foldl (fun s c => s.applyScatter c.pa) s

/-- The strand's own additions that pend on bytes of an access are applied first (R240, R299). -/
def State.settleScatter (s : State) (pa n : Nat) : State :=
  (s.scatter.filter (fun c => c.owner == s.st.id && decide (c.pa < pa + n) && decide (pa < c.pa + (if c.wide then 8 else 4)))).foldl
    (fun s c => s.applyScatter c.pa) s

/-! ## Draining the store buffers -/

/-- One buffered store leaves its buffer: packets, then memory. -/
def State.drainOne (s : State) (b : BufStore) : State :=
  (s.storePackets b.vcache b.pa b.data.length).perform true b.pa b.data

/-- How many stores of the other buffer leave before `b`: those up to the last that is performed with respect to the core,
overlaps it and is older. -/
def mustPrecede (b : BufStore) (other : List BufStore) : Nat :=
  (other.reverse.dropWhile (fun e => !(e.joined && decide (e.seq < b.seq) && e.overlaps b.pa b.data.length))).length

/-- The first k stores of a buffer are performed. -/
def State.drainCount (s : State) (vector : Bool) (k : Nat) : State :=
  ((s.buffer vector).take k).foldl State.drainOne (s.setBuffer vector ((s.buffer vector).drop k))

/-- The oldest store of a buffer becomes visible: for the vector class after the strand's additions, which are older (R243). -/
def State.drainOldest (s : State) (vector : Bool) : State :=
  match s.buffer vector with
  | [] => s
  | b :: _ =>
    let k := mustPrecede b (s.buffer !vector)
    let s := if vector || k != 0 then s.flushScatter s.st.id else s
    (s.drainCount (!vector) k).drainCount vector 1

/-- Every store of a buffer is performed, oldest first. -/
def State.drainBuffer (s : State) (vector : Bool) : State := (s.buffer vector).foldl (fun s _ => s.drainOldest vector) s

def State.drainScalar (s : State) : State := s.drainBuffer false
def State.drainVector (s : State) : State := s.drainBuffer true
def State.drainAll (s : State) : State := s.drainScalar.drainVector

/-- The stores of a class up to the last that `sel` picks are performed. -/
def State.drainTo (s : State) (vector : Bool) (sel : BufStore → Bool) : State :=
  ((s.buffer vector).reverse.dropWhile (fun e => !sel e)).foldl (fun s _ => s.drainOldest vector) s

/-- What a scalar access to the bytes must follow is performed: the scalar stores, and vector stores there that are performed with
respect to the core (R240, R321). -/
def State.scalarDone (s : State) (pa n : Nat) : State := s.drainScalar.drainTo true (fun e => e.joined && e.overlaps pa n)

/-- Every earlier access of the strand is performed with respect to its own core, for both classes (R247, R249). -/
def State.joinAll (s : State) : State :=
  ((s.joinStores false (fun _ => true)).joinStores true (fun _ => true)).flushScatter s.st.id

/-- The far combine of a merge partial (R122): the strand's own earlier stores to the element are performed first. -/
def State.combineAt (s : State) (vc pa n op x : Nat) : State :=
  ((((s.drainTo false (·.overlaps pa n)).drainTo true (·.overlaps pa n)).settleScatter pa n).countBank 4 vc s.ownFunction).bankApply true vc pa n op x

/-! ## Versions of a chunk (R109 to R111) -/

def findVer (l : List Version) (word : Nat) : Option Version := l.find? (fun v => v.word == word)

/-- Insert or replace a version, in rising word order. -/
def putVer (v : Version) : List Version → List Version
  | [] => [v]
  | u :: us => if v.word < u.word then v :: u :: us else if v.word = u.word then v :: us else u :: putVer v us

/-- The youngest older chunk of the fork that has written the word, with the value and its store count; else the committed
value, which the head (if it runs) has last changed at its present store count (R110). -/
def State.olderValue (s : State) (word : Nat) : Word × Option (Nat × Nat) :=
  match s.st.fork with
  | none => (BitVec.ofNat 64 (leNat (s.joinBytes (word * 8) 8)), none)
  | some f =>
    let older := f.chunks.filter (fun c => decide (c.cnum.toNat < s.x.cnum.toNat) && c.phase != .idle)
    let best := older.foldl (fun acc c => match findVer c.vers word with
      | some v => if v.written then (match acc with
          | some (k, _, _) => if k < c.cnum.toNat then some (c.cnum.toNat, v.wseq, v.data) else acc
          | none => some (c.cnum.toNat, v.wseq, v.data)) else acc
      | none => acc) (none : Option (Nat × Nat × Word))
    match best with
    | some (k, q, d) => (d, some (k, q))
    | none =>
      let headSeq := (older.find? (fun c => c.cnum.toNat == f.committed)).map (fun c => (c.cnum.toNat, c.seq))
      (BitVec.ofNat 64 (leNat (s.joinBytes (word * 8) 8)), headSeq)

/-- The earlier of two sources of an exposed read: what the first read may have missed stays known. -/
def olderSrc (a b : Option (Nat × Nat)) : Option (Nat × Nat) :=
  match a, b with
  | none, _ => none
  | _, none => none
  | some p, some q => if p.1 < q.1 ∨ (p.1 = q.1 ∧ p.2 ≤ q.2) then some p else some q

/-- A chunk reads a word: its own version, or an exposed read (R110). -/
def State.verRead (s : State) (word : Nat) : State × Word :=
  match findVer s.x.vers word with
  | some v =>
    if v.written then (s, v.data)
    else
      let (d, src) := s.olderValue word
      ({ s with x := { s.x with vers := putVer { v with exposed := true, src := olderSrc v.src src } s.x.vers } }, d)
  | none =>
    let (d, src) := s.olderValue word
    let v : Version := { word := word, data := 0, exposed := true, src := src, written := false, wseq := 0 }
    ({ s with x := { s.x with vers := putVer v s.x.vers } }, d)

/-- The exposed-read bit of a word is set, whether or not the chunk has written it. -/
def State.exposeWord (s : State) (word : Nat) : State :=
  let src := (s.olderValue word).2
  let v : Version := match findVer s.x.vers word with
    | some v => { v with exposed := true, src := if v.exposed then olderSrc v.src src else src }
    | none => { word := word, data := 0, exposed := true, src := src, written := false, wseq := 0 }
  { s with x := { s.x with vers := putVer v s.x.vers } }

/-- A matrix load sets the exposed-read bits of every word of the lines it reads (R110). -/
def State.exposeLines (s : State) (pa n : Nat) : State :=
  ((linesOf pa n).flatMap (fun l => (List.range 8).map (fun i => l * 8 + i))).foldl State.exposeWord s

/-- A chunk in flight is younger than the focus chunk. -/
def State.hasYounger (s : State) : Bool :=
  match s.st.fork with
  | none => false
  | some f => f.chunks.any (fun c => c.phase != .idle && decide (s.x.cnum.toNat < c.cnum.toNat))

/-- Announce a store to a word (R111), and count it. (DEDUCED, log entry 10.) (DEDUCED, log entry 42.) -/
def State.announce (s : State) (word : Nat) : State :=
  match s.st.fork with
  | none => s
  | some f =>
    let q := s.x.seq + 1
    let s := { s with x := { s.x with seq := q } }
    if s.hasYounger then
      { s with st := { s.st with fork := some { f with anns := f.anns ++ [{ cnum := s.x.cnum.toNat, word := word, seq := q }] } } }
    else s

/-- Replace bytes [lo, lo + bs.length) of a word. -/
def spliceWord (d : Word) (lo : Nat) (bs : List Byte) : Word := putBits d (8 * lo) (8 * bs.length) (leNat bs)

/-- A chunk writes bytes within one word: a whole word, or an exposed read and a write (R110). -/
def State.verWrite (s : State) (word lo : Nat) (bs : List Byte) : State :=
  let (s, old) := if bs.length = 8 then (s, (0 : Word)) else s.verRead word
  let d := spliceWord old lo bs
  let s := s.announce word
  let v : Version := match findVer s.x.vers word with
    | some v => { v with data := d, written := true, wseq := s.x.seq }
    | none => { word := word, data := d, exposed := false, src := none, written := true, wseq := s.x.seq }
  { s with x := { s.x with vers := putVer v s.x.vers } }

/-- Cut an access into pieces within 8-byte words: (word, first byte, length). -/
def pieces (pa n : Nat) : List (Nat × Nat × Nat) :=
  if n = 0 then [] else
    (List.range ((pa + n - 1) / 8 - pa / 8 + 1)).map (fun i =>
      let w := pa / 8 + i
      let lo := max pa (w * 8)
      let hi := min (pa + n) (w * 8 + 8)
      (w, lo - w * 8, hi - lo))

/-- A chunk's load of n bytes from its versions. -/
def State.verReadBytes (s : State) (pa n : Nat) : State × List Byte :=
  (pieces pa n).foldl (fun acc p =>
    let (s, d) := acc.1.verRead p.1
    (s, acc.2 ++ ((leBytes 8 d.toNat).drop p.2.1).take p.2.2)) (s, [])

/-- A chunk's store of bytes to its versions. -/
def State.verWriteBytes (s : State) (pa : Nat) (bs : List Byte) : State :=
  (pieces pa bs.length).foldl (fun s p =>
    s.verWrite p.1 p.2.1 ((bs.drop (p.1 * 8 + p.2.1 - pa)).take p.2.2)) s

/-- What a chunk's versions say of a line: poisoned, written whole, or nothing. -/
def Ctx.linePoison (c : Ctx) (line : Nat) : Option Bool :=
  if c.poisonLines.contains line then some true else if c.cleanLines.contains line then some false else none

/-- The line is poisoned for a read of the focus chunk: as its own versions say, else the youngest older chunk's that speak of it,
else as it is at home (R225, R238). -/
def State.poisonedFor (s : State) (pa : Nat) : Bool :=
  let line := pa / 64
  let older : Option (Nat × Bool) := match s.st.fork with
    | none => none
    | some f => if !s.spec then none else
        (f.chunks.filter (fun c => c.phase != .idle && decide (c.cnum.toNat < s.x.cnum.toNat))).foldl
          (fun acc c => match c.linePoison line, acc with
            | none, _ => acc
            | some b, some (k, b') => if k < c.cnum.toNat then some (c.cnum.toNat, b) else some (k, b')
            | some b, none => some (c.cnum.toNat, b)) (none : Option (Nat × Bool))
  match s.x.linePoison line with
  | some b => b
  | none => match older with
    | some p => p.2
    | none => s.poisoned pa

/-- The chunk's versions take lines out of P, or into it. -/
def State.putLines (s : State) (clean bad : List Nat) : State :=
  { s with x := { s.x with
    poisonLines := bad.foldl (fun l m => insertNat m l) (s.x.poisonLines.filter (fun l => !clean.contains l))
    cleanLines := clean.foldl (fun l m => insertNat m l) (s.x.cleanLines.filter (fun l => !bad.contains l)) } }

end Sys2Proof.Machine
end

