-- ==== Sys2Proof/Machine/Xlate.lean ====
section
/-! DEFINITION. Address translation: page-table entries, the walk, the translation buffers, the vcache check, page classes and
the translation logs (12 R276 to R289, 11 R261, 17 R380, 18 R390). -/

namespace Sys2Proof.Machine

/-! ## Access kinds and translation contexts -/

/-- What an access asks of a page (R280): `both` is an atomic, VCAPP or VLDSQ, which needs r and w. -/
inductive Acc where
  | read
  | write
  | exec
  | both
  deriving DecidableEq, Repr

/-- akind of a trap record (R392); an access that needs both records 2 (R394). -/
def Acc.akind : Acc → BitVec 2
  | .read => 1
  | .write => 2
  | .exec => 3
  | .both => 2

/-- The address space that a translation uses, the function whose allowance and vcaches bound it, whether it is checked as a
user access, and the translation buffer it goes through (none for an engine, the hub or a fabric window). -/
structure Space where
  ptroot : Word
  asid : Word
  vf : Nat
  user : Bool
  master : Option Nat
  deriving DecidableEq, Repr

/-- The outcome of a translation (R280): 52-bit address, vcache and page kind. For a fabric-kind page the address holds
endpoint [51:42], window [41:36] and byte offset [35:0], as in R289. -/
structure Xl where
  pa : Nat
  vc : Nat
  kind : Nat
  deriving DecidableEq, Repr

def Xl.fabric (x : Xl) : Bool := x.kind == 1
def Xl.ep (x : Xl) : Nat := x.pa / 2 ^ 42
def Xl.window (x : Xl) : Nat := x.pa / 2 ^ 36 % 64
def Xl.off (x : Xl) : Nat := x.pa % 2 ^ 36

/-- The level of the focus (R391); a speculative chunk runs on at the level at which its fork was entered, whatever handler the
head is in (R118). -/
def State.lvl (s : State) : Nat :=
  match s.st.fork with
  | none => bits s.st.trap.status 0 2
  | some f => if s.spec then f.level else bits s.st.trap.status 0 2

/-- The address space of the focus strand. -/
def State.space (s : State) : Space :=
  { ptroot := s.st.ptroot, asid := s.st.asid, vf := s.st.vf.toNat, user := s.lvl == 0, master := s.st.place.master? }

/-! ## Entries (R278, R279) -/

def pteV (e : Word) : Bool := bit e 0
def pteR (e : Word) : Bool := bit e 1
def pteW (e : Word) : Bool := bit e 2
def pteX (e : Word) : Bool := bit e 3
def pteU (e : Word) : Bool := bit e 4
def pteG (e : Word) : Bool := bit e 5
def pteA (e : Word) : Bool := bit e 6
def pteD (e : Word) : Bool := bit e 7
def pteP (e : Word) : Bool := bit e 8
def pteKind (e : Word) : Nat := bits e 9 2
def pteLf (e : Word) : Bool := bit e 11
def pteVc (e : Word) : Nat := bits e 12 8
def ptePpn (e : Word) : Nat := bits e 20 36

/-- A feature bit of fw0 is accepted (R383): the commit succeeded and fa0 has the bit. -/
def State.feature (s : State) (b : Nat) : Bool := bits s.mbx.mbstat 1 2 == 1 && bit (vget s.mbx.fa 0 0) b

/-- cpphys of a function allows the `n` bytes at `pa` (R390), which stand in the range of one memory. -/
def State.allowed (s : State) (vf pa n : Nat) : Bool :=
  let c := vget s.cp.phys 0 vf
  if isHbm pa then decide (bits c 0 10 * 2 ^ 30 ≤ pa) && decide (pa + n ≤ (bits c 0 10 + bits c 32 10) * 2 ^ 30)
  else if isHostMem pa then bit c 63
  else (List.range 16).any (fun i => bit c (16 + i) &&
    (match vget s.shelves none i with
     | some h => decide (h.base ≤ pa) && decide (pa + n ≤ h.base + h.size)
     | none => false))

/-- The `n` bytes at `pa` are memory that a page of the kind may name (R380, R383). -/
def State.backed (s : State) (kind pa n : Nat) : Bool :=
  if kind = 0 then
    (isHbm pa && isHbm (pa + n - 1)) || (isHostMem pa && isHostMem (pa + n - 1) && s.feature 9)
  else s.feature 10 && isPool pa &&
    (List.range 16).any (fun i => match vget s.shelves none i with
      | some h => decide (h.base ≤ pa) && decide (pa + n ≤ h.base + h.size)
      | none => false)

/-- Malformed entries (R279, R390), at table level `lv`. -/
def State.malformed (s : State) (vf : Nat) (e : Word) (lv : Nat) : Bool :=
  let pn := ptePpn e
  let size := if lv = 2 then 2 ^ 29 else 2 ^ 16
  bits e 56 8 != 0 || pteKind e == 3 || (pteLf e && lv == 1) || (!pteLf e && lv == 3) ||
  (if pteLf e then
    (pteW e && !pteR e) ||
    (if pteKind e = 1 then
      (lv == 2 && bits e 36 13 != 0) || pteVc e != 0 || !pteP e || !s.feature 4
    else
      (lv == 2 && pn % 2 ^ 13 != 0) || !s.backed (pteKind e) (pn * 2 ^ 16) size || !s.allowed vf (pn * 2 ^ 16) size)
  else
    bits e 12 8 != 0 || bits e 1 10 != 0 || !isHbm (pn * 2 ^ 16) || !s.allowed vf (pn * 2 ^ 16) (2 ^ 16))

/-- check() of R280. -/
def checkPte (e : Word) (k : Acc) (user : Bool) : Bool :=
  (match k with
   | .read => pteR e
   | .write => pteW e
   | .exec => pteX e && (user || !pteU e)
   | .both => pteR e && pteW e) && (!user || pteU e)

/-! ## The walk (R280) -/

/-- Index of a virtual address at a level (R276). -/
def vaIndex (lv va : Nat) : Nat :=
  if lv = 1 then va / 2 ^ 42 % 4096 else if lv = 2 then va / 2 ^ 29 % 8192 else va / 2 ^ 16 % 8192

/-- A leaf found: the entry, whether it maps 512 MiB, and the address it stands at. -/
structure Leaf where
  entry : Word
  large : Bool
  at_ : Nat
  deriving DecidableEq, Repr

/-- No trap cause: the walk must wait for an earlier access of its strand (R281). -/
def mustWait : BitVec 8 := 0

/-- The levels of a walk; `fuel` counts those left, and level 3 never holds a pointer. A poisoned entry is poison consumed
(DEDUCED, log entry 20); an entry that the reader does not give yet holds the walk. -/
def State.walkFrom (s : State) (rd : Nat → Option Word) (vf va : Nat) : Nat → Nat → Except (BitVec 8) Leaf
  | 0, _ => .error 0x24
  | fuel + 1, t =>
    let lv := 3 - fuel
    let at_ := t + 8 * vaIndex lv va
    match rd at_ with
    | none => .error mustWait
    | some e =>
      if s.poisoned at_ then .error 0xC0
      else if !pteV e then .error 0x22
      else if s.malformed vf e lv then .error 0x24
      else if pteLf e then .ok { entry := e, large := lv == 2, at_ := at_ }
      else s.walkFrom rd vf va fuel (ptePpn e * 2 ^ 16)

/-- A walk of the tables of `ptroot` for function vf, up to the leaf (R276, R279, R280). -/
def State.walk (s : State) (rd : Nat → Option Word) (ptroot : Word) (vf va : Nat) : Except (BitVec 8) Leaf :=
  let root := bits ptroot 16 36 * 2 ^ 16
  if va ≥ 2 ^ 54 then .error 0x20
  else if !isHbm root || !s.allowed vf root (2 ^ 16) then .error 0x24
  else s.walkFrom rd vf va 3 root

/-- Address, vcache and kind that a leaf gives (R280, R358). -/
def leafXl (e : Word) (large : Bool) (va : Nat) : Xl :=
  let off := if large then va % 2 ^ 29 else va % 2 ^ 16
  if pteKind e = 1 then
    { pa := bits e 20 10 * 2 ^ 42 + bits e 30 6 * 2 ^ 36 + bits e 36 20 * 2 ^ 16 + off, vc := pteVc e, kind := 1 }
  else { pa := ptePpn e * 2 ^ 16 + off, vc := pteVc e, kind := pteKind e }

/-- check_vcache (R261): 0x28 undefined or being deleted, 0x29 owner mismatch. -/
def State.checkVcache (s : State) (vf vc : Nat) : Except (BitVec 8) Unit :=
  if vc ≤ 1 then .ok ()
  else match s.vcache? vc with
    | none => .error 0x28
    | some v => if v.deleting then .error 0x28
      else match v.plat? with
        | none => .error 0x28
        | some p => if p.owner != 0xFF && p.owner != vf then .error 0x29 else .ok ()

/-- A word as the focus strand reads it after all its earlier stores of both classes: the chunk's own version, else an older
chunk's, else memory under the store buffers. -/
def State.ownWord (s : State) (pa : Nat) : Word :=
  match if s.spec then findVer s.x.vers (pa / 8) else none with
  | some v => if v.written then v.data else (s.olderValue (pa / 8)).1
  | none => if s.spec then (s.olderValue (pa / 8)).1 else BitVec.ofNat 64 (leNat (s.joinBytes pa 8))

/-- An access of an instruction held in a queue touches the bytes. -/
def State.heldAt (s : State) (pa n : Nat) : Bool :=
  (s.st.vqueue ++ s.st.mqueue).any (fun it => match it.x.pipe with
    | some p => p.items.any (fun q => q.kind != 1 && decide (q.pa < pa + n) && decide (pa < q.pa + q.n))
    | none => false)

/-- The entry word as a walk of the focus strand reads it (R281): after every earlier access of either class, so that it waits for
one that a queue still holds. -/
def State.walkRead (s : State) (pa : Nat) : Option Word := if !s.spec && s.heldAt pa 8 then none else some (s.ownWord pa)

/-- The far atomic OR of a and d into an entry (R280, R281): after the strand's earlier stores, and into the chunk's own
version of the word where it holds one. -/
def State.orEntry (s : State) (at_ : Nat) (m : Word) : State :=
  let s := s.drainAll
  let s := s.pokeBytes at_ (leBytes 8 (s.mem64 at_ ||| m).toNat)
  let s := s.writeSeen true (at_ / 64)
  { s with x := { s.x with vers := s.x.vers.map (fun v =>
      if v.word = at_ / 8 && v.written then { v with data := v.data ||| m } else v) } }

/-! ## The translation buffers (R282) -/

def TlbEntry.covers (t : TlbEntry) (m : Nat) (asid : Word) (va : Nat) : Bool :=
  t.master == m && (pteG t.entry || t.asid == asid.setWidth 16) &&
    t.vpage == (if t.large then va / 2 ^ 29 else va / 2 ^ 16)

def State.tlbFind (s : State) (m : Nat) (asid : Word) (va : Nat) : Option TlbEntry :=
  s.tlb.find? (fun t => t.covers m asid va)

def State.tlbDrop (s : State) (m : Nat) (asid : Word) (va : Nat) : State :=
  { s with tlb := s.tlb.filter (fun t => !t.covers m asid va) }

def State.tlbFill (s : State) (m : Nat) (asid : Word) (va : Nat) (l : Leaf) : State :=
  let s := s.tlbDrop m asid va
  let page := if l.large then va / 2 ^ 29 else va / 2 ^ 16
  let t : TlbEntry := { master := m, asid := asid.setWidth 16, vpage := page, large := l.large, entry := l.entry }
  { s with tlb := s.tlb ++ [t] }

/-! ## Page classes (R284) -/

/-- The lines of an L1 that speculative and merge state of the given contexts hold. -/
def heldLines (cs : List Ctx) : List Nat :=
  (cs.flatMap (fun c => c.vers.map (fun v => v.word / 8) ++ c.partials.map (fun p => p.pa / 64))).eraseDups

/-- The lines of a page that the chunk contexts of a ring's strand hold, each with the core that has it. -/
def ringHeld (page ring : Nat) (r : Runner) : List (Nat × Nat) :=
  if r.st.place = .ring ring then
    (r.x :: (match r.st.fork with | some f => f.chunks | none => [])).flatMap (fun c =>
      ((heldLines [c]).filter (fun l => l / 1024 == page)).map (fun l => (ring * 8 + c.pos.toNat, l)))
  else []

/-- Reclassify an HBM page as shared: the owner ring writes back and drops its committed lines of the page; those that hold
speculative versions, merge state or exposed reads are kept, and the ring is entered in the directory as their holder. -/
def State.reclassify (s : State) (page ring : Nat) : State :=
  let kept := ({ x := s.x, st := s.st } :: s.parked).flatMap (ringHeld page ring)
  let s := s.evictAll (fun c => match c.holder with
    | .l1 core => core / 8 == ring && c.line / 1024 == page && !kept.contains (core, c.line)
    | .vcache _ => false
    | .host => false
    | .shelf _ => false
    | .engine _ => false
    | .fabric => false)
  kept.foldl (fun s k => s.dirEnter (.l1 k.1) k.2 false true) { s with classes := update page .shared s.classes }

/-- An access by a ring (some) or by any other agent (none) to the page of `pa` (R284). -/
def State.touch (s : State) (ring : Option Nat) (pa : Nat) : State :=
  if !isHbm pa then s
  else match classOf s (pa / 65536), ring with
    | none, some r => { s with classes := update (pa / 65536) (.priv r) s.classes }
    | none, none => s
    | some .shared, _ => s
    | some (.priv r), some q => if r = q then s else s.reclassify (pa / 65536) r
    | some (.priv r), none => s.reclassify (pa / 65536) r

/-- The ring of the focus strand, none on a gateway or the management core. -/
def State.ring? (s : State) : Option Nat :=
  match s.st.place with | .ring r => some r | .gateway _ => none | .management => none | .saved => none

/-! ## translate (R280) -/

def adMask (k : Acc) (e : Word) : Word :=
  (if pteA e then 0 else 0x40#64) ||| (if (k == .write || k == .both) && !pteD e then 0x80#64 else 0)

/-- A translation by a walk, with the a and d update and, where the space has a buffer, the fill. The walk of a strand is
ordered as an acquire of it, after its earlier accesses of either class (R281). -/
def State.xlateWalk (s : State) (rd : Nat → Option Word) (sp : Space) (k : Acc) (va : Nat) : State × Except (BitVec 8) Xl :=
  let s := match sp.master with | some m => (if s.spec then s else s.joinAll).tlbDrop m sp.asid va | none => s
  match s.walk rd sp.ptroot sp.vf va with
  | .error c => (s, .error c)
  | .ok l =>
    if !checkPte l.entry k sp.user then (s, .error 0x23)
    else
      let x := leafXl l.entry l.large va
      let m := adMask k l.entry
      let s := if m = 0 then s else s.orEntry l.at_ m
      let s := match sp.master with | some q => s.tlbFill q sp.asid va { l with entry := l.entry ||| m } | none => s
      match s.checkVcache sp.vf x.vc with
      | .error c => (s, .error c)
      | .ok _ => (s, .ok x)

/-- translate(va, kind) with check_vcache, through the buffer first. -/
def State.xlate (s : State) (rd : Nat → Option Word) (sp : Space) (k : Acc) (va : Nat) : State × Except (BitVec 8) Xl :=
  if va ≥ 2 ^ 54 then (s, .error 0x20)
  else match sp.master.bind (fun m => s.tlbFind m sp.asid va) with
    | some t =>
      if checkPte t.entry k sp.user then
        let x := leafXl t.entry t.large va
        match s.checkVcache sp.vf x.vc with
        | .error c => (s, .error c)
        | .ok _ => (s, .ok x)
      else s.xlateWalk rd sp k va
    | none => s.xlateWalk rd sp k va

/-- ATRAN's translation (R289): checked as for user level, no update, no fill. -/
def State.xlateProbe (s : State) (rd : Nat → Option Word) (sp : Space) (k : Acc) (va : Nat) : Except (BitVec 8) Xl :=
  let fresh : Except (BitVec 8) (Word × Bool) :=
    match s.walk rd sp.ptroot sp.vf va with
    | .error c => .error c
    | .ok l => .ok (l.entry, l.large)
  let found : Except (BitVec 8) (Word × Bool) :=
    if va ≥ 2 ^ 54 then .error 0x20
    else match sp.master.bind (fun m => s.tlbFind m sp.asid va) with
      | some t => if checkPte t.entry k true then .ok (t.entry, t.large) else fresh
      | none => fresh
  match found with
  | .error c => .error c
  | .ok (e, large) =>
    if !checkPte e k true then .error 0x23
    else
      let x := leafXl e large va
      match s.checkVcache sp.vf x.vc with
      | .error c => .error c
      | .ok _ => .ok x

/-- The page of an address is of fabric kind, whatever the access may do to it: found without effect. -/
def State.fabricPage (s : State) (sp : Space) (va : Nat) : Bool :=
  if va ≥ 2 ^ 54 then false
  else match sp.master.bind (fun m => s.tlbFind m sp.asid va) with
    | some t => pteKind t.entry == 1
    | none => match s.walk s.walkRead sp.ptroot sp.vf va with
      | .ok l => pteKind l.entry == 1
      | .error _ => false

/-- A translation by the hub or an engine: memory as it stands, no buffer. -/
def State.xlateHub (s : State) (sp : Space) (k : Acc) (va : Nat) : State × Except (BitVec 8) Xl :=
  s.xlate (fun a => some (s.mem64 a)) { sp with master := none } k va

/-! ## Translation logs (R287, R288) -/

def State.logBase (s : State) (n : Nat) : Nat := s.mbx.tlbase.toNat + n * 65536

/-- The buffers of a die: its rings, or the gateway cores on the hub. -/
def masterOnDie (m d : Nat) : Bool := dieOfMaster m == d

/-- Does a log entry (16 bytes: address, then asid and op) name a cached translation? -/
def logNames (addr asid op : Nat) (t : TlbEntry) : Bool :=
  match op with
  | 0 => (pteG t.entry || t.asid.toNat == asid) && (if t.large then t.vpage == addr / 2 ^ 29 else t.vpage == addr / 2 ^ 16)
  | 1 => !pteG t.entry && t.asid.toNat == asid
  | 2 => !pteG t.entry
  | 3 => true
  | _ => false

/-- Apply die n's log (R288). -/
def State.applyLog (s : State) (d : Nat) : State :=
  if d > 8 then s
  else
    let base := s.logBase d
    let app := (s.mem64 base).toNat
    let done := (s.mem64 (base + 8)).toNat
    let ovf := (s.memByte (base + 16)).getLsbD 0
    let count := (app + 2 ^ 64 - done) % 2 ^ 64
    let entry (c : Nat) : Nat × Nat × Nat :=
      let a := base + 64 + (c % 4092) * 16
      ((s.mem64 a).toNat, leNat (s.memBytes (a + 8) 2), (s.memByte (a + 10)).toNat)
    let es := (List.range (min count 4092)).map (fun i => entry ((done + i) % 2 ^ 64))
    let hit (t : TlbEntry) : Bool :=
      masterOnDie t.master d && (ovf || es.any (fun e => logNames e.1 e.2.1 e.2.2 t))
    let s := { s with tlb := s.tlb.filter (fun t => !hit t) }
    if count = 0 ∧ !ovf then s
    else
      let s := (s.pokeBytes (base + 8) (leBytes 8 app)).pokeBytes (base + 16) [s.memByte (base + 16) &&& 0xFE]
      s.writeSeen false (base / 64)

end Sys2Proof.Machine
end

