-- ==== Sys2Proof/Machine/End.lean ====
section
/-! DEFINITION. What ends a strand and what follows: Closure aborts (16 R374, R377), ring groups (03 R66, R67, 13 R305), the completion
word (03 R77), fencing and freezing (18 R403 to R406). -/

namespace Sys2Proof.Machine

/-! ## Acting on another strand -/

/-- Put the strand that `p` picks into the focus; none when no strand does. -/
def State.focusOn (s : State) (p : Strand → Bool) : Option State :=
  if p s.st then some s
  else match s.parked.findIdx? (fun r => p r.st) with
    | none => none
    | some i =>
      let old : Runner := { x := s.x, st := s.st }
      let new := s.parked.getD i old
      some { s with x := new.x, st := new.st, parked := s.parked.set i old }

/-- Act on the strand that `p` picks as the focus, and give the focus back (DEDUCED, log entry 2); not to a strand that has been saved
meanwhile, which is on no core. -/
def State.onStrand (s : State) (p : Strand → Bool) (f : State → State) : State :=
  let id := s.st.id
  let mg := s.st.place == .management
  match s.focusOn p with
  | none => s
  | some t =>
    let t := f t
    (t.focusOn (fun st => st.id == id && (st.place == .management) == mg && st.place != .saved)).getD t

/-! ## Ring groups (R66, R67, R305) -/

/-- Strands that wait at a GBAR of the launch's group are released with the phase. -/
def State.releaseGroup (s : State) (h : BitVec 32) (i : Nat) (phase : BitVec 32) : State :=
  let f (st : Strand) : Strand :=
    match st.wait with
    | some w => if idHandle st.id = h ∧ st.place ≠ .management ∧ w.kind = .gbar i then releaseWait 0 phase st else st
    | none => st
  { s with st := f s.st, parked := s.parked.map (fun r => { r with st := f r.st }) }

/-- The phase completes when every member of the map has arrived: the map is not empty, and the entry is not suspended. -/
def Group.complete (g : Group) : Bool :=
  !g.suspended && g.map != 0 && g.strands != 0 &&
    (List.range 64).all (fun i => !g.strands.getLsbD i || g.arrived.contains i)

def State.setGroup (s : State) (g : Group) : State :=
  { s with cp := { s.cp with groups := s.cp.groups.map (fun q =>
      if q.handle = g.handle ∧ q.index = g.index then g else q) } }

/-- Complete a group's pending phase if it can be. -/
def State.settleGroup (s : State) (g : Group) : State :=
  if g.complete then
    let s := s.setGroup { g with phase := g.phase + 1, arrived := [] }
    s.releaseGroup g.handle g.index g.phase
  else s.setGroup g

/-- The bit of a member in the maps of its launch's groups is set for the place it is given, or keeps while it is frozen (R66,
R67). -/
def State.joinGroups (s : State) (h : BitVec 32) (i m : Nat) : State :=
  { s with cp := { s.cp with groups := s.cp.groups.map (fun g =>
      if g.handle = h ∧ g.strands.getLsbD i then { g with map := g.map ||| (1#64 <<< m) } else g) } }

/-- A member ends or is fenced: its bit is cleared in every group of its launch (R67). -/
def State.leaveGroups (s : State) (id : StrandId) (master : Option Nat) : State :=
  let mine := s.cp.groups.filter (fun g => g.handle == idHandle id && g.strands.getLsbD (idIndex id))
  mine.foldl (fun s g =>
    let map := match master with | some m => g.map &&& ~~~((1#64) <<< m) | none => g.map
    s.settleGroup { g with
      strands := g.strands &&& ~~~((1#64) <<< idIndex id)
      map := map
      arrived := g.arrived.filter (· != idIndex id) }) s

/-! ## Closure: aborting a group this endpoint initiates (R370, R374, R377) -/

def State.setGroup1 (s : State) (g : Group1) : State :=
  { s with clo := { s.clo with mine := s.clo.mine.map (fun q => if q.loc = g.loc then g else q) } }

/-- The kinds of Closure messages. -/
inductive CloMsg where
  | store
  | ack
  | prepare
  | vote
  | publish
  | abort
  | done
  | query
  | answer
  deriving DecidableEq, Repr

def CloMsg.code : CloMsg → Nat
  | .store => 0
  | .ack => 1
  | .prepare => 2
  | .vote => 3
  | .publish => 4
  | .abort => 5
  | .done => 6
  | .query => 7
  | .answer => 8

/-- A write to a Closure port: kind, group, a small value, and the data that follow. The spec lays out no message format (log
entry 31). -/
def closureMsg (k : CloMsg) (g v : Nat) (data : List Byte) : List Byte :=
  leBytes 8 (record [(0, 1, k.code), (2, 2, g), (4, 4, v)]) ++ data

/-- The number of a local group (R364). -/
def State.groupNo (s : State) (loc : Nat) : Nat := bits s.fab.fxep 0 10 * 64 + loc

def State.closureSend (s : State) (dests : List Dest) (payload : List Byte) : State :=
  dests.foldl (fun s d => s.fabOut d.ep.toNat portClosure payload) s

/-- Abort an open group: ABORT goes to each destination so far, and the group stays held until they acknowledge. -/
def State.abortGroup (s : State) (g : Group1) (reason : BitVec 8) : State :=
  (s.setGroup1 { g with state := .aborted, reason := reason, held := !g.dests.isEmpty }).closureSend g.dests
    (closureMsg .abort (s.groupNo g.loc) reason.toNat [])

/-- Abort every group that the strand has opened and neither committed nor aborted, with reason 6. -/
def State.abortGroupsOf (s : State) (id : StrandId) : State :=
  (s.clo.mine.filter (fun g => g.owner == id && g.held && (g.state == .open_ || g.state == .doomed))).foldl
    (fun s g => s.abortGroup g 6) s

/-! ## The end of a launch (R77) -/

/-- Completion word, notify message, and release of the launch's entries. -/
def State.completeLaunch (s : State) (l : Launch) : State :=
  let w : Word := BitVec.ofNat 64 (2 ^ 63 + l.endedFault % 2 ^ 31 * 2 ^ 32 + l.endedOk)
  let sp : Space := { ptroot := l.ptroot, asid := l.asid, vf := l.vf.toNat, user := true, master := none }
  let s := match s.xlateHub sp .write l.done.toNat with
    | (s, .ok x) => if x.fabric then s.log 0 0x23 else ((s.touch none x.pa).agentLines 0 x.vc x.pa 8 true).performWhole x.pa (leBytes 8 w.toNat)
    | (s, .error c) => s.log 0 c.toNat
  let s := if l.notify then
      s.hubSend (s.bindTarget l.issuer l.target)
        { payload := BitVec.ofNat 512 (record [(0, 4, l.handle.toNat), (8, 8, w.toNat)]), sender := hubSender 3 }
    else s
  { s with cp := { s.cp with
      launches := s.cp.launches.filter (fun m => m.handle != l.handle)
      groups := s.cp.groups.filter (fun g => g.handle != l.handle) } }

/-- The request carries an access of its strand, whose performance its answer shows (R359). -/
def FabKind.isAccess : FabKind → Bool
  | .read => true
  | .write => true
  | .atomic => true
  | .vector => true
  | .message => false
  | .engine => false
  | .engineRead => false
  | .group => false

/-- Every strand of the launch has ended, and every access of theirs is performed (R77). -/
def State.launchDone (s : State) (l : Launch) : Bool :=
  l.endedOk + l.endedFault == l.nring + l.ngate && !s.fab.reqs.any (fun q => q.kind.isAccess && idHandle q.owner == l.handle)

/-- Launches that are done complete. -/
def State.settleLaunches (s : State) : State := (s.cp.launches.filter s.launchDone).foldl State.completeLaunch s

/-- Count an ended strand, and complete its launch when it was the last. -/
def State.countEnded (s : State) (id : StrandId) (faulted : Bool) : State :=
  match s.launch? (idHandle id) with
  | none => s
  | some l =>
    let l := if faulted then { l with endedFault := l.endedFault + 1 } else { l with endedOk := l.endedOk + 1 }
    (s.setLaunch l).settleLaunches

/-! ## The end of a strand -/

/-- The focus strand leaves: the management core becomes the focus. -/
def State.dropFocus (s : State) : State :=
  match s.parked.find? (fun r => r.st.place == .management) with
  | some r => { s with x := r.x, st := r.st, parked := s.parked.filter (fun q => q.st.place != .management) }
  | none => s

def setMaster (cp : Cp) (m : Option Nat) (v : Master) : Cp :=
  match m with | some k => { cp with masters := vset cp.masters k v } | none => cp

/-- An L1 cache of a ring, or of a gateway core. -/
def l1Of (m : Nat) (a : Agent) : Bool :=
  match a with
  | .l1 core => if m < 48 then core / 8 == m else core == 384 + (m - 48)
  | .vcache _ => false
  | .host => false
  | .shelf _ => false
  | .engine _ => false
  | .fabric => false

/-- A strand leaves its ring or gateway core: the L1 lines go, dirty ones by a write-back (R72), and the translations leave its buffer at
this context switch (R198; DEDUCED, log entry 115). -/
def State.leaveMaster (s : State) (m : Option Nat) : State :=
  match m with
  | none => s
  | some k =>
    let s := s.evictAll (fun l => l1Of k l.holder)
    { s with tlb := s.tlb.filter (fun t => t.master != k) }

/-- The focus strand ends: its accesses are performed, its group bits cleared, its ring goes to reclaim (or out of service),
and its launch counts it (R72, R76, R77, R404). -/
def State.endStrand (s : State) (faulted retire : Bool) : State :=
  let id := s.st.id
  let s := s.drainAll.flushScatter id
  let m := s.st.place.master?
  let s := { s with waiters := s.waiters.filter (fun w => w.id != id) }
  let s := s.leaveGroups id m
  let s := ({ s with cp := setMaster s.cp m (if retire then .retired else .reclaiming) } : State).leaveMaster m
  (s.dropFocus).countEnded id faulted

/-- Number of a ring, gateway core in events (R405); the management core has none. -/
def State.masterNo (s : State) : Nat := (s.st.place.master?).getD 0

/-- Fence the focus strand (R404) with the event of the given kind. Its speculative chunks, and the merge partials not yet
combined, are lost. -/
def State.fence (s : State) (r : TrapRec) (kind extra win : Nat) (retire : Bool) : State :=
  let ev := eventRecord kind s.masterNo s.st.id r extra win
  let v := s.st.vf.toNat
  let s := s.abortGroupsOf s.st.id
  let s := { s with st := { s.st with fork := none } }
  (s.endStrand true retire).sendEvent v ev

/-- contain(cause) of R393: 0xA0 is a fatal context error, 0xC0 fences, 0xC1 fences and retires the core. A management core
that must be contained stops fetching (DEDUCED, log entry 23). -/
def State.contain (s : State) (r : TrapRec) : State :=
  if s.st.place = .management then { s with mg := { s.mg with halted := true } }
  else if r.cause = 0xA0 then s.fence r 6 s.st.fatalEp.toNat s.st.fatalWin.toNat false
  else s.fence r 4 0 0 (r.cause == 0xC1)

/-- freeze(0xE2) (R405): the record of the event is that of the second trap; the member keeps its bits (R67). -/
def State.freeze (s : State) (r : TrapRec) : State :=
  if s.st.place = .management then { s with mg := { s.mg with halted := true } }
  else
    let ev := eventRecord 5 s.masterNo s.st.id r 0 0
    let v := s.st.vf.toNat
    let s := match s.st.place.master? with
      | some m => s.joinGroups (idHandle s.st.id) (idIndex s.st.id) m
      | none => s
    ({ s with st := { s.st with phase := .frozen } }).sendEvent v ev

end Sys2Proof.Machine
end

