-- ==== Sys2Proof/Machine/Ops.lean ====
section
/-! DEFINITION. The shared operations of the meanings: registers, taking a trap and returning from one (18 R393, R400), the
dispatch gate (02 R48), waiting for head (05 R117), and every load and store of the focus (10 R238, 04 R86 to R89). A meaning
is a computation in `Except State`: `error t` is a finished state, of an instruction that trapped, stalled or ended its
strand. -/

namespace Sys2Proof.Machine

/-- A computation on the state that may end early in a finished state. -/
abbrev Run (α : Type) := Except State α

/-- The outcome of a meaning: a next state either way. -/
def finish (r : Run State) : Host.Outcome State Fault Refusal :=
  match r with
  | .ok s => .next s
  | .error s => .next s

/-! ## Scalar registers (R44, R81) -/

def State.getS (s : State) (r : BitVec 5) : Word := if r = 0 then 0 else vget s.x.sreg 0 r.toNat

/-- Write a scalar register; s0 discards. A written register no longer awaits a chain value (R107). -/
def State.setS (s : State) (r : BitVec 5) (v : Word) : State :=
  if r = 0 then s
  else { s with x := { s.x with
    sreg := vset s.x.sreg r.toNat v, await := s.x.await &&& ~~~((1#32) <<< r.toNat) } }

/-! ## Counters (R430 to R432) -/

/-- Add k to the counters of the focus strand that count `ev`. -/
def State.countBy (s : State) (ev k : Nat) (user : Bool) : State := { s with st := s.st.countBy ev k user }

def State.count (s : State) (ev : Nat) : State := s.countBy ev 1 (s.lvl == 0)

/-! ## Taking a trap and returning from one -/

/-- Level of a handler: supervisor, or machine on the management core (R393, R438). -/
def State.handlerLevel (s : State) : Nat := if s.st.place = .management then 3 else 1

/-- Trap entry at tvec (R393, R394). -/
def State.enter (s : State) (r : TrapRec) (held async : Bool) : State :=
  let s := s.count 0x0D
  let t := s.st.trap
  let st := t.status
  let status := putBits (putBits (putBits (putBits (putBits st 2 2 (if s.st.place = .management then 3 else bits st 0 2))
    0 2 s.handlerLevel) 7 1 (bits st 6 1)) 6 1 0) 5 1 1
  let cause : Word := BitVec.ofNat 64 (r.cause.toNat + r.akind.toNat * 2 ^ 8 + (if held then 2 ^ 10 else 0) +
    (if async then 2 ^ 11 else 0))
  { s with
    x := { s.x with pc := t.tvec.setWidth 54, held := none, replies := [], pipe := none }
    st := { s.st with trap := { t with
      status := status, tcause := cause, tpc := r.pc.setWidth 64, tval := r.tval, telem := r.telem, tstride := r.tstride,
      tremain := r.tremain } } }

/-- trap(cause) of R393 for the executing chunk once it is head. -/
def State.take (s : State) (r : TrapRec) (held : Bool) : State :=
  if r.cause = 0xA0 ∨ r.cause = 0xC0 ∨ r.cause = 0xC1 then s.contain r
  else if bit s.st.trap.status 5 then s.freeze r
  else s.enter r held false

/-- trap(cause) of R393: a speculative chunk holds it (R118). An access whose walk must wait for an earlier one stalls (R281). -/
def State.raise (s : State) (r : TrapRec) : State :=
  if r.cause = mustWait then s
  else if s.spec then { s with x := { s.x with held := some r, replies := [], pipe := none } } else s.take r false

/-- The return of TRET (R400), its checks passed. -/
def State.tretTo (s : State) (t : BitVec 54) : State :=
  let st := s.st.trap.status
  let mg := s.st.place = .management
  let status := putBits (putBits (putBits (putBits st 0 2 (if mg then 3 else bits st 2 2)) 2 2 (if mg then 3 else 0))
    6 1 (bits st 7 1)) 5 1 0
  { s with x := { s.x with pc := t }, st := { s.st with trap := { s.st.trap with status := status } } }

/-- Raise a trap with an S record at the instruction at pc. -/
def State.trapS (s : State) (cause : BitVec 8) (tval : Word) : State :=
  s.raise { cause := cause, pc := s.x.pc, tval := tval }

/-- The instruction word as a trap value. -/
def wordOf (i : Instr) : Word := (encode i).setWidth 64

/-- Raise an access fault with an S record. -/
def State.trapA (s : State) (cause : BitVec 8) (akind : BitVec 2) (va : Word) : State :=
  s.raise { cause := cause, akind := akind, pc := s.x.pc, tval := va }

/-! ## Completion -/

/-- The instruction at pc completes and control passes to `pc`. -/
def State.goto (s : State) (pc : BitVec 54) : State :=
  { s with retired := true, x := { s.x with pc := pc, replies := [], pipe := none } }

/-- The instruction completes and the next word follows (R28). -/
def State.advance (s : State) : State := s.goto (s.x.pc + 4)

/-- Write a result and complete. -/
def State.result (s : State) (d : BitVec 5) (v : Word) : State := (s.setS d v).advance

/-! ## The dispatch gate (R48) -/

/-- What an instruction needs: an accepted feature, a level, and the cores that run it. -/
structure Need where
  feat : Option Nat := none
  lvl : Nat := 0
  mgmt : Bool := false
  ring : Bool := true
  gateway : Bool := true
  deriving DecidableEq, Repr

def Need.runsOn (n : Need) : Place → Bool
  | .ring _ => n.ring
  | .gateway _ => n.gateway
  | .management => n.mgmt
  | .saved => false

/-- The checks of R48 after decode_check, in their order: feature 0x03, level 0xE1, kind of core 0x01. -/
def gate (i : Instr) (n : Need) (s : State) : Run Unit :=
  if (match n.feat with | some b => !s.feature b | none => false) then .error (s.trapS 0x03 (wordOf i))
  else if s.lvl < n.lvl then .error (s.trapS 0xE1 (wordOf i))
  else if !n.runsOn s.st.place then .error (s.trapS 0x01 (wordOf i))
  else .ok ()

/-- The scalar majors 0x01 to 0x11, 0x14 and 0x17: every core runs them (R438). -/
def Need.any : Need := { mgmt := true }

/-- head_wait() (R117): a speculative chunk stalls. -/
def headWait (s : State) : Run Unit := if s.spec then .error s else .ok ()

def check (b : Bool) (fail : State) : Run Unit := if b then .ok () else .error fail

/-- The focus is in a fork: cflags[0]. -/
def State.inFork (s : State) : Bool := s.st.active

/-! ## Where an address leads -/

/-- A place in memory that an access of the focus reaches: the management core's SRAM, or translated memory. -/
inductive Loc where
  | sram (a : Nat)
  | mem (x : Xl)
  deriving DecidableEq, Repr

/-- The management core's addresses (R438): SRAM, or the physical map under bit 53. (DEDUCED, log entry 37.) -/
def mgmtLoc (va : Nat) : Except (BitVec 8) Loc :=
  if va < 0x40000 then .ok (.sram va)
  else if va < 2 ^ 54 ∧ va / 2 ^ 53 = 1 then
    let pa := va % 2 ^ 52
    if isHbm pa || isHostMem pa || isPool pa then .ok (.mem { pa := pa, vc := 1, kind := if isPool pa then 2 else 0 })
    else .error 0x20
  else .error 0x20

/-- Translate an address of the focus (R280), or map it on the management core. -/
def State.locate (s : State) (k : Acc) (va : Nat) : State × Except (BitVec 8) Loc :=
  if s.st.place = .management then (s, mgmtLoc va)
  else match s.xlate s.walkRead s.space k va with
    | (s, .ok x) => (s, .ok (.mem x))
    | (s, .error c) => (s, .error c)

/-- An access that waits keeps the translation and the vcache check that it has passed (R261). -/
def State.keepXl (s : State) (va : Nat) (x : Xl) : State :=
  let q : PipeItem := { i := 0, f := 0, va := BitVec.ofNat 64 va, n := 0, pa := x.pa, vc := x.vc, kind := x.kind }
  { s with x := { s.x with pipe := some { items := [q], fault := none } } }

/-- The translation that the scalar instruction at pc has kept for an address. -/
def State.keptXl (s : State) (va : Nat) : Option Xl :=
  s.x.pipe.bind (fun p => (p.items.find? (fun q => q.va.toNat == va && q.n == 0)).map (fun q => { pa := q.pa, vc := q.vc, kind := q.kind }))

/-- `locate` for a scalar access: a failure is raised with an S record, tval holding the address. -/
def State.reach (s : State) (k : Acc) (va : Nat) : Run (State × Loc) :=
  match s.keptXl va with
  | some x => .ok (s, .mem x)
  | none => match s.locate k va with
    | (s, .ok l) => .ok (s, l)
    | (s, .error c) => .error (s.trapA c k.akind (BitVec.ofNat 64 va))

/-- A run that ends early only where it must wait: the wait keeps the translation of `va`. -/
def Run.keeping {α : Type} (va : Nat) (x : Xl) (r : Run α) : Run α :=
  match r with
  | .ok a => .ok a
  | .error s => .error (s.keepXl va x)

/-- The merge region of the current fork that an access touches (R120). -/
def State.regionAt (s : State) (va n : Nat) : Option (Nat × Region) :=
  if !s.inFork then none
  else (List.range 4).findSome? (fun i => match vget s.st.regions none i with
    | some r => if va < r.base + r.len ∧ r.base < va + n then some (i, r) else none
    | none => none)

/-- A line that a staged store of an in-doubt group covers stalls every access (R369). -/
def State.inDoubt (s : State) (pa n : Nat) : Bool :=
  s.clo.here.any (fun g => g.state == .inDoubt &&
    g.stores.any (fun t => (linesOf t.pa t.data.length).any (fun l => (linesOf pa n).contains l)))

/-- The access must wait: for a group in doubt, or for the host. -/
def State.blocked (s : State) (write : Bool) (pa n : Nat) : Bool := s.inDoubt pa n || !(s.hostLines write pa n).isEmpty

/-- The local part of an access at pa may go on: no line in doubt, none that the host may hold. -/
def State.settled (s : State) (write : Bool) (pa n : Nat) : Run Unit :=
  check (!s.blocked write pa n) (s.askHost write s.st.id (s.hostLines write pa n))

/-- An access that waited for the host has been performed. -/
def State.hostDone (s : State) (pa n : Nat) : State :=
  { s with cache := { s.cache with backInv := s.cache.backInv.filter (fun b => !(b.answered && (linesOf pa n).contains b.line)) } }

/-- An access to the bytes that the host has given up is under way. -/
def State.hostWaits (s : State) (pa n : Nat) : Bool :=
  s.cache.backInv.any (fun b => b.answered && (linesOf pa n).contains b.line)

/-! ## L1 room for speculative lines (R115) -/

/-- The contexts of the focus core's L1: the focus and those at its ring position. -/
def State.coreCtxs (s : State) : List Ctx :=
  s.x :: (match s.st.fork with | some f => f.chunks.filter (fun c => c.pos == s.x.pos) | none => [])

/-- The set of a line in L1 (PRESUMED, log entry 12), and whether its 8 ways hold other speculative or merge-state lines. -/
def l1Set (line : Nat) : Nat := line % 512
def State.l1Full (s : State) (line : Nat) : Bool :=
  let h := heldLines s.coreCtxs
  !h.contains line && decide (8 ≤ (h.filter (fun l => l1Set l == l1Set line)).length)

/-- Allocate a line for speculative or merge state: a speculative chunk stalls when the set is full, the head squashes the
youngest chunk that holds a line of the set, which frees its ways. -/
def State.allocLine (s : State) (line : Nat) : Run State :=
  if !s.l1Full line then .ok s
  else if s.spec then .error s
  else
    let young := (s.coreCtxs.filter (fun c => (heldLines [c]).any (fun l => l1Set l == l1Set line))).foldl
      (fun m c => max m c.cnum.toNat) 0
    .ok (s.squash young)

/-! ## Local loads and stores of one class -/

/-- A read-only copy that was made after the launch of the focus strand was admitted (R253). -/
def State.roUsable (s : State) (c : RoCopy) : Bool :=
  match s.launch? (idHandle s.st.id) with
  | some l => decide (l.serial ≤ c.born)
  | none => true

/-- The bytes a load of the focus returns from local memory (R238): the chunk's versions, a read-only copy, or memory under the
store buffer of its class. -/
def State.loadLocal (s : State) (vector : Bool) (x : Xl) (n : Nat) : Run (State × List Byte) := do
  s.settled false x.pa n
  check (s.windowOpen x.vc x.pa n) s
  let s := ((s.touch s.ring? x.pa).loadPackets x.vc x.pa n).hostDone x.pa n
  if s.spec then
    let s ← (linesOf x.pa n).foldlM (fun s l => s.allocLine l) s
    .ok (s.verReadBytes x.pa n)
  else
    let s ← if s.st.fork.isSome then (linesOf x.pa n).foldlM (fun s l => s.allocLine l) s else .ok s
    let bs := s.viewBytes vector x.pa n
    if s.policy x.vc = 3 then
      .ok (s, (List.range n).map (fun i =>
        match s.roCopies.find? (fun c => c.vcache == x.vc && c.line == (x.pa + i) / 64 && s.roUsable c) with
        | some c => BitVec.ofNat 8 (c.data.toNat / 256 ^ ((x.pa + i) % 64))
        | none => bs.getD i 0))
    else .ok (s, bs)

/-- A store of the focus to local memory (R238): into the chunk's versions, or into the store buffer of its class, announced
to younger chunks (R111). -/
def State.storeLocal (s : State) (vector : Bool) (x : Xl) (bs : List Byte) : Run State := do
  s.settled true x.pa bs.length
  check (s.windowOpen x.vc x.pa bs.length) s
  let s := s.touch s.ring? x.pa
  if s.spec then
    let s ← (linesOf x.pa bs.length).foldlM (fun s l => s.allocLine l) s
    .ok (s.verWriteBytes x.pa bs)
  else
    let s ← if s.st.fork.isSome then (linesOf x.pa bs.length).foldlM (fun s l => s.allocLine l) s else .ok s
    let s := (pieces x.pa bs.length).foldl (fun s p => s.announce p.1) s
    let s := s.bufferStore vector x.pa x.vc bs
    .ok (if s.hostWaits x.pa bs.length then s.drainAll.hostDone x.pa bs.length else s)

/-! ## Fabric requests (R358 to R360) -/

/-- The window address of a fabric-kind translation (R353). -/
def Xl.fabAddr (x : Xl) : Word := BitVec.ofNat 64 (x.window * 2 ^ 36 + x.off)

/-- What a request to a window carries: kind (0 read, 1 write, 2 atomic), atomic code, byte count, then the data (DESIGN CHOICE, log entry 31). -/
def windowMsg (kind op n : Nat) (data : List Byte) : List Byte := leBytes 8 (record [(0, 1, kind), (1, 1, op), (2, 2, n)]) ++ data

/-- Send a request of the focus strand, which crosses to the hub (R329), and count it (R430). -/
def State.sendReq (s : State) (kind : FabKind) (ep : Nat) (window off : Nat) (va addr : Word) (slot : Option Nat)
    (payload : List Byte) : State × Nat :=
  let id := s.fab.nextId
  let q : FabReq := { id := id, kind := kind, owner := s.st.id, va := va, ep := BitVec.ofNat 10 ep,
                      window := BitVec.ofNat 6 window, off := off, slot := slot, sentAt := s.time }
  let s := { s with fab := { s.fab with nextId := id + 1, reqs := s.fab.reqs ++ [q] }, net := s.net.send s.die 0 { cls := .request } }
  ((s.fabOut ep addr payload).count 0x0E, id)

/-- The answer to the n-th request of the instruction at pc, which is sent on the first try and waited for. A failure raises
0xA1, poison 0xC0, with an S record. (DEDUCED, log entry 13.) -/
def State.remote (s : State) (n : Nat) (kind : FabKind) (akind : BitVec 2) (x : Xl) (va : Word) (payload : List Byte) :
    Run (State × List Byte) :=
  match s.x.replies[n]? with
  | none =>
    let (s, id) := s.sendReq kind x.ep x.window x.off va x.fabAddr none payload
    .error { s with x := { s.x with replies := s.x.replies ++ [.waiting id] } }
  | some (.waiting _) => .error s
  | some (.data bs) => .ok (s, bs)
  | some .poison => .error (s.trapA 0xC0 akind va)
  | some .failed => .error (s.trapA 0xA1 akind va)

/-- A posted store through a window (R360). -/
def State.post (s : State) (x : Xl) (va : Word) (bs : List Byte) : State :=
  (s.sendReq .write x.ep x.window x.off va x.fabAddr none (windowMsg 1 0 bs.length bs)).1

/-- A .SYS ordering instruction waits for the acknowledgements of the strand's fabric stores, and reports those that failed in one
trap with the oldest one's address (R359, R360). (DEDUCED, log entry 116.) -/
def State.sysWait (s : State) : Run Unit :=
  if s.fab.reqs.any (fun q => q.owner == s.st.id && q.kind == .write) then .error s
  else match s.st.failedStores with
    | va :: _ => .error ({ s with st := { s.st with failedStores := [] } }.trapA 0xA1 2 va)
    | [] => .ok ()

/-! ## Scalar accesses -/

/-- head_wait() of R89 for a page of fabric kind, before anything else. -/
def State.fabricFirst (s : State) (ea : Word) : Run Unit :=
  check (!(s.spec && s.fabricPage s.space ea.toNat)) s

/-- scalar_address(n) of R86 for the address ea; on a page of fabric kind head_wait() comes first (R89). -/
def State.scalarCheck (s : State) (k : Acc) (ea : Word) (n : Nat) : Run Unit := do
  s.fabricFirst ea
  check (decide (ea.toNat < 2 ^ 54)) (s.trapA 0x20 k.akind ea)
  check (decide (ea.toNat % n = 0)) (s.trapA 0x21 k.akind ea)

/-- A plain access that touches a merge region traps (R120); of a scalar access before its translation (DESIGN CHOICE, log entry
103). -/
def State.regionCheck (s : State) (k : Acc) (va : Word) (n : Nat) : Run Unit :=
  check (s.regionAt va.toNat n).isNone (s.trapA 0x43 k.akind va)

/-- mem_read of a scalar access (R238), its address checked: n bytes. -/
def State.memRead (s : State) (va : Word) (n : Nat) : Run (State × List Byte) := do
  s.regionCheck .read va n
  let (s, l) ← s.reach .read va.toNat
  match l with
  | .sram a => .ok (s, Memory.readBytes s.sram (fun _ => 0) a n)
  | .mem x =>
    if x.fabric then do
      headWait s
      s.remote 0 .read 1 x va (windowMsg 0 0 n [])
    else do
      let lost := s.lostRead x.vc x.pa n
      let (s, bs) ← Run.keeping va.toNat x (s.loadLocal false x n)
      check (!lost && !(linesOf x.pa n).any (fun l => s.poisonedFor (l * 64))) (s.trapA 0xC0 1 va)
      .ok (s, bs)

/-- mem_write of a scalar access (R238); one that meets a poisoned line is a machine check, MRECV's of a whole line too (DESIGN CHOICE,
log entry 109). -/
def State.memWrite (s : State) (va : Word) (bs : List Byte) : Run State := do
  s.regionCheck .write va bs.length
  let (s, l) ← s.reach .write va.toNat
  match l with
  | .sram a => .ok { s with sram := Memory.writeBytes s.sram (fun _ => 0) a bs }
  | .mem x =>
    if x.fabric then do
      headWait s
      .ok (s.post x va bs)
    else do
      check (!(linesOf x.pa bs.length).any (fun l => s.poisonedFor (l * 64))) (s.trapA 0xC0 2 va)
      Run.keeping va.toNat x (s.storeLocal false x bs)

/-- Access size in bytes of a w code (R34). -/
def wSize (w : Nat) : Nat := 2 ^ (w % 4)

/-- Extend loaded bytes (R87): codes 4 to 6 are signed. -/
def wExtend (w : Nat) (bs : List Byte) : Word :=
  if 4 ≤ w then toWord (sextN (leNat bs) (8 * bs.length)) else BitVec.ofNat 64 (leNat bs)

/-- A load of width code w from ea (R87). -/
def State.loadW (s : State) (ea : Word) (w : Nat) : Run (State × Word) := do
  s.scalarCheck .read ea (wSize w)
  let (s, bs) ← s.memRead ea (wSize w)
  .ok (s, wExtend w bs)

/-- A store of width code w to ea (R87). -/
def State.storeW (s : State) (ea : Word) (w : Nat) (v : Word) : Run State := do
  s.scalarCheck .write ea (wSize w)
  s.memWrite ea (leBytes (wSize w) v.toNat)

/-! ## Acquire and release -/

/-- An acquire at .PKG or .SYS applies the die's translation log (R288). -/
def State.acquire (s : State) : State := if s.st.place = .management then s else s.applyLog s.die

/-- Every earlier access of the strand is performed at a scope up to .PKG. -/
def State.release (s : State) : State := if s.spec then s else s.drainAll.flushScatter s.st.id

/-- Release at .SYS: the fabric's acknowledgements too. -/
def State.releaseSys (s : State) : Run State := do
  let s := s.release
  s.sysWait
  .ok s

end Sys2Proof.Machine
end

