-- ==== Sys2Proof/Machine/Flags.lean ====
section
/-! DEFINITION. The status registers: access by level (02 R45, R46), reading (04 R94), and each owner's write rules: vl and
vtype (07 R154 to R157), fork flags (05 R103), trap state (18 R391, R392), translation (12 R277), counters (24 R429),
management registers (25 R439, R443, R444). Branch conditions (02 R35). The K9 has no arithmetic condition flags (04 R81). -/

namespace Sys2Proof.Machine

/-! ## vtype (R154, R155) -/

def vill (vt : Word) : Bool := bit vt 63

/-- Element width in bits and registers per group. -/
def ewOf (vt : Word) : Nat := 8 * 2 ^ bits vt 0 2
def vgmOf (vt : Word) : Nat := 2 ^ bits vt 2 2

/-- VLMAX (R155). -/
def vlmaxOf (vt : Word) : Nat := min (vgmOf vt * 16384 / ewOf vt) 2048

/-- The value vtype takes when illegal bits are asked for (R156, R157). -/
def villValue : Word := 0x8000000000000000

def State.ew (s : State) : Nat := ewOf s.x.vtype
def State.vgm (s : State) : Nat := vgmOf s.x.vtype
def State.vl (s : State) : Nat := s.x.vl.toNat
def State.vbeg (s : State) : Nat := s.x.vbeg.toNat

/-- SSET of vl and of vtype (R156). -/
def State.writeVl (s : State) (v : Word) : State :=
  { s with x := { s.x with vl := BitVec.ofNat 64 (min v.toNat (vlmaxOf s.x.vtype)) } }

def State.writeVtype (s : State) (v : Word) : State :=
  { s with x := { s.x with vtype := if bits v 6 58 = 0 then v else villValue } }

/-! ## Branch conditions (R35) -/

inductive Cond where
  | eq
  | ne
  | lt
  | ge
  | ltn
  | gen
  deriving DecidableEq, Repr

def Cond.holds (c : Cond) (x y : Word) : Bool :=
  match c with
  | .eq => x == y
  | .ne => x != y
  | .lt => decide (x.toInt < y.toInt)
  | .ge => decide (y.toInt ≤ x.toInt)
  | .ltn => decide (x.toNat < y.toNat)
  | .gen => decide (y.toNat ≤ x.toNat)

/-! ## Access by level (R45, R46) -/

/-- What a level may do with a status register. -/
inductive Access where
  | none
  | ro
  | rw
  deriving DecidableEq, Repr

/-- R45, for level 0, 1 or 3; no access class for a number that is not in the table. -/
def statusAccess (n lvl : Nat) : Option Access :=
  let sup : Access := if lvl = 0 then .ro else .rw
  if n = 1 ∨ n = 2 then some sup
  else if n = 3 then some .rw
  else if 0x10 ≤ n ∧ n ≤ 0x15 then some (if lvl = 3 then .rw else .ro)
  else if n = 0x20 ∨ n = 0x21 then some .rw
  else if 0x30 ≤ n ∧ n ≤ 0x34 then some .ro
  else if n = 0x40 then some .ro
  else if 0x100 ≤ n ∧ n ≤ 0x108 then some (if lvl = 0 then .none else .rw)
  else if n = 0x110 ∨ n = 0x111 then some (if lvl = 0 then .none else .rw)
  else if 0x200 ≤ n ∧ n ≤ 0x203 then some sup
  else if 0x300 ≤ n ∧ n ≤ 0x30F then some (if lvl = 3 then .rw else .none)
  else none

/-- A privileged write: not RW at user level (R97). -/
def privilegedWrite (n : Nat) : Bool := statusAccess n 0 != some .rw

/-- The checks of R46; `writes` for SSET and SXCH. -/
def statusCheck (i : Instr) (n : Nat) (writes : Bool) (s : State) : Run Unit :=
  match statusAccess n s.lvl with
  | Option.none => .error (s.trapS 0x01 (wordOf i))
  | some .none => .error (s.trapS 0xE1 (wordOf i))
  | some .ro => if writes then .error (s.trapS 0x01 (wordOf i)) else .ok ()
  | some .rw => .ok ()

/-! ## Composed registers -/

def b2n (b : Bool) (w : Nat) : Nat := if b then w else 0

/-- cflags (R103): head reads 0 outside a fork. -/
def State.cflags (s : State) : Word :=
  BitVec.ofNat 64 (b2n s.st.active 1 + b2n s.st.serial 2 + b2n s.st.nopred 4 +
    b2n (s.st.active && !s.spec && s.st.fork.isSome) 8 + b2n s.st.broke 16 + b2n s.x.inline.isSome 32)

/-- inboxst (R311). -/
def State.inboxst (s : State) : Word :=
  BitVec.ofNat 64 (s.st.inbox.length + s.st.overflow.length * 2 ^ 6 + s.st.retry.length * 2 ^ 16 + s.st.lost.toNat * 2 ^ 22)

/-- Ring index, or 48 + gateway core (R79); no value is given for the management core (DESIGN CHOICE, log entry 7). -/
def State.ringid (s : State) : Nat :=
  match s.st.place.master? with
  | some m => m
  | none => (Config.freeBits s.undef 4 6).toNat

/-- Global core number (R13). -/
def State.coreid (s : State) : Nat :=
  match s.st.place with
  | .ring r => 8 * r + s.x.pos.toNat
  | .gateway g => 384 + g
  | .management => 400
  | .saved => 400

/-! ## Management registers (R439) -/

def dieOfSensor (i : Nat) : Nat := if i < 64 then 1 + i / 8 else if i < 80 then 9 + (i - 64) / 4 else 0

def Mgmt.sensor? (m : Mgmt) : Option Sensor := m.sensors.toArray[m.sel.toNat]?

/-- mgpend: bit d is set while some sensor of die d is in alert. -/
def Mgmt.pend (m : Mgmt) : Nat :=
  (List.range 13).foldl (fun acc d =>
    acc + b2n ((List.range 96).any (fun i => dieOfSensor i == d && ((m.sensors.toArray[i]?).map (·.alert)).getD false)) (2 ^ d)) 0

/-- What a management register reads; mgalrt with no sensor selected, and mglogw, read 0 (DESIGN CHOICE, log entry 119). -/
def State.readMgmt (s : State) (n : Nat) : Word :=
  let m := s.mg
  match n with
  | 0x300 => m.sel.setWidth 64
  | 0x301 => match m.sensor? with | some q => q.temp.setWidth 64 | none => 0
  | 0x302 => match m.sensor? with | some q => (q.rel ++ q.alrt).setWidth 64 | none => 0
  | 0x303 => BitVec.ofNat 64 m.pend
  | 0x304 => m.thr.setWidth 64
  | 0x305 => m.energy ++ m.cpw ++ m.modw
  | 0x306 => m.tail
  | 0x307 => 0
  | 0x308 => BitVec.ofNat 64 s.time
  | 0x309 => m.trip.setWidth 64
  | _ => 0

/-- A write of mgalrt (R439): rel is at most alrt; discarded while sel selects no sensor. -/
def State.writeMgalrt (s : State) (v : Word) : State :=
  let alrt : BitVec 16 := v.setWidth 16
  let rel : BitVec 16 := (v >>> 16).setWidth 16
  let rel := if rel.toInt > alrt.toInt then alrt else rel
  match s.mg.sensor? with
  | some q => { s with mg := { s.mg with sensors := vset s.mg.sensors s.mg.sel.toNat { q with rel := rel, alrt := alrt } } }
  | none => s

def State.writeMgthr (s : State) (v : Word) : State := { s with mg := { s.mg with thr := v.setWidth 32 } }

/-- A firmware record (R444): bit 63 is forced to 1. -/
def State.writeMglog (s : State) (v : Word) : State := s.logEntry (putBits v 63 1 1)

def State.writeMgmt (s : State) (n : Nat) (v : Word) : State :=
  match n with
  | 0x300 => { s with mg := { s.mg with sel := v.setWidth 7 } }
  | 0x302 => s.writeMgalrt v
  | 0x304 => s.writeMgthr v
  | 0x307 => s.writeMglog v
  | 0x309 => { s with mg := { s.mg with trip := v.setWidth 16 } }
  | _ => s

/-! ## status_read and status_write (R95) -/

def State.readStatus (s : State) (n : Nat) : Word :=
  let t := s.st.trap
  match n with
  | 0x001 => s.x.vl
  | 0x002 => s.x.vtype
  | 0x003 => s.x.vbeg
  | 0x010 => s.x.cnum.setWidth 64
  | 0x011 => s.x.citer.setWidth 64
  | 0x012 => s.st.ccount.setWidth 64
  | 0x013 => s.cflags
  | 0x014 => s.st.fsite.setWidth 64
  | 0x015 => s.st.fsquash.setWidth 64
  | 0x020 => s.x.rngkey.setWidth 64
  | 0x021 => s.x.rngctr
  | 0x030 => s.st.id
  | 0x031 => BitVec.ofNat 64 s.ringid
  | 0x032 => BitVec.ofNat 64 s.die
  | 0x033 => BitVec.ofNat 64 s.coreid
  | 0x034 => s.st.vf.setWidth 64
  | 0x040 => s.inboxst
  | 0x100 => t.status
  | 0x101 => t.tvec
  | 0x102 => t.tcause
  | 0x103 => t.tpc
  | 0x104 => t.tval
  | 0x105 => t.telem
  | 0x106 => t.tstride
  | 0x107 => t.tremain
  | 0x108 => t.tscratch
  | 0x110 => s.st.ptroot
  | 0x111 => s.st.asid
  | 0x200 => vget s.st.pmcfg 0 0
  | 0x201 => vget s.st.pmcfg 0 1
  | 0x202 => vget s.st.pmcfg 0 2
  | 0x203 => vget s.st.pmcfg 0 3
  | n => s.readMgmt n

def State.setTrap (s : State) (t : TrapRegs) : State := { s with st := { s.st with trap := t } }

/-- A write of status (R391): lvl and ipend are read-only, plvl 2 or 3 is stored as 1, as 3 on the management core (R438). -/
def State.writeStatusReg (s : State) (v : Word) : State :=
  let o := s.st.trap.status
  let p := bits v 2 2
  let p := if s.st.place = .management then 3 else if p ≥ 2 then 1 else p
  s.setTrap { s.st.trap with
    status := putBits (putBits (putBits (putBits o 7 1 (bits v 7 1)) 6 1 (bits v 6 1)) 5 1 (bits v 5 1)) 2 2 p }

/-- A write of pmcfgj (R429): reserved bits and an unlisted event code are stored as 0. -/
def pmcfgStored (v : Word) : Word :=
  let v := putBits v 56 4 0
  if bits v 48 8 ≤ 0x0E then v else putBits v 48 8 0

def State.setPmcfg (s : State) (j : Nat) (v : Word) : State :=
  { s with st := { s.st with pmcfg := vset s.st.pmcfg j v } }

/-- A write of cflags at machine level (R103). -/
def State.writeCflags (s : State) (v : Word) : State :=
  { s with st := { s.st with active := bit v 0, serial := bit v 1, nopred := bit v 2, broke := bit v 4 } }

def State.writeStatus (s : State) (n : Nat) (v : Word) : State :=
  let t := s.st.trap
  match n with
  | 0x001 => s.writeVl v
  | 0x002 => s.writeVtype v
  | 0x003 => { s with x := { s.x with vbeg := v } }
  | 0x010 => { s with x := { s.x with cnum := v.setWidth 32 } }
  | 0x011 => { s with x := { s.x with citer := v.setWidth 32 } }
  | 0x012 => { s with st := { s.st with ccount := v.setWidth 32 } }
  | 0x013 => s.writeCflags v
  | 0x014 => { s with st := { s.st with fsite := v.setWidth 16 } }
  | 0x015 => { s with st := { s.st with fsquash := v.setWidth 32 } }
  | 0x020 => { s with x := { s.x with rngkey := v.setWidth 32 } }
  | 0x021 => { s with x := { s.x with rngctr := v } }
  | 0x100 => s.writeStatusReg v
  | 0x101 => s.setTrap { t with tvec := v &&& 0x3FFFFFFFFFFFFC }
  | 0x102 => s.setTrap { t with tcause := v &&& 0xFFF }
  | 0x103 => s.setTrap { t with tpc := v &&& 0x3FFFFFFFFFFFFF }
  | 0x104 => s.setTrap { t with tval := v }
  | 0x105 => s.setTrap { t with telem := v }
  | 0x106 => s.setTrap { t with tstride := v }
  | 0x107 => s.setTrap { t with tremain := v }
  | 0x108 => s.setTrap { t with tscratch := v }
  | 0x110 => { s with st := { s.st with ptroot := v &&& 0xFFFFFFFFF0000 } }
  | 0x111 => { s with st := { s.st with asid := v &&& 0xFFFF } }
  | 0x200 => s.setPmcfg 0 (pmcfgStored v)
  | 0x201 => s.setPmcfg 1 (pmcfgStored v)
  | 0x202 => s.setPmcfg 2 (pmcfgStored v)
  | 0x203 => s.setPmcfg 3 (pmcfgStored v)
  | n => s.writeMgmt n v

end Sys2Proof.Machine
end

