-- ==== Sys2Proof/Machine/Fetch.lean ====
section
/-! DEFINITION. Instruction fetch (02 R28, R48, 12 R283, 18 R394), and the inputs of the step: clock, drains, dropped
translations and copies (DESIGN CHOICE, log entry 3). -/

namespace Sys2Proof.Machine

/-- The word at a translated address as the focus fetches it (DEDUCED, log entry 8). -/
def State.fetchBytes (s : State) (pa : Nat) : BitVec 32 :=
  let w := s.ownWord (pa / 8 * 8)
  if pa % 8 = 4 then (w >>> 32).setWidth 32 else w.setWidth 32

/-- Fetch the word at an address with execute permission: a fault gives its cause. (DEDUCED, log entry 36.) -/
def State.fetchAt (s : State) (pc : BitVec 54) : State × Except (BitVec 8) (BitVec 32) :=
  match s.locate .exec pc.toNat with
  | (s, .error c) => (s, .error c)
  | (s, .ok (.sram a)) => (s, .ok (BitVec.ofNat 32 (leNat (Memory.readBytes s.sram (fun _ => 0) a 4))))
  | (s, .ok (.mem x)) =>
    if x.fabric then (s, .error 0x23)
    else
      let s := s.touch s.ring? x.pa
      if s.poisonedFor x.pa then (s, .error 0xC0) else (s, .ok (s.fetchBytes x.pa))

/-- Fetch the instruction at pc. A fault has tval and tpc at the fetch address and akind execute (R283, R394). -/
def State.fetch (s : State) : Run (State × BitVec 32) :=
  match s.fetchAt s.x.pc with
  | (s, .ok w) => .ok (s, w)
  | (s, .error c) => .error (s.trapA c 3 (s.x.pc.setWidth 64))

/-- A parked strand becomes the focus; a saved one is on no core. -/
def State.turnTo (s : State) (i : Nat) : State :=
  match s.parked[i]? with
  | none => s
  | some r =>
    if r.st.place = .saved then s else { s with x := r.x, st := r.st, parked := s.parked.set i { x := s.x, st := s.st } }

/-- Another chunk context of the focus strand's fork becomes the focus. -/
def State.chunkTo (s : State) (i : Nat) : State :=
  match s.st.fork with
  | none => s
  | some f =>
    match f.chunks[i]? with
    | none => s
    | some c => { s with x := c, st := { s.st with fork := some { f with chunks := f.chunks.set i s.x } } }

/-- The events of R430 that clocks count, and that the model counts only on the word of an input. (DESIGN CHOICE, log entry 93.) -/
def clockEvent (ev : Nat) : Bool :=
  ev == 0x01 || ev == 0x05 || ev == 0x06 || ev == 0x08 || ev == 0x09 || ev == 0x0A

/-- Counter j of the focus strand counts k clock events. -/
def State.clockCount (s : State) (j k : Nat) : State :=
  let ev := bits (vget s.st.pmcfg 0 j) 48 8
  if clockEvent ev && s.st.phase == .running then
    let w := vget s.st.pmcfg 0 j
    let others := (List.range 4).map (fun i => vget s.st.pmcfg 0 i)
    let t := s.countBy ev k (s.lvl == 0)
    { t with st := { t.st with pmcfg := (List.range 4).foldl (fun v i =>
        if i = j then v else vset v i (others.getD i w)) t.st.pmcfg } }
  else s

/-- The oldest store of a buffer leaves it, unless an instruction before it is still held in a queue and may trap (R196, R322). -/
def State.drainInput (s : State) (vector : Bool) : State :=
  match s.buffer vector with
  | [] => s
  | b :: _ =>
    if (s.st.vqueue ++ s.st.mqueue ++ s.st.equeue).any (fun it => decide (it.seq < b.issue)) then s else s.drainOldest vector

/-- An input of the step other than an event. (DESIGN CHOICE, log entry 94.) -/
def State.input (s : State) (inp : Input) : State :=
  match inp with
  | .event _ => s
  | .turn i => s.turnTo i
  | .chunk i => s.chunkTo i
  | .elapse us => { s with time := s.time + us }
  | .drain v => s.drainInput v
  | .dropRo i => { s with roCopies := s.roCopies.eraseIdx i }
  | .fillRo v l =>
    if s.policy v.toNat = 3 then
      let now : BitVec 512 := BitVec.ofNat 512 (leNat (s.memBytes (l * 64) 64))
      let c : RoCopy := { vcache := v.toNat, line := l, data := now, born := s.cp.handleCount }
      { s with roCopies := c :: s.roCopies.filter (fun c => !(c.vcache == v.toNat && c.line == l)) }
    else s
  | .classQueue d c full =>
    let others := s.net.full.filter (· != queueKey d.toNat c)
    { s with net := { s.net with full := if full then insertNat (queueKey d.toNat c) others else others } }
  | .clocks j k => s.clockCount j.toNat k
  | .bank v k n => s.bankInput v.toNat k.toNat n
  | .power e c m => { s with mg := { s.mg with energy := e, cpw := c, modw := m } }

end Sys2Proof.Machine
end

