-- ==== Sys2Proof/Machine/Operands.lean ====
section
/-! DEFINITION. Operands: which scalar registers an instruction reads and writes, which queue it goes through (07 R186, 14
R319), the tags that ride with them; operand groups, masks and format descriptors (07 R158 to R165). -/

namespace Sys2Proof.Machine

/-! ## Scalar operands and queues -/

/-- Scalar registers an instruction reads at issue, tensor scales apart: an awaited one stalls it (R107, R186). -/
def readsScalar : Instr → List (BitVec 5)
  | .add _ a b => [a, b]
  | .sub _ a b => [a, b]
  | .and _ a b => [a, b]
  | .or _ a b => [a, b]
  | .xor _ a b => [a, b]
  | .andn _ a b => [a, b]
  | .sll _ a b => [a, b]
  | .srl _ a b => [a, b]
  | .sra _ a b => [a, b]
  | .rotr _ a b => [a, b]
  | .mul _ a b => [a, b]
  | .mulh _ a b => [a, b]
  | .mulhn _ a b => [a, b]
  | .div _ a b => [a, b]
  | .divn _ a b => [a, b]
  | .rem _ a b => [a, b]
  | .remn _ a b => [a, b]
  | .min _ a b => [a, b]
  | .max _ a b => [a, b]
  | .minn _ a b => [a, b]
  | .maxn _ a b => [a, b]
  | .slt _ a b => [a, b]
  | .sltn _ a b => [a, b]
  | .clz _ a => [a]
  | .ctz _ a => [a]
  | .popc _ a => [a]
  | .bswap _ a => [a]
  | .sext _ a _ => [a]
  | .zext _ a _ => [a]
  | .addi _ a _ => [a]
  | .andi _ a _ => [a]
  | .ori _ a _ => [a]
  | .xori _ a _ => [a]
  | .slti _ a _ => [a]
  | .sltni _ a _ => [a]
  | .shi _ a _ _ => [a]
  | .insi d _ _ => [d]
  | .ld _ a _ _ => [a]
  | .st b a _ _ => [a, b]
  | .beq b a _ => [a, b]
  | .bne b a _ => [a, b]
  | .blt b a _ => [a, b]
  | .bge b a _ => [a, b]
  | .bltn b a _ => [a, b]
  | .bgen b a _ => [a, b]
  | .callr _ a => [a]
  | .jmpr a => [a]
  | .sset a _ => [a]
  | .sxch _ a _ => [a]
  | .fork a b => [a, b, b + 1]
  | .forkt d a b => [d, a, b, b + 1]
  | .iwait a _ => [a]
  | .rdecl _ a b => [a, b]
  | .launch _ a => [a]
  | .grpq _ a => [a]
  | .sprio a => [a]
  | .aadd _ a b _ => [a, b]
  | .aand _ a b _ => [a, b]
  | .aor _ a b _ => [a, b]
  | .axor _ a b _ => [a, b]
  | .amin _ a b _ => [a, b]
  | .amax _ a b _ => [a, b]
  | .aminn _ a b _ => [a, b]
  | .amaxn _ a b _ => [a, b]
  | .aswap _ a b _ => [a, b]
  | .acas _ a b c _ => [a, b, c]
  | .afadd _ a b _ => [a, b]
  | .binit a b => [a, b]
  | .barr _ a _ => [a]
  | .bwait _ a b => [a, b]
  | .barrw _ a _ => [a]
  | .binv a => [a]
  | .gbar _ a => [a]
  | .msend _ a b => [a, b]
  | .mrecv _ a => [a]
  | .wakew a b => [a, b]
  | .waitw _ a b => [a, b]
  | .ecmd _ a b => [a, b]
  | .ecmdb _ a _ => [a]
  | .ldacq _ a _ _ => [a]
  | .strel d a _ _ => [d, a]
  | .vcdef _ a => [a]
  | .vcdel _ a => [a]
  | .vcqry _ a => [a]
  | .vcsync a b => [a, b]
  | .vcflush a b => [a, b]
  | .tlbinv a => [a]
  | .tlogw a => [a]
  | .atran _ a _ => [a]
  | .gst d a b _ => [d, a, b]
  | .vgst _ a b _ => [a, b]
  | .gcommit _ a => [a]
  | .gabort a => [a]
  | .gstat _ a => [a]
  | .gresolve a _ => [a]
  | .pmcw a _ => [a]
  | .pmcf a => [a]
  | .vsetvl _ a b => [a, b]
  | .vsetvli _ a _ => [a]
  | .vadd _ _ _ b f o => if o = 1 then [b, f] else [f]
  | .vsub _ _ _ b f o => if o = 1 then [b, f] else [f]
  | .vmul _ _ _ b f o => if o = 1 then [b, f] else [f]
  | .vfma _ _ _ b f o => if o = 1 then [b, f] else [f]
  | .vfms _ _ _ b f o => if o = 1 then [b, f] else [f]
  | .vnfma _ _ _ b f o => if o = 1 then [b, f] else [f]
  | .vdiv _ _ _ b f o => if o = 1 then [b, f] else [f]
  | .vsqrt _ _ _ f => [f]
  | .vmin _ _ _ b f o => if o = 1 then [b, f] else [f]
  | .vmax _ _ _ b f o => if o = 1 then [b, f] else [f]
  | .vabs _ _ _ f => [f]
  | .vneg _ _ _ f => [f]
  | .vexp2 _ _ _ f => [f]
  | .vlog2 _ _ _ f => [f]
  | .vrcp _ _ _ f => [f]
  | .vrsq _ _ _ f => [f]
  | .vcvt _ _ _ f => [f]
  | .vand _ _ _ b f o => if o = 1 then [b, f] else [f]
  | .vor _ _ _ b f o => if o = 1 then [b, f] else [f]
  | .vxor _ _ _ b f o => if o = 1 then [b, f] else [f]
  | .vnot _ _ _ f => [f]
  | .vshl _ _ _ b f o => if o = 1 then [b, f] else [f]
  | .vshr _ _ _ b f o => if o = 1 then [b, f] else [f]
  | .vsra _ _ _ b f o => if o = 1 then [b, f] else [f]
  | .vcmp _ _ _ b f o _ => if o = 1 then [b, f] else [f]
  | .vredsum _ _ _ f => [f]
  | .vredmax _ _ _ f => [f]
  | .vredmin _ _ _ f => [f]
  | .vscan _ _ _ f => [f]
  | .vsort _ _ _ _ f => [f]
  | .vtopk _ _ _ b f => [b, f]
  | .vslup _ _ _ b => [b]
  | .vsldn _ _ _ b => [b]
  | .vbcast _ _ a => [a]
  | .vextr _ _ b => [b]
  | .vins _ a b => [a, b]
  | .vrand _ _ f => [f]
  | .vpwl _ _ _ _ f => [f]
  | .vquant _ _ _ f => [f]
  | .vdeq _ _ _ f => [f]
  | .vbaddq _ _ _ _ f => [f]
  | .vamo _ _ a _ _ => [a]
  | .vamoc _ _ a _ _ => [a]
  | .vld _ _ a _ _ => [a]
  | .vst _ _ a _ _ => [a]
  | .vlds _ _ a b _ _ => [a, b]
  | .vldsO _ _ a b _ _ => [a, b]
  | .vsts _ _ a b _ _ => [a, b]
  | .vstsO _ _ a b _ _ => [a, b]
  | .vldx _ _ a _ _ _ => [a]
  | .vldxO _ _ a _ _ _ => [a]
  | .vstx _ _ a _ _ _ => [a]
  | .vstxO _ _ a _ _ _ => [a]
  | .vldseg _ _ a _ _ _ => [a]
  | .vstseg _ _ a _ _ _ => [a]
  | .vpref _ a _ _ => [a]
  | .vprefS _ a b _ _ => [a, b]
  | .vprefX _ a _ _ _ => [a]
  | .vldsq _ a b _ => [a, b]
  | .vcapp _ _ a b _ => [a, b]
  | .mma _ _ _ w _ => [w]
  | .mslide _ _ _ w _ => [w]
  | .mshape _ y => [y]
  | .mclaim y => [y]
  | .mrel y => [y]
  | .mlds _ y z w => [y, z, w]
  | .mlda _ y z w => [y, z, w]
  | .msta _ y z w => [y, z, w]
  | .macs _ _ w _ => [w]
  | .mrowvToVector _ _ z => [z]
  | .mrowvToAccumulator _ _ z => [z]
  | .mcurv _ y => [y]
  | _ => []

/-- Formats that may take a tensor scale, each with the place of its scale register after the FD (R138). -/
def scaleA (d : FD) : List (Nat × Nat) := [(d.fa, 1)]
def scaleAB (d : FD) : List (Nat × Nat) := [(d.fa, 1), (d.fb, 1)]
def scaleDst (d : FD) : List (Nat × Nat) := [(d.fdst, 1)]
def scalePair (d : FD) : List (Nat × Nat) := [(d.fa, 1), (d.fb, 2)]

/-- The FD register of an instruction, and the formats in it that may take a tensor scale. -/
def scaleUse : Instr → Option (BitVec 5 × (FD → List (Nat × Nat)))
  | .vadd _ _ _ _ f _ => some (f, scaleAB)
  | .vsub _ _ _ _ f _ => some (f, scaleAB)
  | .vmul _ _ _ _ f _ => some (f, scaleAB)
  | .vfma _ _ _ _ f _ => some (f, scaleAB)
  | .vfms _ _ _ _ f _ => some (f, scaleAB)
  | .vnfma _ _ _ _ f _ => some (f, scaleAB)
  | .vdiv _ _ _ _ f _ => some (f, scaleAB)
  | .vsqrt _ _ _ f => some (f, scaleA)
  | .vmin _ _ _ _ f _ => some (f, scaleAB)
  | .vmax _ _ _ _ f _ => some (f, scaleAB)
  | .vabs _ _ _ f => some (f, scaleA)
  | .vneg _ _ _ f => some (f, scaleA)
  | .vexp2 _ _ _ f => some (f, scaleA)
  | .vlog2 _ _ _ f => some (f, scaleA)
  | .vrcp _ _ _ f => some (f, scaleA)
  | .vrsq _ _ _ f => some (f, scaleA)
  | .vcvt _ _ _ f => some (f, scaleA)
  | .vand _ _ _ _ f _ => some (f, scaleAB)
  | .vor _ _ _ _ f _ => some (f, scaleAB)
  | .vxor _ _ _ _ f _ => some (f, scaleAB)
  | .vnot _ _ _ f => some (f, scaleA)
  | .vshl _ _ _ _ f _ => some (f, scaleAB)
  | .vshr _ _ _ _ f _ => some (f, scaleAB)
  | .vsra _ _ _ _ f _ => some (f, scaleAB)
  | .vcmp _ _ _ _ f _ _ => some (f, scaleAB)
  | .vredsum _ _ _ f => some (f, scaleA)
  | .vredmax _ _ _ f => some (f, scaleA)
  | .vredmin _ _ _ f => some (f, scaleA)
  | .vscan _ _ _ f => some (f, scaleA)
  | .vsort _ _ _ _ f => some (f, scaleAB)
  | .vtopk _ _ _ _ f => some (f, scaleA)
  | .vpwl _ _ _ _ f => some (f, scaleA)
  | .vquant _ _ _ f => some (f, scaleDst)
  | .vdeq _ _ _ f => some (f, scaleA)
  | .vbaddq _ _ _ _ f => some (f, scaleAB)
  | .mma _ _ _ w _ => some (w, scalePair)
  | .mslide _ _ _ w _ => some (w, scalePair)
  | .macs _ _ w _ => some (w, scaleDst)
  | _ => none

/-- The tensor scale registers that an instruction reads: those of its XF4 operands (R138). -/
def State.scaleReads (s : State) (i : Instr) : List (BitVec 5) :=
  match scaleUse i with
  | some (f, u) => ((u (readFD (s.getS f))).filter (fun p => p.1 == 0x16 && decide (f.toNat + p.2 < 32))).map (fun p =>
      f + BitVec.ofNat 5 p.2)
  | none => []

/-- The scalar register an instruction writes. -/
def writesScalar : Instr → Option (BitVec 5)
  | .add d _ _ => some d
  | .sub d _ _ => some d
  | .and d _ _ => some d
  | .or d _ _ => some d
  | .xor d _ _ => some d
  | .andn d _ _ => some d
  | .sll d _ _ => some d
  | .srl d _ _ => some d
  | .sra d _ _ => some d
  | .rotr d _ _ => some d
  | .mul d _ _ => some d
  | .mulh d _ _ => some d
  | .mulhn d _ _ => some d
  | .div d _ _ => some d
  | .divn d _ _ => some d
  | .rem d _ _ => some d
  | .remn d _ _ => some d
  | .min d _ _ => some d
  | .max d _ _ => some d
  | .minn d _ _ => some d
  | .maxn d _ _ => some d
  | .slt d _ _ => some d
  | .sltn d _ _ => some d
  | .clz d _ => some d
  | .ctz d _ => some d
  | .popc d _ => some d
  | .bswap d _ => some d
  | .sext d _ _ => some d
  | .zext d _ _ => some d
  | .addi d _ _ => some d
  | .andi d _ _ => some d
  | .ori d _ _ => some d
  | .xori d _ _ => some d
  | .slti d _ _ => some d
  | .sltni d _ _ => some d
  | .shi d _ _ _ => some d
  | .lih d _ => some d
  | .insi d _ _ => some d
  | .addpc d _ => some d
  | .ld d _ _ _ => some d
  | .call d _ => some d
  | .callr d _ => some d
  | .sget d _ => some d
  | .sxch d _ _ => some d
  | .iter d _ => some d
  | .cspec d => some d
  | .launch d _ => some d
  | .ringid d => some d
  | .grpq d _ => some d
  | .stridx d => some d
  | .aadd d _ _ _ => some d
  | .aand d _ _ _ => some d
  | .aor d _ _ _ => some d
  | .axor d _ _ _ => some d
  | .amin d _ _ _ => some d
  | .amax d _ _ _ => some d
  | .aminn d _ _ _ => some d
  | .amaxn d _ _ _ => some d
  | .aswap d _ _ _ => some d
  | .acas d _ _ _ _ => some d
  | .afadd d _ _ _ => some d
  | .barr d _ _ => some d
  | .bwait d _ _ => some d
  | .barrw d _ _ => some d
  | .gbar d _ => some d
  | .msend d _ _ => some d
  | .mrecv d _ => some d
  | .mpeek d => some d
  | .waitw d _ _ => some d
  | .ecmd d _ _ => some d
  | .bqtake d => some d
  | .ldacq d _ _ _ => some d
  | .vcdef d _ => some d
  | .vcdel d _ => some d
  | .vcqry d _ => some d
  | .atran d _ _ => some d
  | .gopen d => some d
  | .gcommit d _ => some d
  | .gstat d _ => some d
  | .pmcr d _ => some d
  | .vsetvl d _ _ => some d
  | .vsetvli d _ _ => some d
  | .vextr d _ _ => some d
  | .kpop d _ => some d
  | .kfirst d _ => some d
  | .vldsq _ _ b _ => some b
  | .vcapp _ _ _ b _ => some b
  | .mshape x _ => some x
  | .mwait x => some x
  | _ => none

/-- The queue of an instruction (R308, R319). -/
inductive Queue where
  | scalar
  | vector
  | matrix
  | engine
  deriving DecidableEq, Repr

def queueOf : Instr → Queue
  | .ecmd _ _ _ => .engine
  | .vgst _ _ _ _ => .vector
  | .vadd _ _ _ _ _ _ => .vector
  | .vsub _ _ _ _ _ _ => .vector
  | .vmul _ _ _ _ _ _ => .vector
  | .vfma _ _ _ _ _ _ => .vector
  | .vfms _ _ _ _ _ _ => .vector
  | .vnfma _ _ _ _ _ _ => .vector
  | .vdiv _ _ _ _ _ _ => .vector
  | .vsqrt _ _ _ _ => .vector
  | .vmin _ _ _ _ _ _ => .vector
  | .vmax _ _ _ _ _ _ => .vector
  | .vabs _ _ _ _ => .vector
  | .vneg _ _ _ _ => .vector
  | .vexp2 _ _ _ _ => .vector
  | .vlog2 _ _ _ _ => .vector
  | .vrcp _ _ _ _ => .vector
  | .vrsq _ _ _ _ => .vector
  | .vcvt _ _ _ _ => .vector
  | .vand _ _ _ _ _ _ => .vector
  | .vor _ _ _ _ _ _ => .vector
  | .vxor _ _ _ _ _ _ => .vector
  | .vnot _ _ _ _ => .vector
  | .vshl _ _ _ _ _ _ => .vector
  | .vshr _ _ _ _ _ _ => .vector
  | .vsra _ _ _ _ _ _ => .vector
  | .vcmp _ _ _ _ _ _ _ => .vector
  | .vredsum _ _ _ _ => .vector
  | .vredmax _ _ _ _ => .vector
  | .vredmin _ _ _ _ => .vector
  | .vscan _ _ _ _ => .vector
  | .vsort _ _ _ _ _ => .vector
  | .vtopk _ _ _ _ _ => .vector
  | .vcomp _ _ _ => .vector
  | .vexpd _ _ _ => .vector
  | .viota _ _ => .vector
  | .vperm _ _ _ _ => .vector
  | .vslup _ _ _ _ => .vector
  | .vsldn _ _ _ _ => .vector
  | .vbcast _ _ _ => .vector
  | .vextr _ _ _ => .vector
  | .vins _ _ _ => .vector
  | .vsel _ _ _ _ => .vector
  | .kand _ _ _ => .vector
  | .kor _ _ _ => .vector
  | .kxor _ _ _ => .vector
  | .knot _ _ => .vector
  | .kpop _ _ => .vector
  | .kfirst _ _ => .vector
  | .vrand _ _ _ => .vector
  | .vpwl _ _ _ _ _ => .vector
  | .vquant _ _ _ _ => .vector
  | .vdeq _ _ _ _ => .vector
  | .vbaddq _ _ _ _ _ => .vector
  | .vamo _ _ _ _ _ => .vector
  | .vamoc _ _ _ _ _ => .vector
  | .vld _ _ _ _ _ => .vector
  | .vst _ _ _ _ _ => .vector
  | .vlds _ _ _ _ _ _ => .vector
  | .vldsO _ _ _ _ _ _ => .vector
  | .vsts _ _ _ _ _ _ => .vector
  | .vstsO _ _ _ _ _ _ => .vector
  | .vldx _ _ _ _ _ _ => .vector
  | .vldxO _ _ _ _ _ _ => .vector
  | .vstx _ _ _ _ _ _ => .vector
  | .vstxO _ _ _ _ _ _ => .vector
  | .vldseg _ _ _ _ _ _ => .vector
  | .vstseg _ _ _ _ _ _ => .vector
  | .vpref _ _ _ _ => .vector
  | .vprefS _ _ _ _ _ => .vector
  | .vprefX _ _ _ _ _ => .vector
  | .vldsq _ _ _ _ => .vector
  | .vcapp _ _ _ _ _ => .vector
  | .mma _ _ _ _ _ => .matrix
  | .mslide _ _ _ _ _ => .matrix
  | .mew _ _ _ _ => .matrix
  | .mpwl _ _ _ => .matrix
  | .mrnorm _ => .matrix
  | .mzero _ => .matrix
  | .mclr _ _ => .matrix
  | .mshape _ _ => .matrix
  | .mclaim _ => .matrix
  | .mrel _ => .matrix
  | .mlds _ _ _ _ => .matrix
  | .mlda _ _ _ _ => .matrix
  | .msta _ _ _ _ => .matrix
  | .macs _ _ _ _ => .matrix
  | .mrowvToVector _ _ _ => .matrix
  | .mrowvToAccumulator _ _ _ => .matrix
  | .mcurv _ _ => .matrix
  | .mwait _ => .matrix
  | _ => .scalar

/-! ## What orders instructions of different queues (R186, R220, R221) -/

/-- Vector and mask registers that an instruction reads and writes: the first of each group, and masks (R186, R220). -/
structure VUse where
  rd : List (BitVec 5) := []
  wr : List (BitVec 5) := []
  krd : List (BitVec 3) := []
  kwr : List (BitVec 3) := []
  deriving DecidableEq, Repr

/-- A mask register named in a five-bit field. -/
def low3 (x : BitVec 5) : BitVec 3 := x.setWidth 3

def vuse : Instr → VUse
  | .vadd k d a b _ _ => { rd := [a, b], wr := [d], krd := [k] }
  | .vsub k d a b _ _ => { rd := [a, b], wr := [d], krd := [k] }
  | .vmul k d a b _ _ => { rd := [a, b], wr := [d], krd := [k] }
  | .vdiv k d a b _ _ => { rd := [a, b], wr := [d], krd := [k] }
  | .vmin k d a b _ _ => { rd := [a, b], wr := [d], krd := [k] }
  | .vmax k d a b _ _ => { rd := [a, b], wr := [d], krd := [k] }
  | .vand k d a b _ _ => { rd := [a, b], wr := [d], krd := [k] }
  | .vor k d a b _ _ => { rd := [a, b], wr := [d], krd := [k] }
  | .vxor k d a b _ _ => { rd := [a, b], wr := [d], krd := [k] }
  | .vshl k d a b _ _ => { rd := [a, b], wr := [d], krd := [k] }
  | .vshr k d a b _ _ => { rd := [a, b], wr := [d], krd := [k] }
  | .vsra k d a b _ _ => { rd := [a, b], wr := [d], krd := [k] }
  | .vfma k d a b _ _ => { rd := [a, b, d], wr := [d], krd := [k] }
  | .vfms k d a b _ _ => { rd := [a, b, d], wr := [d], krd := [k] }
  | .vnfma k d a b _ _ => { rd := [a, b, d], wr := [d], krd := [k] }
  | .vsqrt k d a _ => { rd := [a], wr := [d], krd := [k] }
  | .vabs k d a _ => { rd := [a], wr := [d], krd := [k] }
  | .vneg k d a _ => { rd := [a], wr := [d], krd := [k] }
  | .vexp2 k d a _ => { rd := [a], wr := [d], krd := [k] }
  | .vlog2 k d a _ => { rd := [a], wr := [d], krd := [k] }
  | .vrcp k d a _ => { rd := [a], wr := [d], krd := [k] }
  | .vrsq k d a _ => { rd := [a], wr := [d], krd := [k] }
  | .vcvt k d a _ => { rd := [a], wr := [d], krd := [k] }
  | .vnot k d a _ => { rd := [a], wr := [d], krd := [k] }
  | .vredsum k d a _ => { rd := [a], wr := [d], krd := [k] }
  | .vredmax k d a _ => { rd := [a], wr := [d], krd := [k] }
  | .vredmin k d a _ => { rd := [a], wr := [d], krd := [k] }
  | .vscan k d a _ => { rd := [a], wr := [d], krd := [k] }
  | .vquant k d a _ => { rd := [a], wr := [d], krd := [k] }
  | .vdeq k d a _ => { rd := [a], wr := [d], krd := [k] }
  | .vcmp k m a b _ _ _ => { rd := [a, b], krd := [k, m], kwr := [m] }
  | .vsort k d a b _ => { rd := [a, b], wr := [d, d + 8], krd := [k] }
  | .vtopk k d a _ _ => { rd := [a], wr := [d, d + 8], krd := [k] }
  | .vcomp k d a => { rd := [a], wr := [d], krd := [k] }
  | .vexpd k d a => { rd := [a], wr := [d], krd := [k] }
  | .viota k d => { wr := [d], krd := [k] }
  | .vperm k d a b => { rd := [a, b], wr := [d], krd := [k] }
  | .vslup k d a _ => { rd := [a], wr := [d], krd := [k] }
  | .vsldn k d a _ => { rd := [a], wr := [d], krd := [k] }
  | .vbcast k d _ => { wr := [d], krd := [k] }
  | .vextr _ a _ => { rd := [a] }
  | .vins d _ _ => { wr := [d] }
  | .vsel k d a b => { rd := [a, b], wr := [d], krd := [k] }
  | .kand d a b => { krd := [low3 a, low3 b], kwr := [low3 d] }
  | .kor d a b => { krd := [low3 a, low3 b], kwr := [low3 d] }
  | .kxor d a b => { krd := [low3 a, low3 b], kwr := [low3 d] }
  | .knot d a => { krd := [low3 a], kwr := [low3 d] }
  | .kpop _ a => { krd := [low3 a] }
  | .kfirst _ a => { krd := [low3 a] }
  | .vrand k d _ => { wr := [d], krd := [k] }
  | .vpwl k d a _ _ => { rd := [a], wr := [d], krd := [k] }
  | .vbaddq k d a b _ => { rd := [a, b], wr := [d], krd := [k] }
  | .vamo k d _ b _ => { rd := [b, d], wr := [d], krd := [k] }
  | .vamoc k d _ b _ => { rd := [b, d], krd := [k] }
  | .vld k v _ _ _ => { wr := [v], krd := [k] }
  | .vlds k v _ _ _ _ => { wr := [v], krd := [k] }
  | .vldsO k v _ _ _ _ => { wr := [v], krd := [k] }
  | .vldseg k v _ _ _ _ => { wr := [v], krd := [k] }
  | .vldx k v _ b _ _ => { rd := [b], wr := [v], krd := [k] }
  | .vldxO k v _ b _ _ => { rd := [b], wr := [v], krd := [k] }
  | .vst k v _ _ _ => { rd := [v], krd := [k] }
  | .vsts k v _ _ _ _ => { rd := [v], krd := [k] }
  | .vstsO k v _ _ _ _ => { rd := [v], krd := [k] }
  | .vstseg k v _ _ _ _ => { rd := [v], krd := [k] }
  | .vstx k v _ b _ _ => { rd := [v, b], krd := [k] }
  | .vstxO k v _ b _ _ => { rd := [v, b], krd := [k] }
  | .vpref k _ _ _ => { krd := [k] }
  | .vprefS k _ _ _ _ => { krd := [k] }
  | .vprefX k _ b _ _ => { rd := [b], krd := [k] }
  | .vldsq v _ _ _ => { wr := [v] }
  | .vcapp k v _ _ _ => { rd := [v], krd := [k] }
  | .vgst d _ _ k => { rd := [d], krd := [k] }
  | .mew _ _ z _ => { rd := [z] }
  | .mclr _ y => { krd := [low3 y] }
  | .mrowvToVector x _ _ => { wr := [x] }
  | .mrowvToAccumulator _ y _ => { rd := [y] }
  | _ => {}

/-- Two lists of register groups may share a register: a group reaches at most 9 registers up, its scale companion included. -/
def groupsMeet (l m : List (BitVec 5)) : Bool :=
  l.any (fun a => m.any (fun b => decide (a.toNat < b.toNat + 9) && decide (b.toNat < a.toNat + 9)))

/-- One of the instructions writes a vector or mask register that the other reads or writes (R186). -/
def VUse.meets (u v : VUse) : Bool :=
  groupsMeet u.wr (v.rd ++ v.wr) || groupsMeet u.rd v.wr ||
    u.kwr.any (fun k => (v.krd ++ v.kwr).contains k) || u.krd.any (fun k => v.kwr.contains k)

/-- Instructions of the vector class that access memory (R239). -/
def touchesMemory : Instr → Bool
  | .vgst _ _ _ _ => true
  | .vamo _ _ _ _ _ => true
  | .vamoc _ _ _ _ _ => true
  | .vld _ _ _ _ _ => true
  | .vst _ _ _ _ _ => true
  | .vlds _ _ _ _ _ _ => true
  | .vldsO _ _ _ _ _ _ => true
  | .vsts _ _ _ _ _ _ => true
  | .vstsO _ _ _ _ _ _ => true
  | .vldx _ _ _ _ _ _ => true
  | .vldxO _ _ _ _ _ _ => true
  | .vstx _ _ _ _ _ _ => true
  | .vstxO _ _ _ _ _ _ => true
  | .vldseg _ _ _ _ _ _ => true
  | .vstseg _ _ _ _ _ _ => true
  | .vldsq _ _ _ _ => true
  | .vcapp _ _ _ _ _ => true
  | .mlds _ _ _ _ => true
  | .mlda _ _ _ _ => true
  | .msta _ _ _ _ => true
  | .mcurv _ _ => true
  | _ => false

/-- Is this a token instruction? -/
def isToken : Instr → Bool
  | .toks _ _ => true
  | .tokw _ _ => true
  | _ => false

/-- One of the two loads a contour table, the other reads it (R220, R234). -/
def tablesMeet (i j : Instr) : Bool :=
  match i, j with
  | .mcurv _ _, .vpwl _ _ _ _ _ => true
  | .vpwl _ _ _ _ _, .mcurv _ _ => true
  | _, _ => false

/-- Two instructions of different queues keep program order: they share a vector or mask register or a contour table, or both
access memory (R186, R220, R221). -/
def ordered (i j : Instr) : Bool :=
  (vuse i).meets (vuse j) || (touchesMemory i && touchesMemory j) || tablesMeet i j

/-- The accumulators a matrix instruction writes (R232). -/
def accWrites : Instr → List (BitVec 5)
  | .mma x _ _ _ o => if o.getLsbD 0 then [x, x + 1] else [x]
  | .mslide x _ _ _ o => if o.getLsbD 0 then [x, x + 1] else [x]
  | .mew x _ _ _ => [x]
  | .mpwl x _ _ => [x]
  | .mrnorm x => [x, x + 1]
  | .mzero x => [x]
  | .mclr x _ => [x]
  | .mlda x _ _ _ => [x]
  | .mrowvToAccumulator x _ _ => [x]
  | _ => []

/-! ## Vector and mask registers (R158, R161) -/

/-- The bit string of `n` registers from `base` up (R158). A write of vtype may leave vl above the new VLMAX (R156): elements past the
group then read as 0, and writes there are dropped (DESIGN CHOICE, log entry 105). -/
def State.vgroup (s : State) (base n : Nat) : Nat :=
  (List.range n).foldr (fun j acc => (vget s.x.vreg 0 (base + j)).toNat + 2 ^ 16384 * acc) 0

/-- Write the bit string of a group. -/
def State.setVgroup (s : State) (base n g : Nat) : State :=
  { s with x := { s.x with vreg := (List.range n).foldl (fun v j =>
      vset v (base + j) (BitVec.ofNat 16384 (g / 2 ^ (16384 * j)))) s.x.vreg } }

/-- A mask register; k0 reads all ones (R44, R161). -/
def State.kmask (s : State) (k : Nat) : BitVec 2048 := if k = 0 then ~~~0 else vget s.x.kreg 0 k

def State.setK (s : State) (k : Nat) (v : BitVec 2048) : State :=
  if k = 0 then s else { s with x := { s.x with kreg := vset s.x.kreg k v } }

/-- The least power of two not below x, up to 2^fuel. -/
def pow2Ceil (x : Nat) : Nat → Nat
  | 0 => 1
  | fuel + 1 => if x ≤ 1 then 1 else 2 * pow2Ceil ((x + 1) / 2) fuel

/-- n(w) of R158. -/
def groupRegs (vt : Word) (w : Nat) : Nat := pow2Ceil ((vgmOf vt * w + ewOf vt - 1) / ewOf vt) 16

/-- cap(w) of R158. -/
def groupCap (vt : Word) (w : Nat) : Nat := groupRegs vt w * 16384 / w

/-- Bits [lo + w − 1 : lo] of g replaced by v. -/
def putField (g lo w v : Nat) : Nat := g ^^^ ((nbits g lo w ^^^ v % 2 ^ w) * 2 ^ lo)

/-! ## Operand groups (R158 to R160) -/

/-- A vector operand: base register, element width, and whether a scale companion follows. -/
structure Opd where
  base : Nat
  width : Nat
  block : Bool
  deriving DecidableEq, Repr

/-- The operand of a format (R159): block formats have a companion. -/
def opdOf (base : BitVec 5) (fmt : Nat) : Opd := { base := base.toNat, width := fmtWidth fmt, block := isBlock fmt }

/-- A plain operand of width w. -/
def opdW (base : BitVec 5) (w : Nat) : Opd := { base := base.toNat, width := w, block := false }

def Opd.len (vt : Word) (o : Opd) : Nat := groupRegs vt o.width + (if o.block then 1 else 0)

/-- R158 and R159 for one operand. -/
def Opd.legal (vt : Word) (o : Opd) : Bool :=
  let n := groupRegs vt o.width
  decide (n ≤ 8) && decide (o.base % n = 0) && decide (o.base + o.len vt ≤ 32)

def Opd.disjoint (vt : Word) (o p : Opd) : Bool :=
  decide (o.base + o.len vt ≤ p.base) || decide (p.base + p.len vt ≤ o.base)

/-- R160 for two operands: they coincide or are disjoint. -/
def Opd.fits (vt : Word) (o p : Opd) : Bool := (o.base == p.base && o.len vt == p.len vt) || o.disjoint vt p

/-- The groups of an instruction are legal, each pair of them too. -/
def groupsLegal (vt : Word) : List Opd → Bool
  | [] => true
  | o :: os => o.legal vt && os.all (fun p => o.fits vt p) && groupsLegal vt os

/-- The word at s[fd + 1]. -/
def State.scaleReg (s : State) (f : BitVec 5) : Word := s.getS (f + 1)

/-- The exact tensor scale of an instruction whose FD register is f (R138). -/
def State.tscale (s : State) (f : BitVec 5) : XVal := tensorScale (s.scaleReg f)

/-- The format checks of a vector instruction (R140, R163): the FD is legal, the instruction accepts it, and where a used
format is XF4, fd is not 31 and T is positive, finite and normal. -/
def fdCheck (s : State) (f : BitVec 5) (ok : FD → Bool) (used : FD → List Nat) : Run FD :=
  let w := s.getS f
  let d := readFD w
  if !fdLegal w || !ok d then .error (s.trapS 0x61 w)
  else if (used d).contains 0x16 then
    (if f = 31 then .error (s.trapS 0x61 w)
     else if !tensorScaleOk (s.scaleReg f) then .error (s.trapS 0x61 (s.scaleReg f))
     else .ok d)
  else .ok d

/-- The dispatch checks after the format: groups 0x60 (not while vill), vtype 0x62, vbeg 0x63 (R163). -/
def vcheck (i : Instr) (s : State) (groupsOk : Bool) (vbegTraps : Bool) : Run Unit :=
  if vill s.x.vtype then .error (s.trapS 0x62 s.x.vtype)
  else if !groupsOk then .error (s.trapS 0x60 (wordOf i))
  else if vbegTraps && s.x.vbeg != 0 then .error (s.trapS 0x63 s.x.vbeg)
  else .ok ()

/-! ## Elements -/

/-- An operand read whole: its bit string and its companion's. -/
structure Src where
  g : Nat
  comp : Nat
  width : Nat
  deriving DecidableEq, Repr

def State.src (s : State) (o : Opd) : Src :=
  let n := groupRegs s.x.vtype o.width
  { g := s.vgroup o.base n, comp := if o.block then (vget s.x.vreg 0 (o.base + n)).toNat else 0, width := o.width }

/-- Pattern of element i, and the scale byte of its block. -/
def Src.at_ (r : Src) (i : Nat) : Nat := nbits r.g (r.width * i) r.width
def Src.scale (r : Src) (i : Nat) : Nat := nbits r.comp (8 * (i / 32)) 8

/-- The exact value of element i of a source of format c. -/
def Src.value (r : Src) (c : Nat) (ftz : Bool) (t : XVal) (i : Nat) : XVal := elemValue c ftz (r.at_ i) (r.scale i) t

/-- Element i is active: in the body, its mask bit set (R161, R162). -/
def State.active (s : State) (k : BitVec 3) (i : Nat) : Bool :=
  decide (s.vbeg ≤ i) && decide (i < s.vl) && (s.kmask k.toNat).getLsbD i

/-- Indices lo to hi − 1. -/
def span (lo hi : Nat) : List Nat := (List.range (hi - lo)).map (· + lo)

def State.mp (s : State) : Bool := bit s.x.vtype 5
def State.tp (s : State) : Bool := bit s.x.vtype 4

/-- vbeg := 0. -/
def State.vbegZero (s : State) : State := { s with x := { s.x with vbeg := 0 } }

/-- The string g with its body and tail written (R162): `f` gives each active element. -/
def applyBits (g w cap vl vbeg : Nat) (mask : BitVec 2048) (mp tp : Bool) (f : Nat → Nat) : Nat :=
  let g := (span vbeg vl).foldl (fun g i =>
    if mask.getLsbD i then putField g (w * i) w (f i) else if mp then putField g (w * i) w 0 else g) g
  if tp ∧ vl < cap then putField g (w * vl) (w * (cap - vl)) 0 else g

/-- vector_apply(dst, wd, f) of R162. -/
def State.vectorApply (s : State) (d : BitVec 5) (w : Nat) (k : BitVec 3) (f : Nat → Nat) : State :=
  if s.vl = 0 then s.vbegZero
  else
    let n := groupRegs s.x.vtype w
    let g := applyBits (s.vgroup d.toNat n) w (n * 16384 / w) s.vl s.vbeg (s.kmask k.toNat) s.mp s.tp f
    (s.setVgroup d.toNat n g).vbegZero

/-- vector_apply with a mask register as destination: width 1, cap 2048 (R162). -/
def State.maskApply (s : State) (m : Nat) (k : BitVec 3) (f : Nat → Bool) : State :=
  if s.vl = 0 then s.vbegZero
  else
    let g := applyBits (s.kmask m).toNat 1 2048 s.vl s.vbeg (s.kmask k.toNat) s.mp s.tp (fun i => if f i then 1 else 0)
    (s.setK m (BitVec.ofNat 2048 g)).vbegZero

end Sys2Proof.Machine
end

