-- ==== Sys2Proof/Machine/Token.lean ====
section
/-! DEFINITION. The queues of a strand and its token FIFOs: TOKS, TOKW and their events (14 R319 to R321; DEDUCED, log entry 14). -/

namespace Sys2Proof.Machine

def State.queue (s : State) (q : Queue) : List QItem :=
  match q with
  | .scalar => []
  | .vector => s.st.vqueue
  | .matrix => s.st.mqueue
  | .engine => s.st.equeue

def State.setQueue (s : State) (q : Queue) (l : List QItem) : State :=
  match q with
  | .scalar => s
  | .vector => { s with st := { s.st with vqueue := l } }
  | .matrix => { s with st := { s.st with mqueue := l } }
  | .engine => { s with st := { s.st with equeue := l } }

/-- Every instruction held in a queue. -/
def State.heldItems (s : State) : List QItem := s.st.vqueue ++ s.st.mqueue ++ s.st.equeue

/-- Instructions a queue holds, and whether there is room (R186, R220, R324). -/
def Queue.size : Queue → Nat
  | .scalar => 0
  | .vector => 64
  | .matrix => 32
  | .engine => 16

def State.hasRoom (s : State) (q : Queue) : Bool := decide ((s.queue q).length < q.size)

/-- The item a queue holds for an instruction (R186). -/
def State.item (s : State) (i : Instr) : QItem :=
  { instr := i, seq := s.st.qcount, x := s.x, tokens := s.st.tokens, tables := s.st.tables, trap := s.st.trap
    ptroot := s.st.ptroot, asid := s.st.asid, active := s.st.active }

/-- Place an item in a queue. -/
def State.enqueueItem (s : State) (q : Queue) (it : QItem) : State :=
  let t := s.setQueue q (s.queue q ++ [it])
  { t with st := { t.st with qcount := t.st.qcount + 1 } }

/-- Place an instruction in a queue. -/
def State.enqueue (s : State) (q : Queue) (i : Instr) : State := s.enqueueItem q (s.item i)

/-- Bring the items placed after an instruction up to date with its effect. -/
def State.patchAfter (s : State) (seq : Nat) (f : QItem → QItem) : State :=
  let g (it : QItem) : QItem := if seq < it.seq then f it else it
  { s with st := { s.st with vqueue := s.st.vqueue.map g, mqueue := s.st.mqueue.map g, equeue := s.st.equeue.map g } }

/-- No access of the strand waits in a queue. -/
def State.noneHeld (s : State) : Bool := !(s.st.vqueue ++ s.st.mqueue).any (fun it => touchesMemory it.instr)

/-- Vector, matrix and engine instructions that the strand has issued are all performed. -/
def State.queuesEmpty (s : State) : Bool := s.st.vqueue.isEmpty && s.st.mqueue.isEmpty && s.st.equeue.isEmpty

/-- The front of a queue can be performed: a token whose FIFO allows it (R320), or an instruction that no earlier one of the other
queue holds back (R186, R220, R221). -/
def State.ready (s : State) (q : Queue) (it : QItem) : Bool :=
  match it.instr with
  | .toks _ f => vget s.st.tokens 0 f.toNat != 15
  | .tokw _ f => vget s.st.tokens 0 f.toNat != 0
  | i => !(if q == .vector then s.st.mqueue else if q == .matrix then s.st.vqueue else []).any (fun o =>
      decide (o.seq < it.seq) && ordered i o.instr)

/-- The code of a queue in TOKS and TOKW (R308). -/
def Queue.code : Queue → BitVec 2
  | .scalar => 0
  | .vector => 1
  | .matrix => 2
  | .engine => 3

/-- The queue a code names (R308). -/
def queueOfCode (q : BitVec 2) : Queue :=
  if q = 0 then .scalar else if q = 1 then .vector else if q = 2 then .matrix else .engine

def State.tokens (s : State) (f : BitVec 3) : BitVec 4 := vget s.st.tokens 0 f.toNat

def State.setTokens (s : State) (f : BitVec 3) (n : BitVec 4) : State :=
  { s with st := { s.st with tokens := vset s.st.tokens f.toNat n } }

/-- What a queue has performed is performed with respect to the core, for accesses of both classes (R320, R321). -/
def State.retireQueue (s : State) (q : Queue) : State :=
  match q with
  | .scalar => s.joinStores false (fun _ => true)
  | .vector => (s.joinStores true (fun _ => true)).flushScatter s.st.id
  | .matrix => s.joinStores true (fun _ => true)
  | .engine => s

/-- A TOKS of a queue pushes. -/
def State.push (s : State) (q : Queue) (f : BitVec 3) : State := (s.retireQueue q).setTokens f (s.tokens f + 1)

/-- TOKS (R320): into an empty queue it pushes at once, unless the FIFO is full; in the scalar queue the front end stalls
while it is. -/
def execToks (q : BitVec 2) (f : BitVec 3) (s : State) : Host.Outcome State Fault Refusal :=
  finish do
    gate (.toks q f) {} s
    headWait s
    if (s.queue (queueOfCode q)).isEmpty && s.tokens f != 15 then .ok (s.push (queueOfCode q) f).advance
    else do
      check (s.hasRoom (queueOfCode q)) s
      .ok (s.enqueue (queueOfCode q) (.toks q f)).advance

/-- TOKW (R320): at the front of its queue it pops, or blocks the queue while the FIFO is empty. -/
def execTokw (q : BitVec 2) (f : BitVec 3) (s : State) : Host.Outcome State Fault Refusal :=
  finish do
    gate (.tokw q f) {} s
    headWait s
    if (s.queue (queueOfCode q)).isEmpty && s.tokens f != 0 then .ok (s.setTokens f (s.tokens f - 1)).advance
    else do
      check (s.hasRoom (queueOfCode q)) s
      .ok (s.enqueue (queueOfCode q) (.tokw q f)).advance

/-- A token of a FIFO moves for the instruction at the front of a queue, and for what comes after it. -/
def State.moveToken (s : State) (q : Queue) (it : QItem) (rest : List QItem) (f : BitVec 3) (n : BitVec 4) : State :=
  ((s.setTokens f (s.tokens f + n)).setQueue q rest).patchAfter it.seq (fun o =>
    { o with tokens := vset o.tokens f.toNat (vget o.tokens 0 f.toNat + n) })

/-- TOKEN_PUSH: the TOKS at the front of a queue pushes when its FIFO has room. -/
def execTokenPush (q : BitVec 2) (s : State) : Host.Outcome State Fault Refusal :=
  match s.queue (queueOfCode q) with
  | it :: rest =>
    match it.instr with
    | .toks _ f =>
      if s.tokens f = 15 then .next s else .next ((s.retireQueue (queueOfCode q)).moveToken (queueOfCode q) it rest f 1)
    | _ => .next s
  | [] => .next s

/-- TOKEN_POP: the TOKW at the front of a queue pops when its FIFO holds a token. -/
def execTokenPop (q : BitVec 2) (s : State) : Host.Outcome State Fault Refusal :=
  match s.queue (queueOfCode q) with
  | it :: rest =>
    match it.instr with
    | .tokw _ f => if s.tokens f = 0 then .next s else .next (s.moveToken (queueOfCode q) it rest f 15)
    | _ => .next s
  | [] => .next s

end Sys2Proof.Machine
end

