-- ==== Sys2Proof/Machine/Barriers.lean ====
section
/-! DEFINITION. Barrier records and local groups: BINIT, BARR, BWAIT, BARRW, BINV, GBAR (13 R300 to R307). -/

namespace Sys2Proof.Machine

/-! ## Release at a scope (R249, R304) -/

/-- Every earlier access of the strand is performed at a scope (R37): .CORE and .RING bind only the strand's own cores, which see
its buffered stores; the arrival itself is still ordered behind earlier scalar stores. -/
def State.releaseScope (s : State) (scope : BitVec 3) : Run State :=
  if scope.toNat ≤ 1 then .ok s.joinAll
  else if scope = 4 then s.releaseSys
  else .ok s.release

/-! ## Waiting -/

/-- The layout of a result (R302). -/
def barResult (phase : BitVec 32) (status : BitVec 8) : Word := phase ++ 0#24 ++ status

/-- Begin a wait of the strand. -/
def State.setWait (s : State) (k : WaitKind) (phase : BitVec 32) : State :=
  { s with st := { s.st with wait := some { kind := k, phase := phase, delivered := none } } }

/-- A pending wait ends with what was delivered, and acquires at status 0 or 1; else it stalls (R302, R304, R306). -/
def State.deliver (s : State) (d : BitVec 5) : Run State :=
  match s.st.wait.bind (·.delivered) with
  | some (status, phase) =>
    let s := { s with st := { s.st with wait := none } }
    let s := if status.toNat ≤ 1 then s.acquire else s
    .ok (s.result d (barResult phase status))
  | none => .error s

/-! ## Records -/

/-- The checks of R306, whose faults a speculative chunk holds, and the record's translation. (DEDUCED, log entry 45.)
(DEDUCED, log entry 46.) -/
def State.recordAt (s : State) (a : Word) : Run (State × Xl) := do
  check (decide (a.toNat < 2 ^ 54)) (s.trapA 0x20 2 a)
  check (decide (a.toNat % 64 = 0)) (s.trapA 0x21 2 a)
  let (s, l) ← s.reach .both a.toNat
  match l with
  | .sram _ => .error (s.trapA 0x80 2 a)
  | .mem x =>
    check (x.kind == 0) (s.trapA 0x80 2 a)
    check (s.regionAt a.toNat 64).isNone (s.trapA 0x43 2 a)
    .ok (s, x)

/-- The record may be stepped, once the chunk is head: its line is in no doubt, and not poisoned. -/
def State.recordReady (s : State) (x : Xl) (a : Word) : Run State := do
  Run.keeping a.toNat x (do
    headWait s
    s.settled true x.pa 64
    check (s.bankOpen x.vc x.pa 64) s)
  let lost := s.lostStep x.vc x.pa 64
  let s := s.touch s.ring? x.pa
  check (!lost && !s.poisoned x.pa) ((if lost then s.bankPackets x.vc x.pa 64 else s).trapA 0xC0 1 a)
  .ok ((s.atBank x.vc x.pa 64).hostDone x.pa 64)

/-- The record that a barrier instruction names is checked and may be stepped: an arrival at a scope releases first (R304), every
step follows the strand's earlier scalar stores. -/
def State.record (s : State) (a : Word) (scope : Option (BitVec 3)) : Run (State × Nat) := do
  let (s, x) ← s.recordAt a
  let s ← s.recordReady x a
  let s ← Run.keeping a.toNat x (match scope with
    | none => .ok s
    | some c => do
      check s.noneHeld s
      s.releaseScope c)
  .ok (s.scalarDone x.pa 64, x.pa)

/-- A field of a record, 4 bytes at an offset. -/
def State.recField (s : State) (pa off : Nat) : Nat := leNat (s.memBytes (pa + off) 4)

/-- invalid(rec): valid 0, or a reserved bit set (R300). -/
def State.recInvalid (s : State) (pa : Nat) : Bool :=
  s.memByte (pa + 12) != 1 || (s.memBytes (pa + 13) 51).any (· != 0)

/-- A step of the record's bank: its bytes are written and speculative readers see a store; waiters are not disturbed. -/
def State.recWrite (s : State) (pa : Nat) (bs : List Byte) : State :=
  let s := (pieces pa bs.length).foldl (fun s p => s.announce p.1) s
  (s.pokeBytes pa bs).writeSeen true (pa / 64)

/-- An arrival (R303): the phase joined, and whether it advanced. -/
def State.arrive (s : State) (pa : Nat) : State × BitVec 32 × Bool :=
  let expected := s.recField pa 0
  let n := (s.recField pa 4 + 1) % 2 ^ 32
  let p := s.recPhase pa
  if expected ≤ n then
    let s := s.recWrite (pa + 4) (leBytes 4 0 ++ leBytes 4 (p + 1).toNat)
    (s.releaseAt pa (fun w => w.phase == p) 0 (p + 1), p, true)
  else (s.recWrite (pa + 4) (leBytes 4 n), p, false)

/-- The strand joins the waiters of the record. -/
def State.addWaiter (s : State) (pa : Nat) (phase : BitVec 32) (joined : Bool) : State :=
  let w : Waiter := { id := s.st.id, pa := pa, phase := phase, joined := joined }
  let s := { s with waiters := s.waiters ++ [w] }
  s.setWait (if joined then .barrw pa else .bwait pa) phase

/-- BINIT (R303). -/
def execBinit (a b : BitVec 5) (s : State) : Host.Outcome State Fault Refusal :=
  finish do
    gate (.binit a b) {} s
    let n := s.getS b
    check (decide (n.toNat < 2 ^ 32) && n != 0) (s.trapS 0x81 n)
    let (s, pa) ← s.record (s.getS a) none
    let phase := s.recPhase pa
    let s := s.recWrite pa (leBytes 4 n.toNat ++ leBytes 4 0 ++ leBytes 4 phase.toNat ++ [1] ++ List.replicate 51 0)
    .ok (s.releaseAt pa (fun _ => true) 3 phase).advance

/-- BARR (R303): status 4 at an invalid record counts nothing. -/
def execBarr (d a : BitVec 5) (scope : BitVec 3) (s : State) : Host.Outcome State Fault Refusal :=
  finish do
    gate (.barr d a scope) {} s
    let (s, pa) ← s.record (s.getS a) (some scope)
    if s.recInvalid pa then .ok (s.result d (barResult 0 4))
    else
      let (s, p, _) := s.arrive pa
      .ok (s.result d (barResult p 0))

/-- BWAIT (R303). -/
def execBwait (d a b : BitVec 5) (s : State) : Host.Outcome State Fault Refusal :=
  finish do
    gate (.bwait d a b) {} s
    if s.st.wait.isSome && !s.spec then s.deliver d
    else do
      let (s, pa) ← s.record (s.getS a) none
      let want : BitVec 32 := (s.getS b).setWidth 32
      let p := s.recPhase pa
      if s.recInvalid pa then .ok (s.result d (barResult p 4))
      else if p != want then .ok (s.acquire.result d (barResult p 1))
      else .error (s.addWaiter pa want false)

/-- BARRW (R303): arrival, and a wait unless it advanced the phase. -/
def execBarrw (d a : BitVec 5) (scope : BitVec 3) (s : State) : Host.Outcome State Fault Refusal :=
  finish do
    gate (.barrw d a scope) {} s
    if s.st.wait.isSome && !s.spec then s.deliver d
    else do
      let (s, pa) ← s.record (s.getS a) (some scope)
      if s.recInvalid pa then .ok (s.result d (barResult 0 4))
      else
        let (s, p, done) := s.arrive pa
        if done then .ok (s.acquire.result d (barResult p 0)) else .error (s.addWaiter pa p true)

/-- BINV (R303). -/
def execBinv (a : BitVec 5) (s : State) : Host.Outcome State Fault Refusal :=
  finish do
    gate (.binv a) {} s
    let (s, pa) ← s.record (s.getS a) none
    let s := s.recWrite (pa + 12) [s.memByte (pa + 12) &&& 0xFE]
    .ok (s.releaseAt pa (fun _ => true) 4 (s.recPhase pa)).advance

/-- The local group that the strand may arrive at (R305). -/
def State.groupOf (s : State) (n : Word) : Option Group :=
  match s.launch? (idHandle s.st.id) with
  | none => none
  | some l =>
    if !l.gang then none
    else s.cp.groups.find? (fun g => g.handle == l.handle && g.index == n.toNat && g.strands.getLsbD (idIndex s.st.id))

/-- GBAR (R305): arrives at a local group, and waits for its phase. -/
def execGbar (d a : BitVec 5) (s : State) : Host.Outcome State Fault Refusal :=
  finish do
    gate (.gbar d a) {} s
    if s.st.wait.isSome && !s.spec then s.deliver d
    else
      let n := s.getS a
      match s.groupOf n with
      | none => .error (s.trapS 0x83 n)
      | some g => do
        headWait s
        check s.noneHeld s
        let s := s.release.setWait (.gbar g.index) g.phase
        (s.settleGroup { g with arrived := g.arrived ++ [idIndex s.st.id] }).deliver d

end Sys2Proof.Machine
end

