-- ==== Sys2Proof/Machine/Fences.lean ====
section
/-! DEFINITION. Ordering instructions of major 0x17: FSV, FVS, FENCE, FSC, LDACQ, STREL (10 R242, R247 to R250), and
clock_barrier (15 R340). -/

namespace Sys2Proof.Machine

/-- A speculative chunk runs on past an ordering instruction of .SYS, or an FSC (`barrier`): what it demands holds before the chunk
goes on as head (R250). -/
def State.owe (s : State) (barrier : Bool) : State :=
  { s with x := { s.x with owed := if barrier || s.x.owed == .barrier then .barrier else .sys } }

/-- FSV (R242): earlier scalar stores leave the buffer before any later vector access. -/
def execFsv (s : State) : Host.Outcome State Fault Refusal :=
  finish do
    gate .fsv Need.any s
    .ok (if s.spec then s else s.drainScalar).advance

/-- FVS (R242): stalls until every earlier vector access is performed. -/
def execFvs (s : State) : Host.Outcome State Fault Refusal :=
  finish do
    gate .fvs Need.any s
    if s.spec then .ok s.advance
    else do
      check s.noneHeld s
      .ok (s.drainVector.flushScatter s.st.id).advance

/-- FENCE (R247): kind 1 orders loads, 2 stores, 3 both and later loads. Loads are performed when they complete. Kinds 1 and 3
at .PKG and .SYS acquire (R288). At .CORE and .RING the observers are the strand's own cores (DESIGN CHOICE, log entry 9). -/
def execFence (k : BitVec 2) (scope : BitVec 3) (s : State) : Host.Outcome State Fault Refusal :=
  finish do
    gate (.fence k scope) Need.any s
    let acq (s : State) : State := if k != 2 && scope.toNat ≥ 3 then s.acquire else s
    if s.spec then .ok (acq (if scope = 4 ∧ k ≠ 1 then s.owe false else s)).advance
    else do
      check s.noneHeld s
      if k = 1 then .ok (acq s).advance
      else
        let s := if scope.toNat ≤ 1 then s.joinAll else s.release
        if scope = 4 then do
          s.sysWait
          .ok (acq s).advance
        else .ok (acq s).advance

/-! ## FSC -/

/-- A counted barrier packet carries every nonzero entry of the sender's clock (R340). -/
def Net.sendBarrier (n : Net) (src dst : Nat) : Net :=
  let all := (List.range 208).filter (fun e => n.count src (e / 16) (e % 16) != 0 && e != src * 16 + dst)
  let n := { n with changed := all.foldl (fun l e => insertNat (strKey src dst * 256 + e) l) n.changed }
  n.post src dst (Mail.ask [] src)

/-- Barrier packets go to each die in service other than x. -/
def State.sendBarriers (s : State) : State :=
  { s with net := (List.range 13).foldl (fun n d =>
      if d = s.die ∨ n.retired.any (fun r => r.1 == d) then n else n.sendBarrier s.die d) s.net }

/-- Every packet from and to die x has been applied: the barriers and their replies are among them. -/
def State.barriersDone (s : State) : Bool :=
  let x := s.die
  !(s.net.transit.any (fun t => t.1 / 16 == x || t.1 % 16 == x)) && !(s.net.stalled.any (fun t => t.1 / 16 == x || t.1 % 16 == x)) &&
    !(s.net.early.any (fun h => h.die == x || h.src == x))

/-- FSC (R248): drains, performs every access at .SYS, and completes after clock_barrier. The mark of a barrier sent stands in
the reply list of the instruction at pc. -/
def execFsc (s : State) : Host.Outcome State Fault Refusal :=
  finish do
    gate .fsc Need.any s
    if s.spec then .ok (s.owe true).acquire.advance
    else do
      check s.noneHeld s
      let s ← s.releaseSys
      if s.x.replies.isEmpty then
        let s := s.sendBarriers
        if s.barriersDone then .ok s.acquire.advance
        else .error { s with x := { s.x with replies := [.data []] } }
      else do
        check s.barriersDone s
        .ok s.acquire.advance

/-- What a chunk owes that has become head is done before its next instruction (R250): the acknowledgements of .SYS, and the
barrier of every die. -/
def State.payOwed (s : State) : Run State :=
  match s.x.owed with
  | .nothing => .ok s
  | .sys => do
    let s ← s.releaseSys
    .ok { s with x := { s.x with owed := .nothing } }
  | .barrier => do
    let s ← s.releaseSys
    .error { s.sendBarriers with x := { s.x with owed := .sent } }
  | .sent => do
    check s.barriersDone s
    .ok { s with x := { s.x with owed := .nothing } }

/-! ## LDACQ, STREL -/

/-- LDACQ (R249): the load, and an acquire at .PKG and .SYS (R288). At .SYS it waits for the fabric's acknowledgements (R359). -/
def execLdacq (d a : BitVec 5) (w scope : BitVec 3) (s : State) : Host.Outcome State Fault Refusal :=
  finish do
    gate (.ldacq d a w scope) Need.any s
    let s ← if scope != 4 then .ok s else if s.spec then .ok (s.owe false) else s.releaseSys
    let (s, v) ← s.loadW (s.getS a) w.toNat
    .ok ((if scope.toNat ≥ 3 then s.acquire else s).result d v)

/-- STREL (R249): the store, after every earlier access of both classes is performed at the scope. -/
def execStrel (d a : BitVec 5) (w : BitVec 2) (scope : BitVec 3) (s : State) : Host.Outcome State Fault Refusal :=
  finish do
    gate (.strel d a w scope) Need.any s
    let s ← if s.spec then .ok (if scope = 4 then s.owe false else s)
      else do
        check s.noneHeld s
        s.releaseScope scope
    let s ← s.storeW (s.getS a) w.toNat (s.getS d)
    .ok s.advance

end Sys2Proof.Machine
end

