-- ==== Sys2Proof/Machine/Fork.lean ====
section
/-! DEFINITION. Forks and chunks: FORK to CHAINW, commit, the chain, the induction predictor, and their events
(05_chunks.md R98 to R133). -/

namespace Sys2Proof.Machine

def Need.strand : Need := {}

/-! ## Iterations and chunks (R104) -/

def ceilDiv (a b : Nat) : Nat := (a + b - 1) / b

/-- First linear iteration number and number of iterations of chunk k. -/
def Fork.chunkStart (f : Fork) (k : Nat) : Nat :=
  if f.tiled then
    let nc := ceilDiv f.cols f.wide
    let r := k / nc * f.high
    r * f.cols + k % nc * f.wide * min f.high (f.rows - r)
  else k * f.high

def Fork.chunkLen (f : Fork) (k : Nat) : Nat :=
  if f.tiled then
    let nc := ceilDiv f.cols f.wide
    min f.high (f.rows - k / nc * f.high) * min f.wide (f.cols - k % nc * f.wide)
  else min f.high (f.count - k * f.high)

/-- Row and column of iteration number `i` of chunk k. -/
def Fork.rowCol (f : Fork) (k i : Nat) : Nat × Nat :=
  if f.tiled then
    let nc := ceilDiv f.cols f.wide
    let w := min f.wide (f.cols - k % nc * f.wide)
    let j := i - f.chunkStart k
    (k / nc * f.high + j / w, k % nc * f.wide + j % w)
  else (i, 0)

/-! ## Descriptor (R101, R102) -/

/-- Bits set in the low 32 of a word. -/
def popc32 (x : Nat) : Nat := ((List.range 32).filter (fun i => x.testBit i)).length

def descriptorOk (even odd : Word) (rows cols : Nat) : Bool :=
  bits even 48 16 == 0 && bits even 19 13 == 0 && bits even 16 1 == 0 &&
  !bit odd 0 && !bit odd 32 && (bits odd 32 32 &&& bits odd 0 32) == bits odd 32 32 && decide (popc32 (bits odd 32 32) ≤ 4) &&
  decide (rows * cols < 2 ^ 32)

/-! ## scan_endi (R132) -/

/-- Read words from `a` upward until the ENDI that closes the fork; depth counts open forks. -/
def scanEndi : Nat → Nat → BitVec 54 → State → State × Except (BitVec 8 × BitVec 54) (BitVec 54)
  | 0, _, a, s => (s, .error (0x41, a))
  | fuel + 1, depth, a, s =>
    match s.fetchAt a with
    | (s, .error c) => (s, .error (c, a))
    | (s, .ok w) =>
      match decode w with
      | .ok (.fork _ _) => scanEndi fuel (depth + 1) (a + 4) s
      | .ok (.forkt _ _ _) => scanEndi fuel (depth + 1) (a + 4) s
      | .ok .endi => if depth = 1 then (s, .ok a) else scanEndi fuel (depth - 1) (a + 4) s
      | _ => scanEndi fuel depth (a + 4) s

/-- The ENDI of the fork at `from_`; a failure is raised at the instruction at pc: 0x41 with tval at it when no ENDI closes the
fork within 65,536 words, or the fetch fault with tval at the scanned address and akind execute. (DEDUCED, log entry 40.) -/
def State.findEndi (s : State) (from_ : BitVec 54) : Run (State × BitVec 54) :=
  match scanEndi 65536 1 (from_ + 4) s with
  | (s, .ok e) => .ok (s, e)
  | (s, .error (c, a)) =>
    if c = 0x41 then .error (s.trapS 0x41 (s.x.pc.setWidth 64)) else .error (s.trapA c 3 (a.setWidth 64))

/-! ## The induction predictor (R108) -/

/-- Registers named by a 32-bit mask. -/
def maskRegs (m : Nat) : List Nat := (List.range 32).filter (fun i => m.testBit i)

/-- The predictor at FORK: the site's entry becomes the most recently used, of 32. -/
def predAtFork (pred : List PredEntry) (site : BitVec 16) (regs : List (Nat × Word)) : List PredEntry :=
  let old := (pred.find? (fun e => e.site == site)).map (·.regs)
  let entry : PredEntry := { site := site, regs := regs.map (fun r =>
    match (old.getD []).find? (fun q => q.reg == r.1) with
    | some q => { q with last := r.2, lastc := 0 }
    | none => { reg := r.1, last := r.2, lastc := 0, stride := 0, conf := 0 }) }
  (entry :: pred.filter (fun e => e.site != site)).take 32

/-- The first confirmed start value v of a register for chunk k. -/
def PredReg.confirm (q : PredReg) (k : Nat) (v : Word) : PredReg :=
  if q.lastc + 1 = k then
    let d := v - q.last
    if d = q.stride then { q with conf := min (q.conf + 1) 2, last := v, lastc := k }
    else { q with stride := d, conf := 1, last := v, lastc := k }
  else { q with conf := 0, last := v, lastc := k }

def predConfirm (pred : List PredEntry) (site : BitVec 16) (k : Nat) (vals : List (Nat × Word)) : List PredEntry :=
  pred.map (fun e => if e.site = site then
    { e with regs := e.regs.map (fun q => match vals.find? (fun v => v.1 == q.reg) with
        | some v => q.confirm k v.2
        | none => q) }
    else e)

/-- The prediction for a register of chunk k, when there is one. -/
def Strand.predict (st : Strand) (k reg : Nat) : Option Word :=
  if st.nopred then none
  else ((st.pred.find? (fun e => e.site == st.fsite)).bind (fun e => e.regs.find? (fun q => q.reg == reg))).bind (fun q =>
    if q.conf = 2 then some (q.last + q.stride * BitVec.ofInt 64 ((k : Int) - q.lastc)) else none)

/-- Give a chunk the predictions for the live-ins it still awaits. (DEDUCED, log entry 43.) -/
def applyPredictions (st : Strand) (c : Ctx) : Ctx :=
  (maskRegs c.await.toNat).foldl (fun c r => match st.predict c.cnum.toNat r with
    | some v => { c with
        sreg := vset c.sreg r v, await := c.await &&& ~~~((1#32) <<< r), starts := c.starts ++ [(r, v)] }
    | none => c) c

/-! ## FORK and FORKT -/

/-- The snapshot (R105). -/
def Ctx.snap (x : Ctx) : Snap :=
  { sreg := x.sreg, vreg := x.vreg, kreg := x.kreg, vl := x.vl, vtype := x.vtype, vbeg := x.vbeg, rngkey := x.rngkey,
    rngctr := x.rngctr, claim := x.claim, shape := x.shape }

/-- Go to the JOIN that ends a loop (R129, R131). -/
def State.toJoin (k : JoinKind) (pc : BitVec 54) (s : State) : State :=
  { s with x := { s.x with joinDue := some (k, pc) } }.goto pc

/-- start_inline() (R131): the iterations run one after another in this chunk; none jumps to its JOIN. (DEDUCED, log entry 38.) -/
def startInline (rows cols : Nat) (tiled : Bool) (s : State) : Run State := do
  let count := if tiled then rows * cols else rows
  let l : Inline := { forkPc := s.x.pc, endiPc := none, count := count, cols := if tiled then cols else 0, index := 0 }
  if count = 0 then do
    let (s, e) ← s.findEndi s.x.pc
    .ok ({ s with x := { s.x with inline := some { l with endiPc := some e } } }.toJoin .inline (e + 4))
  else .ok ({ s with x := { s.x with inline := some l } }).advance

/-- At the start of a chunk no accumulator or slot row has a defined value, dirty bit or poison (R106, R213, R237). -/
def State.undefRows (s : State) : State :=
  { s with x := { s.x with
      acc := [], slot := [], dirty := 0, accPoison := Vector.replicate 8 0, slotPoison := Vector.replicate 16 0 } }

/-- A fork outside a fork (R132): registers, snapshot, predictor, chunk 0. The chunks read the strand's buffered stores of both
classes in program order (R110). -/
def startFork (tiled : Bool) (rows cols : Nat) (even odd : Word) (s : State) : Run State := do
  let count := if tiled then rows * cols else rows
  let csize := bits even 0 16
  let high := if tiled then (if csize / 256 = 0 then max 1 (ceilDiv rows 32) else csize / 256)
    else (if csize = 0 then max 1 (ceilDiv count 32) else csize)
  let wide := if tiled then (if csize % 256 = 0 then cols else csize % 256) else 0
  let nchunks := if count = 0 then 0 else if tiled then ceilDiv rows high * ceilDiv cols wide else ceilDiv count high
  let f : Fork :=
    { forkPc := s.x.pc, endiPc := none, even := even, odd := odd, tiled := tiled, rows := rows, cols := cols, high := high,
      wide := wide, count := count, nchunks := nchunks, posBase := s.x.pos.toNat, snap := s.x.snap, level := s.lvl,
      snapAt := 0, chunks := [],
      next := 1, committed := 0, passing := false, squashCount := [], anns := [], chain := [], arrived := [], confirms := [],
      updated := 0, posts := [], breaking := none, combines := [] }
  let set (s : State) (f : Fork) : State := { s with
    x := { s.x with
      cnum := 0, citer := 0, inline := none, broke := false, posts := [], seen := [], starts := [], await := 0, confirmed := true }
    st := { s.st with
      ccount := BitVec.ofNat 32 count, fsite := BitVec.ofNat 16 (bits even 32 16), fsquash := 0, active := true,
      serial := bit even 17, nopred := bit even 18, broke := false, fork := some f } }
  if count = 0 then do
    let (s, e) ← s.findEndi s.x.pc
    let t := set s { f with endiPc := some e }
    .ok (t.toJoin .outer (e + 4))
  else
    let t := (set s f).undefRows.joinAll
    let regs := (maskRegs (bits odd 32 32)).map (fun r => (r, vget s.x.sreg 0 r))
    .ok ({ t with st := { t.st with pred := predAtFork t.st.pred t.st.fsite regs } }).advance

/-- The snapshot can be taken: no vector or matrix instruction of the strand is still held in a queue (R105). -/
def State.snapReady (s : State) : Bool := s.inFork || !(s.st.vqueue ++ s.st.mqueue).any (fun it => !isToken it.instr)

/-- FORK and FORKT (R132): fork depth, descriptor, then an inline loop or a fork. -/
def forkWith (i : Instr) (tiled : Bool) (rows cols : Nat) (b : BitVec 5) (s : State) : Host.Outcome State Fault Refusal :=
  finish do
    gate i Need.strand s
    let even := s.getS b
    let odd := s.getS (b + 1)
    check (!(s.inFork && s.x.inline.isSome)) (s.trapS 0x46 (wordOf i))
    check (descriptorOk even odd rows (if tiled then cols else 1)) (s.trapS 0x40 even)
    check s.snapReady s
    let t ← if s.inFork then startInline rows cols tiled s else startFork tiled rows cols even odd s
    .ok t

def execFork (a b : BitVec 5) (s : State) : Host.Outcome State Fault Refusal :=
  forkWith (.fork a b) false (bits (s.getS a) 0 32) 0 b s

def execForkt (d a b : BitVec 5) (s : State) : Host.Outcome State Fault Refusal :=
  forkWith (.forkt d a b) true (bits (s.getS a) 0 32) (bits (s.getS d) 0 32) b s

/-- Outside a fork: cause 0x45. -/
def needFork (i : Instr) (s : State) : Run Unit := check s.inFork (s.trapS 0x45 (wordOf i))

/-- The linear, row and column index that ITER returns (R131, R132). -/
def State.iterIndex (s : State) (sel : Nat) : Nat :=
  match s.x.inline with
  | some l => if sel = 0 then l.index else if l.cols = 0 then (if sel = 1 then l.index else 0)
      else if sel = 1 then l.index / l.cols else l.index % l.cols
  | none =>
    let rc := match s.st.fork with
      | some f => f.rowCol s.x.cnum.toNat s.x.citer.toNat
      | none => (s.x.citer.toNat, 0)
    if sel = 0 then s.x.citer.toNat else if sel = 1 then rc.1 else rc.2

def execIter (d : BitVec 5) (sel : BitVec 6) (s : State) : Host.Outcome State Fault Refusal :=
  finish do
    gate (.iter d sel) Need.strand s
    needFork (.iter d sel) s
    .ok (s.result d (BitVec.ofNat 64 (s.iterIndex sel.toNat)))

/-! ## Tags (R125) -/

/-- Post a tag for an iteration of the focus chunk, once. -/
def State.postTag (s : State) (iter tag : Nat) : State :=
  if s.x.posts.contains (iter, tag) then s
  else match s.st.fork with
    | none => s
    | some f =>
      let p : Post := { iter := iter, tag := tag, cnum := s.x.cnum.toNat }
      { s with
        x := { s.x with posts := s.x.posts ++ [(iter, tag)] }
        st := { s.st with fork := some { f with posts := f.posts ++ [p] } } }

/-- Every tag the iteration has not posted is posted at its end. -/
def State.postAll (s : State) : State := (List.range 8).foldl (fun s t => s.postTag s.x.citer.toNat t) s

def execIpost (t : BitVec 6) (s : State) : Host.Outcome State Fault Refusal :=
  finish do
    gate (.ipost t) Need.strand s
    needFork (.ipost t) s
    .ok (s.postTag s.x.citer.toNat t.toNat).advance

def execIwait (a : BitVec 5) (t : BitVec 6) (s : State) : Host.Outcome State Fault Refusal :=
  finish do
    gate (.iwait a t) Need.strand s
    needFork (.iwait a t) s
    let i := bits (s.getS a) 0 32
    check (decide (i < s.x.citer.toNat)) (s.trapS 0x42 (BitVec.ofNat 64 i))
    let near := match s.st.fork with
      | some f => decide (f.chunkStart s.x.cnum.toNat ≤ i) || decide (i < f.chunkStart f.committed)
      | none => true
    check (near || s.x.seen.contains (i, t.toNat)) s
    .ok s.advance

/-! ## Finishing and committing (R114, R116) -/

/-- Nothing of the chunk waits in a queue (R319), and no live-in it sends is still awaited (R107). -/
def State.drained (s : State) : Bool :=
  (s.spec || (s.st.vqueue.isEmpty && s.st.mqueue.isEmpty && s.st.equeue.isEmpty)) &&
    (match s.st.fork with | some f => (s.x.await &&& (f.odd.setWidth 32)) == 0 | none => true)

/-- Send the live-ins' end values on the chain (R107), post the iteration's tags, and move to the finished context. -/
def State.finishChunk (s : State) : State :=
  let s := s.postAll
  match s.st.fork with
  | none => s
  | some f =>
    let m : ChainMsg :=
      { dst := s.x.cnum.toNat + 1, vals := (maskRegs (bits f.odd 0 32)).map (fun r => (r, vget s.x.sreg 0 r)),
        confirmed := s.x.confirmed }
    let f := if m.dst < f.nchunks then { f with chain := f.chain ++ [m] } else f
    { s with x := { s.x with phase := .finished }, st := { s.st with fork := some f } }

/-- The combines of a chunk's partials (R122). -/
def combinesOf (st : Strand) (x : Ctx) : List Combine :=
  x.partials.map (fun p =>
    match vget st.regions none p.region with
    | some r => { pa := p.pa, vc := p.vc, op := r.atomic, fmt := r.fmt, value := p.value }
    | none => { pa := p.pa, vc := p.vc, op := 0, fmt := 3, value := 0 })

/-- A chunk's sprio takes effect at commit (R80). -/
def Strand.applySprio (st : Strand) (x : Ctx) : Strand := match x.sprio with | some p => { st with runPrio := p } | none => st

/-- The head commits (R114): its versions are in memory, its partials go to the banks, head passes on later. -/
def State.commitHead (s : State) : State :=
  match s.st.fork with
  | none => s
  | some f =>
    let st := s.st.applySprio s.x
    let f := { f with
      committed := f.committed + 1, passing := true, combines := f.combines ++ combinesOf st s.x
      posts := f.posts.filter (fun p => s.x.cnum.toNat < p.cnum) }
    { s with x := { s.x with partials := [], vers := [], sprio := none }, st := { st with fork := some f } }

/-- What the chunk's ordering instructions demanded while it was speculative holds before its commit (R250). -/
def State.commitWait (s : State) : Run Unit := check (s.x.owed == .nothing) s

/-- ENDI of an inline loop (R131). -/
def endInlineIter (l : Inline) (s : State) : Run State := do
  check (match l.endiPc with | some e => e == s.x.pc | none => true) (s.trapS 0x41 (s.x.pc.setWidth 64))
  let l := { l with endiPc := some s.x.pc }
  if l.index + 1 < l.count then
    .ok ({ s with x := { s.x with inline := some { l with index := l.index + 1 } } }.goto (l.forkPc + 4))
  else .ok ({ s with x := { s.x with inline := some l } }.toJoin .inline (s.x.pc + 4))

/-- ENDI of the fork (R129, R132): the next iteration, or finish, wait for head and commit. -/
def endIteration (f : Fork) (s : State) : Run State := do
  check (match f.endiPc with | some e => e == s.x.pc | none => true) (s.trapS 0x41 (s.x.pc.setWidth 64))
  let f := { f with endiPc := some s.x.pc }
  let s := { s with st := { s.st with fork := some f } }
  let k := s.x.cnum.toNat
  if s.x.phase != .finished ∧ s.x.citer.toNat + 1 < f.chunkStart k + f.chunkLen k then
    let t := s.postAll
    .ok ({ t with x := { t.x with citer := t.x.citer + 1 } }.goto (f.forkPc + 4))
  else do
    check (s.x.phase == .finished || s.drained) s
    let s := if s.x.phase == .finished then s else s.finishChunk
    headWait s
    s.commitWait
    let t := s.commitHead
    if k + 1 = f.nchunks then .ok ({ t with x := { t.x with phase := .running } }.toJoin .outer (t.x.pc + 4))
    else .ok { t with retired := true, x := { idleCtx t.x.pos with cnum := t.x.cnum } }

/-- A strand asked to stop stops after an ENDI that completes (R408). -/
def State.markEndi (s : State) : State :=
  match s.st.phase with
  | .stopping t _ => { s with st := { s.st with phase := .stopping t true } }
  | .running => s
  | .saving => s
  | .frozen => s

def execEndi (s : State) : Host.Outcome State Fault Refusal :=
  finish do
    gate .endi Need.strand s
    needFork .endi s
    let s ← match s.x.inline, s.st.fork with
      | some l, _ => endInlineIter l s
      | none, some f => endIteration f s
      | none, none => .ok s.advance
    .ok s.markEndi

/-- FBREAK of the fork (R126). -/
def breakFork (f : Fork) (s : State) : Run State := do
  check (s.x.phase == .finished || s.drained) s
  let s := if s.x.phase == .finished then s else s.finishChunk
  let s := { s with x := { s.x with broke := true }, st := { s.st with fork := s.st.fork.map (fun f =>
    { f with breaking := some (match f.breaking with | some b => min b s.x.cnum.toNat | none => s.x.cnum.toNat) }) } }
  headWait s
  s.commitWait
  let (s, e) ← match f.endiPc with | some e => .ok (s, e) | none => s.findEndi f.forkPc
  let r := discardFrom (s.x.cnum.toNat + 1) false { x := s.x, st := s.st }
  let t := ({ s with x := r.x, st := r.st }).commitHead
  let fk := t.st.fork.map (fun f => { f with nchunks := f.committed, endiPc := some e, breaking := none })
  .ok ({ t with
    x := { t.x with phase := .running }
    st := { t.st with fork := fk, broke := true } }.toJoin .outer (e + 4))

/-- FBREAK (R126); in an inline loop it leaves for the word after its ENDI (R131). -/
def execFbreak (s : State) : Host.Outcome State Fault Refusal :=
  finish do
    gate .fbreak Need.strand s
    needFork .fbreak s
    match s.x.inline, s.st.fork with
    | some l, _ => do
      let (s, e) ← match l.endiPc with | some e => .ok (s, e) | none => s.findEndi l.forkPc
      .ok ({ s with x := { s.x with inline := some { l with endiPc := some e } } }.toJoin .inline (e + 4))
    | none, some f => breakFork f s
    | none, none => .ok s.advance

/-- R130: the strand goes on with the last chunk's state. -/
def State.joined (s : State) : State :=
  { s with
    x := { s.x with
      phase := .running, joinDue := none, inline := none, broke := false, vers := [], poisonLines := [], cleanLines := []
      partials := [], await := 0, starts := [], confirmed := true, posts := [], seen := [], owed := .nothing }
    st := { s.st with active := false, fork := none, regions := Vector.replicate 4 none } }

/-- The loop whose JOIN must stand at pc. (DEDUCED, log entry 34.) -/
def State.joinHere (s : State) : Option JoinKind :=
  s.x.joinDue.bind (fun d => if d.2 = s.x.pc then some d.1 else none)

/-- JOIN (R129 to R132). -/
def execJoin (s : State) : Host.Outcome State Fault Refusal :=
  finish do
    gate .join Need.strand s
    match s.joinHere with
    | none => .error (s.trapS 0x41 (s.x.pc.setWidth 64))
    | some .inline => .ok ({ s with x := { s.x with inline := none, joinDue := none } }.advance)
    | some .outer => do
      check (match s.st.fork with | some f => f.combines.isEmpty | none => true) s
      .ok s.joined.advance

/-- The head's number (R132); while head passes, it is still the chunk that has just committed. -/
def Fork.headNum (f : Fork) : Nat := if f.passing then f.committed - 1 else f.committed

def execCspec (d : BitVec 5) (s : State) : Host.Outcome State Fault Refusal :=
  finish do
    gate (.cspec d) Need.strand s
    let v := match s.st.fork with
      | some f => if s.inFork then BitVec.ofInt 64 ((s.x.cnum.toNat : Int) - f.headNum) else 0
      | none => 0
    .ok (s.result d v)

def execHeadw (s : State) : Host.Outcome State Fault Refusal :=
  finish do
    gate .headw Need.strand s
    headWait s
    .ok s.advance

/-- CHAINW (R127): until the confirmed value has arrived. -/
def execChainw (a : BitVec 5) (s : State) : Host.Outcome State Fault Refusal :=
  finish do
    gate (.chainw a) Need.strand s
    let waits := match s.st.fork with
      | some f => s.spec && s.x.cnum != 0 && f.odd.getLsbD a.toNat && !s.x.confirmed
      | none => false
    check (!waits) s
    .ok s.advance

/-! ## RDECL (R119) -/

/-- The formats each merge operation allows. -/
def regionOk (op fmt : Nat) : Bool :=
  match op with
  | 0 => fmt == 2 || fmt == 3 || fmt == 6 || fmt == 7
  | 1 => fmt == 9
  | 2 => fmt == 2 || fmt == 3 || fmt == 6 || fmt == 7
  | 3 => fmt == 2 || fmt == 3 || fmt == 6 || fmt == 7
  | 4 => fmt == 6 || fmt == 7
  | _ => false

def execRdecl (d a b : BitVec 5) (s : State) : Host.Outcome State Fault Refusal :=
  finish do
    gate (.rdecl d a b) Need.strand s
    let base := (s.getS a).toNat
    let w := s.getS b
    let len := bits w 0 40
    check (!s.inFork) (s.trapS 0x44 (s.getS a))
    if len = 0 then .ok ({ s with st := { s.st with regions := vset s.st.regions d.toNat none } }).advance
    else
      let clash := (List.range 4).any (fun j => j != d.toNat && (match vget s.st.regions none j with
        | some r => decide (base < r.base + r.len) && decide (r.base < base + len)
        | none => false))
      let op := bits w 45 3
      let fmt := bits w 40 5
      check (bits w 48 16 == 0 && base % 64 == 0 && len % 64 == 0 && decide (base + len ≤ 2 ^ 54) && regionOk op fmt && !clash)
        (s.trapS 0x44 (s.getS a))
      let r : Region := { base := base, len := len, op := op, fmt := fmt }
      .ok ({ s with st := { s.st with regions := vset s.st.regions d.toNat (some r) } }).advance

/-! ## Events of a fork -/

/-- Act on the focus strand's fork; nothing happens without one. -/
def onFork (s : State) (k : Fork → Option State) : Host.Outcome State Fault Refusal :=
  match s.st.fork with
  | some f => .next ((k f).getD s)
  | none => .next s

def State.setFork (s : State) (f : Fork) : State := { s with st := { s.st with fork := some f } }

/-- Every context of the fork in flight. -/
def State.flight (s : State) (f : Fork) : List Ctx := (s.x :: f.chunks).filter (fun c => c.phase != .idle)

/-- Change the context of chunk k, focus or not. -/
def State.onChunk (s : State) (k : Nat) (g : Ctx → Ctx) : State :=
  let h (c : Ctx) : Ctx := if c.phase != .idle && c.cnum.toNat == k then g c else c
  { s with x := h s.x, st := { s.st with fork := s.st.fork.map (fun f => { f with chunks := f.chunks.map h }) } }

/-- SNAPSHOT_ARRIVAL (R105). -/
def execSnapshotArrival (pos : BitVec 3) (s : State) : Host.Outcome State Fault Refusal :=
  onFork s (fun f => some (s.setFork { f with snapAt := f.snapAt ||| (1#8 <<< pos.toNat) }))

/-- Head may pass to chunk k (R114): every announcement and chain value of older chunks has arrived. -/
def Fork.headFree (f : Fork) (k : Nat) : Bool :=
  f.committed == k && !f.anns.any (fun a => decide (a.cnum < k)) && !f.chain.any (fun m => decide (m.dst ≤ k))

/-- One chunk runs at a time: a serial fork, or a gateway core (R61, R128). -/
def State.oneAtATime (s : State) : Bool :=
  s.st.serial || (match s.st.place with | .gateway _ => true | .ring _ => false | .management => false | .saved => false)

/-- Chunk f.next may start (R100, R126): where chunks run one at a time, only as the head (R61, R128), its live-ins confirmed. -/
def State.mayStart (s : State) (f : Fork) : Bool :=
  let k := f.next
  let pos := (f.posBase + k) % 8
  let gateway := match s.st.place with | .gateway _ => true | .ring _ => false | .management => false | .saved => false
  decide (k < f.nchunks) && f.breaking.isNone && decide (k < f.committed + 16) &&
  (gateway || f.snapAt.getLsbD pos) &&
  !(s.flight f).any (fun c => c.phase == .running && (gateway || c.pos.toNat == pos)) &&
  (!s.oneAtATime || (f.headFree k && (bits f.odd 0 32 == 0 || f.arrived.any (fun m => m.dst == k && m.confirmed)))) &&
  (s.st.phase == .running)

/-- The start state of chunk k (R106). (DEDUCED, log entry 33.) -/
def chunkContext (st : Strand) (f : Fork) (k : Nat) (pos : BitVec 3) : Ctx :=
  let live := maskRegs (bits f.odd 0 32)
  let msg := f.arrived.find? (fun m => m.dst == k)
  let c : Ctx := { Ctx.zero with
    pc := f.forkPc + 4, sreg := f.snap.sreg, vreg := f.snap.vreg, kreg := f.snap.kreg, vl := f.snap.vl, vtype := f.snap.vtype
    vbeg := f.snap.vbeg, rngkey := f.snap.rngkey, rngctr := f.snap.rngctr, claim := f.snap.claim, shape := f.snap.shape
    cnum := BitVec.ofNat 32 k, citer := BitVec.ofNat 32 (f.chunkStart k), pos := pos, confirmed := live.isEmpty }
  match msg with
  | some m => { c with
      sreg := m.vals.foldl (fun v p => vset v p.1 p.2) c.sreg, starts := m.vals, confirmed := m.confirmed }
  | none => applyPredictions st { c with await := BitVec.ofNat 32 (bits f.odd 0 32) }

/-- CHUNK_START (R100, R106): the next chunk starts on its ring position; where chunks run one at a time it starts as the head. -/
def execChunkStart (s : State) : Host.Outcome State Fault Refusal :=
  onFork s (fun f =>
    if s.mayStart f then
      let pos : BitVec 3 := match s.st.place with
        | .ring _ => BitVec.ofNat 3 ((f.posBase + f.next) % 8)
        | .gateway _ => s.x.pos
        | .management => s.x.pos
        | .saved => s.x.pos
      let c := chunkContext s.st f f.next pos
      let f := { f with next := f.next + 1, chunks := f.chunks.filter (fun c => c.phase != .idle) ++ [c] }
      some (if s.oneAtATime then s.drainAll.setFork { f with passing := false } else s.setFork f)
    else none)

/-- A confirmed message for chunk k: the predictor learns from the first (R108), a chunk that started with another value is
squashed (R113), the chunk's live-ins become confirmed, and one that has finished sends the confirmation on (R107). -/
def State.confirmChunk (s : State) (k : Nat) (vals : List (Nat × Word)) : State :=
  match s.st.fork with
  | none => s
  | some f =>
    let s := if f.updated < k then
        let st := { s.st with fork := some { f with updated := k }, pred := predConfirm s.st.pred s.st.fsite k vals }
        let f' : Fork := { f with updated := k, chunks := f.chunks.map (fun c => if c.phase != .idle then applyPredictions st c else c) }
        { s with x := if s.x.phase != .idle then applyPredictions st s.x else s.x, st := { st with fork := some f' } }
      else s
    match (s.flight f).find? (fun c => c.cnum.toNat == k) with
    | none => s
    | some _ =>
      let now := match s.st.fork with | some f => s.flight f | none => []
      let wrong := now.any (fun c => c.cnum.toNat == k &&
        c.starts.any (fun p => match vals.find? (fun v => v.1 == p.1) with | some v => v.2 != p.2 | none => false))
      if wrong then s.squash k
      else
        let done := now.any (fun c => c.cnum.toNat == k && c.phase == .finished && !c.confirmed)
        let s := s.onChunk k (fun c => { c with confirmed := true })
        match s.st.fork with
        | some f => if done then s.setFork { f with confirms := f.confirms ++ [k + 1] } else s
        | none => s

/-- Values for the live-ins that chunk k still awaits. -/
def deliverVals (vals : List (Nat × Word)) (c : Ctx) : Ctx :=
  vals.foldl (fun c p =>
    if c.await.getLsbD p.1 then
      { c with sreg := vset c.sreg p.1 p.2, await := c.await &&& ~~~((1#32) <<< p.1), starts := c.starts ++ [p] }
    else c) c

/-- CHAIN_VALUE_ARRIVAL (R107): chunk k's live-ins arrive. -/
def execChainValueArrival (k : BitVec 32) (s : State) : Host.Outcome State Fault Refusal :=
  onFork s (fun f => (f.chain.find? (fun m => m.dst == k.toNat)).map (fun m =>
    let f := { f with
      chain := f.chain.filter (fun q => q.dst != m.dst)
      arrived := m :: f.arrived.filter (fun q => q.dst != m.dst) }
    let s := (s.setFork f).onChunk m.dst (deliverVals m.vals)
    if m.confirmed then s.confirmChunk m.dst m.vals else s))

/-- CHAIN_CONFIRMATION (R107): the values that chunk k has received are confirmed. -/
def execChainConfirmation (k : BitVec 32) (s : State) : Host.Outcome State Fault Refusal :=
  onFork s (fun f =>
    match f.arrived.find? (fun m => m.dst == k.toNat) with
    | none => none
    | some m =>
      if f.confirms.contains k.toNat then
        let f := { f with
          confirms := f.confirms.filter (· != k.toNat)
          arrived := f.arrived.map (fun q => if q.dst = k.toNat then { q with confirmed := true } else q) }
        some ((s.setFork f).confirmChunk k.toNat m.vals)
      else none)

/-- The read may have missed this store: its value came neither from the storing chunk at or after the store, nor from a younger
one (R111). -/
def missed (a : Ann) (v : Version) : Bool :=
  v.exposed && v.word == a.word &&
    (match v.src with
     | none => true
     | some (c, q) => decide (c < a.cnum) || (decide (c = a.cnum) && decide (q < a.seq)))

/-- STORE_ANNOUNCEMENT (R111): the oldest announcement reaches the younger chunks. -/
def execStoreAnnouncement (s : State) : Host.Outcome State Fault Refusal :=
  onFork s (fun f =>
    match f.anns with
    | [] => none
    | a :: rest =>
      let s := s.setFork { f with anns := rest }
      let young := (s.flight f).filter (fun c => decide (a.cnum < c.cnum.toNat))
      let hit := (young.filter (fun c => c.vers.any (missed a))).foldl (fun m c => match m with
        | none => some c.cnum.toNat
        | some k => some (min k c.cnum.toNat)) (none : Option Nat)
      match hit with
      | none => some s
      | some y =>
        if young.any (fun c => decide (c.cnum.toNat < y) && c.vers.any (fun v => v.word == a.word && v.written)) then some s
        else some (s.squash y))

/-- The chunk's written versions become committed lines (R114). -/
def State.placeVersions (s : State) (vers : List Version) : State :=
  (vers.filter (·.written)).foldl (fun s v => s.perform true (v.word * 8) (leBytes 8 v.data.toNat)) s

/-- HEAD_PASS (R114): head passes to the next chunk once that has started, its live-ins are confirmed, and every announcement and
chain value of older chunks has arrived. Its versions, poison with them (R225), then stand in memory (DEDUCED, log entry 11). -/
def execHeadPass (s : State) : Host.Outcome State Fault Refusal :=
  onFork s (fun f =>
    match (s.flight f).find? (fun c => c.cnum.toNat == f.committed) with
    | none => none
    | some c =>
      if f.passing && c.confirmed && f.headFree f.committed then
        let t := c.poisonLines.foldl State.markPoison (c.cleanLines.foldl State.clearPoison ((s.drainAll).placeVersions c.vers))
        let t := t.onChunk f.committed (fun c => { c with vers := [], poisonLines := [], cleanLines := [] })
        match t.st.fork with
        | some f => some (t.setFork { f with passing := false })
        | none => none
      else none)

/-- MERGE_COMBINE (R122): the oldest combine is performed at its bank, after the strand's earlier stores to the element. -/
def execMergeCombine (s : State) : Host.Outcome State Fault Refusal :=
  onFork s (fun f =>
    match f.combines with
    | [] => none
    | c :: rest => some ((s.setFork { f with combines := rest }).combineAt c.vc c.pa (fmtWidth c.fmt / 8) c.op c.value.toNat))

/-- TAG_POST_ARRIVAL (R125): the oldest post of an older chunk that chunk k has not seen reaches it. -/
def execTagPostArrival (k : BitVec 32) (s : State) : Host.Outcome State Fault Refusal :=
  onFork s (fun f =>
    match (s.flight f).find? (fun c => c.cnum == k) with
    | none => none
    | some c =>
      match f.posts.find? (fun p => decide (p.cnum < k.toNat) && !c.seen.contains (p.iter, p.tag)) with
      | none => none
      | some p => some (s.onChunk k.toNat (fun c => { c with seen := c.seen ++ [(p.iter, p.tag)] })))

end Sys2Proof.Machine
end

