-- ==== Sys2Proof/Machine/Vcaches.lean ====
section
/-! DEFINITION. Plats and the vcache instructions VCDEF, VCDEL, VCQRY, VCSYNC, VCFLUSH (11 R255 to R275); drains, fenced parcels,
and the arithmetic units of the banks (11 R263, R264, R268 to R270). -/

namespace Sys2Proof.Machine

/-! ## Plats (R257) -/

/-- Number of set bits among the low n of a natural. -/
def popCount (x : Nat) : Nat → Nat
  | 0 => 0
  | n + 1 => x % 2 + popCount (x / 2) n

/-- The plat in a 128-byte record, none when it is malformed. -/
def readPlat (bs : List Byte) : Option Plat :=
  let b (i : Nat) : Nat := (bs.getD i 0).toNat
  let mask := leNat ((bs.drop 4).take 2)
  let map := leNat (bs.drop 64)
  let p : Plat :=
    { id := b 0, repl := nbits (b 1) 5 1 == 1, policy := nbits (b 1) 2 3, line := nbits (b 1) 0 2, owner := b 2,
      fast := nbits (b 3) 0 1 == 1, waymask := BitVec.ofNat 16 mask, map := BitVec.ofNat 512 map }
  if nbits (b 1) 6 2 = 0 ∧ b 3 < 2 ∧ nbits (b 6) 5 3 = 0 ∧ ((bs.drop 7).take 57).all (· == 0) ∧ p.policy ≤ 4 ∧
      mask ≠ 0 ∧ b 6 = popCount mask 16 ∧ map ≠ 0 ∧ (p.owner < 32 ∨ p.owner = 0xFF) then some p else none

def parcelBank (c : BitVec 13) : Nat := c.toNat / 16
def parcelWay (c : BitVec 13) : Nat := c.toNat % 16

/-- A parcel of p is fenced, or owned by a vcache other than 1 and id (R262). -/
def State.platTaken (s : State) (p : Plat) : Bool :=
  s.cache.fenced.any (fun c => p.hasParcel (parcelBank c) (parcelWay c)) ||
    s.cache.vcaches.any (fun v => v.id != p.id && v.plats.any (fun q => (q.map &&& p.map) != 0 && (q.waymask &&& p.waymask) != 0))

def State.setVcache (s : State) (v : Vcache) : State :=
  { s with cache := { s.cache with vcaches := s.cache.vcaches.map (fun u => if u.id = v.id then v else u) } }

/-- The lines of a vcache become those of its draining generation. -/
def ageLines (id : Nat) (l : CLine) : CLine := if l.holder = .vcache id then { l with current := false } else l

/-- The strand that issues a definition; none on the management core (R438). -/
def State.issuer (s : State) : Option StrandId := if s.st.place = .management then none else some s.st.id

/-- A legal VCDEF (R262): the parcels that vcache 1 held are emptied, dirty lines going home, and a live identifier starts to drain. -/
def State.installPlat (s : State) (p : Plat) : State :=
  let s := s.evictAll (fun l => l.holder == .vcache 1 && p.hasParcel (sysBank (l.line * 64)) l.way)
  match s.vcache? p.id with
  | none =>
    let v : Vcache := { id := p.id, current := some p, draining := none, deleting := false, degraded := false,
                        issuer := s.issuer, moved := 0, written := 0 }
    { s with cache := { s.cache with vcaches := s.cache.vcaches ++ [v] } }
  | some v =>
    let s := { s with cache := { s.cache with lines := s.cache.lines.map (ageLines p.id) } }
    s.setVcache { v with current := some p, draining := v.current, issuer := s.issuer, moved := 0, written := 0 }

/-- An identifier that the issuer may not touch at supervisor level. -/
def State.foreignVcache (s : State) (v : Vcache) : Bool :=
  s.lvl == 1 && (match v.plat? with | some p => p.owner != s.st.vf.toNat | none => false)

/-- Status of VCDEF for a record (R262), and the plat when it is 0. -/
def State.vcdefStatus (s : State) (bs : List Byte) : Nat × Option Plat :=
  match readPlat bs with
  | none => (2, none)
  | some p =>
    if p.id ≤ 1 then (5, none)
    else
      let old := s.vcache? p.id
      if s.lvl == 1 && (p.owner != s.st.vf.toNat || (match old with | some v => s.foreignVcache v | none => false)) then (4, none)
      else if (match old with | some v => v.draining.isSome || v.deleting | none => false) then (1, none)
      else if s.platTaken p then (3, none)
      else (0, some p)

/-- VCDEF (R262). -/
def execVcdef (d a : BitVec 5) (s : State) : Host.Outcome State Fault Refusal :=
  finish do
    gate (.vcdef d a) { feat := some 2, lvl := 1, mgmt := true } s
    headWait s
    let va := s.getS a
    if va.toNat % 128 ≠ 0 then .ok (s.result d 2)
    else do
      let (s, bs) ← s.memRead va 128
      let (code, p) := s.vcdefStatus bs
      let s := match p with | some p => s.installPlat p | none => s
      .ok (s.result d (BitVec.ofNat 64 code))

/-- Status of VCDEL for s[a] (R272), and the vcache when it is 0. -/
def State.vcdelStatus (s : State) (v : Word) : Nat × Option Vcache :=
  if v.toNat > 255 then (6, none)
  else if v.toNat ≤ 1 then (5, none)
  else match s.vcache? v.toNat with
    | none => (6, none)
    | some c =>
      if s.foreignVcache c then (4, none)
      else if c.draining.isSome || c.deleting then (1, none)
      else (0, some c)

/-- VCDEL (R272): the whole plat drains with no current plat. -/
def execVcdel (d a : BitVec 5) (s : State) : Host.Outcome State Fault Refusal :=
  finish do
    gate (.vcdel d a) { feat := some 2, lvl := 1, mgmt := true } s
    headWait s
    let (code, c) := s.vcdelStatus (s.getS a)
    let s := match c with
      | some c =>
        let t := { s with cache := { s.cache with lines := s.cache.lines.map (ageLines c.id) } }
        t.setVcache { c with current := none, draining := c.current, deleting := true, issuer := s.issuer,
                             moved := 0, written := 0 }
      | none => s
    .ok (s.result d (BitVec.ofNat 64 code))

/-! ## VCQRY (R273) -/

/-- Unfenced parcels that `f` selects. -/
def State.countParcels (s : State) (f : Nat → Nat → Bool) : Nat :=
  (List.range 512).foldl (fun n b => (List.range 16).foldl (fun n w =>
    if f b w && !s.parcelFenced b w then n + 1 else n) n) 0

/-- Pack a summary. -/
def vcSummary (drn deg : Bool) (owner policy : Nat) (repl : Bool) (line ways banks parcels : Nat) : Word :=
  BitVec.ofNat 64 (2 ^ 63 + b2n drn (2 ^ 62) + b2n deg (2 ^ 61) + owner * 2 ^ 48 + policy * 2 ^ 45 + b2n repl (2 ^ 44) +
    line * 2 ^ 42 + ways * 2 ^ 37 + banks * 2 ^ 27 + parcels)

/-- The summary of a vcache for function vf. -/
def State.vcQuery (s : State) (v : Word) (vf : Nat) : Word :=
  match v.toNat with
  | 0 => 2 ^ 63
  | 1 => vcSummary false s.cache.sysDegraded 0xFF 0 false 0 16 512
      (s.countParcels (fun b w => !s.cache.vcaches.any (fun v => v.holdsParcel b w)))
  | id =>
    match s.vcache? id with
    | none => 0
    | some c => match c.plat? with
      | none => 0
      | some p =>
        if p.owner ≠ 0xFF ∧ p.owner ≠ vf then 0
        else vcSummary (c.draining.isSome || c.deleting) c.degraded p.owner p.policy p.repl p.line (popCount p.waymask.toNat 16)
          (bankCount p.map) (s.countParcels c.holdsParcel)

/-- VCQRY (R273). -/
def execVcqry (d a : BitVec 5) (s : State) : Host.Outcome State Fault Refusal :=
  finish do
    gate (.vcqry d a) Need.any s
    .ok (s.result d (s.vcQuery (s.getS a) s.st.vf.toNat))

/-! ## VCSYNC and VCFLUSH (R274) -/

/-- A range cut at multiples of b: (address, bytes). -/
def cutAt (b va n : Nat) : List (Nat × Nat) :=
  if n = 0 then []
  else (List.range ((va + n - 1) / b - va / b + 1)).map (fun i =>
    let lo := max va ((va / b + i) * b)
    (lo, min (va + n) ((va / b + i + 1) * b) - lo))

/-- A range cut at page boundaries: (address, bytes). -/
def pagePieces (va n : Nat) : List (Nat × Nat) := cutAt 65536 va n

/-- Each page of the range is translated for read; `f` acts on each local piece. -/
def State.eachPage (s : State) (va n : Nat) (f : State → Xl → Nat → State) : Run State :=
  (pagePieces va n).foldlM (fun s p => do
    let (s, l) ← s.reach .read p.1
    match l with
    | .sram _ => .ok s
    | .mem x => .ok (if x.fabric then s else f s x p.2)) s

/-- The lines that a piece touches, taken as whole lines of the vcache its page names. -/
def State.vcLines (s : State) (x : Xl) (n : Nat) : List Nat :=
  ((linesOf x.pa n).flatMap (sectorsUnder (s.platOf x.vc))).eraseDups

/-- Drop the copies of lines that a read-only vcache, and the issuing core's L1, hold of a piece. -/
def State.syncPiece (s : State) (x : Xl) (n : Nat) : State :=
  if s.policy x.vc != 3 then s
  else
    let ls := s.vcLines x n
    let mine (l : CLine) : Bool := ls.contains l.line && (l.holder == .l1 s.coreid || l.holder == .vcache x.vc)
    { s with roCopies := s.roCopies.filter (fun c => !(c.vcache == x.vc && ls.contains c.line)) }.evictAll mine

/-- Dirty copies of a piece go home and stay, clean: those of the issuing core's L1, and of every vcache. -/
def State.flushPiece (s : State) (x : Xl) (n : Nat) : State :=
  let ls := linesOf x.pa n
  (s.cache.lines.filter (fun l => (l.holder == .l1 s.coreid && ls.contains l.line) ||
    (isVcacheHolder l.holder && (s.sectorsOf l).any (fun q => ls.contains q.line)))).foldl State.cleanLine s

/-- The range check of R274. -/
def State.rangeCheck (s : State) (a n : Word) : Run Unit :=
  check (n == 0 || decide (a.toNat + n.toNat ≤ 2 ^ 54)) (s.trapA 0x20 1 a)

/-- VCSYNC (R274). -/
def execVcsync (a b : BitVec 5) (s : State) : Host.Outcome State Fault Refusal :=
  finish do
    gate (.vcsync a b) {} s
    s.rangeCheck (s.getS a) (s.getS b)
    let s ← s.eachPage (s.getS a).toNat (s.getS b).toNat State.syncPiece
    .ok s.advance

/-- VCFLUSH (R274). -/
def execVcflush (a b : BitVec 5) (s : State) : Host.Outcome State Fault Refusal :=
  finish do
    gate (.vcflush a b) {} s
    s.rangeCheck (s.getS a) (s.getS b)
    let s ← s.eachPage (s.getS a).toNat (s.getS b).toNat State.flushPiece
    .ok s.advance

/-! ## The drain (R263, R264) -/

/-- VCACHE_DRAIN_STEP (R263). (DEDUCED, log entry 85.) -/
def execVcacheDrainStep (id : BitVec 8) (s : State) : Host.Outcome State Fault Refusal :=
  match s.vcache? id.toNat with
  | none => .next s
  | some v => match v.draining, s.cache.lines.find? (drains id.toNat) with
    | some old, some l => .next (s.drainLine v old l)
    | _, _ => .next s

/-- A record of R264. -/
def vcacheEvent (kind id a b : Nat) : Nat := record [(0, 2, kind), (2, 1, id), (4, 4, a), (8, 4, b)]

/-- The completion message of a drain: to the strand that issued the definition, or to the event log and mailbox (R438). -/
def State.drainMessage (s : State) (v : Vcache) : State :=
  let r := vcacheEvent 1 v.id v.moved v.written
  match v.issuer with
  | some id => s.hubSend (.ok (.strand id)) { payload := BitVec.ofNat 512 r, sender := hubSender 4 }
  | none => (s.log 0 0).mailEvent r

/-- DRAIN_COMPLETE (R263, R272): no line of the draining generation remains, nor a copy that its read-only path still serves. -/
def execDrainComplete (id : BitVec 8) (s : State) : Host.Outcome State Fault Refusal :=
  match s.vcache? id.toNat with
  | none => .next s
  | some v =>
    if v.draining.isNone || s.cache.lines.any (fun l => l.holder == .vcache id.toNat && !l.current) then .next s
    else
      let s := if (v.draining.map (·.policy)) = some 3 then { s with roCopies := s.roCopies.filter (fun c => c.vcache != v.id) } else s
      let t := if v.deleting then { s with cache := { s.cache with vcaches := s.cache.vcaches.filter (fun u => u.id != v.id) } }
        else s.setVcache { v with draining := none }
      .next (t.drainMessage v)

/-! ## Fenced parcels (R268) -/

/-- A cached line lies in the parcel. -/
def State.lineInParcel (s : State) (bank way : Nat) (l : CLine) : Bool :=
  match s.spot l with
  | some (b, w, _) => b == bank && w == way
  | none => false

/-- PARCEL_ERROR (R268). -/
def execParcelError (parcel : BitVec 13) (s : State) : Host.Outcome State Fault Refusal :=
  let bank := parcelBank parcel
  let way := parcelWay parcel
  if s.cache.fenced.contains parcel then .next s
  else
    let inside := s.cache.lines.filter (s.lineInParcel bank way)
    let dirty := (inside.filter (fun l => isDirty l.state)).map (·.line)
    let owner := s.cache.vcaches.find? (fun v => v.holdsParcel bank way)
    let t := { s with cache := { s.cache with
      fenced := s.cache.fenced ++ [parcel]
      lines := s.cache.lines.filter (fun l => !s.lineInParcel bank way l)
      sysDegraded := s.cache.sysDegraded || owner.isNone } }
    let t := dirty.foldl State.markPoison t
    match owner with
    | none => .next t
    | some v =>
      let t := t.setVcache { v with degraded := true }
      match v.plat? with
      | some p => .next (if p.owner < 32 then t.tellSupervisor p.owner (vcacheEvent 2 v.id parcel.toNat dirty.length) else t)
      | none => .next t

/-! ## Bank arithmetic (R269, R270) -/

/-- The bank's previous atomic on a line came from no core that the model names: 512. (DEDUCED, log entry 29.) -/
def State.farFrom (s : State) (pa : Nat) : State := { s with lastFar := update (pa / 64) 512 s.lastFar }

/-- FAR_ATOMIC_AT_BANK (R269): an operation that arrived at the bank is performed on its line. -/
def execFarAtomicAtBank (pa : BitVec 52) (wide : Bool) (op : BitVec 5) (x cmp : Word) (s : State) :
    Host.Outcome State Fault Refusal :=
  let n := if wide then 8 else 4
  let a := pa.toNat
  if op.toNat > 10 || a % n != 0 || !(isHbm a || isHostMem a || isPool a) || s.poisoned a || s.blocked true a n then .next s
  else match atomicNew op.toNat (8 * n) (leNat (s.memBytes a n)) (x.toNat % 2 ^ (8 * n)) (cmp.toNat % 2 ^ (8 * n)) with
    | some v => .next (((s.bankHolds a n).farFrom a).perform false a (leBytes n v))
    | none => .next ((s.bankHolds a n).farFrom a)

/-- SCATTER_ADD_APPLY (R270): the chain that pends at an address is applied as one store. -/
def execScatterAddApply (pa : BitVec 52) (s : State) : Host.Outcome State Fault Refusal := .next (s.applyScatter pa.toNat)

end Sys2Proof.Machine
end

