-- ==== Sys2Proof/Machine/Engines.lean ====
section
/-! DEFINITION. Stream engines: ECMD, ECMDB, acceptance, the four operations, completion and failure (14 R323 to R326, 18 R403,
R405). -/

namespace Sys2Proof.Machine

/-! ## Command records (R323) -/

/-- A command record. -/
structure EngRec where
  src : Word
  dst : Word
  rows : Nat
  len : Nat
  sstride : Word
  dstride : Word
  op : Nat
  esize : Nat
  sfmt : Nat
  dfmt : Nat
  notify : Bool
  sat : Bool
  rm : Nat
  tag : Nat
  tscale : Word
  sdst : Word
  deriving DecidableEq, Repr

/-- Bytes [lo + n − 1 : lo] of a record. -/
def recBytes (r : BitVec 512) (lo n : Nat) : Nat := nbits r.toNat (8 * lo) (8 * n)

def recWord (r : BitVec 512) (lo : Nat) : Word := BitVec.ofNat 64 (recBytes r lo 8)

def readEngRec (r : BitVec 512) : EngRec where
  src := recWord r 0
  dst := recWord r 8
  rows := recBytes r 16 4
  len := recBytes r 20 4
  sstride := recWord r 24
  dstride := recWord r 32
  op := recBytes r 40 1 % 8
  esize := 2 ^ (recBytes r 41 1 % 4)
  sfmt := recBytes r 42 1 % 32
  dfmt := recBytes r 43 1 % 32
  notify := recBytes r 44 1 % 2 == 1
  sat := nbits (recBytes r 44 1) 1 1 == 1
  rm := nbits (recBytes r 44 1) 2 2
  tag := recBytes r 48 4
  tscale := BitVec.ofNat 64 (recBytes r 52 4)
  sdst := recWord r 56

/-- A malformed command (R323). The formats of a row are tested of a quantising copy alone (DESIGN CHOICE, log entry 107). -/
def engMalformed (r : BitVec 512) : Bool :=
  let c := readEngRec r
  recBytes r 40 1 ≥ 4 || recBytes r 41 1 ≥ 4 || recBytes r 42 1 ≥ 32 || recBytes r 43 1 ≥ 32 || recBytes r 44 1 ≥ 16 ||
    recBytes r 45 3 != 0 || c.rows == 0 || decide (2 ^ 20 < c.rows) || c.len == 0 ||
    decide ((if c.op ≤ 1 then 2 ^ 24 else 2 ^ 16) < c.len) ||
    (c.op == 3 && (!(c.sfmt == 9 || c.sfmt == 0xA || c.sfmt == 0xB) || !(isFloat c.dfmt || isBlock c.dfmt) ||
      (isBlock c.dfmt && c.len % 32 != 0) || (c.dfmt == 0x16 && !tensorScaleOk c.tscale)))

/-- Bytes that n elements of a format take, packed. -/
def packedBytes (fmt n : Nat) : Nat := (n * fmtWidth fmt + 7) / 8

/-- Address base + k × step, modulo 2^64. -/
def stepAddr (base step : Word) (k : Nat) : Nat := (base + BitVec.ofNat 64 k * step).toNat

/-- The ranges a command reads: (address, bytes). -/
def EngRec.reads (c : EngRec) : List (Nat × Nat) :=
  let n := match c.op with | 0 => c.len | 2 => c.len * c.esize | 3 => packedBytes c.sfmt c.len | _ => 0
  if c.op = 1 then [] else (List.range c.rows).map (fun r => (stepAddr c.src c.sstride r, n))

/-- The ranges a command writes. -/
def EngRec.writes (c : EngRec) : List (Nat × Nat) :=
  match c.op with
  | 2 => (List.range c.len).map (fun k => (stepAddr c.dst c.dstride k, c.rows * c.esize))
  | 3 =>
    (List.range c.rows).map (fun r => (stepAddr c.dst c.dstride r, packedBytes c.dfmt c.len)) ++
      (if isBlock c.dfmt then (List.range c.rows).map (fun r => (stepAddr c.sdst (BitVec.ofNat 64 (c.len / 32)) r, c.len / 32))
       else [])
  | _ => (List.range c.rows).map (fun r => (stepAddr c.dst c.dstride r, c.len))

/-- The pages of ranges, each once. -/
def pagesOf (rs : List (Nat × Nat)) : List Nat := (rs.flatMap (fun r => (pagePieces r.1 r.2).map (fun p => p.1 / 65536))).eraseDups

/-! ## Acceptance -/

/-- Translate a page for a command at acceptance. -/
def State.engPage (s : State) (sp : Space) (write : Bool) (page : Nat) : State × PageXl :=
  match s.xlateHub sp (if write then .write else .read) (page * 65536) with
  | (s, .ok x) => (s, { page := page, write := write, cause := 0, pa := x.pa, vc := x.vc, kind := x.kind })
  | (s, .error c) => (s, { page := page, write := write, cause := c, pa := 0, vc := 0, kind := 0 })

def State.engPages (s : State) (sp : Space) (write : Bool) (pages : List Nat) : State × List PageXl :=
  pages.foldl (fun acc p => let (s, x) := acc.1.engPage sp write p; (s, acc.2 ++ [x])) (s, [])

/-- The die of an engine (R15, R323). -/
def engDie (e : Nat) : Nat := 1 + e / 2

def emptyEngine : Engine := { cmds := [], frozen := false, retired := false }

def State.engine (s : State) (e : Nat) : Engine := vget s.eng emptyEngine e

def State.setEngine (s : State) (e : Nat) (v : Engine) : State := { s with eng := vset s.eng e v }

/-- Engine e accepts a command of the focus strand in an address space; the command and its answer cross between their dies (R329).
(DEDUCED, log entry 50.) -/
def State.engTake (s : State) (sp : Space) (e : Nat) (r : BitVec 512) : State :=
  let s := { s with net := s.net.send s.die (engDie e) (Mail.ask [] s.die) }
  let c := readEngRec r
  let (s, rd) := s.engPages sp false (pagesOf c.reads)
  let (s, wr) := s.engPages sp true (pagesOf c.writes)
  let cmd : EngCmd :=
    { record := r, issuer := s.st.id, vf := s.st.vf, pages := rd ++ wr, acceptedAt := s.time, merged := 0, moves := 0, written := 0
      bad := none, reads := [], result := none }
  let g := s.engine e
  s.setEngine e { g with cmds := g.cmds ++ [cmd] }

/-- The combining node may merge a command into one that its ring has issued: a fill, or one whose source and destination ranges
are disjoint (R324). -/
def EngRec.mergeable (c : EngRec) : Bool :=
  c.op == 1 || c.reads.all (fun r => c.writes.all (fun w => decide (r.1 + r.2 ≤ w.1) || decide (w.1 + w.2 ≤ r.1)))

/-- An accepted command that an identical one of the focus strand can be merged into: not yet begun, and accepted at this time. -/
def State.engTwin (s : State) (e : Nat) (r : BitVec 512) : Bool :=
  (readEngRec r).mergeable && (s.engine e).cmds.any (fun c =>
    c.record == r && c.issuer == s.st.id && c.acceptedAt == s.time && c.result.isNone && c.moves == 0 && c.reads.isEmpty)

/-- Count one more ECMD that the first such command stands for. -/
def mergeInto (r : BitVec 512) (id : StrandId) : List EngCmd → List EngCmd
  | [] => []
  | c :: cs => if c.record = r ∧ c.issuer = id ∧ c.result.isNone then { c with merged := c.merged + 1 } :: cs
      else c :: mergeInto r id cs

/-- The combining node (R324): whether two identical commands reach it within 64 clocks of one another is free (DESIGN CHOICE, log
entry 54). -/
def State.engCombine (s : State) (e : Nat) (r : BitVec 512) : Option State :=
  if !s.engTwin e r then none
  else
    let (s, near) := s.free 9 1
    if near = 1 then some (s.setEngine e { s.engine e with cmds := mergeInto r s.st.id (s.engine e).cmds }) else none

/-- A retired engine accepts no command, as a frozen one (R324, R403). -/
def Engine.shut (g : Engine) : Bool := g.frozen || g.retired

/-- What becomes of a command offered to an engine: its status, or none while the engine has no room (R324). -/
def State.engOffer (s : State) (sp : Space) (a : Word) (r : BitVec 512) : Option (State × Nat) :=
  if a.toNat ≥ 16 then some (s, 1)
  else if engMalformed r then some (s, 2)
  else if (s.engine a.toNat).shut then some (s, 3)
  else if (s.engine a.toNat).cmds.length ≥ 64 then none
  else some (s.engTake sp a.toNat r, 0)

/-- The address space of a command held in the engine queue: the strand's as it was at issue. -/
def State.itemSpace (s : State) (it : QItem) : Space :=
  { s.space with ptroot := it.ptroot, asid := it.asid, user := bits it.trap.status 0 2 == 0 }

/-- What becomes of the command at the front of the engine queue: merged, or offered to its engine. -/
def State.engFront (s : State) (it : QItem) (a : Word) : Option (State × Nat) :=
  if a.toNat < 16 && !engMalformed it.cmd && !(s.engine a.toNat).shut then
    match s.engCombine a.toNat it.cmd with
    | some t => some (t, 0)
    | none => s.engOffer (s.itemSpace it) a it.cmd
  else s.engOffer (s.itemSpace it) a it.cmd

/-- A scalar register of the head, to which the instructions in the queues belong (R309). -/
def State.setHeadS (s : State) (d : BitVec 5) (v : Word) : State :=
  match s.st.fork with
  | some f => if !s.spec then s.setS d v else s.onChunk f.committed (fun c => if d = 0 then c else { c with sreg := vset c.sreg d.toNat v })
  | none => s.setS d v

/-- ECMD (R324): the record is read and placed in the engine queue. -/
def execEcmd (d a b : BitVec 5) (s : State) : Host.Outcome State Fault Refusal :=
  finish do
    gate (.ecmd d a b) {} s
    headWait s
    let va := s.getS b
    check (decide (va.toNat % 64 = 0)) (s.trapA 0x21 1 va)
    let (s, bs) ← s.memRead va 64
    check s.noneHeld s
    let s := s.release
    check (s.hasRoom .engine) s
    .ok (s.enqueueItem .engine { s.item (.ecmd d a b) with cmd := BitVec.ofNat 512 (leNat bs) }).advance

/-- ENGINE_ACCEPT (R324): the command at the front of the engine queue is offered; its status is written through the queue. -/
def execEngineAccept (s : State) : Host.Outcome State Fault Refusal :=
  match s.st.equeue with
  | [] => .next s
  | it :: rest =>
    match it.instr with
    | .ecmd d a _ =>
      match s.engFront it (if a = 0 then 0 else vget it.x.sreg 0 a.toNat) with
      | none => .next s
      | some (s, code) =>
        let v : Word := BitVec.ofNat 64 code
        .next ((({ s with st := { s.st with equeue := rest } }).setHeadS d v).patchAfter it.seq (fun o =>
          if d = 0 then o else { o with x := { o.x with sreg := vset o.x.sreg d.toNat v } }))
    | _ => .next s

/-- ECMDB (R326): slots of a vector group are offered; it never waits for room. (DEDUCED, log entry 49.) -/
def execEcmdb (k a b : BitVec 5) (s : State) : Host.Outcome State Fault Refusal :=
  finish do
    gate (.ecmdb k a b) { lvl := 1 } s
    headWait s
    check (!vill s.x.vtype) (s.trapS 0x62 s.x.vtype)
    check (decide (b.toNat % s.vgm = 0) && decide (s.vl ≤ 32 * s.vgm)) (s.trapS 0x60 (wordOf (.ecmdb k a b)))
    check s.noneHeld s
    let s := s.release
    let e := s.getS a
    let g := s.vgroup b.toNat s.vgm
    let mask := s.kmask k.toNat
    let (s, out) := (List.range s.vl).foldl (fun (acc : State × BitVec 2048) j =>
      if !mask.getLsbD j then acc
      else match acc.1.engOffer acc.1.space e (BitVec.ofNat 512 (nbits g (512 * j) 512)) with
        | some (t, 0) => (t, acc.2 ||| (1#2048 <<< j))
        | some (_, _ + 1) => acc
        | none => acc) (s, 0)
    .ok (s.setK k.toNat out).advance

/-! ## Performing a command -/

/-- Why a command stops: it must wait for a line in doubt, it waits for fabric reads, or it failed at an address. -/
inductive EngStop where
  | stall
  | wait (reads : List Reply)
  | fail (cause : BitVec 8) (write : Bool) (va : Nat)
  deriving DecidableEq, Repr

/-- The translation of an address that acceptance fixed. -/
def EngCmd.at_ (c : EngCmd) (write : Bool) (va : Nat) : Except EngStop Xl :=
  match c.pages.find? (fun p => p.page == va / 65536 && p.write == write) with
  | none => .error (.fail 0x22 write va)
  | some p => if p.cause ≠ 0 then .error (.fail p.cause write va) else .ok { pa := p.pa + va % 65536, vc := p.vc, kind := p.kind }

/-- A request through a window on behalf of engine e (R357), of at most 256 bytes (R350). -/
def State.engSend (s : State) (e : Nat) (c : EngCmd) (x : Xl) (va : Nat) (kind : FabKind) (payload : List Byte) : State × Nat :=
  let id := s.fab.nextId
  let q : FabReq := { id := id, kind := kind, owner := c.issuer, va := BitVec.ofNat 64 va, ep := BitVec.ofNat 10 x.ep,
                      window := BitVec.ofNat 6 x.window, off := x.off, slot := some e, sentAt := s.time }
  let s := { s with fab := { s.fab with nextId := id + 1, reqs := s.fab.reqs ++ [q] }
                    net := s.net.send (engDie e) 0 { cls := .request } }
  (s.fabOut x.ep x.fabAddr payload, id)

/-- The parts of a source range, cut at pages, with their translations; a part through a window is one request of at most 256 bytes
(R350). -/
def EngCmd.sources (c : EngCmd) (va n : Nat) : Except EngStop (List (Xl × Nat × Nat)) := do
  let ps ← (pagePieces va n).mapM (fun p => do
    let x ← c.at_ false p.1
    .ok ((if x.fabric then cutAt 256 p.1 p.2 else [p]).map (fun q => ({ x with pa := x.pa + (q.1 - p.1) }, q.1, q.2))))
  .ok ps.flatten

/-- The fabric reads of a move are sent together, and waited for. -/
def State.engAsk (s : State) (e : Nat) (c : EngCmd) (ps : List (Xl × Nat × Nat)) : State × List Reply :=
  ps.foldl (fun acc p =>
    let (s, id) := acc.1.engSend e c p.1 p.2.1 .engineRead (windowMsg 0 0 p.2.2 [])
    (s, acc.2 ++ [.waiting id])) (s, [])

/-- The bytes that a reply brings, with their poison marks. A read that failed brings none: its bytes are free, and poisoned (DESIGN
CHOICE, log entry 30). -/
def State.engReply (s : State) (r : Option Reply) (n : Nat) : State × List (Byte × Bool) :=
  match r with
  | some (.data bs) => (s, (List.range n).map (fun i => (bs.getD i 0, false)))
  | _ =>
    let (s, v) := s.free 5 (8 * n)
    (s, (leBytes n v.toNat).map (fun b => (b, true)))

/-- Read the source of a move: bytes with their poison marks. -/
def State.engRead (s : State) (e : Nat) (c : EngCmd) (va n : Nat) : Except (State × EngStop) (State × List (Byte × Bool)) :=
  match c.sources va n with
  | .error f => .error (s, f)
  | .ok ps =>
    let far := ps.filter (fun p => p.1.fabric)
    if c.reads.length < far.length then
      let (s, rs) := s.engAsk e c (far.drop c.reads.length)
      .error (s, .wait (c.reads ++ rs))
    else if c.reads.any (fun r => match r with | .waiting _ => true | _ => false) then .error (s, .wait c.reads)
    else if ps.any (fun p => !p.1.fabric && s.blocked false p.1.pa p.2.2) then .error (s, .stall)
    else
      let (s, bs, _) := ps.foldl (fun (acc : State × List (Byte × Bool) × List Reply) p =>
        let (s, bs, rs) := acc
        if p.1.fabric then
          let (s, b) := s.engReply rs.head? p.2.2
          (s, bs ++ b, rs.drop 1)
        else
          let s := (s.touch none p.1.pa).agentLines (engDie e) p.1.vc p.1.pa p.2.2 false
          (s, bs ++ (List.range p.2.2).map (fun i => (s.memByte (p.1.pa + i), s.poisoned (p.1.pa + i))), rs)) (s, [], c.reads)
      .ok (s, bs)

/-- A write through a window on behalf of engine e: posted requests. -/
def State.engPost (s : State) (e : Nat) (c : EngCmd) (x : Xl) (va : Nat) (bs : List Byte) : State :=
  (cutAt 256 va bs.length).foldl (fun s p =>
    (s.engSend e c { x with pa := x.pa + (p.1 - va) } p.1 .engine
      (windowMsg 1 0 p.2 ((bs.drop (p.1 - va)).take p.2))).1) s

/-- Write bytes; a destination line that takes a poisoned byte is poisoned (R325). -/
def State.engWrite (s : State) (e : Nat) (c : EngCmd) (va : Nat) (data : List (Byte × Bool)) :
    State × Nat × Option EngStop :=
  (pagePieces va data.length).foldl (fun (acc : State × Nat × Option EngStop) p =>
    let (s, n, stop) := acc
    match stop, c.at_ true p.1 with
    | some _, _ => acc
    | none, .error f => (s, n, some f)
    | none, .ok x =>
      let part := (data.drop (p.1 - va)).take p.2
      let bs := part.map (·.1)
      if x.fabric then (s.engPost e c x p.1 bs, n + p.2, none)
      else if s.blocked true x.pa p.2 then (s, n, some .stall)
      else
        let s := ((s.touch none x.pa).agentLines (engDie e) x.vc x.pa p.2 true).performWhole x.pa bs
        let bad := ((List.range part.length).filter (fun i => ((part[i]?).map (·.2)).getD false)).map (fun i => (x.pa + i) / 64)
        (bad.eraseDups.foldl State.markPoison s, n + p.2, none)) (s, 0, none)

/-- One piece of work: bytes to write at an address, made from the bytes of a source range. -/
structure EngMove where
  src : Nat
  len : Nat
  dst : Nat
  make : List (Byte × Bool) → List (Byte × Bool)

/-- The first poisoned byte of a range read. -/
def firstBad (va : Nat) (bs : List (Byte × Bool)) : Option Word := (bs.findIdx? (·.2)).map (fun i => BitVec.ofNat 64 (va + i))

/-- Carry out moves until one stops: the command with its progress. -/
def State.engMoves (s : State) (e : Nat) : List EngMove → EngCmd → State × EngCmd × Option EngStop
  | [], c => (s, c, none)
  | m :: ms, c =>
    match s.engRead e c m.src m.len with
    | .error (s, f) => (s, c, some f)
    | .ok (s, bs) =>
      match s.engWrite e c m.dst (m.make bs) with
      | (s, k, some f) => (s, { c with written := c.written + k }, some f)
      | (s, k, none) =>
        s.engMoves e ms { c with
          moves := c.moves + 1, written := c.written + k, bad := c.bad.orElse (fun _ => firstBad m.src bs), reads := [] }

/-- Row r of a copy. -/
def copyMove (c : EngRec) (r : Nat) : EngMove :=
  { src := stepAddr c.src c.sstride r, len := c.len, dst := stepAddr c.dst c.dstride r, make := id }

/-- Row r of a fill: the pattern repeated from its first byte. -/
def fillMove (c : EngRec) (r : Nat) : EngMove :=
  { src := 0, len := 0, dst := stepAddr c.dst c.dstride r,
    make := fun _ => (List.range c.len).map (fun i => ((leBytes 8 c.src.toNat).getD (i % 8) 0, false)) }

/-- Element k of source row r of a transpose. -/
def transposeMove (c : EngRec) (r k : Nat) : EngMove :=
  { src := (c.src + BitVec.ofNat 64 r * c.sstride + BitVec.ofNat 64 (k * c.esize)).toNat
    len := c.esize
    dst := (c.dst + BitVec.ofNat 64 k * c.dstride + BitVec.ofNat 64 (r * c.esize)).toNat
    make := id }

/-- Pack patterns of width w, least significant first, the last byte filled up with zeros (DESIGN CHOICE, log entry 106), with a poison
mark for each byte that a poisoned element reaches. -/
def packElems (w : Nat) (es : List (Nat × Bool)) : List (Byte × Bool) :=
  let n := es.length * w
  let v := es.foldr (fun e acc => e.1 % 2 ^ w + 2 ^ w * acc) 0
  (List.range ((n + 7) / 8)).map (fun i =>
    (BitVec.ofNat 8 (v / 256 ^ i), (List.range es.length).any (fun j =>
      ((es[j]?).map (·.2)).getD false && decide (j * w < 8 * i + 8) && decide (8 * i < j * w + w))))

/-- The elements of a row as (exact value, poisoned). -/
def rowElems (c : EngRec) (bs : List (Byte × Bool)) : List (XVal × Bool) :=
  let k := fmtWidth c.sfmt / 8
  (List.range c.len).map (fun j =>
    let part := (bs.drop (j * k)).take k
    (readFloat c.sfmt (leNat (part.map (·.1))), part.any (·.2)))

/-- Blocks of 32. -/
def blocksOf {α : Type} (n : Nat) (l : List α) : List (List α) := (List.range n).map (fun b => (l.drop (32 * b)).take 32)

/-- One block quantised: scale byte and patterns, poisoned with any of its sources. -/
def quantRow (c : EngRec) (b : List (XVal × Bool)) : (Nat × Bool) × List (Nat × Bool) :=
  let bad := b.any (·.2)
  match quantBlock c.dfmt c.rm c.sat (tensorScale c.tscale) (b.map (fun e => some e.1)) with
  | none => ((0, bad), [])
  | some (sc, es) => ((sc, bad), es.map (fun e => (e.getD 0, bad)))

/-- The moves of row r of a quantising copy. -/
def quantMoves (c : EngRec) (r : Nat) : List EngMove :=
  let src := stepAddr c.src c.sstride r
  let len := packedBytes c.sfmt c.len
  let dst := stepAddr c.dst c.dstride r
  if isBlock c.dfmt then
    [{ src := src, len := len, dst := dst
       make := fun bs => packElems (fmtWidth c.dfmt) ((blocksOf (c.len / 32) (rowElems c bs)).flatMap (fun b => (quantRow c b).2)) },
     { src := src, len := len, dst := stepAddr c.sdst (BitVec.ofNat 64 (c.len / 32)) r
       make := fun bs => (blocksOf (c.len / 32) (rowElems c bs)).map (fun b =>
         let q := (quantRow c b).1
         (BitVec.ofNat 8 q.1, q.2)) }]
  else
    [{ src := src, len := len, dst := dst
       make := fun bs => packElems (fmtWidth c.dfmt) ((rowElems c bs).map (fun e => (roundTo c.dfmt c.rm c.sat false e.1, e.2))) }]

/-- The moves of a command, in order. -/
def EngRec.moves (c : EngRec) : List EngMove :=
  match c.op with
  | 0 => (List.range c.rows).map (copyMove c)
  | 1 => (List.range c.rows).map (fillMove c)
  | 2 => (List.range c.rows).flatMap (fun r => (List.range c.len).map (transposeMove c r))
  | _ => (List.range c.rows).flatMap (quantMoves c)

/-- Replace the first command without a result. -/
def setFirst (v : EngCmd) : List EngCmd → List EngCmd
  | [] => []
  | c :: cs => if c.result.isNone then v :: cs else c :: setFirst v cs

/-- What a performed command reports (R325): done, or poison read, with the first poisoned source byte. -/
def EngCmd.outcome (c : EngCmd) : BitVec 8 × Word × Nat :=
  match c.bad with | some va => (3, va, c.written) | none => (0, 0, c.written)

/-- A permission failure freezes the engine, with an event (R325, R405, R406). -/
def State.freezeEngine (s : State) (e : Nat) (c : EngCmd) (cause : BitVec 8) (write : Bool) (va : Word) : State :=
  let s := s.setEngine e { s.engine e with frozen := true }
  let r : TrapRec := { cause := cause, akind := if write then 2 else 1, pc := 0, tval := va }
  s.sendEvent c.vf.toNat (eventRecord 5 (64 + e) c.issuer r 0 0)

/-- Engine e goes on with its next command when that has the given op, until it is done or waits for fabric reads. A not-present
page ends it with result 1; any other failed translation is a permission failure. (DESIGN CHOICE, log entry 54.) -/
def State.engPerform (s : State) (e op : Nat) : State :=
  let g := s.engine e
  if g.shut then s
  else match g.cmds.find? (fun c => c.result.isNone) with
    | none => s
    | some c =>
      let r := readEngRec c.record
      if r.op ≠ op then s
      else match s.engMoves e (r.moves.drop c.moves) c with
        | (t, d, none) => t.setEngine e { g with cmds := setFirst { d with result := some d.outcome } g.cmds }
        | (_, _, some .stall) => s
        | (t, d, some (.wait reads)) => t.setEngine e { g with cmds := setFirst { d with reads := reads } g.cmds }
        | (t, d, some (.fail cause write va)) =>
          let a := BitVec.ofNat 64 va
          let done (code : BitVec 8) : State :=
            t.setEngine e { g with cmds := setFirst { d with result := some (code, a, d.written) } g.cmds }
          if cause = 0x22 then done 1 else (done 2).freezeEngine e c cause write a

/-- ENGINE_COPY (R323). -/
def execEngineCopy (e : BitVec 4) (s : State) : Host.Outcome State Fault Refusal := .next (s.engPerform e.toNat 0)

/-- ENGINE_FILL (R323). -/
def execEngineFill (e : BitVec 4) (s : State) : Host.Outcome State Fault Refusal := .next (s.engPerform e.toNat 1)

/-- ENGINE_TRANSPOSE (R323). -/
def execEngineTranspose (e : BitVec 4) (s : State) : Host.Outcome State Fault Refusal := .next (s.engPerform e.toNat 2)

/-- ENGINE_QUANTISING_COPY (R323). -/
def execEngineQuantisingCopy (e : BitVec 4) (s : State) : Host.Outcome State Fault Refusal := .next (s.engPerform e.toNat 3)

/-- The completion message of R325. (DEDUCED, log entry 51.) -/
def completionMsg (e : Nat) (c : EngCmd) (v : BitVec 8 × Word × Nat) : Msg :=
  { payload := BitVec.ofNat 512 (record [(0, 4, (readEngRec c.record).tag), (4, 1, v.1.toNat), (8, 8, v.2.1.toNat), (16, 8, v.2.2)])
    sender := BitVec.ofNat 64 (2 * 2 ^ 60 + e * 2 ^ 41 + 0xFFFFFFFF) }

/-- Writes of engine e through windows that are not yet acknowledged (R359). -/
def State.engPosted (s : State) (e : Nat) : Bool := s.fab.reqs.any (fun q => q.kind == .engine && q.slot == some e)

/-- ENGINE_COMPLETION (R325): the oldest performed command leaves once its writes are performed (R252), with a message for each
ECMD that it stands for when notify is set. -/
def execEngineCompletion (e : BitVec 4) (s : State) : Host.Outcome State Fault Refusal :=
  let g := s.engine e.toNat
  match g.cmds with
  | [] => .next s
  | c :: rest =>
    match c.result with
    | none => .next s
    | some v =>
      if g.frozen || s.engPosted e.toNat then .next s
      else
        let t := s.setEngine e.toNat { g with cmds := rest }
        let send (t : State) : State := t.hubSend (.ok (.strand c.issuer)) (completionMsg e.toNat c v)
        .next (if (readEngRec c.record).notify then (List.range (c.merged + 1)).foldl (fun t _ => send t) t else t)

/-- Every queued command without a result ends with this one. -/
def endAll (code : BitVec 8) (cs : List EngCmd) : List EngCmd :=
  cs.map (fun c => if c.result.isNone then { c with result := some (code, 0, 0) } else c)

/-- ENGINE_STORAGE_ERROR (R403): queued commands complete with result 3, and the engine is retired. -/
def execEngineStorageError (e : BitVec 4) (s : State) : Host.Outcome State Fault Refusal :=
  let g := s.engine e.toNat
  .next (s.setEngine e.toNat { cmds := endAll 3 g.cmds, frozen := false, retired := true })

/-- A thawed engine completes its queued commands with result 2 and resumes service (R405). -/
def State.thawEngine (s : State) (e : Nat) : State :=
  let g := s.engine e
  if g.frozen then s.setEngine e { g with cmds := endAll 2 g.cmds, frozen := false } else s

end Sys2Proof.Machine
end

