-- ==== Sys2Proof/Machine/Messages.lean ====
section
/-! DEFINITION. Inboxes and messages: MSEND, MRECV, MPEEK and delivery (14 R310 to R317, R447), wait words (R318), gateway block
queues (R327, R328). -/

namespace Sys2Proof.Machine

/-! ## Delivery (R314, R447) -/

/-- From the start of the save a strand counts as switched out (R408). -/
def Strand.switchedOut (st : Strand) : Bool :=
  st.place == .saved || (match st.phase with | .running => false | .stopping _ _ => false | .saving => true | .frozen => false)

/-- The message with ovf set (R317). -/
def Msg.overflowed (m : Msg) : Msg := { m with sender := putBits m.sender 40 1 1 }

/-- to_overflow(m) of R314, and whether the message was lost. -/
def toOverflow (m : Msg) (st : Strand) : Strand :=
  if st.overflow.length ≥ 512 then { st with lost := if st.lost = 1023 then st.lost else st.lost + 1 }
  else { st with overflow := st.overflow ++ [m.overflowed] }

/-- Outcome of an attempt to deliver to a strand. -/
inductive Delivery where
  | ended
  | overflow
  | appended
  | refused
  deriving DecidableEq, Repr

/-- What an attempt meets (R314). -/
def State.attempt (s : State) (id : StrandId) : Delivery :=
  match s.strandById id with
  | none => .ended
  | some st =>
    if st.switchedOut || !st.overflow.isEmpty then .overflow
    else if st.inbox.length < 32 then .appended
    else .refused

/-- The message that becomes the last of the overflow inbox is written to its place in the receiver's save area (R314, R407). -/
def State.writeOverflow (s : State) (st : Strand) (m : Msg) : State :=
  match st.saveSlot with
  | none => s
  | some j =>
    let base := s.cp.svbase.toNat + j * 0x474000
    let k := (st.ovHead.toNat + st.overflow.length) % 512
    (s.pokeBytes (base + 0x23000 + k * 64) (leBytes 64 m.payload.toNat)).pokeBytes (base + 0x2B000 + k * 8) (leBytes 8 m.sender.toNat)

/-- Send a message to the overflow inbox; one that is lost is logged. -/
def State.overflowTo (s : State) (id : StrandId) (m : Msg) : State :=
  match s.strandById id with
  | none => s
  | some st =>
    let t := s.mapStrand id (toOverflow m)
    if st.overflow.length ≥ 512 then t.log 0 0 else t.writeOverflow st m.overflowed

def State.appendTo (s : State) (id : StrandId) (m : Msg) : State :=
  s.mapStrand id (fun st => { st with inbox := st.inbox ++ [m] })

/-- One try of an entry for a strand of this package: the state, and the entry when it stays (R314). -/
def State.tryStrand (s : State) (e : RetryMsg) (id : StrandId) : State × Option RetryMsg :=
  match s.attempt id with
  | .ended => (s, none)
  | .overflow => (s.overflowTo id e.msg, none)
  | .appended => (s.appendTo id e.msg, none)
  | .refused =>
    if e.tries + 1 = 32 then (s.overflowTo id e.msg, none)
    else (s, some { e with tries := e.tries + 1, delay := min (2 * e.delay) 64, due := s.time + e.delay })

/-- One try of a retry-buffer entry. The tries of a remote receiver's are its hub's, whose acknowledgement frees the entry (R315). -/
def State.tryEntry (s : State) (e : RetryMsg) : State × Option RetryMsg :=
  match e.rcv with
  | .remote _ _ => (s, none)
  | .strand id => s.tryStrand e id

/-- Split a buffer at the first entry that `p` picks and that none of the same sender and receiver precedes. -/
def pickEntry {α : Type} (p : α → Bool) (same : α → α → Bool) (before : List α) : List α → Option (List α × α × List α)
  | [] => none
  | e :: rest =>
    if p e && !before.any (same e) then some (before, e, rest) else pickEntry p same (before ++ [e]) rest

/-- Try the entry of a sender's buffer that `p` picks. -/
def State.tryFrom (s : State) (sender : StrandId) (p : RetryMsg → Bool) : State :=
  match (s.strandById sender).bind (fun st => pickEntry p (fun a b => a.rcv == b.rcv) [] st.retry) with
  | none => s
  | some (before, e, rest) =>
    let (s, stay) := s.tryEntry e
    s.mapStrand sender (fun st => { st with retry := before ++ stay.toList ++ rest })

/-- An answer to a remote package's message: its status byte, or 0x80 for the acknowledgement of one that was bound (DESIGN CHOICE, log
entry 52). -/
def State.answer (s : State) (ep : BitVec 10) (code : Nat) : State := s.fabOut ep.toNat portMessage [BitVec.ofNat 8 code]

/-- Try the entry that `p` picks of the messages bound here for remote senders; one that is done with is acknowledged (R315). -/
def State.tryRemote (s : State) (p : RetryMsg → Bool) : State :=
  let same (a b : RemoteMsg) : Bool := a.entry.rcv == b.entry.rcv && a.ep == b.ep && a.core == b.core
  match pickEntry (fun r => p r.entry) same [] s.cp.remoteIn with
  | none => s
  | some (before, r, rest) =>
    let (s, stay) := s.tryEntry r.entry
    let s := { s with cp := { s.cp with remoteIn := before ++ (stay.toList.map (fun e => { r with entry := e })) ++ rest } }
    if stay.isNone then s.answer r.ep 0x80 else s

/-- Try an entry of a strand's retry buffer, or of the hub's buffer of remote messages. -/
def State.tryOf (s : State) (sender : Option StrandId) (p : RetryMsg → Bool) : State :=
  match sender with | some id => s.tryFrom id p | none => s.tryRemote p

/-- MESSAGE_DELIVERY (R314): the first try of an entry; for a remote receiver, the remote hub's acknowledgement (R315). With no sender,
of a message that this hub holds for a remote package. -/
def execMessageDelivery (sender : Option StrandId) (s : State) : Host.Outcome State Fault Refusal :=
  .next (s.tryOf sender (fun e => e.tries == 0))

/-- RETRY_DELAY_EXPIRY (R314): a refused entry is tried again once its delay has passed. -/
def execRetryDelayExpiry (sender : Option StrandId) (s : State) : Host.Outcome State Fault Refusal :=
  .next (s.tryOf sender (fun e => e.tries != 0 && decide (e.due ≤ s.time)))

/-- A message that the hub delivers crosses from die 0 to its receiver's die, perhaps poisoned (R329, R347). -/
def State.fromHub (s : State) (id : StrandId) (m : Msg) : State × Msg :=
  let d := s.dieOfStrand id
  ({ s with net := s.net.send 0 d { cls := .request } }, { m with bad := m.bad || s.net.lostAhead 0 d })

/-- HUB_MESSAGE_DELIVERY (R447): hub_deliver of the oldest hub message. An engine's message to a strand that has ended is only
discarded (R325). -/
def execHubMessageDelivery (s : State) : Host.Outcome State Fault Refusal :=
  match s.cp.hubOut with
  | [] => .next s
  | h :: rest =>
    let s := { s with cp := { s.cp with hubOut := rest } }
    match h.rcv with
    | none => .next s
    | some id =>
      match s.attempt id with
      | .ended => .next (if bits h.msg.sender 60 4 = 2 then s else s.log 0 0)
      | .overflow => .next (s.overflowTo id h.msg)
      | .appended =>
        let (s, m) := s.fromHub id h.msg
        .next (s.appendTo id m)
      | .refused => .next (s.overflowTo id h.msg)

/-! ## MSEND (R313) -/

/-- Sender word of a strand's message to a receiver (R317). -/
def State.senderWord (s : State) (rcv : StrandId) : Word :=
  let index := if idHandle rcv = idHandle s.st.id then idIndex s.st.id else 0xFFFFFFFF
  BitVec.ofNat 64 (s.coreid * 2 ^ 41 + index)

/-- A page of the address is of fabric kind: the source of the message was read by a request of its own. -/
def State.fabricAt (s : State) (k : Acc) (va : Word) : Bool :=
  match (s.locate k va.toNat).2 with
  | .ok (.mem x) => x.fabric
  | .ok (.sram _) => false
  | .error _ => false

/-- bind(t) for a receiver of this package: the status, and the receiver when it is 0. A kind-1 receiver is of the sender's
function. -/
def State.bindStatus (s : State) (t : BitVec 32) : Nat × Option Receiver :=
  match s.bindTarget (some (idHandle s.st.id)) t with
  | .error c => (c, none)
  | .ok (.remote ep core) => (0, some (.remote ep core))
  | .ok (.strand id) =>
    match s.strandById id with
    | none => (2, none)
    | some st => if t.toNat / 2 ^ 30 = 1 ∧ st.vf ≠ s.st.vf then (3, none) else (0, some (.strand id))

/-- Put a message in the strand's retry buffer. It leaves the strand's die for the receiver's, or for the hub (R329, R339); one that
would arrive poisoned is (R347). -/
def State.queueMessage (s : State) (m : Msg) (rcv : Receiver) : State :=
  let d := match rcv with | .strand id => s.dieOfStrand id | .remote _ _ => 0
  let e : RetryMsg := { msg := { m with bad := s.net.lostAhead s.die d }, rcv := rcv, tries := 0, delay := 1, due := s.time }
  { s with st := { s.st with retry := s.st.retry ++ [e] }, net := s.net.send s.die d { cls := .request } }

/-- bind at the remote hub: a request to its message port, whose answer is the status (R312, R313). (DEDUCED, log entry 52.) -/
def State.bindRemote (s : State) (n : Nat) (ep : BitVec 10) (core : BitVec 9) (payload : List Byte) : Run (State × Nat) :=
  if !bit s.fab.fxep 16 || s.fab.unreachable.contains ep then .ok (s, 4)
  else match s.x.replies[n]? with
    | none =>
      let (s, id) := s.sendReq .message ep.toNat 0 core.toNat 0 portMessage none payload
      .error { s with x := { s.x with replies := s.x.replies ++ [.waiting id] } }
    | some (.waiting _) => .error s
    | some (.data bs) => .ok (s, (bs.getD 0 0).toNat)
    | some .poison => .ok (s, 4)
    | some .failed => .ok (s, 4)

/-- MSEND (R313). -/
def execMsend (d a b : BitVec 5) (s : State) : Host.Outcome State Fault Refusal :=
  finish do
    gate (.msend d a b) {} s
    headWait s
    let va := s.getS a
    let t := s.getS b
    check (decide (va.toNat % 64 = 0)) (s.trapA 0x21 1 va)
    let (s, bs) ← s.memRead va 64
    let t32 : BitVec 32 := t.setWidth 32
    if t.toNat ≥ 2 ^ 32 || (match s.bindTarget (some (idHandle s.st.id)) t32 with | .error 1 => true | _ => false) then
      .ok (s.result d 1)
    else do
      check s.noneHeld s
      let s ← if t32.toNat / 2 ^ 30 = 2 then s.releaseSys else .ok s.release
      check (decide (s.st.retry.length < 16)) s
      let payload := BitVec.ofNat 512 (leNat bs)
      match s.bindStatus t32 with
      | (_, some (.remote ep core)) => do
        let (s, code) ← s.bindRemote (if s.fabricAt .read va then 1 else 0) ep core bs
        let m : Msg := { payload := payload, sender := s.senderWord 0 }
        .ok ((if code = 0 then s.queueMessage m (.remote ep core) else s).result d (BitVec.ofNat 64 code))
      | (_, some (.strand id)) => .ok ((s.queueMessage { payload := payload, sender := s.senderWord id } (.strand id)).result d 0)
      | (code, none) => .ok (s.result d (BitVec.ofNat 64 code))

/-- The strand on a core that a kind-2 target names at this package, or the status of R313. -/
def State.bindHere (s : State) (target : BitVec 32) : Except Nat Strand :=
  let v := target.toNat
  let c := v % 512
  if v / 2 ^ 30 ≠ 2 ∨ nbits v 29 1 ≠ 0 ∨ nbits v 9 10 ≠ 0 ∨ c > 399 then .error 1
  else match s.occupant (if c < 384 then c / 8 else 48 + (c - 384)) with
    | none => .error 2
    | some st => .ok st

/-- REMOTE_MESSAGE_ARRIVAL (R312, R315): the message is bound at this hub, which answers and from then on holds it, and takes the paths
of R314 here until the hub acknowledges it. -/
def execRemoteMessageArrival (src : BitVec 10) (target : BitVec 32) (payload : BitVec 512) (core : BitVec 9) (s : State) :
    Host.Outcome State Fault Refusal :=
  if !bit s.fab.fxep 16 then .next s
  else if !(vget s.fab.fxacl 0 (src.toNat / 64)).getLsbD (src.toNat % 64) then .next (s.answer src 3)
  else match s.bindHere target with
    | .error c => .next (s.answer src c)
    | .ok st =>
      let m : Msg := { payload := payload, sender := BitVec.ofNat 64 (2 ^ 60 + src.toNat * 2 ^ 50 + core.toNat * 2 ^ 41 + 0xFFFFFFFF) }
      let (s, m) := s.fromHub st.id m
      let r : RemoteMsg := { entry := { msg := m, rcv := .strand st.id, tries := 0, delay := 1, due := s.time }, ep := src, core := core }
      .next (({ s with cp := { s.cp with remoteIn := s.cp.remoteIn ++ [r] } }.answer src 0).tryRemote (fun e => e.tries == 0))

/-! ## MRECV, MPEEK (R317) -/

/-- Dequeue the oldest message; the next overflow message enters the inbox (R316). -/
def dequeue (st : Strand) : Strand :=
  match st.overflow with
  | [] => { st with inbox := st.inbox.drop 1 }
  | m :: rest => { st with inbox := st.inbox.drop 1 ++ [m], overflow := rest, ovHead := st.ovHead + 1 }

/-- MRECV (R317). -/
def execMrecv (d a : BitVec 5) (s : State) : Host.Outcome State Fault Refusal :=
  finish do
    gate (.mrecv d a) {} s
    headWait s
    let va := s.getS a
    check (decide (va.toNat % 64 = 0)) (s.trapA 0x21 2 va)
    s.regionCheck .write va 64
    let (s, _) ← s.reach .write va.toNat
    match s.st.inbox with
    | [] => .error s
    | m :: _ => do
      check (!m.bad) (s.trapA 0xC0 1 va)
      let s ← s.memWrite va (leBytes 64 m.payload.toNat)
      .ok (({ s with st := dequeue s.st }).acquire.result d m.sender)

/-- MPEEK (R317); a poisoned message is consumed as poison (R347). -/
def execMpeek (d : BitVec 5) (s : State) : Host.Outcome State Fault Refusal :=
  finish do
    gate (.mpeek d) {} s
    check (match s.st.inbox with | [] => true | m :: _ => !m.bad) (s.trapS 0xC0 0)
    .ok (s.result d (match s.st.inbox with | [] => ~~~0 | m :: _ => m.sender))

/-! ## Wait words (R318) -/

/-- The page of a wait word is neither of fabric nor of pool kind. -/
def State.waitPage (s : State) (k : Acc) (ea : Word) : Run (State × Loc) := do
  let (s, l) ← s.reach k ea.toNat
  match l with
  | .sram _ => .ok (s, l)
  | .mem x => do
    check (x.kind == 0) (s.trapA 0x84 k.akind ea)
    .ok (s, l)

/-- The read of a wait word through a read-only vcache is made as if VCSYNC preceded it. -/
def State.freshLine (s : State) (l : Loc) : State :=
  match l with
  | .sram _ => s
  | .mem x => { s with roCopies := s.roCopies.filter (fun c => !(c.vcache == x.vc && c.line == x.pa / 64)) }

/-- WAITW (R318): stalls while the word equals s[b]; each read is an acquire. (DEDUCED, log entry 39.) -/
def execWaitw (d a b : BitVec 5) (s : State) : Host.Outcome State Fault Refusal :=
  finish do
    gate (.waitw d a b) {} s
    headWait s
    let ea := s.getS a
    let v := s.getS b
    s.scalarCheck .read ea 8
    let (s, l) ← s.waitPage .read ea
    let (s, x) ← (s.freshLine l).loadW ea 3
    let s := s.acquire
    check (x != v) s
    .ok (s.result d x)

/-- WAKEW (R318): a store with release at .PKG, performed at the word's home bank. -/
def execWakew (a b : BitVec 5) (s : State) : Host.Outcome State Fault Refusal :=
  finish do
    gate (.wakew a b) {} s
    headWait s
    let ea := s.getS a
    s.scalarCheck .write ea 8
    let (s, _) ← s.waitPage .write ea
    check s.noneHeld s
    let s ← s.release.storeW ea 3 (s.getS b)
    .ok s.drainScalar.advance

/-- The WAITW that stands at the focus strand's pc. -/
def State.fetchedWaitw (s : State) : Option (BitVec 5 × BitVec 5 × BitVec 5) :=
  match (s.locate .exec s.x.pc.toNat).2 with
  | .ok (.mem x) =>
    if x.fabric then none
    else match decode (BitVec.ofNat 32 (leNat (s.joinBytes x.pa 4))) with
      | .ok (.waitw d a b) => some (d, a, b)
      | _ => none
  | .ok (.sram _) => none
  | .error _ => none

/-- The focus strand stands at a WAITW on the word: it re-reads. -/
def State.rereadAt (s : State) (pa : Nat) : State :=
  match s.fetchedWaitw with
  | some (d, a, b) =>
    match (s.locate .read (s.getS a).toNat).2 with
    | .ok (.mem x) =>
      if x.pa = pa then match execWaitw d a b s with | .next t => t | .fault _ => s | .refused _ => s else s
    | .ok (.sram _) => s
    | .error _ => s
  | none => s

/-- WAITW_WAKE (R318): every strand that waits on the word re-reads it. -/
def execWaitwWake (pa : BitVec 52) (s : State) : Host.Outcome State Fault Refusal :=
  .next ((s.strands.filter (fun st => st.place != .management && st.phase == .running)).foldl
    (fun s st => s.onStrand (isStrandOf st.id) (fun s => s.rereadAt pa.toNat)) s)

/-! ## Gateway block queues (R327, R328) -/

def emptyGwq : GwQueue := { cfg := 0, queue := [], waiting := [], bytes := [] }

def GwQueue.enabled (q : GwQueue) : Bool := bit q.cfg 7

/-- A write of gwbqcfg (R327): what is stored. -/
def gwbqStored (v : Word) : Word :=
  let nblk := min (bits v 32 13) 4096
  let en := bit v 7 && nblk != 0 && bits v 8 20 != 0
  BitVec.ofNat 64 (nblk * 2 ^ 32 + bits v 8 20 * 2 ^ 8 + b2n en 128 + bits v 0 6)

/-- A completed block enters the queue, or waits for an entry. -/
def GwQueue.push (q : GwQueue) (b : Nat) : GwQueue :=
  if q.queue.length < 256 then { q with queue := q.queue ++ [b] } else { q with waiting := q.waiting ++ [b] }

/-- `len` bytes of the window written at an offset (R327). -/
def GwQueue.count (q : GwQueue) (off len : Nat) : GwQueue :=
  let size := 256 * bits q.cfg 8 20
  let b := off / size
  if b < bits q.cfg 32 13 then
    let c := lookupD 0 b q.bytes + len
    if c ≥ size then ({ q with bytes := q.bytes.filter (fun e => e.1 != b) }).push b
    else { q with bytes := update b c q.bytes }
  else q

/-- A fabric write that arrived on a port is counted by the gateway core of that port (R327). -/
def State.countBlock (s : State) (port window off len : Nat) : State :=
  let q := vget s.gwq emptyGwq (port / 2)
  if q.enabled && bits q.cfg 0 6 == window then { s with gwq := vset s.gwq (port / 2) (q.count off len) } else s

/-- BLOCK_QUEUE_WRITE (R327): a fabric write through a port that FABRIC_WINDOW_REQUEST does not carry, of a vector request. (DEDUCED, log
entry 111.) -/
def execBlockQueueWrite (port : BitVec 5) (window : BitVec 6) (off : BitVec 36) (len : Nat) (s : State) :
    Host.Outcome State Fault Refusal := .next (s.countBlock port.toNat window.toNat off.toNat len)

/-- The oldest block leaves, and a waiting one takes the entry freed. -/
def GwQueue.pop (q : GwQueue) : GwQueue :=
  match q.waiting with
  | [] => { q with queue := q.queue.drop 1 }
  | w :: ws => { q with queue := q.queue.drop 1 ++ [w], waiting := ws }

/-- BQTAKE (R328): gateway cores only. -/
def execBqtake (d : BitVec 5) (s : State) : Host.Outcome State Fault Refusal :=
  finish do
    gate (.bqtake d) { feat := some 3, ring := false } s
    headWait s
    match s.st.place with
    | .gateway g =>
      let q := vget s.gwq emptyGwq g
      if !q.enabled then .ok (s.acquire.result d (~~~0))
      else match q.queue with
        | [] => .error s
        | b :: _ => .ok (({ s with gwq := vset s.gwq g q.pop }).acquire.result d (BitVec.ofNat 64 b))
    | .ring _ => .error s
    | .management => .error s
    | .saved => .error s

end Sys2Proof.Machine
end

