-- ==== Sys2Proof/Machine/Atomics.lean ====
section
/-! DEFINITION. Scalar atomics: merge operations (05 R120, R121), the contention predictor (13 R294), and the eleven
instructions of major 0x14 (13 R291 to R295). -/

namespace Sys2Proof.Machine

/-! ## Merge operations -/

/-- The partial value of a region's element at an address, its identity when the chunk has none yet (R121). -/
def State.partialAt (s : State) (r : Region) (va : Nat) : Nat :=
  match s.x.partials.find? (fun p => p.va == va) with
  | some p => p.value.toNat
  | none => r.identity

/-- Insert or replace a partial, in rising address order. -/
def putPartial (q : Partial) : List Partial → List Partial
  | [] => [q]
  | p :: ps => if q.va < p.va then q :: p :: ps else if q.va = p.va then q :: ps else p :: putPartial q ps

/-- A merge operation on the element of region `i` at va and pa, in a page of vcache `vc`: it answers the partial as it stood before (R121). -/
def State.mergeAt (s : State) (i : Nat) (r : Region) (va : Word) (vc pa n op x : Nat) : Run (State × Nat) := do
  let s ← s.allocLine (pa / 64)
  let old := s.partialAt r va.toNat
  let new := (atomicNew op (8 * n) old x 0).getD old
  let q : Partial := { region := i, va := va.toNat, pa := pa, vc := vc, value := BitVec.ofNat 64 new }
  .ok ({ s with x := { s.x with partials := putPartial q s.x.partials } }, old)

/-- A scalar atomic that falls in region `i` (R120, R121): a merge operation when operation and width are the region's. -/
def State.mergeOp (s : State) (i : Nat) (r : Region) (va : Word) (n op : Nat) (x : Nat) : Run (State × Nat) := do
  check (r.atomic == op && r.size == n) (s.trapA 0x43 2 va)
  let (s, l) ← s.reach .both va.toNat
  match l with
  | .sram _ => .error (s.trapA 0x43 2 va)
  | .mem p =>
    check (!p.fabric) (s.trapA 0x43 2 va)
    Run.keeping va.toNat p (s.mergeAt i r va p.vc p.pa n op x)

/-! ## Near and far (R294) -/

/-- xor-fold of pa[51:6] into 9 bits. -/
def foldNine : Nat → Nat → Nat
  | 0, _ => 0
  | k + 1, x => (x % 512) ^^^ foldNine k (x / 512)

/-- Key of the counter of a core for an address. (DEDUCED, log entry 29.) -/
def contentionKey (core pa : Nat) : Nat := core * 512 + foldNine 6 (pa / 64)

def State.contentionOf (s : State) (key : Nat) : BitVec 2 := lookupD 1 key s.contention

/-- Move a counter by one, saturating at 0 and 3; a counter at its reset value 1 is not listed. -/
def State.contend (s : State) (key : Nat) (up : Bool) : State :=
  let c := s.contentionOf key
  let c' : BitVec 2 := if up then (if c = 3 then 3 else c + 1) else (if c = 0 then 0 else c - 1)
  let rest := s.contention.filter (fun e => e.1 != key)
  { s with contention := if c' = 1 then rest else update key c' rest }

/-- The atomic always runs far: by vcache policy, pool page, a bank with no way left, or on the management core, which has no
L1. -/
def State.mustFar (s : State) (x : Xl) : Bool :=
  s.uncached x.vc x.pa || s.policy x.vc == 3 || x.kind == 2 || s.st.place == .management

/-- The core owns the line in its L1; another holder has it. -/
def State.ownsLine (s : State) (pa : Nat) : Bool :=
  s.cache.lines.any (fun l => l.line == pa / 64 && l.holder == .l1 s.coreid && (l.state == .modified || l.state == .exclusive))

def State.othersHold (s : State) (pa : Nat) : Bool :=
  s.cache.lines.any (fun l => l.line == pa / 64 && l.holder != .l1 s.coreid)

/-- A scalar atomic is to run at the arithmetic unit of its bank. -/
def State.runsFar (s : State) (placement : BitVec 2) (x : Xl) : Bool :=
  s.mustFar x || placement == 2 || (placement == 0 && (s.contentionOf (contentionKey s.coreid x.pa)).toNat ≥ 2)

/-- Core number under which a bank remembers its previous atomic on a line: 512 for one of no core of this package. -/
def State.farCore (s : State) : Nat := if s.st.place = .management then 512 else s.coreid

/-- A near atomic: the core takes the line in its L1 with ownership, which a request fetches when it has not got it (R294). -/
def State.nearLine (s : State) (x : Xl) : State :=
  (if s.ownsLine x.pa then s else s.lineMail s.die x.vc (x.pa / 64) false).takeLine s.coreid (x.pa / 64)

/-- A far atomic: the step goes to the bank, which remembers the core (R294). -/
def State.farLine (s : State) (x : Xl) (n : Nat) : State :=
  let t := (s.countBank 3 x.vc s.ownFunction).atBank x.vc x.pa n
  { t with lastFar := update (x.pa / 64) s.farCore s.lastFar }

/-- Placement of a scalar atomic: the update of the prediction, what happens to the line, and the counts of R430. -/
def State.placeAtomic (s : State) (placement : BitVec 2) (x : Xl) (n : Nat) : State :=
  let key := contentionKey s.coreid x.pa
  let far := s.runsFar placement x
  let prev := (s.lastFar.find? (fun e => e.1 == x.pa / 64)).map (·.2)
  let t :=
    if placement != 0 then s
    else if far then s.contend key (match prev with | some c => c != s.farCore | none => false)
    else if s.ownsLine x.pa then s.contend key false
    else if s.othersHold x.pa then s.contend key true
    else s
  (if far then t.farLine x n else t.nearLine x).count (if far then 0x0C else 0x0B)

/-! ## The atomic -/

/-- Old value as an n-byte natural from bytes. -/
def State.atomicLocal (s : State) (x : Xl) (n op : Nat) (v cmp : Nat) : State × Nat :=
  let old := leNat (s.memBytes x.pa n)
  match atomicNew op (8 * n) old v cmp with
  | some new =>
    let s := (pieces x.pa n).foldl (fun s p => s.announce p.1) s
    (s.perform true x.pa (leBytes n new), old)
  | none => (s, old)

/-- The step of R293 outside a merge region: in SRAM, at a fabric target, or in local memory. The old value is answered. -/
def State.atomicStep (s : State) (l : Loc) (va : Word) (n op : Nat) (placement : BitVec 2) (v cmp : Nat) : Run (State × Nat) :=
  match l with
  | .sram a =>
    let old := leNat (Memory.readBytes s.sram (fun _ => 0) a n)
    .ok (match atomicNew op (8 * n) old v cmp with
      | some new => { s with sram := Memory.writeBytes s.sram (fun _ => 0) a (leBytes n new) }
      | none => s, old)
  | .mem x =>
    if x.fabric then do
      let (s, bs) ← s.remote 0 .atomic 2 x va (windowMsg 2 op n (leBytes 8 v ++ leBytes 8 cmp))
      .ok (s, leNat (bs.take n))
    else do
      Run.keeping va.toNat x (do
        s.settled true x.pa n
        check (!s.runsFar placement x || s.bankOpen x.vc x.pa n) s)
      let s := (s.touch s.ring? x.pa).scalarDone x.pa n
      let lost := s.runsFar placement x && s.lostStep x.vc x.pa n
      check (!lost && !s.poisoned x.pa) ((if lost then s.bankPackets x.vc x.pa n else s).trapA 0xC0 1 va)
      let s := s.placeAtomic placement x n
      .ok ((s.hostDone x.pa n).atomicLocal x n op v cmp)

/-- A scalar atomic (R293): op code, placement, operand registers; c only for ACAS. -/
def scalarAtomic (i : Instr) (op : Nat) (d a b c : BitVec 5) (placement : BitVec 2) (s : State) : Run State := do
  gate i Need.any s
  let n := if op = 10 then 4 else 8
  let ea := s.getS a
  let v := (s.getS b).toNat % 2 ^ (8 * n)
  let cmp := (s.getS c).toNat
  s.scalarCheck .both ea n
  match s.regionAt ea.toNat n with
  | some (k, r) => do
    let (s, old) ← s.mergeOp k r ea n op v
    .ok (s.result d (BitVec.ofNat 64 old))
  | none => do
    headWait s
    let (s, l) ← s.reach .both ea.toNat
    let (s, old) ← s.atomicStep l ea n op placement v cmp
    .ok (s.result d (BitVec.ofNat 64 old))

/-- AADD: 64-bit add (R292, R293). -/
def execAadd (d a b : BitVec 5) (p : BitVec 2) (s : State) : Host.Outcome State Fault Refusal :=
  finish (scalarAtomic (.aadd d a b p) 0 d a b 0 p s)

/-- AAND (R292, R293). -/
def execAand (d a b : BitVec 5) (p : BitVec 2) (s : State) : Host.Outcome State Fault Refusal :=
  finish (scalarAtomic (.aand d a b p) 1 d a b 0 p s)

/-- AOR (R292, R293). -/
def execAor (d a b : BitVec 5) (p : BitVec 2) (s : State) : Host.Outcome State Fault Refusal :=
  finish (scalarAtomic (.aor d a b p) 2 d a b 0 p s)

/-- AXOR (R292, R293). -/
def execAxor (d a b : BitVec 5) (p : BitVec 2) (s : State) : Host.Outcome State Fault Refusal :=
  finish (scalarAtomic (.axor d a b p) 3 d a b 0 p s)

/-- AMIN, signed (R292, R293). -/
def execAmin (d a b : BitVec 5) (p : BitVec 2) (s : State) : Host.Outcome State Fault Refusal :=
  finish (scalarAtomic (.amin d a b p) 4 d a b 0 p s)

/-- AMAX, signed (R292, R293). -/
def execAmax (d a b : BitVec 5) (p : BitVec 2) (s : State) : Host.Outcome State Fault Refusal :=
  finish (scalarAtomic (.amax d a b p) 5 d a b 0 p s)

/-- AMINN, natural (R292, R293). -/
def execAminn (d a b : BitVec 5) (p : BitVec 2) (s : State) : Host.Outcome State Fault Refusal :=
  finish (scalarAtomic (.aminn d a b p) 6 d a b 0 p s)

/-- AMAXN, natural (R292, R293). -/
def execAmaxn (d a b : BitVec 5) (p : BitVec 2) (s : State) : Host.Outcome State Fault Refusal :=
  finish (scalarAtomic (.amaxn d a b p) 7 d a b 0 p s)

/-- ASWAP (R292, R293). -/
def execAswap (d a b : BitVec 5) (p : BitVec 2) (s : State) : Host.Outcome State Fault Refusal :=
  finish (scalarAtomic (.aswap d a b p) 8 d a b 0 p s)

/-- ACAS: a failed comparison stores nothing (R292, R293). -/
def execAcas (d a b c : BitVec 5) (p : BitVec 2) (s : State) : Host.Outcome State Fault Refusal :=
  finish (scalarAtomic (.acas d a b c p) 9 d a b c p s)

/-- AFADD: FP32 add of 4 bytes (R292, R293). -/
def execAfadd (d a b : BitVec 5) (p : BitVec 2) (s : State) : Host.Outcome State Fault Refusal :=
  finish (scalarAtomic (.afadd d a b p) 10 d a b 0 p s)

end Sys2Proof.Machine
end

