-- ==== Sys2Proof/Machine/Pipeline.lean ====
section
/-! DEFINITION. The address pipeline and what goes through it (08_vector_memory.md R191 to R203): element checks, faults with
their record, vector loads and stores of local memory, poisoned lines (17 R387), and vector requests through fabric windows
(16 R361 to R363). -/

namespace Sys2Proof.Machine

/-! ## Items -/

def PipeItem.xl (p : PipeItem) : Xl := { pa := p.pa, vc := p.vc, kind := p.kind }
def PipeItem.fabric (p : PipeItem) : Bool := p.kind == 1

/-- What a transfer asks and records (R197, R226): permission, access kind, tstride, and the count of elements or rows. -/
structure Transfer where
  acc : Acc
  akind : BitVec 2
  tstride : Word
  total : Nat
  deriving DecidableEq, Repr

/-- A trap with the vector record: telem and tremain name element e. -/
def State.trapV (s : State) (t : Transfer) (cause : BitVec 8) (akind : BitVec 2) (e : Nat) (va : Word) : State :=
  s.raise { cause := cause, akind := akind, pc := s.x.pc, tval := va, telem := BitVec.ofNat 64 e, tstride := t.tstride,
            tremain := BitVec.ofNat 64 (t.total - e) }

/-- fault(e, x, c) of R196: vbeg names the element at which re-execution resumes. -/
def State.faultAt (s : State) (t : Transfer) (e : Nat) (va : Word) (cause : BitVec 8) : State :=
  ({ s with x := { s.x with vbeg := BitVec.ofNat 64 e } }).trapV t cause t.akind e va

/-! ## Checks (R196) -/

/-- element_check up to translation: 0x20, 0x21 for an address that is no multiple of `align`, then the walk's cause. -/
def State.pieceXl (s : State) (acc : Acc) (align : Nat) (va : Word) : State × Except (BitVec 8) Xl :=
  if va.toNat ≥ 2 ^ 54 then (s, .error 0x20)
  else if va.toNat % align ≠ 0 then (s, .error 0x21)
  else match s.locate acc va.toNat with
    | (s, .error c) => (s, .error c)
    | (s, .ok (.sram _)) => (s, .error 0x20)
    | (s, .ok (.mem x)) => (s, .ok x)

/-- A check of one access: the items that passed before it, its element, address and length. -/
abbrev PieceCheck := State → List PipeItem → Nat → Word → Nat → State × Except (BitVec 8) Xl

/-- The check of a plain access: no byte in a merge region of the current fork (R120). -/
def plainCheck (acc : Acc) (align : Nat) : PieceCheck := fun s _ _ va n =>
  match s.pieceXl acc align va with
  | (s, .error c) => (s, .error c)
  | (s, .ok x) => if (s.regionAt va.toNat n).isSome then (s, .error 0x43) else (s, .ok x)

/-- Two fabric accesses through different windows. -/
def otherWindow (x : Xl) (p : PipeItem) : Bool := x.fabric && p.fabric && x.pa / 2 ^ 36 != p.pa / 2 ^ 36

/-- The fields of one element in ascending order; a field in another fabric window fails with 0xA2 at the segment's first address
(R202, R378). -/
def checkFields (chk : PieceCheck) (done : List PipeItem) (i : Nat) :
    Nat → List (Word × Nat) → List PipeItem → State → State × Except (Word × BitVec 8) (List PipeItem)
  | _, [], acc, s => (s, .ok acc)
  | f, (va, n) :: rest, acc, s =>
    match chk s done i va n with
    | (s, .error c) => (s, .error (va, c))
    | (s, .ok x) =>
      if acc.any (otherWindow x) then (s, .error ((acc.getLast?.map (·.va)).getD va, 0xA2))
      else
        let p : PipeItem := { i := i, f := f, va := va, n := n, pa := x.pa, vc := x.vc, kind := x.kind }
        checkFields chk done i (f + 1) rest (p :: acc) s

/-- The elements in ascending order up to the first that fails; `done` holds the passed items, latest first. -/
def checkElems (chk : PieceCheck) : List (Nat × List (Word × Nat)) → List PipeItem → State → State × Pipe
  | [], done, s => (s, { items := done.reverse, fault := none })
  | (i, fs) :: rest, done, s =>
    match checkFields chk done i 0 fs [] s with
    | (s, .error (va, c)) => (s, { items := done.reverse, fault := some (i, va, c) })
    | (s, .ok ps) => checkElems chk rest (ps ++ done) s

/-- Some element lies on a fabric-kind page: found without effect (R202). -/
def State.anyFabric (s : State) (acc : Acc) (es : List (Nat × List (Word × Nat))) : Bool :=
  es.any (fun e => e.2.any (fun p => match (s.locate acc p.1.toNat).2 with
    | .ok (.mem x) => x.fabric
    | .ok (.sram _) => false
    | .error _ => false))

/-- The pipeline of the instruction at pc: the one kept since its accesses were translated, else a fresh one (R198). A speculative
chunk with an element on a fabric page waits for head first (R202), and a walk may have to wait (R281). -/
def State.pipeline (s : State) (acc : Acc) (chk : PieceCheck) (es : List (Nat × List (Word × Nat))) : Run (State × Pipe) :=
  match s.x.pipe with
  | some p => .ok (s, p)
  | none => do
    check (!(s.spec && s.anyFabric acc es)) s
    let (s, p) := checkElems chk es [] s
    check (match p.fault with | some (_, _, c) => c != mustWait | none => true) s
    .ok ({ s with x := { s.x with pipe := some p } }, p)

/-! ## Local accesses of the vector class -/

/-- A run of accesses either happens or the instruction stalls with nothing done (R7). -/
def allOrStall {α : Type} (s : State) (r : Run α) : Run α :=
  match r with
  | .ok a => .ok a
  | .error _ => .error s

/-- No line of the items is in doubt (R369), and none is one that the host may hold (R385). -/
def State.settledAll (s : State) (write : Bool) (ps : List PipeItem) : Run Unit :=
  let here := ps.filter (fun p => !p.fabric)
  check (!here.any (fun p => s.blocked write p.pa p.n)) (s.askHost write s.st.id (here.flatMap (fun p => s.hostLines write p.pa p.n)).eraseDups)

def State.itemPoisoned (s : State) (p : PipeItem) : Bool := (linesOf p.pa p.n).any (fun l => s.poisonedFor (l * 64))

/-- The items' bytes in order, up to the first that returns poison (R203). -/
def State.loadItems : List PipeItem → State → Run (State × List (PipeItem × List Byte) × Option PipeItem)
  | [], s => .ok (s, [], none)
  | p :: ps, s => do
    let lost := s.lostRead p.vc p.pa p.n
    let (s, bs) ← (s.settleScatter p.pa p.n).loadLocal true p.xl p.n
    if lost || s.itemPoisoned p then .ok (s, [], some p)
    else do
      let (s, r, z) ← State.loadItems ps s
      .ok (s, (p, bs) :: r, z)

/-- The items together write every byte of the line. -/
def lineCovered (ps : List PipeItem) (l : Nat) : Bool :=
  (List.range 64).all (fun b => ps.any (fun p => decide (p.pa ≤ l * 64 + b) && decide (l * 64 + b < p.pa + p.n)))

/-- The lowest item that writes part of a poisoned line which the items below `cut` do not cover (R387). (DEDUCED, log entry 62.) -/
def State.partialPoison (s : State) (ps : List PipeItem) : Option PipeItem :=
  ps.find? (fun p => (linesOf p.pa p.n).any (fun l => s.poisonedFor (l * 64) && !lineCovered ps l))

/-- Cut the items at machine checks until every poisoned line left is covered whole. -/
def State.poisonCut (s : State) : Nat → List PipeItem → List PipeItem × Option PipeItem
  | 0, ps => (ps, none)
  | fuel + 1, ps =>
    match s.partialPoison ps with
    | none => (ps, none)
    | some p =>
      let (qs, z) := s.poisonCut fuel (ps.filter (fun q => q.i < p.i))
      (qs, some (z.getD p))

/-- One whole-line store to a poisoned line: it leaves P with the new data in one step (R387). -/
def State.storeLine (s : State) (vc l : Nat) (bs : List Byte) : State :=
  let s := (s.drainVector).clearPoison l
  let s := (pieces (l * 64) 64).foldl (fun s p => s.announce p.1) s
  s.drainOne { pa := l * 64, data := bs, vcache := vc }

/-- The bytes that the items leave in a line they cover. -/
def lineBytes (ws : List (PipeItem × List Byte)) (l : Nat) : List Byte :=
  let b : List BufStore := ws.map (fun w => { pa := w.1.pa, data := w.2, vcache := 0 })
  (List.range 64).map (fun k => (bufByte b (l * 64 + k)).getD 0)

/-- Perform stores in the order given; `whole` lists poisoned lines that they cover, each stored at its last item. -/
def State.storeItems (whole : List Nat) (all : List (PipeItem × List Byte)) : List (PipeItem × List Byte) → State → Run State
  | [], s => .ok s
  | (p, bs) :: rest, s =>
    let l := p.pa / 64
    let s := s.settleScatter p.pa p.n
    if whole.contains l && !s.spec then
      (if rest.any (fun w => w.1.pa / 64 == l) then State.storeItems whole all rest s
       else State.storeItems whole all rest (s.storeLine p.vc l (lineBytes all l)))
    else do
      let s ← s.storeLocal true p.xl bs
      State.storeItems whole all rest (if whole.contains l then s.putLines [l] [] else s)

/-- In an unordered store one element of each repeated location wins, a free choice (R194): the order in which the stores are
performed has the losers first. (DESIGN CHOICE, log entry 64.) -/
def State.storeOrder (s : State) (ws : List (PipeItem × List Byte)) : List (PipeItem × List Byte) :=
  let wins (w : PipeItem × List Byte) : Bool :=
    let same := ws.filter (fun v => v.1.pa == w.1.pa)
    let best := same.foldl (fun (acc : Option PipeItem) v => match acc with
      | none => some v.1
      | some a => some (if Config.laterWins s.undef v.1.pa a.i v.1.i then v.1 else a)) none
    best == some w.1
  ws.filter (fun w => !wins w) ++ ws.filter wins

/-- Stores of local items, ordered or not: the state, and the item at which the instruction takes the machine check. -/
def State.storeLocals (s : State) (ordered : Bool) (ws : List (PipeItem × List Byte)) : Run (State × Option PipeItem) := do
  let (keep, cut) := s.poisonCut (ws.length + 1) (ws.map (·.1))
  let ws := match cut with | some p => ws.filter (fun w => w.1.i < p.i) | none => ws
  let whole := ((keep.flatMap (fun p => linesOf p.pa p.n)).eraseDups).filter (fun l => s.poisonedFor (l * 64))
  let order := if ordered then ws else s.storeOrder ws
  let s ← State.storeItems whole order order { s with undef := s.undef + 1 }
  .ok (s, cut)

/-! ## Vector requests (R361 to R363) -/

/-- A vector request before it is sent: window and items, fields per element, and the way its addresses are given. -/
structure VReq where
  ep : Nat
  window : Nat
  nfld : Nat
  count : Nat
  lst : Bool
  base : Nat
  stride : Int
  items : List PipeItem
  deriving DecidableEq, Repr

/-- Items in rows of n. -/
def rowsOf {α : Type} (n : Nat) : Nat → List α → List (List α)
  | 0, _ => []
  | _, [] => []
  | fuel + 1, l => l.take n :: rowsOf n fuel (l.drop n)

/-- Consecutive window offsets. -/
def consecutive : List PipeItem → Bool
  | p :: q :: rest => (q.i == p.i) && (q.pa == p.pa + p.n) && consecutive (q :: rest)
  | _ => true

/-- Window offsets that step evenly, and the step. -/
def evenStep : List Nat → Option Int
  | a :: b :: rest =>
    let d : Int := (b : Int) - a
    if ((b :: rest).zip rest).all (fun p => (p.2 : Int) - p.1 == d) then some d else none
  | _ => some 0

/-- Bytes of slot for one element (R363). -/
def slotBytes (op : Nat) (lst : Bool) (nfld size : Nat) : Nat :=
  (if lst then 8 else 0) + (if op = 2 then 2 * size else if op = 3 then size else nfld * size)

/-- The requests of the items of one window: elements whose fields lie together go as elements, otherwise field by field; the
addresses are stepped when they step evenly, and listed otherwise. (DEDUCED, log entry 60.) -/
def windowReqs (op F size : Nat) (ps : List PipeItem) : List VReq :=
  match ps with
  | [] => []
  | p :: _ =>
    let whole := ps.length % F = 0 && (rowsOf F ps.length ps).all (fun r => r.length == F && consecutive r)
    let nfld := if whole then F else 1
    let els := rowsOf nfld ps.length ps
    let offs := els.map (fun r => (r.map (fun q => q.xl.off)).headD 0)
    let lst := (evenStep offs).isNone
    let c := min 2048 (32704 / slotBytes op lst nfld size)
    (rowsOf c els.length els).map (fun es =>
      let o := es.map (fun r => (r.map (fun q => q.xl.off)).headD 0)
      { ep := p.xl.ep, window := p.xl.window, nfld := nfld, count := es.length, lst := lst, base := o.headD 0,
        stride := (evenStep o).getD 0, items := es.flatten })

/-- Requests of an unordered instruction: one group for each window, in the order of its first element. -/
def groupReqs (op F size : Nat) (ps : List PipeItem) : List VReq :=
  ((ps.map (fun p => p.pa / 2 ^ 36)).eraseDups).flatMap (fun w => windowReqs op F size (ps.filter (fun p => p.pa / 2 ^ 36 == w)))

/-- The 256-byte record of a request (R361), its slot, operation, sequence number and group. (DEDUCED, log entry 60.) -/
def vreqRecord (q : VReq) (op ew aop slot src seq group : Nat) (ord : Bool) : Nat :=
  record [(0, 1, op + ew * 16 + (if ord then 64 else 0) + (if q.lst then 128 else 0)), (1, 1, aop + q.nfld * 16),
    (2, 2, q.count), (4, 2, slot), (6, 2, src), (8, 1, q.window), (12, 4, seq), (16, 2, group),
    (24, 8, if q.lst then 0 else q.base), (32, 8, if q.lst then 0 else (q.stride % 2 ^ 64).toNat)]

/-- A free reply slot of the hub (R362). (DESIGN CHOICE, log entry 63.) -/
def State.freeReplySlot (s : State) : Option Nat :=
  (List.range 64).find? (fun n => !s.fab.reqs.any (fun q => q.kind == .vector && q.slot == some n))

/-- The address of a virtual byte that a request begins with. -/
def VReq.va (q : VReq) : Word := (q.items.head?.map (·.va)).getD 0

/-- What an operation sends: its code, element size code, atomic code, order, and the bytes of each item. -/
structure VSend where
  op : Nat
  ew : Nat
  aop : Nat := 0
  ord : Bool := false
  seq : Nat := 0
  group : Nat := 0
  data : PipeItem → List Byte

/-- Take a slot, write offsets and data into it, send the record (R362); none while no slot is free. The payload recorded on
the fabric is the record followed by what the core has written into the slot. -/
def State.sendVector (s : State) (v : VSend) (q : VReq) (seq : Nat) : Option State :=
  match s.freeReplySlot with
  | none => none
  | some slot =>
    let rec_ := leBytes 256 (vreqRecord q v.op v.ew v.aop slot (bits s.fab.fxep 0 10) seq v.group v.ord)
    let firsts := (rowsOf q.nfld q.items.length q.items).map (fun r => (r.map (fun p => p.xl.off)).headD 0)
    let offs := if q.lst then firsts.flatMap (fun o => leBytes 8 o) else []
    let (s, id) := s.sendReq .vector q.ep q.window q.base q.va portVector (some slot) (rec_ ++ offs ++ q.items.flatMap v.data)
    some { s with x := { s.x with replies := s.x.replies ++ [.waiting id] } }

/-- Send the requests that have not been sent yet, while slots are free. -/
def State.sendRest (v : VSend) : List VReq → State → State
  | [], s => s
  | q :: rest, s => match s.sendVector v q v.seq with
    | some s => State.sendRest v rest s
    | none => s

def Reply.isWaiting : Reply → Bool
  | .waiting _ => true
  | .data _ => false
  | .poison => false
  | .failed => false

/-- Unordered requests: all are sent, the pipeline is kept, and the instruction goes on once every one is answered. `skip`
replies before them belong to other requests of the instruction. -/
def State.exchange (s : State) (pipe : Pipe) (v : VSend) (skip : Nat) (reqs : List VReq) : Run (List (VReq × Reply)) :=
  if s.x.replies.length < skip + reqs.length then
    let t := State.sendRest v (reqs.drop (s.x.replies.length - skip)) { s with x := { s.x with pipe := some pipe } }
    .error t
  else if s.x.replies.any Reply.isWaiting then .error s
  else .ok (reqs.zip (s.x.replies.drop skip))

/-- Bytes of the items of an answered request, in order. -/
def splitItems : List PipeItem → List Byte → List (PipeItem × List Byte)
  | [], _ => []
  | p :: ps, bs => (p, bs.take p.n) :: splitItems ps (bs.drop p.n)

def answered (r : VReq × Reply) : List (PipeItem × List Byte) :=
  match r.2 with
  | .data bs => splitItems r.1.items bs
  | .waiting _ => []
  | .poison => []
  | .failed => []

/-- The element, address and cause at which a request's failure ends the instruction (R203, R360, R363). -/
def requestFault (r : VReq × Reply) : Option (Nat × Word × BitVec 8) :=
  match r.1.items.head?, r.2 with
  | some p, .failed => some (p.i, p.va, 0xA1)
  | some p, .poison => some (p.i, p.va, 0xC0)
  | _, _ => none

/-- The earlier of two stops. -/
def firstStop (a b : Option (Nat × Word × BitVec 8)) : Option (Nat × Word × BitVec 8) :=
  match a, b with
  | none, b => b
  | a, none => a
  | some x, some y => if y.1 < x.1 then some y else some x

def stopsAt (z : Option PipeItem) : Option (Nat × Word × BitVec 8) := z.map (fun p => (p.i, p.va, 0xC0))

/-- Items below a stop. -/
def belowStop {α : Type} (z : Option (Nat × Word × BitVec 8)) (f : α → PipeItem) (l : List α) : List α :=
  match z with
  | some x => l.filter (fun a => (f a).i < x.1)
  | none => l

/-- Take the trap of a stop, or complete with vbeg 0. -/
def State.endTransfer (s : State) (t : Transfer) (z : Option (Nat × Word × BitVec 8)) : State :=
  match z with
  | some (e, va, c) => s.faultAt t e va c
  | none => s.vbegZero.advance

end Sys2Proof.Machine
end

