-- ==== Sys2Proof/Machine/VArith.lean ====
section
/-! DEFINITION. VSETVL and VSETVLI (07_vector_registers.md R157) and vector page 1: arithmetic, float functions, conversion,
bitwise operations, shifts and comparison (07 R164 to R171). -/

namespace Sys2Proof.Machine

/-! ## VSETVL, VSETVLI -/

/-- R157 for the requested vtype `t`: an illegal one sets vill and clears vl, vbeg and s[d]. -/
def State.setVl (s : State) (d a : BitVec 5) (t : Word) : State :=
  if bits t 6 58 != 0 then
    { s with x := { s.x with vtype := villValue, vl := 0, vbeg := 0 } }.result d 0
  else
    let req := if a = 0 then vlmaxOf t else (s.getS a).toNat
    let vl : Word := BitVec.ofNat 64 (min req (vlmaxOf t))
    { s with x := { s.x with vtype := t, vl := vl, vbeg := 0 } }.result d vl

/-- VSETVL: vtype from s[b]. -/
def execVsetvl (d a b : BitVec 5) (s : State) : Host.Outcome State Fault Refusal :=
  finish do
    gate (.vsetvl d a b) {} s
    .ok (s.setVl d a (s.getS b))

/-- VSETVLI: vtype from the word. -/
def execVsetvli (d a : BitVec 5) (t : BitVec 6) (s : State) : Host.Outcome State Fault Refusal :=
  finish do
    gate (.vsetvli d a t) {} s
    .ok (s.setVl d a (t.setWidth 64))

/-! ## Format classes (R165) -/

/-- A format that reads as a real number: a float, or a block format. -/
def isReal (c : Nat) : Bool := isFloat c || isBlock c

/-- Any format but E8M0, and any such format but a block one. -/
def notScale (c : Nat) : Bool := isInt c || isReal c
def isPlain (c : Nat) : Bool := isInt c || isFloat c

def arithFormats (two : Bool) (d : FD) : Bool :=
  (isReal d.fa && (!two || isReal d.fb) && isFloat d.fdst) || (isInt d.fa && (!two || isInt d.fb) && isInt d.fdst)

def funcFormats (d : FD) : Bool := isReal d.fa && isFloat d.fdst
def convFormats (d : FD) : Bool := notScale d.fa && isPlain d.fdst

def bitFormats (two : Bool) (d : FD) : Bool :=
  isPlain d.fa && isPlain d.fdst && fmtWidth d.fdst == fmtWidth d.fa &&
    (!two || (isPlain d.fb && fmtWidth d.fb == fmtWidth d.fa))

def shiftFormats (d : FD) : Bool := isPlain d.fa && isPlain d.fdst && fmtWidth d.fdst == fmtWidth d.fa && isInt d.fb

def compareFormats (d : FD) : Bool := (isReal d.fa && isReal d.fb) || (isInt d.fa && isInt d.fb)

/-- The formats an instruction uses: source A, source B when it has one, the destination when it is one. -/
def usesAB (d : FD) : List Nat := [d.fa, d.fb]
def usesA (d : FD) : List Nat := [d.fa]

/-! ## Sources -/

/-- Source B as a value of element i (R39, R145): a vector operand, or the scalar that stands in every lane. -/
def State.sourceB (s : State) (d : FD) (t : XVal) (b : BitVec 5) (vs : BitVec 1) : Nat → XVal :=
  if vs = 1 then
    let v := if isInt d.fb then .ofInt (readInt d.fb (s.getS b).toNat) else immediateValue d (s.getS b)
    fun _ => v
  else (s.src (opdOf b d.fb)).value d.fb d.ftz t

/-- Source B as a bit pattern of fb's width (R170). -/
def State.patternB (s : State) (d : FD) (b : BitVec 5) (vs : BitVec 1) : Nat → Nat :=
  if vs = 1 then fun _ => (s.getS b).toNat % 2 ^ fmtWidth d.fb else (s.src (opdOf b d.fb)).at_

/-- The operands of a page-1 instruction: A, B in the .VV form, the destination. -/
def page1Opds (a b : BitVec 5) (two : Bool) (vs : BitVec 1) (dst : Option (BitVec 5)) (d : FD) : List Opd :=
  [opdOf a d.fa] ++ (if two && vs = 0 then [opdOf b d.fb] else []) ++
    (match dst with | some r => [opdOf r d.fdst] | none => [])

/-- The dispatch checks of a vector instruction with a format descriptor (R163), then its effect, then pc advances. -/
def vectorOp (i : Instr) (need : Need) (f : BitVec 5) (ok : FD → Bool) (used : FD → List Nat) (opds : FD → List Opd)
    (vbegTraps : Bool) (s : State) (effect : FD → State) : Run State := do
  gate i need s
  let d ← fdCheck s f ok used
  vcheck i s (groupsLegal s.x.vtype (opds d)) vbegTraps
  .ok (effect d).advance

/-- The operand groups of a page-1 instruction are judged by this, and its elements written by vector_apply (R162, R164). -/
def page1 (i : Instr) (k : BitVec 3) (r a b f : BitVec 5) (two : Bool) (vs : BitVec 1) (ok : FD → Bool)
    (elem : FD → Nat → Nat) (s : State) : Host.Outcome State Fault Refusal :=
  finish (vectorOp i {} f ok (if two then usesAB else usesA) (page1Opds a b two vs (some r)) false s
    (fun d => s.vectorApply r (fmtWidth d.fdst) k (elem d)))

/-- The rounded result of an exact one. -/
def FD.round (d : FD) (x : XVal) : Nat := roundTo d.fdst d.rm d.sat d.ftz x

/-- Two-source arithmetic: `g` forms the exact result from the rounding direction of an exact zero, a, b and the addend. -/
def arith2 (i : Instr) (k : BitVec 3) (r a b f : BitVec 5) (vs : BitVec 1) (g : Bool → XVal → XVal → XVal → XVal)
    (s : State) : Host.Outcome State Fault Refusal :=
  page1 i k r a b f true vs (arithFormats true) (fun d =>
    let t := s.tscale f
    let va := (s.src (opdOf a d.fa)).value d.fa d.ftz t
    let vb := s.sourceB d t b vs
    let vc := (s.src (opdOf r d.fdst)).value d.fdst d.ftz t
    fun j => d.round (g (d.rm == 2) (va j) (vb j) (vc j))) s

/-- A one-source operation on values. -/
def arith1 (i : Instr) (k : BitVec 3) (r a f : BitVec 5) (ok : FD → Bool) (g : XVal → XVal) (s : State) :
    Host.Outcome State Fault Refusal :=
  page1 i k r a 0 f false 0 ok (fun d =>
    let va := (s.src (opdOf a d.fa)).value d.fa d.ftz (s.tscale f)
    fun j => d.round (g (va j))) s

/-- A bitwise operation or a shift on patterns of width w (R170). -/
def bitwise (i : Instr) (k : BitVec 3) (r a b f : BitVec 5) (two : Bool) (vs : BitVec 1) (ok : FD → Bool)
    (g : Nat → Nat → Nat → Nat) (s : State) : Host.Outcome State Fault Refusal :=
  page1 i k r a b f two vs ok (fun d =>
    let va := (s.src (opdOf a d.fa)).at_
    let vb := if two then s.patternB d b vs else fun _ => 0
    fun j => g (fmtWidth d.fa) (va j) (vb j)) s

/-! ## Exact results -/

/-- VDIV on integers (R167). -/
def divElem (d : FD) (a b : XVal) : Nat :=
  let n := b.scaled 0
  if n = 0 then 2 ^ fmtWidth d.fdst - 1
  else roundTo d.fdst 0 d.sat false (.ofInt ((a.scaled 0).tdiv n))

/-- VSHL, VSHR and VSRA on patterns of width w by n mod w (R170). -/
def shlBits (w x n : Nat) : Nat := x * 2 ^ (n % w) % 2 ^ w
def shrBits (w x n : Nat) : Nat := x / 2 ^ (n % w)
def sraBits (w x n : Nat) : Nat := ((sextN x w).fdiv (2 ^ (n % w)) % 2 ^ w).toNat

/-- A condition of VCMP (R171). -/
def vcmpHolds (c : BitVec 3) (a b : XVal) : Bool :=
  let un := a.isNan || b.isNan
  if c = 0 then !un && XVal.cmp a b == .eq
  else if c = 1 then un || XVal.cmp a b != .eq
  else if c = 2 then !un && XVal.lt a b
  else if c = 3 then !un && XVal.le a b
  else if c = 4 then !un && XVal.lt b a
  else if c = 5 then !un && XVal.le b a
  else if c = 6 then un
  else !un

/-! ## Page 1 -/

/-- VADD: a + b, rounded once (R166). -/
def execVadd (k : BitVec 3) (r a b f : BitVec 5) (vs : BitVec 1) (s : State) : Host.Outcome State Fault Refusal :=
  arith2 (.vadd k r a b f vs) k r a b f vs (fun z a b _ => XVal.add z a b) s

/-- VSUB: a − b, rounded once (R166). -/
def execVsub (k : BitVec 3) (r a b f : BitVec 5) (vs : BitVec 1) (s : State) : Host.Outcome State Fault Refusal :=
  arith2 (.vsub k r a b f vs) k r a b f vs (fun z a b _ => XVal.add z a b.neg) s

/-- VMUL: a × b, rounded once (R166). -/
def execVmul (k : BitVec 3) (r a b f : BitVec 5) (vs : BitVec 1) (s : State) : Host.Outcome State Fault Refusal :=
  arith2 (.vmul k r a b f vs) k r a b f vs (fun _ a b _ => XVal.mul a b) s

/-- VFMA: a × b + c, the addend c in vd, rounded once (R166). -/
def execVfma (k : BitVec 3) (r a b f : BitVec 5) (vs : BitVec 1) (s : State) : Host.Outcome State Fault Refusal :=
  arith2 (.vfma k r a b f vs) k r a b f vs (fun z a b c => XVal.add z (XVal.mul a b) c) s

/-- VFMS: a × b − c, rounded once (R166). -/
def execVfms (k : BitVec 3) (r a b f : BitVec 5) (vs : BitVec 1) (s : State) : Host.Outcome State Fault Refusal :=
  arith2 (.vfms k r a b f vs) k r a b f vs (fun z a b c => XVal.add z (XVal.mul a b) c.neg) s

/-- VNFMA: c − a × b, rounded once (R166). -/
def execVnfma (k : BitVec 3) (r a b f : BitVec 5) (vs : BitVec 1) (s : State) : Host.Outcome State Fault Refusal :=
  arith2 (.vnfma k r a b f vs) k r a b f vs (fun z a b c => XVal.add z c (XVal.mul a b).neg) s

/-- VDIV: a / b rounded once; integers under R167. -/
def execVdiv (k : BitVec 3) (r a b f : BitVec 5) (vs : BitVec 1) (s : State) : Host.Outcome State Fault Refusal :=
  page1 (.vdiv k r a b f vs) k r a b f true vs (arithFormats true) (fun d =>
    let t := s.tscale f
    let va := (s.src (opdOf a d.fa)).value d.fa d.ftz t
    let vb := s.sourceB d t b vs
    fun j => if isInt d.fdst then divElem d (va j) (vb j) else d.round (XVal.div (va j) (vb j))) s

/-- VMIN (R168). -/
def execVmin (k : BitVec 3) (r a b f : BitVec 5) (vs : BitVec 1) (s : State) : Host.Outcome State Fault Refusal :=
  arith2 (.vmin k r a b f vs) k r a b f vs (fun _ a b _ => XVal.minOf a b) s

/-- VMAX (R168). -/
def execVmax (k : BitVec 3) (r a b f : BitVec 5) (vs : BitVec 1) (s : State) : Host.Outcome State Fault Refusal :=
  arith2 (.vmax k r a b f vs) k r a b f vs (fun _ a b _ => XVal.maxOf a b) s

/-- VABS: |a| (R168). -/
def execVabs (k : BitVec 3) (r a f : BitVec 5) (s : State) : Host.Outcome State Fault Refusal :=
  arith1 (.vabs k r a f) k r a f (arithFormats false) XVal.abs s

/-- VNEG: −a (R168). -/
def execVneg (k : BitVec 3) (r a f : BitVec 5) (s : State) : Host.Outcome State Fault Refusal :=
  arith1 (.vneg k r a f) k r a f (arithFormats false) XVal.neg s

/-- VSQRT: √a (R166). -/
def execVsqrt (k : BitVec 3) (r a f : BitVec 5) (s : State) : Host.Outcome State Fault Refusal :=
  arith1 (.vsqrt k r a f) k r a f funcFormats sqrtX s

/-- VEXP2: 2^a (R166). -/
def execVexp2 (k : BitVec 3) (r a f : BitVec 5) (s : State) : Host.Outcome State Fault Refusal :=
  arith1 (.vexp2 k r a f) k r a f funcFormats exp2X s

/-- VLOG2: log2 a (R166). -/
def execVlog2 (k : BitVec 3) (r a f : BitVec 5) (s : State) : Host.Outcome State Fault Refusal :=
  arith1 (.vlog2 k r a f) k r a f funcFormats log2X s

/-- VRCP: 1 / a (R166). -/
def execVrcp (k : BitVec 3) (r a f : BitVec 5) (s : State) : Host.Outcome State Fault Refusal :=
  arith1 (.vrcp k r a f) k r a f funcFormats rcpX s

/-- VRSQ: 1 / √a (R166). -/
def execVrsq (k : BitVec 3) (r a f : BitVec 5) (s : State) : Host.Outcome State Fault Refusal :=
  arith1 (.vrsq k r a f) k r a f funcFormats rsqrtX s

/-- VCVT: conversion (R169). -/
def execVcvt (k : BitVec 3) (r a f : BitVec 5) (s : State) : Host.Outcome State Fault Refusal :=
  arith1 (.vcvt k r a f) k r a f convFormats (fun x => x) s

/-- VAND (R170). -/
def execVand (k : BitVec 3) (r a b f : BitVec 5) (vs : BitVec 1) (s : State) : Host.Outcome State Fault Refusal :=
  bitwise (.vand k r a b f vs) k r a b f true vs (bitFormats true) (fun _ x y => x &&& y) s

/-- VOR (R170). -/
def execVor (k : BitVec 3) (r a b f : BitVec 5) (vs : BitVec 1) (s : State) : Host.Outcome State Fault Refusal :=
  bitwise (.vor k r a b f vs) k r a b f true vs (bitFormats true) (fun _ x y => x ||| y) s

/-- VXOR (R170). -/
def execVxor (k : BitVec 3) (r a b f : BitVec 5) (vs : BitVec 1) (s : State) : Host.Outcome State Fault Refusal :=
  bitwise (.vxor k r a b f vs) k r a b f true vs (bitFormats true) (fun _ x y => x ^^^ y) s

/-- VNOT (R170). -/
def execVnot (k : BitVec 3) (r a f : BitVec 5) (s : State) : Host.Outcome State Fault Refusal :=
  bitwise (.vnot k r a f) k r a 0 f false 0 (bitFormats false) (fun w x _ => 2 ^ w - 1 - x) s

/-- VSHL (R170). -/
def execVshl (k : BitVec 3) (r a b f : BitVec 5) (vs : BitVec 1) (s : State) : Host.Outcome State Fault Refusal :=
  bitwise (.vshl k r a b f vs) k r a b f true vs shiftFormats shlBits s

/-- VSHR (R170). -/
def execVshr (k : BitVec 3) (r a b f : BitVec 5) (vs : BitVec 1) (s : State) : Host.Outcome State Fault Refusal :=
  bitwise (.vshr k r a b f vs) k r a b f true vs shiftFormats shrBits s

/-- VSRA (R170). -/
def execVsra (k : BitVec 3) (r a b f : BitVec 5) (vs : BitVec 1) (s : State) : Host.Outcome State Fault Refusal :=
  bitwise (.vsra k r a b f vs) k r a b f true vs shiftFormats sraBits s

/-- VCMP: a mask register receives the condition of each body element (R171). -/
def execVcmp (k m : BitVec 3) (a b f : BitVec 5) (vs : BitVec 1) (c : BitVec 3) (s : State) :
    Host.Outcome State Fault Refusal :=
  finish (vectorOp (.vcmp k m a b f vs c) {} f compareFormats usesAB (page1Opds a b true vs none) false s
    (fun d =>
      let t := s.tscale f
      let va := (s.src (opdOf a d.fa)).value d.fa d.ftz t
      let vb := s.sourceB d t b vs
      s.maskApply m.toNat k (fun j => vcmpHolds c (va j) (vb j))))

end Sys2Proof.Machine
end

