-- ==== Sys2Proof/Machine/VMove.lean ====
section
/-! DEFINITION. Vector page 2 (07_vector_registers.md R172 to R185): reductions, scan, sort, moves, mask instructions, VRAND,
VPWL, quantisation and its inverse. -/

namespace Sys2Proof.Machine

/-! ## Writing rules of their own -/

/-- The listed elements of a string of width-w elements replaced. -/
def putAll (g w : Nat) (els : List (Nat × Nat)) : Nat := els.foldl (fun g e => putField g (w * e.1) w e.2) g

/-- Elements from `lo` to the capacity zeroed where tp is set (R162). -/
def zeroTail (tp : Bool) (g w lo cap : Nat) : Nat := if tp ∧ lo < cap then putField g (w * lo) (w * (cap - lo)) 0 else g

/-- Write listed elements into the group at `base`, then the tail from `lo`; with vl = 0 nothing is written (R162). -/
def State.putElems (s : State) (base w : Nat) (els : List (Nat × Nat)) (lo : Nat) : State :=
  if s.vl = 0 then s.vbegZero
  else
    let n := groupRegs s.x.vtype w
    (s.setVgroup base n (zeroTail s.tp (putAll (s.vgroup base n) w els) w lo (n * 16384 / w))).vbegZero

/-- Active elements with vbeg taken as 0 (the instructions that trap on a nonzero vbeg). -/
def State.actives (s : State) (k : BitVec 3) : List Nat := (List.range s.vl).filter (fun i => s.active k i)

/-! ## Reductions and scan (R173, R174) -/

def reduceFormats (d : FD) : Bool := (isReal d.fa && isFloat d.fdst) || (isInt d.fa && isInt d.fdst)

/-- One level of the pairwise tree (R149): an odd last entry passes up. -/
def pairUp {α : Type} (g : α → α → α) : List α → List α
  | a :: b :: rest => g a b :: pairUp g rest
  | l => l

/-- The tree over up to 2^fuel entries; none for the empty list. -/
def reduceTree {α : Type} (g : α → α → α) : Nat → List α → Option α
  | 0, l => l.head?
  | fuel + 1, l =>
    match l with
    | [] => none
    | [x] => some x
    | l => reduceTree g fuel (pairUp g l)

/-- An intermediate value as later levels read it: a rounded sum in fdst; a rounded integer maximum or minimum with the
signedness of fa, at the width of fdst (R173). (DEDUCED, log entry 35.) -/
def reread (d : FD) (ordered : Bool) (p : Nat) : XVal :=
  if ordered && isInt d.fdst then
    .ofInt (if isSigned d.fa then sextN p (fmtWidth d.fdst) else (zextN p (fmtWidth d.fdst) : Nat))
  else elemValue d.fdst false p 0 (.ofInt 1)

/-- A reduction: `g` combines two values from the rounding direction of an exact zero, `e0` is the result for no elements. An entry
of the tree is a value and its pattern: a combined value is rounded once (R149). -/
def reduce (i : Instr) (k : BitVec 3) (r a f : BitVec 5) (ordered : Bool) (g : Bool → XVal → XVal → XVal) (e0 : FD → XVal)
    (s : State) : Host.Outcome State Fault Refusal :=
  finish (vectorOp i {} f reduceFormats usesA (fun d => [opdOf a d.fa, opdOf r d.fdst]) true s (fun d =>
    let va := (s.src (opdOf a d.fa)).value d.fa d.ftz (s.tscale f)
    let entry (x : XVal) : XVal × Nat := (x, d.round x)
    let join (a b : XVal × Nat) : XVal × Nat :=
      let q := d.round (g (d.rm == 2) a.1 b.1)
      (reread d ordered q, q)
    let x := (reduceTree join 12 ((s.actives k).map (fun j => entry (va j)))).getD (entry (e0 d))
    s.putElems r.toNat (fmtWidth d.fdst) [(0, x.2)] 1))

/-- VREDSUM (R173). -/
def execVredsum (k : BitVec 3) (r a f : BitVec 5) (s : State) : Host.Outcome State Fault Refusal :=
  reduce (.vredsum k r a f) k r a f false XVal.add (fun _ => .zero false) s

/-- VREDMAX (R173). -/
def execVredmax (k : BitVec 3) (r a f : BitVec 5) (s : State) : Host.Outcome State Fault Refusal :=
  reduce (.vredmax k r a f) k r a f true (fun _ => XVal.maxOf)
    (fun d => if isInt d.fdst then .ofInt (smallestInt d.fdst) else .inf true) s

/-- VREDMIN (R173). -/
def execVredmin (k : BitVec 3) (r a f : BitVec 5) (s : State) : Host.Outcome State Fault Refusal :=
  reduce (.vredmin k r a f) k r a f true (fun _ => XVal.minOf)
    (fun d => if isInt d.fdst then .ofInt (largestInt d.fdst) else .inf false) s

/-- The rounded inclusive prefixes of a list (R174): patterns, in order. -/
def prefixes (d : FD) : Option XVal → List (Nat × XVal) → List (Nat × Nat)
  | _, [] => []
  | p, (i, x) :: rest =>
    let q := d.round (match p with | some y => XVal.add (d.rm == 2) y x | none => x)
    (i, q) :: prefixes d (some (reread d false q)) rest

/-- VSCAN (R174). -/
def execVscan (k : BitVec 3) (r a f : BitVec 5) (s : State) : Host.Outcome State Fault Refusal :=
  finish (vectorOp (.vscan k r a f) {} f reduceFormats usesA (fun d => [opdOf a d.fa, opdOf r d.fdst]) true s (fun d =>
    let va := (s.src (opdOf a d.fa)).value d.fa d.ftz (s.tscale f)
    let ps := prefixes d none ((s.actives k).map (fun i => (i, va i)))
    s.vectorApply r (fmtWidth d.fdst) k (fun i => lookupD 0 i ps)))

/-! ## Sorting (R175, R176) -/

/-- The order of keys: NaN above everything, −0 below +0. -/
def keyLt (a b : XVal) : Bool := if a.isNan then false else if b.isNan then true else XVal.ltSigned a b

/-- Stable insertion: after every element that is not above x. -/
def insertKey (lt : XVal → XVal → Bool) (x : XVal × Nat) : List (XVal × Nat) → List (XVal × Nat)
  | [] => [x]
  | y :: ys => if lt x.1 y.1 then x :: y :: ys else y :: insertKey lt x ys

/-- The active elements of `a` in format c with their indices, stably sorted. -/
def State.sorted (s : State) (k : BitVec 3) (a : BitVec 5) (c : Nat) (lt : XVal → XVal → Bool) : List Nat :=
  let va := (s.src (opdOf a c)).value c false (.ofInt 1)
  ((s.actives k).foldl (fun l i => insertKey lt (va i, i) l) []).map (·.2)

/-- The second group of a pair, at d + n(wa); it must lie within v31 (R175). -/
def pairOpds (vt : Word) (r : BitVec 5) (c e : Nat) : List Opd :=
  [opdOf r c, { base := r.toNat + groupRegs vt (fmtWidth c), width := fmtWidth e, block := false }]

/-- VSORT (R175). -/
def execVsort (k : BitVec 3) (r a b f : BitVec 5) (s : State) : Host.Outcome State Fault Refusal :=
  finish (vectorOp (.vsort k r a b f) {} f (fun d => isPlain d.fa && isPlain d.fb) usesAB
    (fun d => [opdOf a d.fa, opdOf b d.fb] ++ pairOpds s.x.vtype r d.fa d.fb) true s (fun d =>
      let order := s.sorted k a d.fa keyLt
      let ka := (s.src (opdOf a d.fa)).at_
      let kb := (s.src (opdOf b d.fb)).at_
      let m := order.length
      let t := s.putElems r.toNat (fmtWidth d.fa) ((List.range m).zip (order.map ka)) m
      t.putElems (r.toNat + groupRegs s.x.vtype (fmtWidth d.fa)) (fmtWidth d.fb) ((List.range m).zip (order.map kb)) m))

/-- VTOPK (R176): the index format is N16 or N32. -/
def execVtopk (k : BitVec 3) (r a b f : BitVec 5) (s : State) : Host.Outcome State Fault Refusal :=
  finish (vectorOp (.vtopk k r a b f) {} f (fun d => isPlain d.fa && (d.fdst == 5 || d.fdst == 6)) usesA
    (fun d => [opdOf a d.fa] ++ pairOpds s.x.vtype r d.fa d.fdst) true s (fun d =>
      let order := (s.sorted k a d.fa (fun x y => keyLt y x)).take (s.getS b).toNat
      let ka := (s.src (opdOf a d.fa)).at_
      let m := order.length
      let t := s.putElems r.toNat (fmtWidth d.fa) ((List.range m).zip (order.map ka)) m
      t.putElems (r.toNat + groupRegs s.x.vtype (fmtWidth d.fa)) (fmtWidth d.fdst) ((List.range m).zip order) m))

/-! ## Moves at the width of vtype's ew (R177 to R179) -/

/-- The checks of a move, its effect, and the pc's advance. -/
def moveOp (i : Instr) (regs : List (BitVec 5)) (vbegTraps : Bool) (s : State) (effect : State) : Run State := do
  gate i {} s
  vcheck i s (groupsLegal s.x.vtype (regs.map (fun r => opdW r s.ew))) vbegTraps
  .ok effect.advance

/-- Element i of a move's source. -/
def State.elem (s : State) (a : BitVec 5) (i : Nat) : Nat := (s.src (opdW a s.ew)).at_ i

/-- Set bits of k below i. -/
def State.bitsBelow (s : State) (k : BitVec 3) (i : Nat) : Nat :=
  ((List.range i).filter (fun j => (s.kmask k.toNat).getLsbD j)).length

/-- VCOMP (R177). -/
def execVcomp (k : BitVec 3) (r a : BitVec 5) (s : State) : Host.Outcome State Fault Refusal :=
  let src := s.src (opdW a s.ew)
  let l := ((List.range s.vl).filter (fun i => (s.kmask k.toNat).getLsbD i)).map src.at_
  finish (moveOp (.vcomp k r a) [a, r] true s (s.putElems r.toNat s.ew ((List.range l.length).zip l) l.length))

/-- VEXPD (R177). -/
def execVexpd (k : BitVec 3) (r a : BitVec 5) (s : State) : Host.Outcome State Fault Refusal :=
  let src := s.src (opdW a s.ew)
  finish (moveOp (.vexpd k r a) [a, r] false s (s.vectorApply r s.ew k (fun i => src.at_ (s.bitsBelow k i))))

/-- VIOTA: every body element is written whatever its bit (R177). -/
def execViota (k : BitVec 3) (r : BitVec 5) (s : State) : Host.Outcome State Fault Refusal :=
  finish (moveOp (.viota k r) [r] false s (s.vectorApply r s.ew 0 (fun i => s.bitsBelow k i)))

/-- VPERM (R178). -/
def execVperm (k : BitVec 3) (r a b : BitVec 5) (s : State) : Host.Outcome State Fault Refusal :=
  let va := s.src (opdW a s.ew)
  let vb := s.src (opdW b s.ew)
  finish (moveOp (.vperm k r a b) [a, b, r] true s
    (s.vectorApply r s.ew k (fun i => if vb.at_ i < s.vl then va.at_ (vb.at_ i) else 0)))

/-- VSLUP: elements below the offset are never written (R178). -/
def execVslup (k : BitVec 3) (r a b : BitVec 5) (s : State) : Host.Outcome State Fault Refusal :=
  let va := s.src (opdW a s.ew)
  let off := (s.getS b).toNat
  let body := (span (min off s.vl) s.vl).filterMap (fun i =>
    if s.active k i then some (i, va.at_ (i - off)) else if s.mp then some (i, 0) else none)
  finish (moveOp (.vslup k r a b) [a, r] true s (s.putElems r.toNat s.ew body s.vl))

/-- VSLDN (R178). -/
def execVsldn (k : BitVec 3) (r a b : BitVec 5) (s : State) : Host.Outcome State Fault Refusal :=
  let va := s.src (opdW a s.ew)
  let off := (s.getS b).toNat
  finish (moveOp (.vsldn k r a b) [a, r] true s
    (s.vectorApply r s.ew k (fun i => if i + off < s.vl then va.at_ (i + off) else 0)))

/-- VBCAST (R179). -/
def execVbcast (k : BitVec 3) (r a : BitVec 5) (s : State) : Host.Outcome State Fault Refusal :=
  let x := (s.getS a).toNat
  finish (moveOp (.vbcast k r a) [r] false s (s.vectorApply r s.ew k (fun _ => x)))

/-- VEXTR (R179). -/
def execVextr (r a b : BitVec 5) (s : State) : Host.Outcome State Fault Refusal :=
  let j := (s.getS b).toNat
  let v := if j < s.vl then s.elem a j else 0
  finish (moveOp (.vextr r a b) [a] false s (s.vbegZero.setS r (BitVec.ofNat 64 v)))

/-- VINS: one element, no tail (R179). -/
def execVins (r a b : BitVec 5) (s : State) : Host.Outcome State Fault Refusal :=
  let j := (s.getS b).toNat
  let n := groupRegs s.x.vtype s.ew
  finish (moveOp (.vins r a b) [r] false s
    (if j < s.vl then (s.setVgroup r.toNat n (putField (s.vgroup r.toNat n) (s.ew * j) s.ew (s.getS a).toNat)).vbegZero
     else s.vbegZero))

/-- VSEL: every body element is written (R179). -/
def execVsel (k : BitVec 3) (r a b : BitVec 5) (s : State) : Host.Outcome State Fault Refusal :=
  let va := s.src (opdW a s.ew)
  let vb := s.src (opdW b s.ew)
  finish (moveOp (.vsel k r a b) [a, b, r] false s
    (s.vectorApply r s.ew 0 (fun i => if (s.kmask k.toNat).getLsbD i then va.at_ i else vb.at_ i)))

/-! ## Mask instructions (R180) -/

/-- Bits 0 to vl − 1 of kd written, the others tail; vbeg is ignored and left 0. -/
def State.putMask (s : State) (r : BitVec 5) (v : BitVec 2048) : State :=
  s.vbegZero.maskApply r.toNat 0 (fun i => v.getLsbD i)

/-- KAND (R180). -/
def execKand (r a b : BitVec 5) (s : State) : Host.Outcome State Fault Refusal :=
  finish (moveOp (.kand r a b) [] false s (s.putMask r (s.kmask a.toNat &&& s.kmask b.toNat)))

/-- KOR (R180). -/
def execKor (r a b : BitVec 5) (s : State) : Host.Outcome State Fault Refusal :=
  finish (moveOp (.kor r a b) [] false s (s.putMask r (s.kmask a.toNat ||| s.kmask b.toNat)))

/-- KXOR (R180). -/
def execKxor (r a b : BitVec 5) (s : State) : Host.Outcome State Fault Refusal :=
  finish (moveOp (.kxor r a b) [] false s (s.putMask r (s.kmask a.toNat ^^^ s.kmask b.toNat)))

/-- KNOT (R180). -/
def execKnot (r a : BitVec 5) (s : State) : Host.Outcome State Fault Refusal :=
  finish (moveOp (.knot r a) [] false s (s.putMask r (~~~(s.kmask a.toNat))))

/-- KPOP (R180). -/
def execKpop (r a : BitVec 5) (s : State) : Host.Outcome State Fault Refusal :=
  let n := ((List.range s.vl).filter (fun i => (s.kmask a.toNat).getLsbD i)).length
  finish (moveOp (.kpop r a) [] false s (s.vbegZero.setS r (BitVec.ofNat 64 n)))

/-- KFIRST (R180). -/
def execKfirst (r a : BitVec 5) (s : State) : Host.Outcome State Fault Refusal :=
  let v : Word := match (List.range s.vl).find? (fun i => (s.kmask a.toNat).getLsbD i) with
    | some i => BitVec.ofNat 64 i
    | none => BitVec.ofNat 64 (2 ^ 64 - 1)
  finish (moveOp (.kfirst r a) [] false s (s.vbegZero.setS r v))

/-! ## VRAND, VPWL (R181, R182) -/

/-- The destinations of VRAND: N32 and S32 as patterns; FP64, FP32, FP16, BF16, E5M2 and E4M3 rounded. -/
def randFormats (d : FD) : Bool := d.fdst == 6 || d.fdst == 2 || (8 ≤ d.fdst && d.fdst ≤ 0x0D)

/-- VRAND (R181): rngctr advances by vl whatever the mask and vbeg. -/
def execVrand (k : BitVec 3) (r f : BitVec 5) (s : State) : Host.Outcome State Fault Refusal :=
  finish (vectorOp (.vrand k r f) {} f randFormats (fun _ => []) (fun d => [opdOf r d.fdst]) false s (fun d =>
    let t := s.vectorApply r (fmtWidth d.fdst) k (fun i =>
      let ctr := s.x.rngctr + BitVec.ofNat 64 i
      if isInt d.fdst then vrandBits s.x.rngkey ctr else d.round (vrandUniform s.x.rngkey ctr))
    { t with x := { t.x with rngctr := s.x.rngctr + BitVec.ofNat 64 s.vl } }))

/-- VPWL (R182, R153). -/
def execVpwl (k : BitVec 3) (r a t f : BitVec 5) (s : State) : Host.Outcome State Fault Refusal :=
  finish (vectorOp (.vpwl k r a t f) {} f (fun d => isFloat d.fa && isFloat d.fdst) usesA
    (fun d => [opdOf a d.fa, opdOf r d.fdst]) false s (fun d =>
      let va := (s.src (opdOf a d.fa)).value d.fa d.ftz (.ofInt 1)
      let tab := vget s.st.tables 0 t.toNat
      s.vectorApply r (fmtWidth d.fdst) k (fun i =>
        let y := curveEval tab (va i)
        if d.fdst = 9 then y else d.round (readFloat 9 y))))

/-! ## Quantisation (R183 to R185) -/

/-- The scale byte of one value as an E8M0 element (R183). -/
def scaleElem (sat : Bool) (x : XVal) : Nat :=
  if x.isNan then 0xFF
  else if x.isInf then (if sat then 0xFE else 0xFF)
  else if x.isZero then 0x00
  else (max (-127) (min x.ilog2 127) + 127).toNat

/-- The elements and scales that quantising gives (R183): for each block that meets 0 to vl − 1 and has an active element, its
scale and its body elements. -/
def State.quantised (s : State) (k : BitVec 3) (d : FD) (t : XVal) (x : Nat → XVal) : List (Nat × Nat) × List (Nat × Nat) :=
  (List.range ((s.vl + 31) / 32)).foldl (fun acc b =>
    let idx := (List.range 32).map (· + 32 * b)
    match quantBlock d.fdst d.rm d.sat t (idx.map (fun i => if s.active k i then some (x i) else none)) with
    | none => acc
    | some (sc, ps) =>
      let els := (idx.zip ps).filterMap (fun e =>
        if s.vl ≤ e.1 then none
        else match e.2 with
          | some p => some (e.1, p)
          | none => if s.mp then some (e.1, 0) else none)
      (acc.1 ++ els, acc.2 ++ [(b, sc)])) ([], [])

/-- Write a quantised operand: elements, companion bytes and the tail of both (R183). -/
def State.putQuantised (s : State) (k : BitVec 3) (r : BitVec 5) (d : FD) (t : XVal) (x : Nat → XVal) : State :=
  if s.vl = 0 then s.vbegZero
  else
    let w := fmtWidth d.fdst
    let n := groupRegs s.x.vtype w
    let q := s.quantised k d t x
    let comp := (vget s.x.vreg 0 (r.toNat + n)).toNat
    let u := s.putElems r.toNat w q.1 s.vl
    u.setVgroup (r.toNat + n) 1 (zeroTail s.tp (putAll comp 8 q.2) 8 ((s.vl + 31) / 32) 2048)

/-- VQUANT (R183). -/
def execVquant (k : BitVec 3) (r a f : BitVec 5) (s : State) : Host.Outcome State Fault Refusal :=
  finish (vectorOp (.vquant k r a f) {} f (fun d => isFloat d.fa && (isBlock d.fdst || isE8M0 d.fdst)) (fun d => [d.fdst])
    (fun d => [opdOf a d.fa, opdOf r d.fdst]) true s (fun d =>
      let va := (s.src (opdOf a d.fa)).value d.fa d.ftz (.ofInt 1)
      if isE8M0 d.fdst then s.vectorApply r 8 k (fun i => scaleElem d.sat (va i))
      else s.putQuantised k r d (s.tscale f) va))

/-- VDEQ (R184, R148). -/
def execVdeq (k : BitVec 3) (r a f : BitVec 5) (s : State) : Host.Outcome State Fault Refusal :=
  finish (vectorOp (.vdeq k r a f) {} f (fun d => (isBlock d.fa || isE8M0 d.fa) && isFloat d.fdst) usesA
    (fun d => [opdOf a d.fa, opdOf r d.fdst]) false s (fun d =>
      let va := (s.src (opdOf a d.fa)).value d.fa d.ftz (s.tscale f)
      s.vectorApply r (fmtWidth d.fdst) k (fun i => d.round (va i))))

/-- VBADDQ (R185), feature bit 3. -/
def execVbaddq (k : BitVec 3) (r a b f : BitVec 5) (s : State) : Host.Outcome State Fault Refusal :=
  finish (vectorOp (.vbaddq k r a b f) { feat := some 3 } f (fun d => isBlock d.fa && d.fb == d.fa && d.fdst == d.fa)
    usesAB (fun d => [opdOf a d.fa, opdOf b d.fb, opdOf r d.fdst]) true s (fun d =>
      let t := s.tscale f
      let va := (s.src (opdOf a d.fa)).value d.fa d.ftz t
      let vb := (s.src (opdOf b d.fb)).value d.fb d.ftz t
      s.putQuantised k r d t (fun i => XVal.add (d.rm == 2) (va i) (vb i))))

end Sys2Proof.Machine
end

