-- ==== Sys2Proof/Machine/VMem.lean ====
section
/-! DEFINITION. Vector loads and stores, prefetch, and the memory queues VCAPP and VLDSQ (08_vector_memory.md R188 to R209). -/

namespace Sys2Proof.Machine

/-! ## Operands and addresses (R190, R191) -/

/-- Element size in bytes of an ew code. -/
def sizeOf_ (e : BitVec 2) : Nat := 2 ^ e.toNat

/-- Data groups of an access: F groups of width w from v. -/
def dataOpds (vt : Word) (v : BitVec 5) (w F : Nat) : List Opd :=
  (List.range F).map (fun f => { base := v.toNat + f * groupRegs vt w, width := w, block := false })

/-- The groups are legal: the data groups, and an index group that an indexed load may not share with its data (R190). -/
def vmemGroups (vt : Word) (v : BitVec 5) (w F : Nat) (idx : Option (BitVec 5)) (load : Bool) : Bool :=
  let d := dataOpds vt v w F
  let x := match idx with | some b => [opdW b (ewOf vt)] | none => []
  groupsLegal vt (d ++ x) && (!load || x.all (fun o => d.all (fun p => o.disjoint vt p)))

/-- How the addresses of an access are formed (R191). -/
inductive AddrMode where
  | unit
  | stride (b : BitVec 5)
  | index (b : BitVec 5)
  | segment (F : Nat)
  deriving DecidableEq, Repr

def AddrMode.fields : AddrMode → Nat
  | .unit => 1
  | .stride _ => 1
  | .index _ => 1
  | .segment F => F

def AddrMode.idx : AddrMode → Option (BitVec 5)
  | .unit => none
  | .stride _ => none
  | .index b => some b
  | .segment _ => none

/-- element_address(i, f), modulo 2^64. -/
def State.elemAddr (s : State) (m : AddrMode) (a : BitVec 5) (size : Nat) (i f : Nat) : Word :=
  match m with
  | .unit => s.getS a + BitVec.ofNat 64 (i * size)
  | .stride b => s.getS a + BitVec.ofNat 64 i * s.getS b
  | .index b => s.getS a + BitVec.ofNat 64 ((s.src (opdW b s.ew)).at_ i)
  | .segment F => s.getS a + BitVec.ofNat 64 ((i * F + f) * size)

/-- tstride of R197. -/
def State.tstrideOf (s : State) (m : AddrMode) (size : Nat) : Word :=
  match m with
  | .unit => BitVec.ofNat 64 size
  | .stride b => s.getS b
  | .index _ => 0
  | .segment F => BitVec.ofNat 64 (F * size)

/-- The elements of a range that the mask selects, with the address of each field. -/
def State.elemsFrom (s : State) (m : AddrMode) (a : BitVec 5) (size : Nat) (k : BitVec 3) (lo : Nat) :
    List (Nat × List (Word × Nat)) :=
  let mask := s.kmask k.toNat
  ((span lo s.vl).filter (fun i => mask.getLsbD i)).map (fun i =>
    (i, (List.range m.fields).map (fun f => (s.elemAddr m a size i f, size))))

/-! ## Results of loads (R192, R196) -/

/-- Write loaded elements below `upto`, inactive body elements under mp, and with `whole` the tail. -/
def State.putLoaded (s : State) (v : BitVec 5) (w F : Nat) (k : BitVec 3) (vals : List (PipeItem × List Byte)) (upto : Nat)
    (whole : Bool) : State :=
  let n := groupRegs s.x.vtype w
  let mask := s.kmask k.toNat
  let off := if s.mp then ((span s.vbeg upto).filter (fun i => !mask.getLsbD i)).map (fun i => (i, 0)) else []
  (List.range F).foldl (fun s f =>
    let els := (vals.filter (fun r => r.1.f == f)).map (fun r => (r.1.i, leNat r.2))
    let g := putAll (s.vgroup (v.toNat + f * n) n) w (els ++ off)
    s.setVgroup (v.toNat + f * n) n (zeroTail (s.tp && whole && s.vl != 0) g w upto (n * 16384 / w))) s

/-- The bytes a store takes from its data groups. -/
def State.storeData (s : State) (v : BitVec 5) (w F : Nat) : PipeItem → List Byte :=
  let n := groupRegs s.x.vtype w
  let gs := (List.range F).map (fun f => s.vgroup (v.toNat + f * n) n)
  fun p => leBytes (w / 8) (nbits (gs.getD p.f 0) (w * p.i) w)

/-! ## Loads -/

/-- An unordered load: requests through windows first, then the local elements (R193, R202). -/
def State.loadUnordered (s : State) (t : Transfer) (pipe : Pipe) (v : BitVec 5) (e : BitVec 2) (F : Nat) (k : BitVec 3) :
    Run State := do
  let size := sizeOf_ e
  s.settledAll false pipe.items
  let reqs := groupReqs 0 F size (pipe.items.filter PipeItem.fabric)
  let rs ← if reqs.isEmpty then .ok [] else s.exchange pipe { op := 0, ew := e.toNat, data := fun _ => [] } 0 reqs
  let z := (rs.map requestFault).foldl firstStop pipe.fault
  let (u, vals, bad) ← allOrStall s (State.loadItems (belowStop z id (pipe.items.filter (fun p => !p.fabric))) s)
  let z := firstStop z (stopsAt bad)
  let vals := belowStop z (·.1) (vals ++ rs.flatMap answered)
  let u := u.putLoaded v (8 * size) F k vals (match z with | some x => x.1 | none => u.vl) z.isNone
  .ok (u.endTransfer t z)

/-- Runs of consecutive elements that are local, or lie in one window. -/
def runsOf : List PipeItem → List (List PipeItem)
  | [] => []
  | p :: ps =>
    match runsOf ps with
    | (q :: qs) :: rest =>
      if (p.fabric == q.fabric) && (!p.fabric || p.pa / 2 ^ 36 == q.pa / 2 ^ 36) then (p :: q :: qs) :: rest
      else [p] :: (q :: qs) :: rest
    | rest => [p] :: rest

/-- The runs of an ordered access, a fabric run cut into its requests. -/
def orderedRuns (op size : Nat) (ps : List PipeItem) : List (List PipeItem × Option VReq) :=
  (runsOf ps).flatMap (fun r =>
    if r.any PipeItem.fabric then (windowReqs op 1 size r).map (fun q => (q.items, some q)) else [(r, none)])

/-- The answer to the one request an ordered access has out: sent when none is. -/
def State.askOne (s : State) (pipe : Pipe) (v : VSend) (q : VReq) : Run Reply :=
  match s.x.replies with
  | [] => match ({ s with x := { s.x with pipe := some pipe } }).sendVector v q 0 with
    | some s => .error s
    | none => .error s
  | .waiting _ :: _ => .error s
  | r :: _ => .ok r

/-- Progress of an ordered access: elements below `upto` are done. -/
def State.doneTo (s : State) (upto : Nat) : State :=
  { s with x := { s.x with vbeg := BitVec.ofNat 64 upto, replies := [] } }

/-- The first element of the next run, or where the access ends. -/
def nextElem (rest : List (List PipeItem × Option VReq)) (last : Nat) : Nat :=
  match rest with
  | (p :: _, _) :: _ => p.i
  | _ => last

/-- An ordered load: run after run in ascending element index, each done before the next begins (R193, R362). vbeg marks the
progress. -/
def State.loadOrdered (t : Transfer) (pipe : Pipe) (v : BitVec 5) (e : BitVec 2) (k : BitVec 3) :
    List (List PipeItem × Option VReq) → State → Run State
  | [], s =>
    let last := match pipe.fault with | some x => x.1 | none => s.vl
    .ok ((s.putLoaded v (8 * sizeOf_ e) 1 k [] last pipe.fault.isNone).endTransfer t pipe.fault)
  | (ps, req) :: rest, s => do
    let last := match pipe.fault with | some x => x.1 | none => s.vl
    match req with
    | none => do
      let (u, vals, bad) ← allOrStall s (State.loadItems ps s)
      match stopsAt bad with
      | some z => .ok ((u.putLoaded v (8 * sizeOf_ e) 1 k vals z.1 false).endTransfer t (some z))
      | none =>
        let upto := nextElem rest last
        State.loadOrdered t pipe v e k rest ((u.putLoaded v (8 * sizeOf_ e) 1 k vals upto false).doneTo upto)
    | some q => do
      let r ← s.askOne pipe { op := 0, ew := e.toNat, ord := true, data := fun _ => [] } q
      match requestFault (q, r) with
      | some z => .ok ((s.putLoaded v (8 * sizeOf_ e) 1 k [] z.1 false).endTransfer t (some z))
      | none =>
        let upto := nextElem rest last
        State.loadOrdered t pipe v e k rest ((s.putLoaded v (8 * sizeOf_ e) 1 k (answered (q, r)) upto false).doneTo upto)

/-- The items that remain from vbeg on. -/
def State.remaining (s : State) (pipe : Pipe) : List PipeItem := pipe.items.filter (fun p => s.vbeg ≤ p.i)

/-- The issue of a vector load or store: dispatch checks and address pipeline (R195). -/
def issueAccess (i : Instr) (load : Bool) (k : BitVec 3) (v a : BitVec 5) (e : BitVec 2) (m : AddrMode) (s : State) :
    Run (State × Pipe) := do
  gate i {} s
  let size := sizeOf_ e
  vcheck i s (vmemGroups s.x.vtype v (8 * size) m.fields m.idx load) false
  let acc : Acc := if load then .read else .write
  s.pipeline acc (plainCheck acc size) (s.elemsFrom m a size k s.vbeg)

/-- The hint that a field names (R188). -/
def hintOf (h : BitVec 2) : Hint := if h = 1 then .strm else if h = 2 then .keep else .none

/-- The hint of an access acts on the lines of its local items (R209). -/
def State.hintItems (s : State) (h : BitVec 2) (ps : List PipeItem) : State :=
  if hintOf h = .none then s
  else (ps.filter (fun p => !p.fabric)).foldl (fun s p =>
    (linesOf p.pa p.n).foldl (fun s l => s.hintLine s.coreid p.vc l (hintOf h)) s) s

/-- A vector load. -/
def vectorLoad (i : Instr) (k : BitVec 3) (v a : BitVec 5) (e h : BitVec 2) (m : AddrMode) (ordered : Bool) (s : State) :
    Run State := do
  let size := sizeOf_ e
  let t : Transfer := { acc := .read, akind := 1, tstride := s.tstrideOf m size, total := s.vl }
  let (s, pipe) ← issueAccess i true k v a e m s
  let s := s.hintItems h pipe.items
  if ordered then do
    s.settledAll false (s.remaining pipe)
    State.loadOrdered t pipe v e k (orderedRuns 0 size (s.remaining pipe)) s
  else s.loadUnordered t pipe v e m.fields k

/-! ## Stores -/

/-- Items with the bytes stored to them. -/
def withData (d : PipeItem → List Byte) (ps : List PipeItem) : List (PipeItem × List Byte) := ps.map (fun p => (p, d p))

/-- An unordered store. -/
def State.storeUnordered (s : State) (t : Transfer) (pipe : Pipe) (v : BitVec 5) (e : BitVec 2) (F : Nat) : Run State := do
  let size := sizeOf_ e
  let data := s.storeData v (8 * size) F
  s.settledAll true pipe.items
  let reqs := groupReqs 1 F size (pipe.items.filter PipeItem.fabric)
  let rs ← if reqs.isEmpty then .ok [] else s.exchange pipe { op := 1, ew := e.toNat, data := data } 0 reqs
  let z := (rs.map requestFault).foldl firstStop pipe.fault
  let ws := withData data (belowStop z id (pipe.items.filter (fun p => !p.fabric)))
  let (u, bad) ← allOrStall s (s.storeLocals false ws)
  .ok (u.endTransfer t (firstStop z (stopsAt bad)))

/-- An ordered store. -/
def State.storeOrdered (t : Transfer) (pipe : Pipe) (e : BitVec 2) (data : PipeItem → List Byte) :
    List (List PipeItem × Option VReq) → State → Run State
  | [], s => .ok (s.endTransfer t pipe.fault)
  | (ps, req) :: rest, s => do
    let last := match pipe.fault with | some x => x.1 | none => s.vl
    match req with
    | none => do
      let (u, bad) ← allOrStall s (s.storeLocals true (withData data ps))
      match stopsAt bad with
      | some z => .ok (u.endTransfer t (some z))
      | none => State.storeOrdered t pipe e data rest (u.doneTo (nextElem rest last))
    | some q => do
      let s := s.drainVector
      let r ← s.askOne pipe { op := 1, ew := e.toNat, ord := true, data := data } q
      match requestFault (q, r) with
      | some z => .ok (s.endTransfer t (some z))
      | none => State.storeOrdered t pipe e data rest (s.doneTo (nextElem rest last))

/-- A vector store. -/
def vectorStore (i : Instr) (k : BitVec 3) (v a : BitVec 5) (e h : BitVec 2) (m : AddrMode) (ordered : Bool) (s : State) :
    Run State := do
  let size := sizeOf_ e
  let t : Transfer := { acc := .write, akind := 2, tstride := s.tstrideOf m size, total := s.vl }
  let (s, pipe) ← issueAccess i false k v a e m s
  let s := s.hintItems h pipe.items
  if ordered then do
    s.settledAll true (s.remaining pipe)
    State.storeOrdered t pipe e (s.storeData v (8 * size) 1) (orderedRuns 1 size (s.remaining pipe)) s
  else s.storeUnordered t pipe v e m.fields

/-! ## The instructions -/

/-- VLD (unit stride). -/
def execVld (k : BitVec 3) (v a : BitVec 5) (e h : BitVec 2) (s : State) : Host.Outcome State Fault Refusal :=
  finish (vectorLoad (.vld k v a e h) k v a e h .unit false s)

/-- VST (unit stride). -/
def execVst (k : BitVec 3) (v a : BitVec 5) (e h : BitVec 2) (s : State) : Host.Outcome State Fault Refusal :=
  finish (vectorStore (.vst k v a e h) k v a e h .unit false s)

/-- VLDS (strided). -/
def execVlds (k : BitVec 3) (v a b : BitVec 5) (e h : BitVec 2) (s : State) : Host.Outcome State Fault Refusal :=
  finish (vectorLoad (.vlds k v a b e h) k v a e h (.stride b) false s)

/-- VLDS.O (strided, in ascending element index). -/
def execVldsO (k : BitVec 3) (v a b : BitVec 5) (e h : BitVec 2) (s : State) : Host.Outcome State Fault Refusal :=
  finish (vectorLoad (.vldsO k v a b e h) k v a e h (.stride b) true s)

/-- VSTS (strided). -/
def execVsts (k : BitVec 3) (v a b : BitVec 5) (e h : BitVec 2) (s : State) : Host.Outcome State Fault Refusal :=
  finish (vectorStore (.vsts k v a b e h) k v a e h (.stride b) false s)

/-- VSTS.O (strided, in ascending element index). -/
def execVstsO (k : BitVec 3) (v a b : BitVec 5) (e h : BitVec 2) (s : State) : Host.Outcome State Fault Refusal :=
  finish (vectorStore (.vstsO k v a b e h) k v a e h (.stride b) true s)

/-- VLDX (indexed). -/
def execVldx (k : BitVec 3) (v a b : BitVec 5) (e h : BitVec 2) (s : State) : Host.Outcome State Fault Refusal :=
  finish (vectorLoad (.vldx k v a b e h) k v a e h (.index b) false s)

/-- VLDX.O (indexed, in ascending element index). -/
def execVldxO (k : BitVec 3) (v a b : BitVec 5) (e h : BitVec 2) (s : State) : Host.Outcome State Fault Refusal :=
  finish (vectorLoad (.vldxO k v a b e h) k v a e h (.index b) true s)

/-- VSTX (indexed). -/
def execVstx (k : BitVec 3) (v a b : BitVec 5) (e h : BitVec 2) (s : State) : Host.Outcome State Fault Refusal :=
  finish (vectorStore (.vstx k v a b e h) k v a e h (.index b) false s)

/-- VSTX.O (indexed, in ascending element index). -/
def execVstxO (k : BitVec 3) (v a b : BitVec 5) (e h : BitVec 2) (s : State) : Host.Outcome State Fault Refusal :=
  finish (vectorStore (.vstxO k v a b e h) k v a e h (.index b) true s)

/-- VLDSEG (F = nf + 1 fields). -/
def execVldseg (k : BitVec 3) (v a : BitVec 5) (e : BitVec 2) (n : BitVec 3) (h : BitVec 2) (s : State) : Host.Outcome State Fault Refusal :=
  finish (vectorLoad (.vldseg k v a e n h) k v a e h (.segment (n.toNat + 1)) false s)

/-- VSTSEG (F = nf + 1 fields). -/
def execVstseg (k : BitVec 3) (v a : BitVec 5) (e : BitVec 2) (n : BitVec 3) (h : BitVec 2) (s : State) : Host.Outcome State Fault Refusal :=
  finish (vectorStore (.vstseg k v a e n h) k v a e h (.segment (n.toNat + 1)) false s)

/-! ## Prefetch (R204) -/

/-- Bring the line that holds an address into the vcache of its page, with all its sectors: requests to home, answered by FILL_REPLY.
A line that is there, or a page of vcache 0, is left alone. -/
def State.prefetchLine (s : State) (x : Xl) (l : Nat) (hint : Hint) : State :=
  let a : Agent := .vcache x.vc
  if x.vc = 0 || (s.cline? a l).isSome then s
  else
    let t := s.vcAccess x.vc l false hint
    (s.newFills t a l).foldl (fun t k => t.fillRequest a k false) t

/-- VPREF's active elements: an address that fails a check of R196, or lies on a fabric page, is dropped; vbeg is ignored and
left unchanged. Nothing is marked in the page tables. -/
def vectorPrefetch (i : Instr) (k : BitVec 3) (a : BitVec 5) (e h : BitVec 2) (m : AddrMode) (s : State) :
    Host.Outcome State Fault Refusal :=
  finish do
    gate i {} s
    vcheck i s (match m.idx with | some b => groupsLegal s.x.vtype [opdW b s.ew] | none => true) false
    let size := sizeOf_ e
    .ok ((s.elemsFrom m a size k 0).foldl (fun t p => p.2.foldl (fun t q =>
      match (plainCheck .read size s [] p.1 q.1 q.2).2 with
      | .ok x => if x.fabric then t else t.prefetchLine x (x.pa / 64) (hintOf h)
      | .error _ => t) t) s).advance

/-- VPREF, mode 0. -/
def execVpref (k : BitVec 3) (a : BitVec 5) (e h : BitVec 2) (s : State) : Host.Outcome State Fault Refusal :=
  vectorPrefetch (.vpref k a e h) k a e h .unit s

/-- VPREF, mode 1. -/
def execVprefS (k : BitVec 3) (a b : BitVec 5) (e h : BitVec 2) (s : State) : Host.Outcome State Fault Refusal :=
  vectorPrefetch (.vprefS k a b e h) k a e h (.stride b) s

/-- VPREF, mode 2. -/
def execVprefX (k : BitVec 3) (a b : BitVec 5) (e h : BitVec 2) (s : State) : Host.Outcome State Fault Refusal :=
  vectorPrefetch (.vprefX k a b e h) k a e h (.index b) s

/-! ## Memory queues (R205 to R208) -/

/-- A queue record as read. -/
structure QueueRec where
  base : Nat
  cap : Nat
  tail : Nat
  head : Nat
  deriving DecidableEq, Repr

def QueueRec.wait (q : QueueRec) : Nat := (q.tail + 2 ^ 64 - q.head) % 2 ^ 64

/-- Element c of the queue. -/
def QueueRec.addr (q : QueueRec) (c size : Nat) : Word := BitVec.ofNat 64 (q.base + c % q.cap * size)

/-- The record in 64 bytes, none when it breaks R205. -/
def readQueue (e : BitVec 2) (bs : List Byte) : Option QueueRec :=
  let r := leNat bs
  let q : QueueRec :=
    { base := nbits r 0 64, cap := nbits r 64 32, tail := nbits r 128 64, head := nbits r 192 64 }
  if nbits r 98 30 = 0 ∧ nbits r 256 256 = 0 ∧ q.base % 64 = 0 ∧ 64 ≤ q.cap ∧ q.cap ≤ 2 ^ 24 ∧ q.cap = 2 ^ Nat.log2 q.cap ∧
      nbits r 96 2 = e.toNat ∧ q.wait ≤ q.cap then some q else none

/-- Does any of these addresses lie on a fabric page? Then the instruction waits for head first (R202). -/
def State.queueHead (s : State) (as : List Word) : Run Unit :=
  check (!(s.spec && s.anyFabric .both [(0, as.map (fun a => (a, 1)))])) s

/-- The checks of a queue record's address, once (R261). -/
def State.queueXl (s : State) (a : Word) : State × Except (BitVec 8) Xl :=
  match s.keptXl a.toNat with
  | some x => (s, .ok x)
  | none => match plainCheck .both 64 s [] 0 a 64 with
    | (s, .error c) => (s, .error c)
    | (s, .ok x) => (s.keepXl a.toNat x, .ok x)

/-- The record of a queue (R205): its checks, its 64 bytes, its fields; the failures leave everything unchanged. -/
def State.queueRecord (s : State) (t : Transfer) (a : Word) (e : BitVec 2) : Run (State × Xl × QueueRec) := do
  check (decide (a.toNat < 2 ^ 54)) (s.trapV t 0x20 t.akind 0 a)
  check (decide (a.toNat % 64 = 0)) (s.trapV t 0x25 t.akind 0 a)
  s.queueHead [a]
  match s.queueXl a with
  | (s, .error c) => .error (s.trapV t c t.akind 0 a)
  | (s, .ok x) => do
    let (s, bs) ← if x.fabric then
        match s.x.replies with
        | [] =>
          let (s, id) := s.sendReq .read x.ep x.window x.off a x.fabAddr none (windowMsg 0 0 64 [])
          .error { s with x := { s.x with replies := [.waiting id] } }
        | .waiting _ :: _ => .error s
        | .data bs :: _ => .ok (s, bs)
        | .poison :: _ => .error (s.trapV t 0xC0 t.akind 0 a)
        | .failed :: _ => .error (s.trapV t 0xA1 t.akind 0 a)
      else do
        s.settled true x.pa 64
        let (u, bs) ← allOrStall s ((s.settleScatter x.pa 64).loadLocal true x 64)
        check (!s.lostRead x.vc x.pa 64 && !u.poisonedFor x.pa) (u.trapV t 0xC0 t.akind 0 a)
        .ok (u, bs)
    match readQueue e bs with
    | some q => .ok (s, x, q)
    | none => .error (s.trapV t 0x25 t.akind 0 a)

/-- The pipeline of a queue's elements: all or nothing, so that the first failure is the instruction's (R206). -/
def State.queuePipe (s : State) (t : Transfer) (size : Nat) (as : List Word) : Run (State × Pipe) := do
  s.queueHead as
  let kept := match s.x.pipe with | some p => p.items | none => []
  let els := kept.filter (fun q => q.n != 0)
  if !els.isEmpty then .ok (s, { items := els, fault := none })
  else
    let (s, pipe) := checkElems (plainCheck .both size) ((List.range as.length).zip (as.map (fun a => [(a, size)]))) [] s
    match pipe.fault with
    | some (j, va, c) => .error (s.trapV t c t.akind j va)
    | none => .ok ({ s with x := { s.x with pipe := some { pipe with items := kept ++ pipe.items } } }, pipe)

/-- Write 8 bytes of the record, after every element. -/
def State.queuePut (s : State) (x : Xl) (a : Word) (off v : Nat) : Run State :=
  let y : Xl := { x with pa := x.pa + off }
  if x.fabric then .ok (s.post y (a + BitVec.ofNat 64 off) (leBytes 8 v))
  else s.storeLocal true y (leBytes 8 v)

/-- Requests of a queue's elements, after the record's own when it lies behind a window. -/
def State.queueAsk (s : State) (t : Transfer) (x : Xl) (pipe : Pipe) (v : VSend) (size : Nat) : Run (List (VReq × Reply)) := do
  let reqs := groupReqs v.op 1 size (pipe.items.filter PipeItem.fabric)
  let rs ← if reqs.isEmpty then .ok [] else s.exchange (s.x.pipe.getD pipe) v (if x.fabric then 1 else 0) reqs
  match (rs.map requestFault).foldl firstStop none with
  | some (j, va, c) => .error (s.trapV t c t.akind j va)
  | none => .ok rs

/-- VCAPP (R206); with vl 0 it accesses and writes nothing (R192). -/
def execVcapp (k : BitVec 3) (v a b : BitVec 5) (e : BitVec 2) (s : State) : Host.Outcome State Fault Refusal :=
  finish do
    let i : Instr := .vcapp k v a b e
    gate i {} s
    let size := sizeOf_ e
    vcheck i s (groupsLegal s.x.vtype [opdW v (8 * size)]) true
    check (s.vl != 0) s.advance
    let t : Transfer := { acc := .both, akind := 2, tstride := BitVec.ofNat 64 size, total := s.vl }
    let (s, x, q) ← s.queueRecord t (s.getS a) e
    let mask := s.kmask k.toNat
    let el := (s.src (opdW v (8 * size))).at_
    let src := ((List.range s.vl).filter (fun i => mask.getLsbD i)).map el
    let m := src.length
    if m > q.cap - q.wait then .ok (s.result b (BitVec.ofNat 64 (2 ^ 64 - 1)))
    else do
      let (s, pipe) ← s.queuePipe t size ((List.range m).map (fun j => q.addr (q.tail + j) size))
      s.settledAll true pipe.items
      let data : PipeItem → List Byte := fun p => leBytes size (src.getD p.i 0)
      let _ ← s.queueAsk t x pipe { op := 1, ew := e.toNat, data := data } size
      let (u, bad) ← allOrStall s (do
        let (u, bad) ← s.storeLocals true (withData data (pipe.items.filter (fun p => !p.fabric)))
        let u ← u.queuePut x (s.getS a) 16 ((q.tail + m) % 2 ^ 64)
        .ok (u, bad))
      match bad with
      | some p => .error (s.trapV t 0xC0 t.akind p.i p.va)
      | none => .ok (u.result b (BitVec.ofNat 64 (q.wait + m)))

/-- VLDSQ (R207); with vl 0 it accesses nothing and writes only s[b] (R192). (DEDUCED, log entry 25.) -/
def execVldsq (v a b : BitVec 5) (e : BitVec 2) (s : State) : Host.Outcome State Fault Refusal :=
  finish do
    let i : Instr := .vldsq v a b e
    gate i {} s
    let size := sizeOf_ e
    vcheck i s (groupsLegal s.x.vtype [opdW v (8 * size)]) true
    check (s.vl != 0) (s.result b 0)
    let t : Transfer := { acc := .both, akind := 1, tstride := BitVec.ofNat 64 size, total := s.vl }
    let (s, x, q) ← s.queueRecord t (s.getS a) e
    let m := min s.vl q.wait
    let (s, pipe) ← s.queuePipe t size ((List.range m).map (fun j => q.addr (q.head + j) size))
    s.settledAll false pipe.items
    let rs ← s.queueAsk t x pipe { op := 0, ew := e.toNat, data := fun _ => [] } size
    let (u, vals, bad) ← allOrStall s (State.loadItems (pipe.items.filter (fun p => !p.fabric)) s)
    match bad with
    | some p => .error (s.trapV t 0xC0 t.akind p.i p.va)
    | none => do
      let els := (vals ++ rs.flatMap answered).map (fun r => (r.1.i, leNat r.2))
      let u ← allOrStall s (u.queuePut x (s.getS a) 24 ((q.head + m) % 2 ^ 64))
      .ok ((u.putElems v.toNat (8 * size) els m).result b (BitVec.ofNat 64 m))


end Sys2Proof.Machine
end

