-- ==== Sys2Proof/Machine/VAtomics.lean ====
section
/-! DEFINITION. VAMO and VAMOC: vector atomics at the bank arithmetic units and at the scatter-add units (13 R296 to R299, 05
R120, 11 R270). -/

namespace Sys2Proof.Machine

/-- The dispatch checks of R296, in their order. -/
def vamoCheck (i : Instr) (s : State) (d b o : BitVec 5) (apart : Bool) : Run Unit :=
  let vt := s.x.vtype
  if vill vt then .error (s.trapS 0x62 vt)
  else if s.ew < 32 || (o = 10 && s.ew == 64) then .error (s.trapS 0x61 vt)
  else if !groupsLegal vt [opdW d s.ew, opdW b s.ew] then .error (s.trapS 0x60 (wordOf i))
  else if apart && !(opdW d s.ew).disjoint vt (opdW b s.ew) then .error (s.trapS 0x60 (wordOf i))
  else .ok ()

/-- The region an element falls in, when the element is a merge operation there. -/
def State.mergesAt (s : State) (va : Word) (n op : Nat) : Option (Nat × Region) :=
  match s.regionAt va.toNat n with
  | some (k, r) => if r.atomic == op && r.size == n then some (k, r) else none
  | none => none

/-- element_check of a vector atomic: a region whose operation or width differs fails with 0x43, and so does one on a fabric
page; VAMO's repeat check is the last (R297, R299). -/
def vamoPiece (op : Nat) (distinct : Bool) : PieceCheck := fun s done _ va n =>
  match s.pieceXl .both n va with
  | (s, .error c) => (s, .error c)
  | (s, .ok x) =>
    if (s.regionAt va.toNat n).isSome && ((s.mergesAt va n op).isNone || x.fabric) then (s, .error 0x43)
    else if distinct && done.any (fun p => p.va == va) then (s, .error 0x82)
    else (s, .ok x)

/-- An irrevocable vector atomic waits for head: one whose active elements are not all merge operations (R299). -/
def State.vamoHead (s : State) (op : Nat) (es : List (Nat × List (Word × Nat))) : Run Unit :=
  check (!s.spec || es.all (fun e => e.2.all (fun p => (s.mergesAt p.1 p.2 op).isSome))) s

/-- Scalar stores to an item that are performed with respect to the core come before the strand's vector accesses to it (R321). -/
def State.joinedDone (s : State) (p : PipeItem) : State := s.drainTo false (fun e => e.joined && e.overlaps p.pa p.n)

/-- One local element of VAMO: a merge operation, or an operation at the bank; it answers the old value, none for poison. -/
def State.vamoElem (s : State) (op : Nat) (p : PipeItem) (v : Nat) : Run (State × Option Nat) :=
  match s.mergesAt p.va p.n op with
  | some (k, r) => do
    let (s, old) ← s.mergeAt k r p.va p.vc p.pa p.n op v
    .ok (s, some old)
  | none =>
    let s := (s.joinedDone p).touch s.ring? p.pa
    let lost := s.lostStep p.vc p.pa p.n
    if lost || s.poisoned p.pa then .ok (if lost then s.bankPackets p.vc p.pa p.n else s, none)
    else
      let (s, old) := (s.farLine p.xl p.n).atomicLocal p.xl p.n op v 0
      .ok (s, some old)

/-- The local elements in ascending index, up to the first that consumes poison. -/
def State.vamoItems (op : Nat) (operand : Nat → Nat) :
    List PipeItem → State → Run (State × List (PipeItem × List Byte) × Option PipeItem)
  | [], s => .ok (s, [], none)
  | p :: ps, s => do
    let (s, old) ← s.vamoElem op p (operand p.i)
    match old with
    | none => .ok (s, [], some p)
    | some w => do
      let (s, r, z) ← State.vamoItems op operand ps s
      .ok (s, (p, leBytes p.n w) :: r, z)

/-- The issue of VAMO or VAMOC: dispatch checks, head, address pipeline (R195, R296, R299). -/
def issueAtomic (i : Instr) (distinct : Bool) (k : BitVec 3) (d a b o : BitVec 5) (s : State) : Run (State × Pipe) := do
  gate i {} s
  vamoCheck i s d b o distinct
  let n := s.ew / 8
  let es := s.elemsFrom (.index b) a n k s.vbeg
  s.vamoHead o.toNat es
  s.pipeline .both (vamoPiece o.toNat distinct) es

/-- Every earlier store and addition of the vector class is performed (R243). -/
def State.vectorDone (s : State) : State := if s.spec then s else s.drainVector.flushScatter s.st.id

/-- VAMO (R297). -/
def execVamo (k : BitVec 3) (d a b o : BitVec 5) (s : State) : Host.Outcome State Fault Refusal :=
  finish do
    let n := s.ew / 8
    let op := o.toNat
    let t : Transfer := { acc := .both, akind := 2, tstride := 0, total := s.vl }
    let (s, pipe) ← issueAtomic (.vamo k d a b o) true k d a b o s
    s.settledAll true pipe.items
    let operand := (s.src (opdW d s.ew)).at_
    let reqs := groupReqs 2 1 n (pipe.items.filter PipeItem.fabric)
    let send : VSend := { op := 2, ew := bits s.x.vtype 0 2, aop := op, data := fun p => leBytes n (operand p.i) }
    let rs ← if reqs.isEmpty then .ok [] else s.exchange pipe send 0 reqs
    let z := (rs.map requestFault).foldl firstStop pipe.fault
    let (u, vals, bad) ← allOrStall s
      (State.vamoItems op operand (belowStop z id (pipe.items.filter (fun p => !p.fabric))) s.vectorDone)
    let z := firstStop z (stopsAt bad)
    let vals := belowStop z (·.1) (vals ++ rs.flatMap answered)
    let u := u.putLoaded d s.ew 1 k vals (match z with | some x => x.1 | none => s.vl) z.isNone
    .ok (u.endTransfer t z)

/-- The memory port of an address, one for each stack, and one for other memory. (DEDUCED, log entry 65.) -/
def scatterPort (pa : Nat) : Nat := if isHbm pa then pa / 4096 % 12 else 12

/-- Pending addresses of a port, oldest first. -/
def State.portAddrs (s : State) (port : Nat) : List Nat :=
  ((s.scatter.filter (fun c => scatterPort c.pa == port)).map (·.pa)).eraseDups

/-- An addition arrives at a scatter-add unit: chained to its address if that pends; a unit with 256 addresses applies its oldest
first (R270). (DEDUCED, log entry 15.) -/
def State.scatterAdd (s : State) (c : Scatter) : State :=
  let ps := s.portAddrs (scatterPort c.pa)
  let s := if !ps.contains c.pa && ps.length ≥ 256 then s.applyScatter (ps.headD 0) else s
  { s with scatter := s.scatter ++ [c] }

/-- The local elements of VAMOC in ascending index: merge operations, or additions sent to their port. -/
def State.vamocItems (op : Nat) (operand : Nat → Nat) : List PipeItem → State → Run State
  | [], s => .ok s
  | p :: ps, s =>
    match s.mergesAt p.va p.n op with
    | some (k, r) => do
      let (s, _) ← s.mergeAt k r p.va p.vc p.pa p.n op (operand p.i)
      State.vamocItems op operand ps s
    | none =>
      let s := (s.joinedDone p).touch s.ring? p.pa
      let c : Scatter := { pa := p.pa, vc := p.vc, wide := p.n == 8, op := op, value := BitVec.ofNat 64 (operand p.i), owner := s.st.id }
      let net := s.net.send s.die (homeDie p.pa) (Mail.ask [p.pa / 64] s.die)
      State.vamocItems op operand ps ({ s with net := net }.scatterAdd c)

/-- While a fork runs, the additions of the head are performed at once, and announced like any store (R111, R298). -/
def State.announceAdds (s : State) (ps : List PipeItem) : State :=
  if s.st.fork.isNone || s.spec then s
  else (ps.flatMap (fun p => pieces p.pa p.n)).foldl (fun s p => s.announce p.1) (s.flushScatter s.st.id)

/-- VAMOC (R298): after the strand's earlier stores and additions (R243). -/
def execVamoc (k : BitVec 3) (d a b o : BitVec 5) (s : State) : Host.Outcome State Fault Refusal :=
  finish do
    let n := s.ew / 8
    let op := o.toNat
    let t : Transfer := { acc := .both, akind := 2, tstride := 0, total := s.vl }
    let (s, pipe) ← issueAtomic (.vamoc k d a b o) false k d a b o s
    s.settledAll true pipe.items
    let operand := (s.src (opdW d s.ew)).at_
    let reqs := groupReqs 3 1 n (pipe.items.filter PipeItem.fabric)
    let send : VSend := { op := 3, ew := bits s.x.vtype 0 2, aop := op, data := fun p => leBytes n (operand p.i) }
    let rs ← if reqs.isEmpty then .ok [] else s.exchange pipe send 0 reqs
    let z := (rs.map requestFault).foldl firstStop pipe.fault
    let local_ := belowStop z id (pipe.items.filter (fun p => !p.fabric))
    let u ← allOrStall s (State.vamocItems op operand local_ s.vectorDone)
    let u := u.announceAdds local_
    .ok (u.endTransfer t z)

end Sys2Proof.Machine
end

