-- ==== Sys2Proof/Machine/Fabric.lean ====
section
/-! DEFINITION. The package fabric: the target check, fatal context errors, requests that arrive through windows and the vector
request port, answers, failures, and ports (16 R351 to R363). -/

namespace Sys2Proof.Machine

/-! ## Arrivals -/

/-- Something arrives from the pod on a port: its flits are a free number (R435). -/
def State.fabInOn (s : State) (p : Nat) : State :=
  let (s, n) := s.free 3 12
  { s with fab := { s.fab with rcvd := vset s.fab.rcvd p (vget s.fab.rcvd 0 p + n.setWidth 48) } }

/-- Something arrives on a port that the event does not name: a free value. -/
def State.fabIn (s : State) : State :=
  let (s, p) := s.free 2 5
  s.fabInOn p.toNat

/-- The package takes part in the fabric (R355). -/
def State.fabricOn (s : State) : Bool := bit s.fab.fxep 16

/-- The endpoint is admitted (R354). -/
def State.admitted (s : State) (ep : BitVec 10) : Bool := (vget s.fab.fxacl 0 (ep.toNat / 64)).getLsbD (ep.toNat % 64)

/-- An answer to a request: a status byte (0 done, 1 poison, 2 dropped, 0xA0 fatal context error) and data (DESIGN CHOICE, log entry 31). -/
def State.answerFab (s : State) (ep : BitVec 10) (addr : Word) (code : Nat) (data : List Byte) : State :=
  s.fabOut ep.toNat addr (BitVec.ofNat 8 code :: data)

/-! ## The target check (R356) -/

/-- The check of one byte of a request: the failure's reason, or its translation. (DEDUCED, log entry 66.) -/
def State.targetByte (s : State) (k : Acc) (src : BitVec 10) (w off : Nat) : Except Nat Xl :=
  let a := vget s.fab.wina 0 w
  let c := vget s.fab.winc 0 w
  let npages := bits c 0 21
  let vf := bits c 53 5
  let va := bits a 16 38 * 2 ^ 16 + off
  if !s.fabricOn || !s.admitted src then .error 1
  else if !bit c 63 || npages == 0 then .error 2
  else if (k != .read && !bit c 62) || (k == .both && !bit c 61) then .error 3
  else if off / 65536 ≥ npages ∨ va ≥ 2 ^ 54 then .error 4
  else match s.walk (fun a => some (s.mem64 a)) (vget s.fab.winb 0 w) vf va with
    | .error c => .error (if c = 0x22 then 5 else 7)
    | .ok l =>
      let x := leafXl l.entry l.large va
      if !checkPte l.entry k true then .error 6
      else match s.checkVcache vf x.vc with
        | .error _ => .error 6
        | .ok _ =>
          if x.kind ≠ 0 ∨ !isHbm x.pa then .error 7
          else if !pteP l.entry then .error 8
          else .ok x

/-- target_check of an access of n bytes: its first and last byte. (DEDUCED, log entry 74.) -/
def State.windowCheck (s : State) (k : Acc) (src : BitVec 10) (w off n : Nat) : Except Nat Xl := do
  let x ← s.targetByte k src w off
  let _ ← if n > 1 then s.targetByte k src w (off + n - 1) else .ok x
  .ok x

/-- The pieces of an access within pages, with their addresses. -/
def State.targetPieces (s : State) (k : Acc) (src : BitVec 10) (w off n : Nat) : Except Nat (List (Xl × Nat)) :=
  (pagePieces off n).mapM (fun p => do
    let x ← s.targetByte k src w p.1
    .ok (x, p.2))

/-- A fatal context error in the event log: one record with the reason, the endpoint and the window, one with the offset (DESIGN CHOICE,
log entry 75). -/
def State.logFatal (s : State) (die reason ep w off : Nat) : State :=
  (s.logWith die 0xA0 (reason % 256 + 2 ^ 8 * (ep % 1024) + 2 ^ 18 * w)).logWith die 0xA0 off

/-- A fatal context error at the target (R357): nothing is performed; event log and the supervisor of the window's function.
(DEDUCED, log entry 75.) -/
def State.fatalHere (s : State) (reason : Nat) (src : BitVec 10) (w off : Nat) : State :=
  let r : TrapRec := { cause := 0xA0, pc := 0, tval := BitVec.ofNat 64 off }
  (s.logFatal 0 reason src.toNat w off).sendEvent (bits (vget s.fab.winc 0 w) 53 5) (eventRecord 6 0 0 r src.toNat w)

/-! ## Accesses from the hub (R359) -/

/-- Lines that a set of writes covers whole (R387). -/
def wholeLines (ws : List (Nat × List Byte)) : List Nat :=
  ((ws.flatMap (fun w => linesOf w.1 w.2.length)).eraseDups).filter (fun l =>
    (List.range 64).all (fun b => ws.any (fun w => decide (w.1 ≤ l * 64 + b) && decide (l * 64 + b < w.1 + w.2.length))))

/-- Writes from the hub, in order: a line they cover whole leaves P. (DEDUCED, log entry 76.) -/
def State.hubWrites (s : State) (vc : Nat) (ws : List (Nat × List Byte)) : State :=
  let s := (wholeLines ws).foldl State.clearPoison s
  ws.foldl (fun s w => ((s.touch none w.1).agentLines 0 vc w.1 w.2.length true).perform false w.1 w.2) s

/-! ## FABRIC_WINDOW_REQUEST (R353, R356, R358) -/

def reqAcc : ReqKind → Acc
  | .read => .read
  | .write => .write
  | .atomic _ => .both

/-- The old value and the state after an atomic at the target's bank. -/
def State.targetAtomic (s : State) (x : Xl) (n op v cmp : Nat) : State × Nat :=
  let old := leNat (s.memBytes x.pa n)
  let s := ((s.touch none x.pa).agentLines 0 x.vc x.pa n true).countBank 3 x.vc none
  match atomicNew op (8 * n) old v cmp with
  | some new => (s.perform false x.pa (leBytes n new), old)
  | none => (s, old)

/-- Perform a checked request; a line in doubt holds it (R369). -/
def State.windowAccess (s : State) (src : BitVec 10) (addr : Word) (kind : ReqKind) (n : Nat) (data : List Byte)
    (ps : List (Xl × Nat)) : State :=
  match kind with
  | .read =>
    let s := ps.foldl (fun s p => (s.touch none p.1.pa).agentLines 0 p.1.vc p.1.pa p.2 false) s
    let bad := ps.any (fun p => (linesOf p.1.pa p.2).any (fun l => s.poisoned (l * 64)))
    let bs := ps.flatMap (fun p => s.memBytes p.1.pa p.2)
    s.answerFab src addr (if bad then 1 else 0) (if bad then [] else bs)
  | .write =>
    let cut := ps.foldl (fun (acc : List (Nat × Nat × List Byte) × List Byte) p =>
      (acc.1 ++ [(p.1.vc, p.1.pa, acc.2.take p.2)], acc.2.drop p.2)) ([], data)
    (cut.1.foldl (fun s w => s.hubWrites w.1 [w.2]) s).answerFab src addr 0 []
  | .atomic op =>
    match ps with
    | [] => s
    | p :: _ =>
      if s.poisoned p.1.pa then s.answerFab src addr 1 []
      else
        let (s, old) := s.targetAtomic p.1 n op.toNat (leNat (data.take 8) % 2 ^ (8 * n)) (leNat ((data.drop 8).take 8))
        s.answerFab src addr 0 (leBytes n old)

/-- A write that arrived on a port counts for the block queue of that port (R327). -/
def State.countWrite (s : State) (port : BitVec 5) (kind : ReqKind) (w off n : Nat) : State :=
  match kind with
  | .read => s
  | .write => s.countBlock port.toNat w off n
  | .atomic _ => s

/-- The request is one that the space 0 port takes (R350, R353): 1 to 256 bytes, its data of that size, an atomic of R293 aligned. -/
def windowRequestOk (addr : Word) (kind : ReqKind) (n : Nat) (data : List Byte) : Bool :=
  bits addr 42 22 == 0 && decide (1 ≤ n) && decide (n ≤ 256) &&
    (match kind with
     | .read => true
     | .write => data.length == n
     | .atomic op => decide (op.toNat ≤ 10) && (n == (if op.toNat = 10 then 4 else 8) || n == 4) && addr.toNat % n == 0 &&
         decide (n ≤ data.length))

/-- FABRIC_WINDOW_REQUEST (R356): dropped with a record when malformed (R353), else checked and performed; a line in doubt, or one that
the host may hold, holds it. -/
def execFabricWindowRequest (src : FabSource) (addr : Word) (kind : ReqKind) (n : Nat) (data : List Byte) (s : State) :
    Host.Outcome State Fault Refusal :=
  let t := s.fabInOn src.port.toNat
  if !windowRequestOk addr kind n data then .next ((t.log 0 0).answerFab src.ep addr 2 [])
  else
    let w := bits addr 36 6
    let off := bits addr 0 36
    match s.windowCheck (reqAcc kind) src.ep w off n, s.targetPieces (reqAcc kind) src.ep w off n with
    | .ok _, .ok ps =>
      if ps.any (fun p => s.blocked (kind != .read) p.1.pa p.2) then .next s
      else .next ((t.windowAccess src.ep addr kind n data ps).countWrite src.port kind w off n)
    | .error c, _ => .next ((t.fatalHere c src.ep w off).answerFab src.ep addr 0xA0 [])
    | .ok _, .error c => .next ((t.fatalHere c src.ep w off).answerFab src.ep addr 0xA0 [])

/-! ## VECTOR_REQUEST at the target (R361 to R363) -/

/-- A vector request record. -/
structure VReqRec where
  op : Nat
  ew : Nat
  ord : Bool
  lst : Bool
  aop : Nat
  nfld : Nat
  count : Nat
  window : Nat
  seq : Nat
  group : Nat
  base : Nat
  stride : Int
  deriving DecidableEq, Repr

def readVReq (r : Nat) : VReqRec where
  op := nbits r 0 4
  ew := nbits r 4 2
  ord := nbits r 6 1 == 1
  lst := nbits r 7 1 == 1
  aop := nbits r 8 4
  nfld := nbits r 12 4
  count := nbits r 16 12
  window := nbits r 64 6
  seq := nbits r 96 32
  group := nbits r 128 16
  base := nbits r 192 36
  stride := (BitVec.ofNat 64 (nbits r 256 64)).toInt

def VReqRec.size (q : VReqRec) : Nat := 2 ^ q.ew

/-- The record keeps the layout of R361. -/
def vreqOk (r : Nat) : Bool :=
  let q := readVReq r
  decide (q.op ≤ 4) && decide (1 ≤ q.nfld) && decide (q.nfld ≤ 8) && decide (1 ≤ q.count) && decide (q.count ≤ 2048) &&
    ((q.op == 2 || q.op == 3) || q.aop == 0) && decide (q.aop ≤ 10) && (q.op ≤ 1 || q.nfld == 1) &&
    nbits r 28 4 == 0 && nbits r 38 10 == 0 && nbits r 58 6 == 0 && nbits r 70 26 == 0 && nbits r 144 48 == 0 &&
    nbits r 228 28 == 0 && r / 2 ^ 320 == 0

/-- The accesses of a record: element, field, window offset. -/
def VReqRec.accesses (q : VReqRec) (slot : List Byte) : List (Nat × Nat × Nat) :=
  (List.range q.count).flatMap (fun i =>
    let o : Nat := if q.lst then leNat ((slot.drop (8 * i)).take 8)
      else (((q.base : Int) + (i : Int) * q.stride) % (2 ^ 64 : Int)).toNat
    (List.range q.nfld).map (fun f => (i, f, o + f * q.size)))

/-- The bytes of field f of element i in the slot, after the offsets. -/
def VReqRec.data (q : VReqRec) (slot : List Byte) (i f : Nat) : List Byte :=
  (slot.drop ((if q.lst then 8 * q.count else 0) + (i * q.nfld + f) * q.size)).take q.size

def VReqRec.acc (q : VReqRec) : Acc := match q.op with | 0 => .read | 1 => .write | 4 => .write | _ => .both

/-- Every access passes the check: its items; or the reason and window offset of the first that does not. -/
def State.vreqItems (s : State) (src : BitVec 10) (q : VReqRec) (slot : List Byte) : Except (Nat × Nat) (List PipeItem) :=
  (q.accesses slot).mapM (fun (a : Nat × Nat × Nat) => match s.windowCheck q.acc src q.window a.2.2 q.size with
    | .ok x => Except.ok { i := a.1, f := a.2.1, va := BitVec.ofNat 64 a.2.2, n := q.size, pa := x.pa, vc := x.vc, kind := 0 }
    | .error c => Except.error (c, a.2.2))

/-- Atomic elements in ascending index: old values, none once one meets poison. -/
def State.vreqAtomics (q : VReqRec) (slot : List Byte) : List PipeItem → State → State × Option (List Byte)
  | [], s => (s, some [])
  | p :: ps, s =>
    if s.poisoned p.pa then (s, none)
    else
      let (s, old) := s.targetAtomic p.xl p.n q.aop (leNat (q.data slot p.i 0)) 0
      match State.vreqAtomics q slot ps s with
      | (s, none) => (s, none)
      | (s, some bs) => (s, some (leBytes p.n old ++ bs))

/-- Perform a checked vector request other than a group store: the state, and what goes back to the slot; none for poison. -/
def State.vreqPerform (s : State) (q : VReqRec) (slot : List Byte) (ps : List PipeItem) : State × Option (List Byte) :=
  match q.op with
  | 0 =>
    let s := ps.foldl (fun s p => (s.touch none p.pa).agentLines 0 p.vc p.pa p.n false) s
    if ps.any (fun p => s.poisoned p.pa) then (s, none) else (s, some (ps.flatMap (fun p => s.memBytes p.pa p.n)))
  | 1 =>
    let ws := ps.map (fun p => (p, q.data slot p.i p.f))
    let ws := if q.ord then ws else s.storeOrder ws
    let s := (wholeLines (ws.map (fun w => (w.1.pa, w.2)))).foldl State.clearPoison { s with undef := s.undef + 1 }
    (ws.foldl (fun s w => s.hubWrites w.1.vc [(w.1.pa, w.2)]) s, some [])
  | _ =>
    match State.vreqAtomics q slot ps s with
    | (s, none) => (s, none)
    | (s, some bs) => (s, some (if q.op = 2 then bs else []))

/-! ## Answers at the requester (R357 to R363) -/

def Ctx.deliver (x : Ctx) (id : Nat) (r : Reply) : Ctx :=
  { x with replies := x.replies.map (fun q => if q = .waiting id then r else q) }

/-- Give the reply to the context, the instruction held in a queue or the engine command that waits for the request. (DESIGN
CHOICE, log entry 80.) -/
def State.deliverReply (s : State) (id : Nat) (r : Reply) : State :=
  let inFork (st : Strand) : Strand :=
    let inItem (it : QItem) : QItem := { it with x := it.x.deliver id r }
    { st with
      fork := st.fork.map (fun f => { f with chunks := f.chunks.map (fun c => c.deliver id r) })
      vqueue := st.vqueue.map inItem, mqueue := st.mqueue.map inItem }
  let inCmd (c : EngCmd) : EngCmd := { c with reads := c.reads.map (fun q => if q = .waiting id then r else q) }
  { s with x := s.x.deliver id r, st := inFork s.st
           parked := s.parked.map (fun p => { x := p.x.deliver id r, st := inFork p.st })
           eng := s.eng.map (fun g => { g with cmds := g.cmds.map inCmd }) }

/-- The request is out no longer; a launch that waited for it alone completes (R77). -/
def State.dropReq (s : State) (id : Nat) : State :=
  ({ s with fab := { s.fab with reqs := s.fab.reqs.filter (fun q => q.id != id) } }).settleLaunches

/-- Access kind of a request's record (R392). -/
def FabKind.akind : FabKind → BitVec 2
  | .read => 1
  | .write => 2
  | .atomic => 2
  | .vector => 1
  | .message => 1
  | .engine => 2
  | .engineRead => 1
  | .group => 2

/-- The die that a request came from: its engine's, or its strand's. -/
def State.requester (s : State) (q : FabReq) : Nat :=
  match q.kind == .engine || q.kind == .engineRead, q.slot with
  | true, some e => engDie e
  | _, _ => s.dieOfStrand q.owner

/-- The answer crosses from the hub to the die of its request (R329). -/
def State.replyTo (s : State) (q : FabReq) : State := { s with net := s.net.send 0 (s.requester q) { cls := .reply } }

/-- The pc of the context that waits for a request, else of the strand's context. -/
def State.waiterPc (s : State) (id : Nat) (owner : StrandId) : BitVec 54 :=
  let all : List Ctx := (s.x :: (match s.st.fork with | some f => f.chunks | none => [])) ++ s.parked.flatMap (fun p =>
    p.x :: (match p.st.fork with | some f => f.chunks | none => []))
  match all.find? (fun c => c.replies.contains (.waiting id)) with
  | some c => c.pc
  | none => if isStrandOf owner s.st then s.x.pc
    else ((s.parked.find? (fun p => isStrandOf owner p.st)).map (fun p => p.x.pc)).getD 0

/-- A fatal context error came back (R357): the strand ends before its next instruction, an engine freezes; event log. -/
def State.fatalBack (s : State) (q : FabReq) (reason : BitVec 8) : State :=
  let s := s.logFatal (s.requester q) reason.toNat q.ep.toNat q.window.toNat q.off
  match q.kind == .engine || q.kind == .engineRead, q.slot with
  | true, some e =>
    match (s.engine e).cmds with
    | c :: _ => s.freezeEngine e c 0xA0 (q.kind == .engine) q.va
    | [] => s.setEngine e { s.engine e with frozen := true }
  | _, _ =>
    let r : TrapRec := { cause := 0xA0, akind := q.kind.akind, pc := s.waiterPc q.id q.owner, tval := q.va }
    s.mapStrand q.owner (fun st =>
      if st.fatal.isSome then st else { st with fatal := some r, fatalEp := q.ep, fatalWin := q.window })

/-- Group stores of a request are acknowledged, or lost (R368, R370). -/
def State.ackStores (s : State) (q : FabReq) (ok : Bool) : State :=
  match q.group with
  | none => s
  | some (g, _, n) =>
    match s.clo.mine.find? (fun r => s.groupNo r.loc == g && r.held) with
    | none => s
    | some r =>
      let ack (d : Dest) : Dest := if d.ep = q.ep ∧ ok then { d with acked := d.acked + n } else d
      s.setGroup1 { r with dests := r.dests.map ack, lostStore := r.lostStore || !ok }

/-- A request has failed (R360): no response, an unreachable endpoint, or a drop. -/
def State.failReq (s : State) (q : FabReq) : State :=
  let s := s.dropReq q.id
  match q.group with
  | some _ => s.ackStores q false
  | none =>
    match q.kind with
    | .write => s.mapStrand q.owner (fun st => { st with failedStores := st.failedStores ++ [q.va] })
    | .engine => s
    | _ => s.deliverReply q.id .failed

/-- A request is answered. -/
def State.answerReq (s : State) (q : FabReq) (r : FabResult) : State :=
  let s := s.replyTo q
  match r with
  | .ok bs => ((s.dropReq q.id).ackStores q true).deliverReply q.id (.data bs)
  | .poison => ((s.dropReq q.id).ackStores q true).deliverReply q.id .poison
  | .fatal reason => ((s.dropReq q.id).ackStores q false).fatalBack q reason
  | .dropped => s.failReq q

/-- FABRIC_RESPONSE (R359): a response or acknowledgement reaches its requester. -/
def execFabricResponse (id : Nat) (result : FabResult) (s : State) : Host.Outcome State Fault Refusal :=
  match s.fab.reqs.find? (fun q => q.id == id) with
  | none => .next s
  | some q => .next (s.fabIn.answerReq q result)

/-- VECTOR_REQUEST_COMPLETION (R362): the completion word of a reply slot; the results move and the slot is free. -/
def execVectorRequestCompletion (slot : BitVec 6) (result : FabResult) (s : State) : Host.Outcome State Fault Refusal :=
  match s.fab.reqs.find? (fun q => q.kind == .vector && q.slot == some slot.toNat) with
  | none => .next s
  | some q => .next (s.fabIn.answerReq q result)

/-- FABRIC_REQUEST_TIMEOUT (R360): no response within fxtmo, or the endpoint is one reported unreachable. -/
def execFabricRequestTimeout (id : Nat) (s : State) : Host.Outcome State Fault Refusal :=
  match s.fab.reqs.find? (fun q => q.id == id) with
  | none => .next s
  | some q => if q.sentAt + bits s.fab.fxtmo 0 32 ≤ s.time ∨ s.fab.unreachable.contains q.ep then .next (s.failReq q) else .next s

/-! ## Ports (R351) -/

/-- PORT_LANE_LOSS (R351): a port runs on at two lanes or one, or is down; the event log records it. -/
def execPortLaneLoss (port : BitVec 5) (lanes : BitVec 3) (s : State) : Host.Outcome State Fault Refusal :=
  if (lanes = 0 ∨ lanes = 1 ∨ lanes = 2) ∧ lanes.toNat < (vget s.fab.lanes 0 port.toNat).toNat then
    .next ({ s with fab := { s.fab with lanes := vset s.fab.lanes port.toNat lanes } }.log 0 0)
  else .next s

/-- UALINK_PORT_TRAINED (R351, R446): once feature 4 is accepted, a port that was down trains at four lanes and joins those that are
up. -/
def execUalinkPortTrained (port : BitVec 5) (s : State) : Host.Outcome State Fault Refusal :=
  if s.feature 4 && vget s.fab.lanes 0 port.toNat == 0 then .next { s with fab := { s.fab with lanes := vset s.fab.lanes port.toNat 4 } }
  else .next s

end Sys2Proof.Machine
end

