-- ==== Sys2Proof/Machine/Closure.lean ====
section
/-! DEFINITION. Closure at the initiator and by hand: GOPEN, GST, VGST, GCOMMIT, GABORT, GSTAT, GRESOLVE, the decision and its
events (16 R364 to R368, R370, R372, R374 to R377; 22 R422, R423). -/

namespace Sys2Proof.Machine

/-! ## Groups of this endpoint -/

/-- store_hash of R365. -/
def storeHash (w off n : Nat) (data : Nat) : Word :=
  let x : Word := BitVec.ofNat 64 ((w * 2 ^ 36 + off) * 4 + Nat.log2 n)
  let x := x ^^^ (BitVec.ofNat 64 data * 0x6C8E2F513A97D40B)
  x ^^^ (x >>> 29)

def State.group1? (s : State) (loc : Nat) : Option Group1 := s.clo.mine.find? (fun r => r.loc == loc)

/-- The group is free: not held, and no GCOMMIT of a live strand has its status still to read. -/
def State.groupFree (s : State) (r : Group1) : Bool := !r.held && !(r.inCommit && (s.strandById r.owner).isSome)

/-- The lowest free local group (R367). -/
def State.freeGroup (s : State) : Option Nat :=
  (List.range 64).find? (fun l => match s.group1? l with | some r => s.groupFree r | none => true)

/-- Put in the record of a local group, in place of the last instance. -/
def State.putGroup1 (s : State) (g : Group1) : State :=
  { s with clo := { s.clo with mine := s.clo.mine.filter (fun r => r.loc != g.loc) ++ [g] } }

/-- The group that a word names, of this endpoint. -/
def State.groupNamed (s : State) (v : Word) : Option Group1 :=
  (s.clo.mine.find? (fun r => v.toNat == s.groupNo r.loc))

/-- An open group of the focus strand (R368, R374): open or doomed, and not yet committed. -/
def State.openGroup (s : State) (v : Word) : Option Group1 :=
  match s.groupNamed v with
  | some r => if r.owner == s.st.id && r.held && (r.state == .open_ || r.state == .doomed) then some r else none
  | none => none

/-- GOPEN (R367). -/
def execGopen (d : BitVec 5) (s : State) : Host.Outcome State Fault Refusal :=
  finish do
    gate (.gopen d) { feat := some 1 } s
    headWait s
    match s.freeGroup with
    | none => .ok (s.result d 0x8000000000000001)
    | some l =>
      let g : Group1 := { loc := l, owner := s.st.id, vf := s.st.vf, state := .open_, held := true, seq := 0, dests := [],
                          reason := 0, lostStore := false, since := s.time, publish := false, waited := false, inCommit := false }
      .ok ((s.putGroup1 g).result d (BitVec.ofNat 64 (s.groupNo l)))

/-! ## Group stores (R368) -/

/-- Count a store in a group's destinations: none when it is the seventeenth destination. -/
def countStore (ep : BitVec 10) (h : Word) : List Dest → Nat → Option (List Dest)
  | [], room => if room = 0 then none
    else some [{ ep := ep, count := 1, hash := h, acked := 0, vote := none, done := false, refused := false }]
  | d :: ds, room =>
    if d.ep = ep then some ({ d with count := d.count + 1, hash := d.hash ^^^ h } :: ds)
    else (countStore ep h ds (room - 1)).map (fun r => d :: r)

/-- One store joins the group: its sequence number; none when the group is or becomes doomed, and nothing is sent. -/
def State.joinGroup (s : State) (loc : Nat) (x : Xl) (n data : Nat) : State × Option Nat :=
  match s.group1? loc with
  | none => (s, none)
  | some r =>
    if r.state == .doomed then (s, none)
    else match countStore (BitVec.ofNat 10 x.ep) (storeHash x.window x.off n data) r.dests 16 with
      | none => (s.setGroup1 { r with state := .doomed }, none)
      | some ds => (s.setGroup1 { r with dests := ds, seq := r.seq + 1 }, some r.seq)

/-- Mark the request just sent as one that carries group stores. -/
def State.tagReq (s : State) (id g seq n : Nat) : State :=
  { s with fab := { s.fab with reqs := s.fab.reqs.map (fun q => if q.id = id then { q with group := some (g, seq, n) } else q) } }

/-- Send one group store to the Closure port of its endpoint. -/
def State.sendStore (s : State) (g seq : Nat) (x : Xl) (va : Word) (bs : List Byte) : State :=
  let msg := closureMsg .store g seq (leBytes 8 x.fabAddr.toNat ++ bs)
  let (s, id) := s.sendReq .group x.ep x.window x.off va portClosure none msg
  s.tagReq id g seq 1

/-- GST (R368). (DEDUCED, log entry 68.) -/
def execGst (d a b : BitVec 5) (w : BitVec 2) (s : State) : Host.Outcome State Fault Refusal :=
  finish do
    gate (.gst d a b w) { feat := some 1 } s
    let n := 2 ^ w.toNat
    let va := s.getS a
    s.scalarCheck .write va n
    s.regionCheck .write va n
    let (s, l) ← s.reach .write va.toNat
    match l with
    | .sram _ => .error (s.trapA 0xA4 2 va)
    | .mem x => do
      check x.fabric (s.trapA 0xA4 2 va)
      headWait s
      match s.openGroup (s.getS b) with
      | none => .error (s.trapS 0xA3 (s.getS b))
      | some r =>
        let bs := leBytes n (s.getS d).toNat
        match s.joinGroup r.loc x n (leNat bs) with
        | (s, none) => .ok s.advance
        | (s, some seq) => .ok (s.sendStore (s.groupNo r.loc) seq x va bs).advance

/-- Elements up to the first whose page is not of fabric kind. -/
def fabricPrefix : List PipeItem → List PipeItem × Option PipeItem
  | [] => ([], none)
  | p :: ps => if p.fabric then let (r, z) := fabricPrefix ps; (p :: r, z) else ([], some p)

/-- The first `n` items join the group; the ones that do, with the first sequence number. (DEDUCED, log entry 67.) -/
def State.joinItems (loc : Nat) (data : PipeItem → List Byte) : List PipeItem → State → State × Nat × Option Nat
  | [], s => (s, 0, none)
  | p :: ps, s =>
    match s.joinGroup loc p.xl p.n (leNat (data p)) with
    | (s, none) => (s, 0, none)
    | (s, some q) =>
      let (s, k, _) := State.joinItems loc data ps s
      (s, k + 1, some q)

/-- Send one vector request of group stores (R361, R363): the elements of one window whose sequence numbers follow one another.
none while no reply slot is free. -/
def State.sendGroupReq (s : State) (loc ew : Nat) (data : PipeItem → List Byte) (q : VReq) : Option State :=
  match s.freeReplySlot with
  | none => none
  | some slot =>
    match State.joinItems loc data q.items s with
    | (s, k, some seq) =>
      let items := q.items.take k
      let q := { q with count := k, items := items }
      let g := s.groupNo loc
      let rec_ := leBytes 256 (vreqRecord q 4 ew 0 slot (bits s.fab.fxep 0 10) seq g false)
      let offs := if q.lst then items.flatMap (fun p => leBytes 8 p.xl.off) else []
      let (s, id) := s.sendReq .vector q.ep q.window q.base q.va portVector (some slot) (rec_ ++ offs ++ items.flatMap data)
      some (s.tagReq id g seq k)
    | (s, _, none) => some s

/-- Send the requests in order; with no slot free the instruction waits at the next one's first element. -/
def State.sendGroup (loc ew : Nat) (data : PipeItem → List Byte) : List VReq → State → Run State
  | [], s => .ok s
  | q :: rest, s =>
    match s.sendGroupReq loc ew data q with
    | some s => State.sendGroup loc ew data rest s
    | none => .error { s with x := { s.x with vbeg := match q.items with | p :: _ => BitVec.ofNat 64 p.i | [] => s.x.vbeg } }

/-- The issue of VGST: dispatch checks and address pipeline (R195, R368). -/
def issueGst (i : Instr) (d a : BitVec 5) (k : BitVec 3) (s : State) : Run (State × Pipe) := do
  gate i { feat := some 1 } s
  let size := s.ew / 8
  vcheck i s (vmemGroups s.x.vtype d s.ew 1 none false) false
  s.pipeline .write (plainCheck .write size) (s.elemsFrom .unit a size k s.vbeg)

/-- VGST (R368): one group store for each active element. A fault of the first one comes before the checks of head and group, as
with GST. (DEDUCED, log entry 68.) -/
def execVgst (d a b : BitVec 5) (k : BitVec 3) (s : State) : Host.Outcome State Fault Refusal :=
  finish do
    let size := s.ew / 8
    let t : Transfer := { acc := .write, akind := 2, tstride := BitVec.ofNat 64 size, total := s.vl }
    let (s, pipe) ← issueGst (.vgst d a b k) d a k s
    let (items, off) := fabricPrefix pipe.items
    let z := firstStop pipe.fault (off.map (fun p => (p.i, p.va, (0xA4 : BitVec 8))))
    check (!items.isEmpty || z.isNone) (s.endTransfer t z)
    headWait s
    match s.openGroup (s.getS b) with
    | none => .error (s.trapS 0xA3 (s.getS b))
    | some r => do
      let reqs := (runsOf items).flatMap (windowReqs 4 1 size)
      let s ← State.sendGroup r.loc (bits s.x.vtype 0 2) (s.storeData d s.ew 1) reqs s
      .ok (s.endTransfer t z)

/-! ## The decision (R370) -/

/-- Every vote is in, or its destination cannot be reached. -/
def Group1.voted (r : Group1) : Bool := r.dests.all (fun d => d.vote.isSome)

/-- The votes other than yes. -/
def Group1.noes (r : Group1) : List Nat := (r.dests.filterMap (·.vote)).filterMap (fun v => if v = 0 then none else some v.toNat)

/-- The decision of the votes: reason 0 publishes; 4 and 5 come before the lowest vote of no. -/
def Group1.reasonOf (r : Group1) : Nat :=
  let ns := r.noes
  if ns.contains 4 then 4 else if ns.contains 5 then 5 else ns.foldl (fun m v => if m = 0 then v else min m v) 0

/-- Every destination has acknowledged the outcome: the group is no longer held (R364). -/
def State.settleAcks (s : State) (r : Group1) : State :=
  if r.dests.all (·.done) then
    let final : GState := if r.publish then .published else .aborted
    s.setGroup1 { r with state := final, held := false, waited := true }
  else if r.dests.all (fun d => d.done || d.refused) then
    s.setGroup1 { r with waited := true, reason := if r.publish then 7 else r.reason }
  else s.setGroup1 r

/-- Send the decision; with no destination it is the outcome. -/
def State.decide_ (s : State) (r : Group1) (reason : Nat) : State :=
  let r := { r with state := .pending, publish := reason == 0, reason := BitVec.ofNat 8 reason, since := s.time, waited := false }
  let g := s.groupNo r.loc
  let msg := if reason = 0 then closureMsg .publish g 0 [] else closureMsg .abort g reason []
  (s.closureSend r.dests msg).settleAcks r

/-- Decide once every vote is in. (DEDUCED, log entry 73.) -/
def State.tally (s : State) (r : Group1) : State := if r.voted then s.decide_ r r.reasonOf else s.setGroup1 r

/-- PREPARE goes to every destination, with the list of them; one reported unreachable has lost its vote. -/
def State.prepareAll (s : State) (r : Group1) : State :=
  let g := s.groupNo r.loc
  let list := r.dests.flatMap (fun d => leBytes 2 d.ep.toNat)
  let s := r.dests.foldl (fun s d =>
    s.fabOut d.ep.toNat portClosure (closureMsg .prepare g d.count (leBytes 8 d.hash.toNat ++ list))) s
  let lost (d : Dest) : Dest := if s.fab.unreachable.contains d.ep then { d with vote := some 4 } else d
  s.tally { r with state := .committing, since := s.time, dests := r.dests.map lost }

/-- The group that the GCOMMIT at pc is committing. -/
def State.committing? (s : State) (v : Word) : Option Group1 :=
  match s.groupNamed v with
  | some r => if r.owner == s.st.id && r.inCommit && s.x.replies == [.data []] then some r else none
  | none => none

/-- GCOMMIT returns the status of R372. -/
def State.commitDone (s : State) (d : BitVec 5) (r : Group1) : State :=
  ((s.setGroup1 { r with inCommit := false }).acquire).result d (r.reason.setWidth 64)

/-- GCOMMIT goes on: it returns once the outcome is known, or the wait for acknowledgements has ended. (DEDUCED, log entry 70.) -/
def State.groupWait (s : State) (d : BitVec 5) (r : Group1) : Run State :=
  match r.state with
  | .published => .ok (s.commitDone d r)
  | .aborted => .ok (s.commitDone d r)
  | .pending => if r.waited then .ok (s.commitDone d r) else .error s
  | .open_ => .error s
  | .doomed => .error s
  | .committing => .error s

/-- GCOMMIT (R370). While it waits for votes and acknowledgements, the marker in `replies` keeps pre-emption out (R377). -/
def execGcommit (d a : BitVec 5) (s : State) : Host.Outcome State Fault Refusal :=
  finish do
    gate (.gcommit d a) { feat := some 1 } s
    headWait s
    let v := s.getS a
    match s.committing? v with
    | some r => s.groupWait d r
    | none =>
      match s.openGroup v with
      | none => .error (s.trapS 0xA3 v)
      | some r => do
        check (r.lostStore || r.dests.all (fun d => d.acked == d.count)) s
        check s.noneHeld s
        let s ← s.releaseSys
        let s := { s with x := { s.x with replies := [.data []] } }
        let r := { r with inCommit := true }
        let s := if r.lostStore then s.decide_ r 4
          else if r.state == .doomed then s.decide_ r 1
          else if r.dests.isEmpty then s.decide_ r 0
          else s.prepareAll r
        match s.group1? r.loc with
        | some r => s.groupWait d r
        | none => .error s

/-- GABORT (R374): reason 6 to each destination so far; no effect on a group that is not an open one of the strand. -/
def execGabort (a : BitVec 5) (s : State) : Host.Outcome State Fault Refusal :=
  finish do
    gate (.gabort a) { feat := some 1 } s
    headWait s
    match s.openGroup (s.getS a) with
    | none => .ok s.advance
    | some r => .ok (s.abortGroup r 6).advance

/-! ## GSTAT and GRESOLVE (R375, R376) -/

/-- The newest instance of a group at this package. -/
def State.group2? (s : State) (g : BitVec 16) : Option Group2 := s.clo.here.find? (fun r => r.g == g)

def State.putGroup2 (s : State) (r : Group2) : State :=
  { s with clo := { s.clo with here := s.clo.here.map (fun q => if q.g = r.g then r else q) } }

def DState.final : DState → Bool
  | .staging => false
  | .doomed => false
  | .inDoubt => false
  | .published => true
  | .aborted => true

def DState.code : DState → Nat
  | .staging => 8
  | .doomed => 9
  | .inDoubt => 10
  | .published => 11
  | .aborted => 12

def GState.code : GState → Nat
  | .open_ => 1
  | .doomed => 2
  | .committing => 3
  | .published => 4
  | .aborted => 5
  | .pending => 6

/-- Every window of the group's staged stores is owned by the function, as fxwinc stands now; a group with none belongs to nobody
(DEDUCED, log entry 69). -/
def State.ownsGroup (s : State) (r : Group2) (vf : BitVec 5) : Bool :=
  !r.windows.isEmpty && r.windows.all (fun w => bits (vget s.fab.winc 0 w.toNat) 53 5 == vf.toNat)

/-- The result of GSTAT (R375). -/
def State.groupStat (s : State) (g : BitVec 16) (user : Bool) : Word :=
  if g.toNat / 64 = bits s.fab.fxep 0 10 then
    match s.group1? (g.toNat % 64) with
    | none => 0
    | some r =>
      if user && r.vf != s.st.vf then 0
      else
        let fin := r.state == .published || r.state == .aborted
        BitVec.ofNat 64 (r.seq % 2 ^ 32 * 2 ^ 32 + r.dests.length * 2 ^ 16 + (if fin then r.reason.toNat else 0) * 2 ^ 8 + r.state.code)
  else
    match s.group2? g with
    | none => 0
    | some r =>
      if user && !s.ownsGroup r s.st.vf then 0
      else
        let n := if r.state.final then r.held else r.stores.length
        BitVec.ofNat 64 (n % 2 ^ 32 * 2 ^ 32 + (if r.state.final then r.reason.toNat else 0) * 2 ^ 8 + r.state.code)

/-- GSTAT (R375): orders nothing. -/
def execGstat (d a : BitVec 5) (s : State) : Host.Outcome State Fault Refusal :=
  finish do
    gate (.gstat d a) { feat := some 1, mgmt := true } s
    headWait s
    .ok (s.result d (s.groupStat ((s.getS a).setWidth 16) (s.lvl == 0)))

/-- Staged stores in ascending sequence number. -/
def insertStaged (t : Staged) : List Staged → List Staged
  | [] => [t]
  | u :: us => if t.seq.toNat < u.seq.toNat then t :: u :: us else u :: insertStaged t us

/-- A group at this package finishes: the outcomes of the last 1,024 finished groups are kept (R369, R422). -/
def State.finishGroup (s : State) (r : Group2) (st : DState) (reason : BitVec 8) : State :=
  let r := { r with state := st, reason := reason, held := r.stores.length, stores := [] }
  let here := s.clo.here.filter (fun q => q.g != r.g) ++ [r]
  let surplus := (here.filter (fun q => q.state.final)).length - 1024
  let drop := ((here.filter (fun q => q.state.final)).take surplus).map (·.g)
  { s with clo := { s.clo with here := here.filter (fun q => !drop.contains q.g) } }

/-- PUBLISH is applied (R371): the staged stores in ascending sequence number, in one step towards every observer. -/
def State.publishGroup (s : State) (r : Group2) : State :=
  let ts := r.stores.foldl (fun l t => insertStaged t l) []
  let s := (wholeLines (ts.map (fun t => (t.pa, t.data)))).foldl State.clearPoison (s.finishGroup r .published 0)
  ts.foldl (fun s t => s.hubWrites t.vc [(t.pa, t.data)]) s

/-- GRESOLVE (R376). -/
def execGresolve (a : BitVec 5) (e : BitVec 1) (s : State) : Host.Outcome State Fault Refusal :=
  finish do
    gate (.gresolve a e) { feat := some 1, lvl := 1, mgmt := true } s
    headWait s
    match s.group2? ((s.getS a).setWidth 16) with
    | none => .ok s.advance
    | some r =>
      if r.state.final || (s.lvl == 1 && !s.ownsGroup r s.st.vf) then .ok s.advance
      else if e = 1 then
        (if r.state == .inDoubt then .ok (s.publishGroup { r with resolved := true }).advance else .ok s.advance)
      else .ok (s.finishGroup { r with resolved := true } .aborted 6).advance

/-! ## Events at the initiator -/

/-- Group of this endpoint, by its number. -/
def State.mineNo (s : State) (g : BitVec 16) : Option Group1 := s.clo.mine.find? (fun r => s.groupNo r.loc == g.toNat)

/-- GROUP_STORE_ACK (R368): a store has been checked and staged, or has failed. -/
def execGroupStoreAck (g : BitVec 16) (ep : BitVec 10) (seq : BitVec 32) (result : FabResult) (s : State) :
    Host.Outcome State Fault Refusal :=
  match s.fab.reqs.find? (fun q => q.kind == .group && q.ep == ep && q.group == some (g.toNat, seq.toNat, 1)) with
  | none => .next s
  | some q => .next (s.fabIn.answerReq q result)

/-- VOTE_ARRIVAL (R370): the first vote of a destination counts. -/
def execVoteArrival (g : BitVec 16) (ep : BitVec 10) (vote : BitVec 8) (s : State) : Host.Outcome State Fault Refusal :=
  match s.mineNo g with
  | none => .next s
  | some r =>
    if r.state == .committing && r.dests.any (fun d => d.ep == ep && d.vote.isNone) then
      let take (d : Dest) : Dest := if d.ep = ep then { d with vote := some vote } else d
      .next (s.fabIn.tally { r with dests := r.dests.map take })
    else .next s

/-- VOTE_TIMEOUT (R370): fxclcfg.vote has passed since PREPARE, or since the decision was sent. -/
def execVoteTimeout (g : BitVec 16) (s : State) : Host.Outcome State Fault Refusal :=
  match s.mineNo g with
  | none => .next s
  | some r =>
    if s.time < r.since + bits s.fab.fxclcfg 16 16 then .next s
    else match r.state with
      | .committing =>
        let miss (d : Dest) : Dest := if d.vote.isNone then { d with vote := some 5 } else d
        .next (s.tally { r with dests := r.dests.map miss })
      | .pending =>
        if r.waited then .next s
        else .next (s.setGroup1 { r with waited := true, reason := if r.publish then 7 else r.reason })
      | .open_ => .next s
      | .doomed => .next s
      | .published => .next s
      | .aborted => .next s

/-- DECISION_ACK (R370, R373): a destination has acknowledged the outcome, or refuses a PUBLISH. -/
def execDecisionAck (g : BitVec 16) (ep : BitVec 10) (refused : Bool) (s : State) : Host.Outcome State Fault Refusal :=
  match s.mineNo g with
  | none => .next s
  | some r =>
    if r.held && (r.state == .pending || r.state == .aborted) && r.dests.any (fun d => d.ep == ep && !d.done) then
      let take (d : Dest) : Dest := if d.ep = ep then { d with done := !refused, refused := refused } else d
      .next (s.fabIn.settleAcks { r with dests := r.dests.map take })
    else .next s

end Sys2Proof.Machine
end

