-- ==== Sys2Proof/Machine/Staging.lean ====
section
/-! DEFINITION. Closure at a destination: staging, votes, PUBLISH and ABORT, termination and the idle check, and what an unreachable
endpoint ends (16 R360, R369, R371, R373; 22 R422, R423). -/

namespace Sys2Proof.Machine

/-! ## Instances (R369, R423) -/

/-- The initiating endpoint of a group (R364). -/
def initiatorOf (g : BitVec 16) : BitVec 10 := (g >>> 6).setWidth 10

def State.newGroup (s : State) (g : BitVec 16) : Group2 :=
  { g := g, state := .staging, stores := [], windows := [], held := 0, reason := 0, parties := [], marked := false, reported := false,
    resolved := false, outcomeAcked := false, since := s.time, asking := false, answers := [] }

/-- The instance that a store or a PREPARE concerns: a new one when none is there, or when the initiator's outcome for the last
has been acknowledged (R423). -/
def State.instance2 (s : State) (g : BitVec 16) : Group2 :=
  match s.group2? g with
  | some r => if r.state.final && r.outcomeAcked then s.newGroup g else r
  | none => s.newGroup g

/-- Put an instance in, in place of the last of its number. -/
def State.keepGroup2 (s : State) (r : Group2) : State :=
  { s with clo := { s.clo with here := s.clo.here.filter (fun q => q.g != r.g) ++ [r] } }

/-- The group becomes doomed; a record beyond 256 that holds no store is not kept (R369). (DEDUCED, log entry 72.) -/
def State.doom (s : State) (r : Group2) : State :=
  if r.state != .staging then s.keepGroup2 r
  else if r.stores.isEmpty && decide (256 ≤ (s.clo.here.filter (fun q => q.state == .doomed)).length) then s
  else s.keepGroup2 { r with state := .doomed }

/-- There is room for one more store of the group: its allowance, the staging store, the count of staged groups (R364, R369). -/
def State.stageRoom (s : State) (r : Group2) : Bool :=
  let live := s.clo.here.filter (fun q => !q.state.final)
  let used : Nat := live.foldl (fun (n : Nat) q => n + 16 * q.stores.length) 0
  let staged := (live.filter (fun q => !q.stores.isEmpty)).length
  decide (16 * (r.stores.length + 1) ≤ bits s.fab.fxclcfg 32 16 * 65536) && decide (used + 16 ≤ 32 * 2 ^ 20) &&
    (!r.stores.isEmpty || decide (staged < 256))

/-- A checked store is staged, or discarded (R369, R422). -/
def State.stageStore (s : State) (g : BitVec 16) (t : Staged) : State :=
  let r := { s.instance2 g with since := s.time }
  if r.state != .staging then (if r.state.final then s else s.keepGroup2 r)
  else if s.stageRoom r then s.keepGroup2 { r with stores := r.stores ++ [t], windows := if r.windows.contains t.window then r.windows else r.windows ++ [t.window] }
  else s.doom r

/-- Answer a Closure message. -/
def State.cloAnswer (s : State) (ep : BitVec 10) (k : CloMsg) (g : BitVec 16) (v : Nat) (data : List Byte) : State :=
  s.fabOut ep.toNat portClosure (closureMsg k g.toNat v data)

/-- A store that fails the target check: a fatal context error, and its group is doomed (R369). -/
def State.failStore (s : State) (reason : Nat) (src : BitVec 10) (g : BitVec 16) (w off : Nat) : State :=
  (s.fatalHere reason src w off).doom (s.instance2 g)

/-- GROUP_STORE_ARRIVAL (R369). A store from another endpoint than the group's, or of no width of R368, is dropped. -/
def execGroupStoreArrival (src : BitVec 10) (g : BitVec 16) (seq : BitVec 32) (window : BitVec 6) (off : BitVec 36)
    (data : List Byte) (s : State) : Host.Outcome State Fault Refusal :=
  let n := data.length
  if src ≠ initiatorOf g ∨ ¬ (n = 1 ∨ n = 2 ∨ n = 4 ∨ n = 8) then .next (s.fabIn.log 0 0)
  else match s.windowCheck .write src window.toNat off.toNat n with
    | .error c => .next ((s.fabIn.failStore c src g window.toNat off.toNat).cloAnswer src .ack g seq.toNat [0xA0])
    | .ok x =>
      let t : Staged := { seq := seq, window := window, off := off.toNat, pa := x.pa, vc := x.vc, data := data }
      .next ((s.fabIn.stageStore g t).cloAnswer src .ack g seq.toNat [0])

/-! ## VECTOR_REQUEST (R361 to R363) -/

/-- VECTOR_REQUEST: a record reaches the port; its elements are checked and then performed, or staged for op 4. -/
def execVectorRequest (src : BitVec 10) (record : BitVec 2048) (slotData : List Byte) (s : State) :
    Host.Outcome State Fault Refusal :=
  let q := readVReq record.toNat
  if !vreqOk record.toNat || (q.op == 4 && src != initiatorOf (BitVec.ofNat 16 q.group)) then
    .next ((s.fabIn.log 0 0).answerFab src portVector 2 [])
  else match s.vreqItems src q slotData with
    | .error (c, off) =>
      let s := s.fabIn
      let s := if q.op = 4 then s.failStore c src (BitVec.ofNat 16 q.group) q.window off else s.fatalHere c src q.window off
      .next (s.answerFab src portVector 0xA0 [])
    | .ok ps =>
      if q.op = 4 then
        let stage (s : State) (p : PipeItem) : State := s.stageStore (BitVec.ofNat 16 q.group)
          { seq := BitVec.ofNat 32 (q.seq + p.i), window := BitVec.ofNat 6 q.window, off := p.va.toNat, pa := p.pa, vc := p.vc,
            data := q.data slotData p.i 0 }
        .next ((ps.foldl stage s.fabIn).answerFab src portVector 0 [])
      else if ps.any (fun p => s.blocked (q.op != 0) p.pa p.n) then .next s
      else match s.fabIn.vreqPerform q slotData ps with
        | (s, none) => .next (s.answerFab src portVector 1 [])
        | (s, some bs) => .next (s.answerFab src portVector 0 bs)

/-! ## PREPARE (R371) -/

/-- A window has been disabled. -/
def State.windowOff (s : State) (w : BitVec 6) : Bool :=
  let c := vget s.fab.winc 0 w.toNat
  !bit c 63 || bits c 0 21 == 0

/-- Hash of the stores staged (R365). -/
def stagedHash (ts : List Staged) : Word :=
  ts.foldl (fun h t => h ^^^ storeHash t.window.toNat t.off t.data.length (leNat t.data)) 0

/-- The vote, 0 for yes: the first reason that applies, in the order of R371 (R422). -/
def State.voteOf (s : State) (r : Group2) (count : Nat) (hash : Word) : Nat :=
  if r.state.final then 6
  else if r.state == .doomed then 1
  else if r.stores.length ≠ count then 2
  else if stagedHash r.stores ≠ hash then 3
  else if r.windows.any s.windowOff then 6
  else 0

/-- PREPARE (R371): a yes puts the group in doubt; a no discards it. -/
def execPrepare (src : BitVec 10) (g : BitVec 16) (count : Nat) (hash : Word) (dests : List (BitVec 10)) (s : State) :
    Host.Outcome State Fault Refusal :=
  if !s.fabricOn || !s.admitted src || src ≠ initiatorOf g then .next s
  else
    let s := s.fabIn
    let r := s.instance2 g
    if r.state == .inDoubt then .next (s.cloAnswer src .vote g 0 [])
    else
      let v := s.voteOf r count hash
      let s := if v = 0 then
          s.keepGroup2 { r with state := .inDoubt, parties := dests, since := s.time, asking := false, answers := [] }
        else if r.state.final then s
        else (s.keepGroup2 r).finishGroup r .aborted (BitVec.ofNat 8 v)
      .next (s.cloAnswer src .vote g v [])

/-! ## PUBLISH and ABORT (R371, R373, R423) -/

/-- PUBLISH: applied once to a group in doubt. A marked group refuses the initiator's, and so does one that termination has
aborted. (DEDUCED, log entry 69.) -/
def execPublish (src : BitVec 10) (g : BitVec 16) (fromInitiator : Bool) (s : State) : Host.Outcome State Fault Refusal :=
  if !s.fabricOn || !s.admitted src then .next s
  else
    let ini := fromInitiator && src == initiatorOf g
    let s := s.fabIn
    match s.group2? g with
    | none => .next (s.cloAnswer src .done g 0 [])
    | some r =>
      match r.state with
      | .inDoubt =>
        if ini && r.marked then .next (s.cloAnswer src .done g 1 [])
        else .next ((s.publishGroup { r with outcomeAcked := ini }).cloAnswer src .done g 0 [])
      | .published => .next ((s.putGroup2 { r with outcomeAcked := r.outcomeAcked || ini }).cloAnswer src .done g 0 [])
      | .aborted =>
        if ini && !r.resolved then .next (s.cloAnswer src .done g 1 [])
        else .next ((s.putGroup2 { r with outcomeAcked := r.outcomeAcked || ini }).cloAnswer src .done g 0 [])
      | .staging => .next s
      | .doomed => .next s

/-- ABORT: the staged stores are discarded. -/
def execAbort (src : BitVec 10) (g : BitVec 16) (fromInitiator : Bool) (reason : BitVec 8) (s : State) :
    Host.Outcome State Fault Refusal :=
  if !s.fabricOn || !s.admitted src then .next s
  else
    let ini := fromInitiator && src == initiatorOf g
    let s := s.fabIn
    match s.group2? g with
    | none => .next (s.cloAnswer src .done g 0 [])
    | some r =>
      let s := if r.state.final then s.putGroup2 { r with outcomeAcked := r.outcomeAcked || ini }
        else s.finishGroup { r with outcomeAcked := ini } .aborted reason
      .next (s.cloAnswer src .done g 0 [])

/-! ## Termination (R373) -/

def termCode : TermAnswer → Nat
  | .undecided => 0
  | .publish => 1
  | .published => 2
  | .abort => 3
  | .aborted => 4
  | .staging => 5
  | .doomed => 6
  | .inDoubt => 7
  | .unknown => 8
  | .unreachable => 9

def saysPublish : TermAnswer → Bool
  | .publish => true
  | .published => true
  | _ => false

def saysAbort : TermAnswer → Bool
  | .abort => true
  | .aborted => true
  | .staging => true
  | .doomed => true
  | .unknown => true
  | _ => false

/-- Participants other than this package and the initiator. -/
def State.otherParties (s : State) (r : Group2) : List (BitVec 10) :=
  r.parties.filter (fun e => e.toNat != bits s.fab.fxep 0 10 && e != initiatorOf r.g)

/-- Every participant other than this package, the initiator among them. -/
def State.allParties (s : State) (r : Group2) : List (BitVec 10) := initiatorOf r.g :: s.otherParties r

/-- The doubt is reported once, to the supervisor of the first window's function and to the event log. -/
def State.reportDoubt (s : State) (r : Group2) : State :=
  if r.reported then s
  else
    let vf := match r.windows with | w :: _ => bits (vget s.fab.winc 0 w.toNat) 53 5 | [] => 0
    (s.log 0 0).sendEvent vf (eventRecord 7 0 0 { cause := 0, pc := 0 } r.g.toNat 0)

/-- What the answers decide; `all`: every participant has answered. (DESIGN CHOICE, log entry 71.) -/
def State.terminate (s : State) (r : Group2) : State :=
  let ans := r.answers.map (·.2)
  let all := (s.allParties r).all (fun e => r.answers.any (fun a => a.1 == e))
  if ans.any saysPublish then
    (s.allParties r).foldl (fun s e => s.cloAnswer e .publish r.g 1 []) (s.publishGroup { r with asking := false })
  else if !all then s.putGroup2 r
  else if ans.any saysAbort then
    let (s, c) := s.free 8 8
    (s.allParties r).foldl (fun s e => s.cloAnswer e .abort r.g c.toNat []) (s.finishGroup { r with asking := false } .aborted c)
  else
    let again := { r with asking := false, answers := [], since := s.time }
    if r.answers.contains (initiatorOf r.g, .undecided) then s.putGroup2 again
    else if (s.otherParties r).all (fun e => r.answers.contains (e, .inDoubt)) then
      let (s, c) := s.free 8 8
      (s.allParties r).foldl (fun s e => s.cloAnswer e .abort r.g c.toNat []) (s.finishGroup { r with asking := false } .aborted c)
    else (s.reportDoubt r).putGroup2 { again with reported := true }

/-- The initiator has answered, or cannot be reached: the other participants are asked, with a flag for the latter. -/
def State.askOthers (s : State) (r : Group2) (lost : Bool) : State :=
  let others := s.otherParties r
  let gone := others.filter (fun e => s.fab.unreachable.contains e)
  let s := others.foldl (fun s e => s.cloAnswer e .query r.g (if lost then 1 else 0) []) s
  s.terminate { r with answers := r.answers ++ gone.map (fun e => (e, .unreachable)) }

/-- The answer to the idle check: abort, unknown or an unreachable initiator discards the group (R369). -/
def State.idleAnswer (s : State) (r : Group2) (ep : BitVec 10) (a : TermAnswer) : State :=
  if ep ≠ initiatorOf r.g then s
  else if a == .abort || a == .aborted || a == .unknown || a == .unreachable then
    let (s, c) := s.free 8 8
    s.finishGroup { r with asking := false } .aborted c
  else s.putGroup2 { r with asking := false, since := s.time }

/-- An answer to a group that asks. -/
def State.takeAnswer (s : State) (r : Group2) (ep : BitVec 10) (a : TermAnswer) : State :=
  let ini := initiatorOf r.g
  if !r.asking || r.answers.any (fun q => q.1 == ep) then s
  else match r.state with
    | .inDoubt =>
      let r' := { r with answers := r.answers ++ [(ep, a)] }
      if ep = ini then (if saysPublish a then s.terminate r' else s.askOthers r' (a == .unreachable))
      else if (s.otherParties r).contains ep && r.answers.any (fun q => q.1 == ini) then s.terminate r'
      else s
    | .staging => s.idleAnswer r ep a
    | .doomed => s.idleAnswer r ep a
    | .published => s
    | .aborted => s

/-- Ask the initiator; one reported unreachable gives no answer. -/
def State.askInitiator (s : State) (r : Group2) : State :=
  let ini := initiatorOf r.g
  let r := { r with asking := true, answers := [], since := s.time }
  let s := (s.putGroup2 r).cloAnswer ini .query r.g 0 []
  if s.fab.unreachable.contains ini then s.takeAnswer r ini .unreachable else s

/-- DOUBT_TIMER_EXPIRY (R373): fxclcfg.doubt has passed. -/
def execDoubtTimerExpiry (g : BitVec 16) (s : State) : Host.Outcome State Fault Refusal :=
  match s.group2? g with
  | none => .next s
  | some r =>
    if r.state == .inDoubt && decide (r.since + bits s.fab.fxclcfg 0 16 ≤ s.time) then .next (s.askInitiator r) else .next s

/-- STAGING_IDLE_CHECK (R369): 100 periods of fxclcfg.doubt with no store and no PREPARE. -/
def execStagingIdleCheck (g : BitVec 16) (s : State) : Host.Outcome State Fault Refusal :=
  match s.group2? g with
  | none => .next s
  | some r =>
    if (r.state == .staging || r.state == .doomed) && decide (r.since + 100 * bits s.fab.fxclcfg 0 16 ≤ s.time) then
      .next (s.askInitiator r)
    else .next s

/-- TERMINATION_ANSWER (R373, R369), of an endpoint that is admitted (R354). -/
def execTerminationAnswer (g : BitVec 16) (ep : BitVec 10) (answer : TermAnswer) (s : State) : Host.Outcome State Fault Refusal :=
  if !s.fabricOn || !s.admitted ep then .next s
  else match s.group2? g with
    | none => .next s
    | some r => .next (s.fabIn.takeAnswer r ep answer)

/-- What this endpoint answers of a group it initiates. -/
def Group1.answer (r : Group1) : TermAnswer :=
  match r.state with
  | .open_ => .undecided
  | .doomed => .undecided
  | .committing => .undecided
  | .pending => if r.publish then .publish else .abort
  | .published => .published
  | .aborted => .aborted

def DState.answer : DState → TermAnswer
  | .staging => .staging
  | .doomed => .doomed
  | .inDoubt => .inDoubt
  | .published => .published
  | .aborted => .aborted

/-- TERMINATION_QUERY (R373): the initiator answers with its decision, a participant with its state; one in doubt that hears the
initiator is unreachable becomes marked. -/
def execTerminationQuery (asker : BitVec 10) (g : BitVec 16) (initiatorUnreachable : Bool) (s : State) :
    Host.Outcome State Fault Refusal :=
  if !s.fabricOn || !s.admitted asker then .next s
  else
    let s := s.fabIn
    if (initiatorOf g).toNat = bits s.fab.fxep 0 10 then
      let a := match s.mineNo g with | some r => r.answer | none => .unknown
      .next (s.cloAnswer asker .answer g (termCode a) [])
    else
      match s.group2? g with
      | none => .next (s.cloAnswer asker .answer g (termCode .unknown) [])
      | some r =>
        let s := if r.state == .inDoubt && initiatorUnreachable then s.putGroup2 { r with marked := true } else s
        .next (s.cloAnswer asker .answer g (termCode r.state.answer) [])

/-! ## ENDPOINT_UNREACHABLE_REPORT (R360) -/

/-- Committing groups lose the vote of the endpoint. -/
def State.loseVotes (s : State) (ep : BitVec 10) : State :=
  let lost (d : Dest) : Dest := if d.ep = ep ∧ d.vote.isNone then { d with vote := some 4 } else d
  (s.clo.mine.filter (fun r => r.state == .committing && r.dests.any (fun d => d.ep == ep))).foldl
    (fun s r => s.tally { r with dests := r.dests.map lost }) s

/-- Bound messages to the endpoint leave the retry buffers. -/
def dropMessages (ep : BitVec 10) (st : Strand) : Strand :=
  { st with retry := st.retry.filter (fun e => match e.rcv with | .remote e' _ => e' != ep | .strand _ => true) }

/-- ENDPOINT_UNREACHABLE_REPORT: outstanding requests to the endpoint fail, messages to it are discarded, votes and answers of it
are lost. -/
def execEndpointUnreachableReport (ep : BitVec 10) (s : State) : Host.Outcome State Fault Refusal :=
  let known := s.fab.unreachable
  let s := { s with fab := { s.fab with unreachable := (if known.contains ep then known else known ++ [ep]) } }
  let s := (s.fab.reqs.filter (fun q => q.ep == ep)).foldl State.failReq s
  let s := { s with st := dropMessages ep s.st, parked := s.parked.map (fun (p : Runner) => { p with st := dropMessages ep p.st }) }
  let s := s.loseVotes ep
  .next ((s.clo.here.filter (fun r => r.asking)).foldl (fun s r =>
    match s.group2? r.g with
    | some r => if (s.allParties r).contains ep then s.takeAnswer r ep .unreachable else s
    | none => s) s)

end Sys2Proof.Machine
end

