-- ==== Sys2Proof/Machine/DieFabric.lean ====
section
/-! DEFINITION. The die fabric: arrival of stamped packets, early buffers, window faults, baseline, and the retiring of a die (15
R329 to R338, R346 to R349). -/

namespace Sys2Proof.Machine

/-! ## Stamps (R332 to R334) -/

def entryKey (e : StampEntry) : Nat := e.row.toNat * 16 + e.col.toNat

/-- An entry names two different dies. -/
def entryOk (e : StampEntry) : Bool := decide (e.row.toNat < 13) && decide (e.col.toNat < 13) && e.row != e.col

/-- The layout of the stamp field: at most 4 entries, zeros above them, and 4 of them before any flit (R332). -/
def fieldOk (p : Stamp) : Bool :=
  let n := stampN p
  decide (n ≤ 4) && (stampExt p == 0 || n == 4) && nbits p.field.toNat (20 * n) (80 - 20 * n) == 0

/-- The layout of flit i of n: how many follow, its count, zeros above its entries (R333). -/
def flitOk (n i : Nat) (f : BitVec 256) : Bool :=
  let k := flitCount f
  nbits f.toNat 248 8 == 0 && flitMore f == n - 1 - i && decide (1 ≤ k) && decide (k ≤ 12) && (i + 1 == n || k == 12) &&
    nbits f.toNat (20 * k) (240 - 20 * k) == 0

/-- The stamp is well formed (R332 to R334). -/
def stampOk (p : Stamp) : Bool :=
  let n := p.flits.length
  decide (n ≤ 13) && stampExt p == n && fieldOk p && (List.range n).all (fun i => flitOk n i (p.flits.getD i 0)) &&
    (allEntries p).all entryOk && ((allEntries p).map entryKey).eraseDups.length == (allEntries p).length

/-! ## Applying a packet (R331, R336) -/

/-- What die `.1` sends on once it has applied packets. -/
abbrev Follow := Nat × Onward

/-- ready(p) at die d (R336). -/
def Net.ready (n : Net) (d : Nat) (p : Packet) : Bool :=
  (allEntries p.stamp).all (fun e => e.col.toNat != d || covers (n.count d e.row.toNat d) e.count)

/-- A stamp entry names a packet that a retired die never sent (R347). -/
def Net.lostCause (n : Net) (d : Nat) (p : Packet) : Bool :=
  (allEntries p.stamp).any (fun e => e.col.toNat == d && n.retired.any (fun r =>
    r.1 == e.row.toNat && !covers (lookupD 0 d r.2) e.count))

/-- Die d applies a packet of die src (R331), whose ack opens the stream back; the 256th packet with nothing sent back draws an
acknowledgement-only packet (R338). -/
def Net.apply (n : Net) (src d : Nat) (p : Packet) : Net :=
  let n := (allEntries p.stamp).foldl (fun n e =>
    n.setCount d e.row.toNat e.col.toNat (cmax (n.count d e.row.toNat e.col.toNat) e.count)) n
  let n := n.setCount d src d (n.count d src d + 1)
  let back := strKey d src
  let k := lookupD 0 back n.unacked + 1
  let n := if k ≥ 256 then { n with unacked := n.unacked.filter (fun q => q.1 != back) }.acked src d (n.count d src d)
    else { n with unacked := update back k n.unacked }
  n.acked d src (stampAck p.stamp)

/-- The reply to a read ends it at the hub's combining node (R341). -/
def Net.readDone (n : Net) (src d : Nat) (p : Packet) : Net :=
  match p.mail.answers with
  | some line => { n with reads := n.reads.filter (fun r => !(r.line == line && r.home == src && r.src == d)) }
  | none => n

def Packet.follows (p : Packet) (d : Nat) : List Follow := p.mail.follow.map (fun f => (d, f))

/-- Send what follows. -/
def State.sendFollow (s : State) (fs : List Follow) : State :=
  { s with net := fs.foldl (fun n f => n.onward f.1 [f.2]) s.net }

/-- Apply, or deliver poisoned (R347): a write poisons the lines it would write. -/
def State.applyPacket (s : State) (src d : Nat) (p : Packet) (bad : Bool) : State :=
  let s := { s with net := (s.net.apply src d p).readDone src d p }
  if bad then p.mail.writes.foldl State.markPoison s else s

/-! ## The early buffer (R337) -/

/-- There is an entry for one more packet of src at die d: one of its set of 24, or one of the 200 shared. -/
def Net.roomFor (n : Net) (src d : Nat) : Bool :=
  let held (x : Nat) : Nat := (n.early.filter (fun h => h.die == d && h.src == x)).length
  let shared := (List.range 13).foldl (fun k x => k + (held x - 24)) 0
  decide (held src < 24) || decide (shared < 200)

/-- The credits of a packet to die d: an early-buffer entry, and a place in the queue of its class (R330). -/
def Net.credit (n : Net) (src d : Nat) (p : Packet) : Bool := n.roomFor src d && !n.full.contains (queueKey d p.mail.cls)

/-- The first packet held at d from src. -/
def Net.firstHeld (n : Net) (d src : Nat) : Option Held := n.early.find? (fun h => h.die == d && h.src == src)

/-- Entries for extension flits that the packets held at a die before this one take; those of a die stand oldest first. -/
def flitsBefore (d src : Nat) : List Held → Nat
  | [] => 0
  | h :: hs => if h.die = d ∧ h.src = src then 0 else (if h.die = d then h.packet.stamp.flits.length else 0) + flitsBefore d src hs

/-- Every extension flit of the first packet held at d from src has one of the 24 entries (R337). (DEDUCED, log entry 78.) -/
def Net.flitsIn (n : Net) (d src : Nat) (p : Packet) : Bool :=
  p.stamp.flits.isEmpty || decide (flitsBefore d src n.early + p.stamp.flits.length ≤ 24)

/-- Remove the first held packet of a stream. -/
def dropHeld (d src : Nat) : List Held → List Held
  | [] => []
  | h :: hs => if h.die = d ∧ h.src = src then hs else h :: dropHeld d src hs

/-- Remove the first packet in transit on a stream. -/
def dropTransit (key : Nat) : List (Nat × Packet) → List (Nat × Packet)
  | [] => []
  | t :: ts => if t.1 = key then ts else t :: dropTransit key ts

/-- The oldest packet of a stream reaches its port: the packet is applied, or held; with the sends that follow.
(DEDUCED, log entry 78.) -/
def State.portArrive (s : State) (src d : Nat) (p : Packet) : State × List Follow :=
  let s := { s with net := { s.net with transit := dropTransit (strKey src d) s.net.transit } }
  if (s.net.firstHeld d src).isNone && (s.net.ready d p || s.net.lostCause d p) then
    (s.applyPacket src d p (s.net.lostCause d p), p.follows d)
  else ({ s with net := { s.net with early := s.net.early ++ [{ die := d, src := src, packet := p, since := s.time }] } }, [])

/-- The first held packet of a stream is applied once it is ready. -/
def State.release1 (s : State) (d src : Nat) (force : Bool) : Option (State × List Follow) :=
  match s.net.firstHeld d src with
  | none => none
  | some h =>
    let lost := s.net.lostCause d h.packet
    if force || (s.net.flitsIn d src h.packet && (lost || s.net.ready d h.packet)) then
      let t := { s with net := { s.net with early := dropHeld d src s.net.early } }
      some (t.applyPacket src d h.packet (lost || force), h.packet.follows d)
    else none

/-! ## Baseline (R348) -/

/-- Every stream's first held packet is tried once. -/
def State.releasePass (force : Bool) (sf : State × List Follow) : State × List Follow :=
  (List.range 169).foldl (fun (sf : State × List Follow) k =>
    match sf.1.release1 (k / 13) (k % 13) force with
    | some (s, fs) => (s, sf.2 ++ fs)
    | none => sf) sf

/-- Passes over the held packets. -/
def State.releaseAll (force : Bool) : Nat → State × List Follow → State × List Follow
  | 0, sf => sf
  | n + 1, sf => State.releaseAll force n (State.releasePass force sf)

/-- The applied counts of die d in the event log, four to a record: of sources 4k to 4k + 3, in ascending source. (DESIGN CHOICE, log
entry 79.) -/
def State.logCounts (s : State) (d : Nat) : State :=
  (List.range 4).foldl (fun s k =>
    s.logWith d 0 ((List.range 4).foldr (fun i acc => (s.net.count d (4 * k + i) d).toNat + 4096 * acc) 0)) s

/-- Traffic that waited at its die goes out. -/
def Net.flushAll (n : Net) : Net := (n.stalled.map (·.1)).eraseDups.foldl (fun n k => Net.flush (k / 16) (k % 16) n.stalled.length n) n

/-- baseline: streams are drained, held packets applied or delivered poisoned, counts recorded and reset; what the packets give
rise to is sent afterwards. (DEDUCED, log entry 79.) -/
def State.baseline (s : State) : State :=
  let drained := s.net.transit.foldl (fun (sf : State × List Follow) t =>
    let (s, fs) := sf.1.portArrive (t.1 / 16) (t.1 % 16) t.2
    (s, sf.2 ++ fs)) (s, [])
  let ready := State.releaseAll false (drained.1.net.early.length + 1) drained
  let (s, fs) := State.releaseAll true (ready.1.net.early.length + 1) ready
  let s := (List.range 13).foldl State.logCounts s
  let net : Net := { s.net with
    clock := [], changed := [], acks := [], unacked := [], reads := [], retired := s.net.retired.map (fun r => (r.1, [])) }
  ({ s with net := net.flushAll }).sendFollow fs

/-! ## Events -/

/-- PACKET_ARRIVAL (R336): `seen` is the stamp as it arrives when an error has changed it. A malformed stamp is a window fault: the
packet is delivered poisoned and baseline runs. Without its credits the hub holds the packet (R330). (DEDUCED, log entry 77.) -/
def execPacketArrival (src dst : BitVec 4) (seen : Option Stamp) (s : State) : Host.Outcome State Fault Refusal :=
  let a := src.toNat
  let d := dst.toNat
  match s.net.transit.find? (fun t => t.1 == strKey a d) with
  | none => .next s
  | some t =>
    let p := { t.2 with stamp := seen.getD t.2.stamp }
    if !s.net.credit a d p then .next s
    else if !stampOk p.stamp then
      let plain := { p with stamp := { field := 0, flits := [] } }
      let s := { s with net := { s.net with transit := dropTransit (strKey a d) s.net.transit } }
      .next ((s.applyPacket a d plain true).baseline.sendFollow (p.follows d))
    else
      let (s, fs) := s.portArrive a d p
      .next (s.sendFollow fs)

/-- HELD_PACKET_READY (R336): in stream order. -/
def execHeldPacketReady (die src : BitVec 4) (s : State) : Host.Outcome State Fault Refusal :=
  match s.release1 die.toNat src.toNat false with
  | some (s, fs) => .next (s.sendFollow fs)
  | none => .next s

/-- HELD_PACKET_TIMEOUT (R348): a packet held longer than 100 µs is a window fault. -/
def execHeldPacketTimeout (die src : BitVec 4) (s : State) : Host.Outcome State Fault Refusal :=
  if s.net.early.any (fun h => h.die == die.toNat && h.src == src.toNat && decide (h.since + 100 < s.time)) then .next s.baseline
  else .next s

/-- BASELINE (R348): after an uncorrectable error in a clock, an early buffer or a stamp. -/
def execBaseline (s : State) : Host.Outcome State Fault Refusal := .next s.baseline

/-! ## Retiring a die (R346, R347, R403) -/

/-- The directory drops the holders of a die; a dirty line that only it held is poisoned at home. (DEDUCED, log entry 81.) -/
def State.dropDie (s : State) (d : Nat) : State :=
  let on (l : CLine) : Bool := l.die s == d
  let gone := s.cache.lines.filter on
  let rest := s.cache.lines.filter (fun l => !on l)
  let lost := (gone.filter (fun l => isDirty l.state && !rest.any (fun m => m.line == l.line))).map (·.line)
  let onDie (a : Agent) (base : Nat) : Bool :=
    match a with
    | .vcache _ => false
    | _ => s.dieOfHolder a true base == d
  let dir := s.cache.dir.map (fun r => { r with holders := r.holders.filter (fun a => !onDie a r.base) })
  lost.eraseDups.foldl State.markPoison { s with cache := { s.cache with lines := rest, dir := dir } }

/-- The stores that a core of the die has not sent are lost: the hub accepts none. -/
def loseStores (d : Nat) (st : Strand) : Strand :=
  if st.place.master?.map dieOfMaster = some d then { st with sbuf := [], vbuf := [] } else st

/-- The hub stops accepting packets from a die, and to it: what its cores still hold back is lost. -/
def State.cutOff (s : State) (d : Nat) : State :=
  let final := (List.range 13).map (fun e => (e, s.net.count d d e))
  { s with
    st := loseStores d s.st
    parked := s.parked.map (fun r => { r with st := loseStores d r.st })
    net := { s.net with
      retired := s.net.retired ++ [(d, final)]
      stalled := s.net.stalled.filter (fun q => q.1 / 16 != d && q.1 % 16 != d) } }

/-- Each ring of the die is treated as 0xC1: its strand ends as faulted, and the ring is retired. -/
def State.loseRing (s : State) (m : Nat) : State :=
  match s.occupant m with
  | some _ => s.onStrand (fun st => st.place.master? == some m) (fun s => s.contain { cause := 0xC1, pc := s.x.pc })
  | none => { s with cp := setMaster s.cp (some m) .retired }

/-- DIE_RETIRE (R346): a spoke die, once; then baseline. -/
def execDieRetire (die : BitVec 4) (s : State) : Host.Outcome State Fault Refusal :=
  let d := die.toNat
  if d = 0 ∨ d > 12 ∨ s.net.retired.any (fun r => r.1 == d) then .next s
  else .next ((List.range 48).foldl (fun s m => if dieOfMaster m = d then s.loseRing m else s) ((s.cutOff d).dropDie d)).baseline

/-- HUB_DIE_ERROR (R346, R403): the module stops. -/
def execHubDieError (s : State) : Host.Outcome State Fault Refusal := .next { s with stopped := true }

end Sys2Proof.Machine
end

