-- ==== Sys2Proof/Machine/Directory.lean ====
section
/-! DEFINITION. The directory and coherence events: regions, evictions, probes and fills (15 R342 to R345); the host's HDM-DB accesses
and its caches (17 R379, R385, R386); pool shelves (17 R387, R388, 25 R446). -/

namespace Sys2Proof.Machine

/-! ## Requests and regions (R342, R343) -/

/-- The strand that a back-invalidation waits for: an L1's. -/
def State.agentStrand (s : State) (a : Agent) : StrandId :=
  match a with
  | .l1 core => ((s.occupant (if core < 384 then core / 8 else 48 + (core - 384))).map (·.id)).getD 0
  | _ => 0

/-- The ring of an agent. -/
def agentRing (a : Agent) : Option Nat := match a with | .l1 core => if core < 384 then some (core / 8) else none | _ => none

/-- An access of an agent to a line: an access of vcache 0 goes to home, every other one into the agent's copy (R260), whose sectors
that have to be fetched are asked for; a write to a line that is not owned is asked for as well. -/
def State.dirAccess (s : State) (a : Agent) (line : Nat) (write : Bool) (hint : Hint) : State :=
  match a with
  | .vcache 0 =>
    let t := (s.dirSees a line write).bypassRecall line write
    { t with net := t.net.send (t.dieOfHolder a true line) (homeDie (line * 64)) (Mail.load line (t.dieOfHolder a true line)) }
  | a =>
    let t := s.dirCopy a line write hint
    match s.newFills t a line with
    | [] => t.fillRequest a line write
    | new => new.foldl (fun t l => t.fillRequest a l (write && l == line)) t

/-- DIRECTORY_REQUEST (R342, R385): regions are split on a conflict; the host is asked for a line that it may hold. An access to a
line that it does not track skips it (R284). (DEDUCED, log entry 83.) -/
def execDirectoryRequest (agent : Agent) (pa : BitVec 52) (demand : Demand) (s : State) : Host.Outcome State Fault Refusal :=
  let line := pa.toNat / 64
  let s := s.touch (agentRing agent) pa.toNat
  if !s.tracked pa.toNat then .next s
  else
    let s := s.dirAccess agent line demand.write demand.hint
    .next (if agent = .host then s else s.askHost demand.write (s.agentStrand agent) (s.hostLines demand.write (line * 64) 64))

/-- Two entries list the same holders. -/
def sameHolders (a b : DirRegion) : Bool := a.holders.all (fun h => b.holders.contains h) && b.holders.all (fun h => a.holders.contains h)

/-- REGION_MERGE (R342): two siblings with equal holders, 1 ms after their last conflict. -/
def execRegionMerge (pa : BitVec 52) (s : State) : Host.Outcome State Fault Refusal :=
  match s.regionFor (pa.toNat / 64) with
  | none => .next s
  | some r =>
    let sib := if r.base / r.size % 2 = 0 then r.base + r.size else r.base - r.size
    match s.cache.dir.find? (fun q => q.base == sib && q.size == r.size) with
    | none => .next s
    | some q =>
      if r.size < 1024 && sameHolders r q && decide (r.conflictAt + 1000 ≤ s.time) && decide (q.conflictAt + 1000 ≤ s.time) then
        let m : DirRegion := { r with base := min r.base q.base, size := 2 * r.size, conflictAt := max r.conflictAt q.conflictAt,
                                      used := max r.used q.used }
        .next { s with cache := { s.cache with dir := (s.cache.dir.filter (fun p => p != r && p != q)) ++ [m] } }
      else .next s

/-! ## Evictions, probes and fills (R344, R345) -/

/-- DIRTY_EVICTION (R344): the write-back is sent, and the copy is in evict-pending. -/
def execDirtyEviction (agent : Agent) (pa : BitVec 52) (s : State) : Host.Outcome State Fault Refusal :=
  match s.cline? agent (pa.toNat / 64) with
  | none => .next s
  | some c => if isDirty c.state then .next (s.writeBack c) else .next s

/-- WRITEBACK_ACK (R344): evict-pending ends, and a vcache's write-back counts (R435). -/
def execWritebackAck (agent : Agent) (pa : BitVec 52) (s : State) : Host.Outcome State Fault Refusal :=
  let line := pa.toNat / 64
  match s.cline? agent line with
  | some c => if c.state = .evictPending then .next (((s.countHeld 6 agent).dropLine agent line).dirLeave agent line) else .next s
  | none => .next s

/-- A holder acts on a probe: one of an external write squashes speculative readers of the line (R112). -/
def State.probed (s : State) (c : CLine) (k : ProbeKind) (externalWrite : Bool) : State :=
  (if externalWrite then s.writeSeen false c.line else s).actProbe c k

/-- PROBE_ARRIVAL (R345): held, with what it is of, while the line is in pending fill. A core with no copy squashes all the same, for
its speculative lines. -/
def execProbeArrival (agent : Agent) (pa : BitVec 52) (kind : ProbeKind) (externalWrite : Bool) (s : State) :
    Host.Outcome State Fault Refusal :=
  let line := pa.toNat / 64
  match s.cline? agent line with
  | none => .next (if externalWrite then s.writeSeen false line else s)
  | some c =>
    if c.state = .pendingFill then .next (s.setLine { c with probe := some (kind, externalWrite) })
    else .next (s.probed c kind externalWrite)

/-- The state in which a fill installs a sector: modified when it is for a write, else alone or shared. -/
def State.filled (s : State) (c : CLine) : LineState :=
  if c.want then .modified
  else if s.cache.lines.any (fun q => q.line == c.line && q.holder != c.holder) then .shared
  else .exclusive

/-- FILL_REPLY (R345): the sectors of the line that are in pending fill are installed, and a held probe then acts. -/
def execFillReply (agent : Agent) (pa : BitVec 52) (s : State) : Host.Outcome State Fault Refusal :=
  match s.cline? agent (pa.toNat / 64) with
  | none => .next s
  | some c =>
    if c.state ≠ .pendingFill then .next s
    else
      let fills := (s.sectorsOf c).filter (fun q => q.state == .pendingFill)
      let t := fills.foldl (fun t q => t.setLine { q with state := s.filled q, probe := none, want := false }) s
      .next (fills.foldl (fun t q => match q.probe, t.cline? q.holder q.line with
        | some (k, w), some q' => t.probed q' k w
        | _, _ => t) t)

/-! ## The host (R379, R385, R386) -/

/-- HBM address of a byte of the HDM-DB window, when bit 8 is accepted and y lies in it. -/
def State.hdmAddr (s : State) (y n : Nat) : Option Nat :=
  if s.feature 8 && decide (1 ≤ n) && decide (y + n ≤ bits s.mbx.hdmcfg 0 10 * 2 ^ 30) then
    some (bits s.mbx.hdmcfg 16 10 * 2 ^ 30 + y)
  else none

/-- A request of the host is held: a line has a back-invalidation outstanding, or an earlier request waits. -/
def State.hostHolding (s : State) (pa n : Nat) : Bool :=
  (linesOf pa n).any (fun l => s.cache.backInv.any (fun b => b.line == l && (!b.answered || (s.strandById b.owner).isSome)) ||
    s.cache.hostHeld.any (fun h => decide (h.1 / 64 ≤ l) && decide (l * 64 < h.1 + (match h.2 with | some bs => bs.length | none => 64))))

/-- Perform a host request: a write, or a read, after which the host may hold the line. (DEDUCED, log entry 82.) -/
def State.hostServe (s : State) (pa : Nat) (data : Option (List Byte)) : State :=
  match data with
  | some bs => s.hubWrites 1 [(pa, bs)]
  | none =>
    let s := (s.touch none pa).agentLines 0 1 pa 64 false
    let c : CLine := { holder := .host, line := pa / 64, state := .exclusive, current := true, way := 0, probe := none }
    let lines := s.cache.lines.filter (fun q => !(q.holder == .host && q.line == pa / 64))
    { s with cache := { s.cache with lines := lines ++ [c] } }.dirSees .host (pa / 64) false

/-- Serve the request or hold it; a line in doubt holds it too (R369), and then nothing happens yet. -/
def State.hostRequest (s : State) (pa n : Nat) (data : Option (List Byte)) : State :=
  if s.inDoubt pa n then s
  else if s.hostHolding pa n then { s with cache := { s.cache with hostHeld := s.cache.hostHeld ++ [(pa, data)] } }
  else s.hostServe pa data

/-- HOST_MEM_WRITE (R385). -/
def execHostMemWrite (y : Nat) (data : List Byte) (s : State) : Host.Outcome State Fault Refusal :=
  match s.hdmAddr y data.length with
  | none => .next s
  | some pa => .next (s.hostRequest pa data.length (some data))

/-- HOST_MEM_READ (R385). -/
def execHostMemRead (y n : Nat) (s : State) : Host.Outcome State Fault Refusal :=
  match s.hdmAddr y n with
  | none => .next s
  | some pa => .next ((linesOf pa n).foldl (fun s l => s.hostRequest (l * 64) 64 none) s)

/-- BACK_INVALIDATION_RESPONSE (R385): the host's write-back of a modified line is performed, the host gives the line up or keeps a
shared copy, and the waiting access may go on. -/
def execBackInvalidationResponse (pa : BitVec 52) (writeback : Option (BitVec 512)) (s : State) :
    Host.Outcome State Fault Refusal :=
  let line := pa.toNat / 64
  match s.cache.backInv.find? (fun b => b.line == line && !b.answered) with
  | none => .next s
  | some b =>
    let s := match writeback with | some v => s.hubWrites 1 [(line * 64, leBytes 64 v.toNat)] | none => s
    let s := if b.write then (s.dropLine .host line).dirLeave .host line
      else { s with cache := { s.cache with lines := s.cache.lines.map (fun c =>
        if c.holder = .host ∧ c.line = line then { c with state := .shared } else c) } }
    .next { s with cache := { s.cache with backInv := s.cache.backInv.map (fun q => if q.line = line then { q with answered := true } else q) } }

/-- The oldest held host request whose lines are free again is served. (DEDUCED, log entry 84.) -/
def State.hostReady (s : State) : Option State :=
  match s.cache.hostHeld with
  | [] => none
  | h :: rest =>
    let n := match h.2 with | some bs => bs.length | none => 64
    let t := { s with cache := { s.cache with hostHeld := rest } }
    let free := (linesOf h.1 n).all (fun l =>
      !s.cache.backInv.any (fun b => b.line == l && (!b.answered || (s.strandById b.owner).isSome)))
    if free && !s.inDoubt h.1 n then some (t.hostServe h.1 h.2) else none

/-- HOST_SNOOP (R386): of a host line that the device caches; a line in pending fill holds it. `newData` is what the host then holds
there. -/
def execHostSnoop (pa : BitVec 52) (invalidate : Bool) (newData : Option (BitVec 512)) (s : State) :
    Host.Outcome State Fault Refusal :=
  let line := pa.toNat / 64
  if !isHostMem pa.toNat then .next s
  else
    let k : ProbeKind := if invalidate then .invalidate else .share
    let held := s.cache.lines.filter (fun c => c.line == line && c.holder != .host)
    let filling := held.filter (fun c => c.state == .pendingFill)
    if !filling.isEmpty then .next (filling.foldl (fun s c => s.setLine { c with probe := some (k, newData.isSome) }) s)
    else
      let s := held.foldl (fun s c => s.actProbe c k) s
      .next (match newData with | some v => s.performWhole (line * 64) (leBytes 64 v.toNat) | none => s)

/-- LINK_TRAINING_FAILURE (R379, R351): the link stays down; the event log records it. (DEDUCED, log entry 92.) -/
def execLinkTrainingFailure (port : LinkPort) (s : State) : Host.Outcome State Fault Refusal :=
  let s := match port with
    | .ualink p => { s with fab := { s.fab with lanes := vset s.fab.lanes p.toNat 0 } }
    | .host => s
    | .pool => s
    | .stack _ => s
    | .spoke _ => s
  .next (s.log 0 0)

/-! ## Pool shelves (R387, R388) -/

/-- SHELF_BACK_INVALIDATION (R387): dirty data goes back, the sharers drop, the line is not held; a poisoned line answers with poison. -/
def execShelfBackInvalidation (pa : BitVec 52) (s : State) : Host.Outcome State Fault Refusal :=
  if !isPool pa.toNat then .next s
  else
    let line := pa.toNat / 64
    let (fill, held) := (s.cache.lines.filter (fun c => c.line == line)).partition (fun c => c.state == .pendingFill)
    let s := fill.foldl (fun s c => s.setLine { c with probe := some (.invalidate, false) }) s
    .next (held.foldl (fun s c => s.actProbe c .invalidate) s)

/-- Stores to a range that wait in the buffers of a strand are discarded. -/
def dropStores (base size : Nat) (st : Strand) : Strand :=
  let keep (b : BufStore) : Bool := !(decide (base ≤ b.pa) && decide (b.pa < base + size))
  { st with sbuf := st.sbuf.filter keep, vbuf := st.vbuf.filter keep }

/-- The event of R388. -/
def shelfEvent (i lines base dropped : Nat) : Nat := record [(0, 2, 3), (2, 1, i), (4, 4, lines), (8, 8, base), (16, 8, dropped)]

/-- A shelf is lost: stores not acknowledged are discarded, its lines are poison, and an event tells of it. (DEDUCED, log entry 86.) -/
def State.loseShelf (s : State) (i : Nat) : State :=
  match vget s.shelves none i with
  | none => s
  | some h =>
    if h.lost then s
    else
      let inside (pa : Nat) : Bool := decide (h.base ≤ pa) && decide (pa < h.base + h.size)
      let pending := s.scatter.filter (fun e => inside e.pa)
      let stores := s.strands.foldl (fun n st => n + ((st.sbuf ++ st.vbuf).filter (fun b => inside b.pa)).length) pending.length
      let ls := ((s.cache.lines.filter (fun c => inside (c.line * 64))).map (·.line)).eraseDups
      let s := { s with
        st := dropStores h.base h.size s.st
        parked := s.parked.map (fun (p : Runner) => { p with st := dropStores h.base h.size p.st })
        shelves := vset s.shelves i (some { h with lost := true })
        scatter := s.scatter.filter (fun e => !inside e.pa)
        lostRanges := s.lostRanges ++ [(h.base, h.size)]
        rewritten := s.rewritten.filter (fun l => !inside (l * 64))
        cache := { s.cache with lines := s.cache.lines.filter (fun c => !inside (c.line * 64)) } }
      let r := shelfEvent i ls.length h.base stores
      (List.range 32).foldl (fun s v => if bit (vget s.cp.phys 0 v) (16 + i) then s.tellSupervisor v r else s) (s.mailEvent r)

/-- SHELF_LOST (R388). -/
def execShelfLost (i : BitVec 4) (s : State) : Host.Outcome State Fault Refusal := .next (s.loseShelf i.toNat)

/-- SHELF_RESPONSE_TIMEOUT (R388): silent for 10 ms. -/
def execShelfResponseTimeout (i : BitVec 4) (s : State) : Host.Outcome State Fault Refusal := .next (s.loseShelf i.toNat)

/-- A shelf's part of the pool range: aligned to 1 GiB, and apart from the other shelves' parts (R380). -/
def State.shelfFits (s : State) (i base size : Nat) : Bool :=
  decide (base % 2 ^ 30 = 0) && decide (0 < size) && isPool base && isPool (base + size - 1) &&
    (List.range 16).all (fun j => j == i || (match vget s.shelves none j with
      | some h => decide (base + size ≤ h.base) || decide (h.base + h.size ≤ base)
      | none => true))

/-- Write a shelf into its table entry. -/
def State.enterShelf (s : State) (i base size : Nat) : State :=
  if s.shelfFits i base size then
    { s with
      shelves := vset s.shelves i (some { base := base, size := size, lost := false })
      mbx := { s.mbx with shelves := vset s.mbx.shelves i (BitVec.ofNat 64 base, BitVec.ofNat 64 size) } }
  else s

/-- POOL_BRING_UP (R446): after bit 10 is accepted the shelves get their parts, and mbstat bit 3 is set. -/
def execPoolBringUp (shelves : List (BitVec 4 × Nat × Nat)) (s : State) : Host.Outcome State Fault Refusal :=
  if s.boot != .ready || s.poolUp || !s.feature 10 then .next s
  else
    let s := shelves.foldl (fun s h => s.enterShelf h.1.toNat h.2.1 h.2.2) s
    .next { s with poolUp := true, mbx := { s.mbx with mbstat := putBits s.mbx.mbstat 3 1 1 } }

/-- SHELF_RETURN (R388): a lost shelf returns, or one appears later, and is enumerated afresh. Its lines stay poison until written
whole. (DEDUCED, log entry 87.) -/
def execShelfReturn (i : BitVec 4) (base size : Nat) (s : State) : Host.Outcome State Fault Refusal :=
  let present := match vget s.shelves none i.toNat with | some h => !h.lost | none => false
  if !s.poolUp || present then .next s else .next (s.enterShelf i.toNat base size)

end Sys2Proof.Machine
end

