-- ==== Sys2Proof/Machine/Counters.lean ====
section
/-! DEFINITION. Performance counters: PMCR, PMCW, PMCF (24 R433, R434), the wrap of a counter and of a bank counter
(24 R432, R435). -/

namespace Sys2Proof.Machine

/-- PMCR (R433): the count as it stands. -/
def execPmcr (d : BitVec 5) (j : BitVec 2) (s : State) : Host.Outcome State Fault Refusal :=
  finish do
    gate (.pmcr d j) {} s
    .ok (s.result d (BitVec.ofNat 64 (bits (vget s.st.pmcfg 0 j.toNat) 0 48)))

/-- PMCW (R433): the count, other fields unchanged. -/
def execPmcw (a : BitVec 5) (j : BitVec 2) (s : State) : Host.Outcome State Fault Refusal :=
  finish do
    gate (.pmcw a j) { lvl := 1 } s
    headWait s
    .ok (s.setPmcfg j.toNat (putBits (vget s.st.pmcfg 0 j.toNat) 0 48 (bits (s.getS a) 0 48))).advance

/-- PMCF (R433): the four enables. -/
def execPmcf (a : BitVec 5) (s : State) : Host.Outcome State Fault Refusal :=
  finish do
    gate (.pmcf a) { lvl := 1 } s
    headWait s
    let v := s.getS a
    .ok ((List.range 4).foldl (fun s j =>
      s.setPmcfg j (putBits (vget s.st.pmcfg 0 j) 63 1 (bits v j 1))) s).advance

/-- COUNTER_WRAP (R432): an addition carries counter j of the focus strand past zero. -/
def execCounterWrap (j : BitVec 2) (s : State) : Host.Outcome State Fault Refusal :=
  let w := vget s.st.pmcfg 0 j.toNat
  if !bit w 63 || bits w 0 48 != 2 ^ 48 - 1 || s.st.place == .management then .next s
  else
    let s := s.setPmcfg j.toNat (putBits (putBits w 0 48 0) 62 1 1)
    if bit w 61 then
      .next { s with st := { s.st with
        ovfPend := s.st.ovfPend ||| (1#4 <<< j.toNat)
        trap := { s.st.trap with status := putBits s.st.trap.status 11 1 1 } } }
    else .next s

/-- BANK_COUNTER_WRAP (R435): counter k of function v counts past 2^48 - 1. -/
def execBankCounterWrap (v : BitVec 5) (k : BitVec 2) (s : State) : Host.Outcome State Fault Refusal :=
  let full := bits (vget s.cp.bankCtr 0 (v.toNat * 4 + k.toNat)) 0 48 == 2 ^ 48 - 1
  .next (if full && s.bankCounts v.toNat k.toNat then s.bankAdd v.toNat k.toNat 1 else s)

end Sys2Proof.Machine
end

