-- ==== Sys2Proof/Machine/Sha512.lean ====
section
/-! DEFINITION. The SHA-512 digest that R24 and R445 name. The spec gives the name alone; the function is that of FIPS 180-4
(PRESUMED, log entry 100). -/

namespace Sys2Proof.Machine

/-- Round constants: the first 64 bits of the fractions of the cube roots of the first 80 primes. -/
def shaRound : List Word :=
  [0x428A2F98D728AE22, 0x7137449123EF65CD, 0xB5C0FBCFEC4D3B2F, 0xE9B5DBA58189DBBC,
   0x3956C25BF348B538, 0x59F111F1B605D019, 0x923F82A4AF194F9B, 0xAB1C5ED5DA6D8118,
   0xD807AA98A3030242, 0x12835B0145706FBE, 0x243185BE4EE4B28C, 0x550C7DC3D5FFB4E2,
   0x72BE5D74F27B896F, 0x80DEB1FE3B1696B1, 0x9BDC06A725C71235, 0xC19BF174CF692694,
   0xE49B69C19EF14AD2, 0xEFBE4786384F25E3, 0x0FC19DC68B8CD5B5, 0x240CA1CC77AC9C65] ++
  [0x2DE92C6F592B0275, 0x4A7484AA6EA6E483, 0x5CB0A9DCBD41FBD4, 0x76F988DA831153B5,
   0x983E5152EE66DFAB, 0xA831C66D2DB43210, 0xB00327C898FB213F, 0xBF597FC7BEEF0EE4,
   0xC6E00BF33DA88FC2, 0xD5A79147930AA725, 0x06CA6351E003826F, 0x142929670A0E6E70,
   0x27B70A8546D22FFC, 0x2E1B21385C26C926, 0x4D2C6DFC5AC42AED, 0x53380D139D95B3DF,
   0x650A73548BAF63DE, 0x766A0ABB3C77B2A8, 0x81C2C92E47EDAEE6, 0x92722C851482353B] ++
  [0xA2BFE8A14CF10364, 0xA81A664BBC423001, 0xC24B8B70D0F89791, 0xC76C51A30654BE30,
   0xD192E819D6EF5218, 0xD69906245565A910, 0xF40E35855771202A, 0x106AA07032BBD1B8,
   0x19A4C116B8D2D0C8, 0x1E376C085141AB53, 0x2748774CDF8EEB99, 0x34B0BCB5E19B48A8,
   0x391C0CB3C5C95A63, 0x4ED8AA4AE3418ACB, 0x5B9CCA4F7763E373, 0x682E6FF3D6B2B8A3,
   0x748F82EE5DEFB2FC, 0x78A5636F43172F60, 0x84C87814A1F0AB72, 0x8CC702081A6439EC] ++
  [0x90BEFFFA23631E28, 0xA4506CEBDE82BDE9, 0xBEF9A3F7B2C67915, 0xC67178F2E372532B,
   0xCA273ECEEA26619C, 0xD186B8C721C0C207, 0xEADA7DD6CDE0EB1E, 0xF57D4F7FEE6ED178,
   0x06F067AA72176FBA, 0x0A637DC5A2C898A6, 0x113F9804BEF90DAE, 0x1B710B35131C471B,
   0x28DB77F523047D84, 0x32CAAB7B40C72493, 0x3C9EBE0A15C9BEBC, 0x431D67C49C100D4C,
   0x4CC5D4BECB3E42B6, 0x597F299CFC657E2A, 0x5FCB6FAB3AD6FAEC, 0x6C44198C4A475817]

/-- Start value: the first 64 bits of the fractions of the square roots of the first 8 primes. -/
def shaStart : Vector Word 8 := #v[
   0x6A09E667F3BCC908, 0xBB67AE8584CAA73B, 0x3C6EF372FE94F82B, 0xA54FF53A5F1D36F1,
   0x510E527FADE682D1, 0x9B05688C2B3E6C1F, 0x1F83D9ABFB41BD6B, 0x5BE0CD19137E2179]

/-- Message words of a block: each word from the 16 before it, the newest first. -/
def shaExtend : Nat → List Word → List Word
  | 0, w => w
  | n + 1, w =>
    let at_ (i : Nat) : Word := w.getD i 0
    let s0 := (at_ 14).rotateRight 1 ^^^ (at_ 14).rotateRight 8 ^^^ (at_ 14) >>> 7
    let s1 := (at_ 1).rotateRight 19 ^^^ (at_ 1).rotateRight 61 ^^^ (at_ 1) >>> 6
    shaExtend n ((at_ 15 + s0 + at_ 6 + s1) :: w)

/-- One round on the working variables. -/
def shaStep (v : Vector Word 8) (kw : Word × Word) : Vector Word 8 :=
  let a := v[0]
  let e := v[4]
  let t1 := v[7] + (e.rotateRight 14 ^^^ e.rotateRight 18 ^^^ e.rotateRight 41) + ((e &&& v[5]) ^^^ (~~~e &&& v[6])) + kw.1 + kw.2
  let t2 := (a.rotateRight 28 ^^^ a.rotateRight 34 ^^^ a.rotateRight 39) + ((a &&& v[1]) ^^^ (a &&& v[2]) ^^^ (v[1] &&& v[2]))
  #v[t1 + t2, a, v[1], v[2], v[3] + t1, e, v[5], v[6]]

/-- The hash value after a block of 128 bytes. -/
def shaBlock (h : Vector Word 8) (b : List Byte) : Vector Word 8 :=
  let first := (List.range 16).map (fun i => BitVec.ofNat 64 (leNat ((b.drop (8 * i)).take 8).reverse))
  let w := (shaExtend 64 first.reverse).reverse
  Vector.zipWith (· + ·) h ((shaRound.zip w).foldl shaStep h)

def shaBlocks (b : List Byte) : Nat → Vector Word 8 → Vector Word 8
  | 0, h => h
  | n + 1, h => shaBlocks (b.drop 128) n (shaBlock h (b.take 128))

/-- The padded message: a 1 bit, zeros, and the length in bits as 128 bits, to a multiple of 128 bytes. -/
def shaPad (b : List Byte) : List Byte :=
  b ++ (0x80 : Byte) :: List.replicate ((239 - b.length % 128) % 128) 0 ++ (leBytes 16 (8 * b.length)).reverse

/-- SHA-512 of bytes: the 64 bytes of the digest. -/
def sha512 (b : List Byte) : List Byte :=
  let p := shaPad b
  (shaBlocks p (p.length / 128) shaStart).toList.flatMap (fun w => (leBytes 8 w.toNat).reverse)

end Sys2Proof.Machine
end

