-- ==== Sys2Proof/Machine/System.lean ====
section
/-! DEFINITION. Traps by instruction, return, HALT and IDLE (18 R398 to R402); words that are no instruction (02 R48); held traps,
asynchronous events, core storage errors and the management interrupt (18 R396, R397, R403, 25 R442). -/

namespace Sys2Proof.Machine

/-! ## Major 0x11 -/

/-- TRAP (R399). -/
def execTrap (code : BitVec 11) (s : State) : Host.Outcome State Fault Refusal :=
  finish do
    gate (.trap code) Need.any s
    headWait s
    .error (s.trapS 0x08 (code.setWidth 64))

/-- SVC (R399). -/
def execSvc (code : BitVec 11) (s : State) : Host.Outcome State Fault Refusal :=
  finish do
    gate (.svc code) Need.any s
    headWait s
    .error (s.trapS 0x09 (code.setWidth 64))

/-- BKPT (R399): a speculative chunk holds its trap. -/
def execBkpt (code : BitVec 11) (s : State) : Host.Outcome State Fault Refusal :=
  finish do
    gate (.bkpt code) Need.any s
    .error (s.trapS 0x0A (code.setWidth 64))

/-- TRET (R400). -/
def execTret (s : State) : Host.Outcome State Fault Refusal :=
  finish do
    gate .tret { Need.any with lvl := 1 } s
    check (bit s.st.trap.status 5 && !s.spec) (s.trapS 0x05 (wordOf .tret))
    let t := s.st.trap.tpc
    check (t &&& 0xFFC0000000000003 == 0) (s.trapS 0x04 t)
    .ok { s.tretTo (t.setWidth 54) with retired := true }

/-- HALT (R401, R438): the management core stops fetching until module reset. -/
def execHalt (s : State) : Host.Outcome State Fault Refusal :=
  finish do
    gate .halt { Need.any with lvl := 3 } s
    .ok { s.advance with mg := { s.mg with halted := true } }

/-- What ends IDLE's stall: a message, a pending event, or a pre-emption stop (R401). -/
def State.idleEnds (s : State) : Bool :=
  !s.st.inbox.isEmpty || bit s.st.trap.status 11 ||
    (match s.st.phase with | .running => false | .stopping _ _ => true | .saving => true | .frozen => false)

/-- IDLE (R401). -/
def execIdle (s : State) : Host.Outcome State Fault Refusal :=
  finish do
    gate .idle { Need.any with lvl := 1 } s
    headWait s
    if s.idleEnds then .ok ({ s with st := { s.st with wait := none } }).advance
    else .error (s.setWait .idle 0)

/-! ## Traps that no instruction raises -/

/-- NON_INSTRUCTION_WORD (R48): a word that fails decode_check traps. -/
def execNonInstructionWord (w : BitVec 32) (s : State) : Host.Outcome State Fault Refusal :=
  match decode w with
  | .ok _ => .next s
  | .error e => .next (s.trapS (BitVec.ofNat 8 e.cause) (w.setWidth 64))

/-- HELD_TRAP_TAKEN (R397): with held = 1. -/
def execHeldTrapTaken (s : State) : Host.Outcome State Fault Refusal :=
  match s.x.held with
  | none => .next s
  | some r => if s.spec then .next s else .next (s.take r true)

/-- An asynchronous event can be taken: pending, enabled, in the head chunk, before the next instruction begins (R396): not
while the instruction at pc waits with an effect made (a barrier arrival, IDLE, a request sent; DEDUCED, log entry 18). -/
def State.asyncDue (s : State) : Bool :=
  bit s.st.trap.status 11 && bit s.st.trap.status 6 && !s.spec && s.st.wait.isNone && s.x.replies.isEmpty

/-- Take an asynchronous event (R393, R396): with tl set it is a double trap. -/
def State.takeAsync (s : State) (cause : BitVec 8) (tval : Word) : State :=
  let r : TrapRec := { cause := cause, pc := s.x.pc, tval := tval }
  if bit s.st.trap.status 5 then s.freeze r else s.enter r false true

/-- Write ipend. -/
def State.setIpend (s : State) (b : Bool) : State :=
  s.setTrap { s.st.trap with status := putBits s.st.trap.status 11 1 (b2n b 1) }

/-- ASYNC_EVENT_TAKEN (R396, R432): cause 0xE3, tval holding the counters that overflowed; ipend clears. -/
def execAsyncEventTaken (s : State) : Host.Outcome State Fault Refusal :=
  if s.st.place = .management ∨ !s.asyncDue then .next s
  else
    let bits := s.st.ovfPend
    let s := { s with st := { s.st with ovfPend := 0 } }
    .next (s.setIpend false |>.takeAsync 0xE3 (bits.setWidth 64))

/-- The management core takes its oldest queued interrupt (R442). -/
def State.takeManagement (s : State) : State :=
  match s.mg.irqs with
  | [] => s
  | q :: rest =>
    if s.asyncDue && !s.mg.halted then
      let s := { s with mg := { s.mg with irqs := rest } }
      (s.setIpend (!rest.isEmpty)).takeAsync 0xE4 q.2
    else s

/-- MANAGEMENT_INTERRUPT (R442): cause 0xE4. -/
def execManagementInterrupt (s : State) : Host.Outcome State Fault Refusal :=
  .next (s.onStrand (fun st => st.place == .management) State.takeManagement)

/-- CORE_STORAGE_ERROR (R394, R403): 0xC1 in the strand of a ring (0 to 47) or gateway core; an empty one is retired.
(DEDUCED, log entry 57.) -/
def execCoreStorageError (master : BitVec 6) (s : State) : Host.Outcome State Fault Refusal :=
  match s.occupant master.toNat with
  | some _ => .next (s.onStrand (fun st => st.place.master? == some master.toNat)
      (fun s => s.raise { cause := 0xC1, pc := s.x.pc }))
  | none => .next { s with cp := setMaster s.cp (some master.toNat) .retired }

end Sys2Proof.Machine
end

