-- ==== Sys2Proof/Machine/Management.lean ====
section
/-! DEFINITION. Sensors, trips and management interrupts (25 R440 to R442); module reset, recovery and bring-up (01 R24 to R26, 25
R446). -/

namespace Sys2Proof.Machine

/-! ## Sensors -/

/-- The management core's queue is not empty: its ipend is set (R442). -/
def State.raiseManagement (s : State) : State :=
  s.onStrand (fun st => st.place == .management) (fun s => s.setIpend true)

/-- Put a transition in the queue: it replaces an entry of its sensor that has not been taken. -/
def putIrq (i : Nat) (tval : Word) : List (Nat × Word) → List (Nat × Word)
  | [] => [(i, tval)]
  | q :: qs => if q.1 = i then (i, tval) :: qs else q :: putIrq i tval qs

/-- Queue a management interrupt (R442). -/
def State.queueIrq (s : State) (i : Nat) (kind : Nat) : State :=
  ({ s with mg := { s.mg with irqs := putIrq i (BitVec.ofNat 64 (i + kind)) s.mg.irqs } }).raiseManagement

def State.setSensor (s : State) (i : Nat) (q : Sensor) : State := { s with mg := { s.mg with sensors := vset s.mg.sensors i q } }

/-- The hardware trip (R441): a compute die's sensor forces its die's step; any other stops the module. Starts and ends are
logged. (DEDUCED, log entry 88.) -/
def State.tripStep (s : State) (i : Nat) (temp rel : BitVec 16) : State :=
  let die := dieOfSensor i
  if temp.toInt ≥ s.mg.trip.toInt then
    if i ≥ 64 then { s.log die 0 with stopped := true }
    else if s.mg.tripped.getLsbD i then s
    else { s.log die 0 with mg := { (s.log die 0).mg with tripped := s.mg.tripped ||| (1#96 <<< i) } }
  else if temp.toInt ≤ rel.toInt ∧ s.mg.tripped.getLsbD i then
    { s.log die 0 with mg := { (s.log die 0).mg with tripped := s.mg.tripped &&& ~~~(1#96 <<< i) } }
  else s

/-- SENSOR_READING (R440, R441): a transition by the table of R440, a repeat 1 ms after the entry or the last one among them. -/
def execSensorReading (index : BitVec 7) (temp : BitVec 16) (s : State) : Host.Outcome State Fault Refusal :=
  let i := index.toNat
  match s.mg.sensors.toArray[i]? with
  | none => .next s
  | some q =>
    let s := s.tripStep i temp q.rel
    if !q.alert && decide (temp.toInt ≥ q.alrt.toInt) then
      .next ((s.setSensor i { q with temp := temp, alert := true, since := s.time }).queueIrq i 0)
    else if q.alert && decide (temp.toInt ≤ q.rel.toInt) then
      .next ((s.setSensor i { q with temp := temp, alert := false, since := s.time }).queueIrq i 0x100)
    else if q.alert && decide (q.since + 1000 ≤ s.time) then
      .next ((s.setSensor i { q with temp := temp, since := s.time }).queueIrq i 0x200)
    else .next (s.setSensor i { q with temp := temp })

/-- ALERT_REPEAT (R440): above rel, 1 ms after the entry or the last repeat. -/
def execAlertRepeat (index : BitVec 7) (s : State) : Host.Outcome State Fault Refusal :=
  let i := index.toNat
  match s.mg.sensors.toArray[i]? with
  | none => .next s
  | some q =>
    if q.alert && decide (q.temp.toInt > q.rel.toInt) && decide (q.since + 1000 ≤ s.time) then
      .next ((s.setSensor i { q with since := s.time }).queueIrq i 0x200)
    else .next s

/-- The throttle step at which a compute die runs (R441). -/
def Mgmt.stepOf (m : Mgmt) (die : Nat) : Nat :=
  let forced := (List.range 64).any (fun i => dieOfSensor i == die && m.tripped.getLsbD i)
  max (m.thr.toNat / 16 ^ (die - 1) % 16) (if forced then 15 else 0)

/-! ## Reset and bring-up -/

/-- What a module reset leaves: the flash image, host and pool memory as their own systems keep them, the inputs to come, and the
count of free values. (DEDUCED, log entry 89.) -/
def State.afterReset (s : State) : State :=
  { State.reset with
    mem := s.mem.filter (fun c => !isHbm c.1)
    poison := s.poison.filter (fun l => !isHbm (l * 64))
    flash := s.flash
    undef := s.undef
    inputs := s.inputs }

/-- The boot ROM's verification of an image (R24). -/
def imageVerifies (i : Image) : Bool := Config.imageSigned (sha512 i.body) i.signature

/-- The flash holds an image that verifies. -/
def State.flashOk (s : State) : Bool := match s.flash with | some i => imageVerifies i | none => false

/-- The image's first 256 KiB stand in the SRAM from which firmware is fetched (R438; DEDUCED, log entry 90). -/
def State.loadFirmware (s : State) : State :=
  match s.flash with
  | none => s
  | some i => { s with sram := Memory.writeBytes s.sram (fun _ => 0) 0 (i.body.take 0x40000) }

/-- Bring-up (R446): training, where each stack and spoke link that fails is logged, vcache 1 with the parcels that fail fenced, HBM zero,
translation logs, feature words. (DEDUCED, log entry 96.) -/
def State.bringUp (s : State) (badStacks badSpokes : List (BitVec 4)) (badParcels : List (BitVec 13)) (logBase : BitVec 36) : State :=
  let hbms := (badStacks.map (·.toNat)).filter (· < 12)
  let spokes := (badSpokes.map (·.toNat)).filter (fun d => decide (1 ≤ d) && decide (d ≤ 12))
  if !hbms.isEmpty || !spokes.isEmpty then
    { (hbms.map (9 + · / 3) ++ spokes).foldl (fun (s : State) d => s.log d 0) s with boot := .halted }
  else
    let base := logBase.toNat * 65536
    let base := if isHbm (base + 9 * 65536 - 1) then base else 0
    { s with
      boot := .ready
      cache := { s.cache with fenced := badParcels.eraseDups, sysDegraded := !badParcels.isEmpty }
      mbx := { s.mbx with tlbase := BitVec.ofNat 64 base, fw := vset s.mbx.fw 0 0x73F, mbstat := 1 } }

/-- MODULE_RESET (R24 to R26): the boot ROM verifies the image in flash before any firmware runs; a failure, or the strap, leads
to recovery. -/
def execModuleReset (strap : Bool) (badStacks badSpokes : List (BitVec 4)) (badParcels : List (BitVec 13)) (logBase : BitVec 36) (s : State) :
    Host.Outcome State Fault Refusal :=
  let s := s.afterReset
  if strap || !s.flashOk then .next { s with boot := .recovery }
  else .next (s.loadFirmware.bringUp badStacks badSpokes badParcels logBase)

/-- RECOVERY_IMAGE (R25, R26): an image that verifies is written to flash; a reset that cuts the writing short leaves none. An image
that does not verify is discarded. The boot ROM stays in recovery until the next reset. (DEDUCED, log entry 90.) -/
def execRecoveryImage (image : Image) (interrupted : Bool) (s : State) : Host.Outcome State Fault Refusal :=
  if s.boot != .recovery || !imageVerifies image then .next s
  else .next { s with flash := if interrupted then none else some image }

end Sys2Proof.Machine
end

