-- ==== Sys2Proof/Machine/Matrix.lean ====
section
/-! DEFINITION. Tile slots, accumulators and the matrix array (09_matrix_engine.md R210 to R237). -/

namespace Sys2Proof.Machine

/-! ## Rows (R210 to R213) -/

/-- Row r of an accumulator; a row without a defined value is free (R5). -/
def State.accRow (s : State) (j r : Nat) : State × Nat :=
  match s.x.acc.find? (fun e => e.1 == 256 * j + r) with
  | some e => (s, e.2.toNat)
  | none => let (t, v) := s.free 5 8192; (t, v.toNat)

/-- Row r of a slot. -/
def State.slotRow (s : State) (q r : Nat) : State × Nat :=
  match s.x.slot.find? (fun e => e.1 == 256 * q + r) with
  | some e => (s, e.2.toNat)
  | none => let (t, v) := s.free 6 4096; (t, v.toNat)

/-- Several rows of one resource, in order. -/
def readRows (read : State → Nat → State × Nat) : List Nat → State → State × List Nat
  | [], s => (s, [])
  | r :: rs, s =>
    let (s, v) := read s r
    let (s, vs) := readRows read rs s
    (s, v :: vs)

def State.accRows (s : State) (j : Nat) (rs : List Nat) : State × List Nat := readRows (fun s r => s.accRow j r) rs s
def State.slotRows (s : State) (q : Nat) (rs : List Nat) : State × List Nat := readRows (fun s r => s.slotRow q r) rs s

def rowPoison (v : BitVec 256) (r : Nat) : Bool := v.getLsbD r
def putPoison (v : BitVec 256) (r : Nat) (p : Bool) : BitVec 256 :=
  if p then v ||| ((1#256) <<< r) else v &&& ~~~((1#256) <<< r)

def State.accBad (s : State) (j r : Nat) : Bool := rowPoison (vget s.x.accPoison 0 j) r
def State.slotBad (s : State) (q r : Nat) : Bool := rowPoison (vget s.x.slotPoison 0 q) r

/-- Write a row of an accumulator: its value, or, with the poison bit, no defined value (R212); it is dirty. -/
def State.putAcc (s : State) (j r v : Nat) (bad : Bool) : State :=
  { s with x := { s.x with
    acc := if bad then s.x.acc.filter (fun e => e.1 != 256 * j + r) else update (256 * j + r) (BitVec.ofNat 8192 v) s.x.acc
    accPoison := vset s.x.accPoison j (putPoison (vget s.x.accPoison 0 j) r bad)
    dirty := s.x.dirty ||| ((1#24) <<< j) } }

/-- Write a row of a slot. -/
def State.putSlot (s : State) (q r v : Nat) (bad : Bool) : State :=
  { s with x := { s.x with
    slot := if bad then s.x.slot.filter (fun e => e.1 != 256 * q + r) else update (256 * q + r) (BitVec.ofNat 4096 v) s.x.slot
    slotPoison := vset s.x.slotPoison q (putPoison (vget s.x.slotPoison 0 q) r bad)
    dirty := s.x.dirty ||| ((1#24) <<< (8 + q)) } }

/-- Cell n of a row. -/
def cellOf (row n : Nat) : Nat := nbits row (32 * n) 32

/-- The first cells of a row replaced. -/
def putCells (row : Nat) (cs : List Nat) : Nat := putAll row 32 ((List.range cs.length).zip cs)

/-! ## Claims, shape and formats (R214, R215, R219) -/

/-- What every matrix instruction needs: feature bit 5, a ring core. -/
def matrixNeed : Need := { feat := some 5, gateway := false }

/-- The claim check: tval holds the mask needed; q16 is no resource. -/
def claimCheck (s : State) (accs slots : List Nat) : Run Unit :=
  let m := (accs.map (fun j => 2 ^ j) ++ (slots.filter (· ≤ 15)).map (fun q => 2 ^ (8 + q))).foldl (· ||| ·) 0
  check (m &&& s.x.claim.toNat == m) (s.trapS 0x65 (BitVec.ofNat 64 m))

def shapeM (v : Word) : Nat := bits v 0 9
def shapeN (v : Word) : Nat := bits v 16 9
def shapeK (v : Word) : Nat := bits v 32 11
def shapeSlide (v : Word) : Nat := bits v 48 8

/-- A legal shape (R215, R223). -/
def shapeLegal (v : Word) : Bool :=
  bits v 56 8 == 0 && bits v 43 5 == 0 && bits v 25 7 == 0 && bits v 9 7 == 0 &&
    shapeM v % 32 == 0 && decide (32 ≤ shapeM v) && decide (shapeM v ≤ 256) &&
    shapeN v % 32 == 0 && decide (32 ≤ shapeN v) && decide (shapeN v ≤ 256) &&
    shapeK v % 32 == 0 && decide (32 ≤ shapeK v) && decide (shapeK v ≤ 1024)

def shapeCheck (s : State) : Run Unit := check (shapeLegal s.x.shape) (s.trapS 0x64 s.x.shape)

/-- The format descriptor of a matrix instruction (R140, R227, R231). -/
def matrixFD (s : State) (w : BitVec 5) (ok : FD → Bool) : Run FD :=
  let raw := s.getS w
  if fdLegal raw && ok (readFD raw) then .ok (readFD raw) else .error (s.trapS 0x61 raw)

/-- The tensor scale at s[w + k], used by an XF4 operand (R138, R227). -/
def matrixScale (s : State) (w : BitVec 5) (k : Nat) (c : Nat) : Run XVal :=
  if c ≠ 0x16 then .ok (.ofInt 1)
  else if w.toNat + k > 31 then .error (s.trapS 0x61 (s.getS w))
  else
    let t := s.getS (w + BitVec.ofNat 5 k)
    if tensorScaleOk t then .ok (tensorScale t) else .error (s.trapS 0x61 t)

/-! ## Shape and claim instructions (R223) -/

/-- MSHAPE. -/
def execMshape (x y : BitVec 5) (s : State) : Host.Outcome State Fault Refusal :=
  finish do
    gate (.mshape x y) matrixNeed s
    let v := s.getS y
    check (shapeLegal v) (s.trapS 0x64 v)
    .ok ({ s with x := { s.x with shape := v } }.result x s.x.shape)

/-- The contents of the resources of a mask become undefined, their dirty bits clear. -/
def Ctx.forget (x : Ctx) (m : BitVec 24) : Ctx :=
  { x with
    dirty := x.dirty &&& ~~~m
    acc := x.acc.filter (fun e => !m.getLsbD (e.1 / 256))
    slot := x.slot.filter (fun e => !m.getLsbD (8 + e.1 / 256)) }

/-- The row poison bits of the resources of a mask clear. -/
def Ctx.unpoison (x : Ctx) (m : BitVec 24) : Ctx :=
  { x with
    accPoison := (List.range 8).foldl (fun v j => if m.getLsbD j then vset v j 0 else v) x.accPoison
    slotPoison := (List.range 16).foldl (fun v q => if m.getLsbD (8 + q) then vset v q 0 else v) x.slotPoison }

/-- The mask of MCLAIM and MREL. -/
def claimMask (s : State) (y : BitVec 5) : Run (BitVec 24) :=
  if bits (s.getS y) 24 40 != 0 then .error (s.trapS 0x65 (s.getS y)) else .ok ((s.getS y).setWidth 24)

/-- MCLAIM: a resource already claimed is left untouched. -/
def execMclaim (y : BitVec 5) (s : State) : Host.Outcome State Fault Refusal :=
  finish do
    gate (.mclaim y) matrixNeed s
    let c ← claimMask s y
    let fresh := c &&& ~~~s.x.claim
    let x := (s.x.forget fresh).unpoison fresh
    .ok ({ s with x := { x with claim := s.x.claim ||| fresh } }).advance

/-- MREL: a resource not claimed is left as it is. -/
def execMrel (y : BitVec 5) (s : State) : Host.Outcome State Fault Refusal :=
  finish do
    gate (.mrel y) matrixNeed s
    let c ← claimMask s y
    .ok ({ s with x := { s.x.forget (c &&& s.x.claim) with claim := s.x.claim &&& ~~~c } }).advance

/-! ## Products (R227, R228) -/

def mmaFormats (pair : Bool) (d : FD) : Bool :=
  isMatrixFmt d.fa && isMatrixFmt d.fb &&
    (if d.fa == 0 || d.fb == 0 then d.fa == d.fb && d.fdst == 2 && !pair else d.fdst == 9)

/-- The K elements of a slot row, times their scales (R211, R228). -/
def rowValues (c : Nat) (ftz : Bool) (t : XVal) (K row comp : Nat) : List XVal :=
  (List.range K).map (fun k => elemValue c ftz (nbits row (fmtWidth c * k) (fmtWidth c)) (nbits comp (8 * (k / 32)) 8) t)

/-- An operand: rows `lo` to `lo + n − 1` of a slot, those above 255 zero (R228). -/
def State.operand (s : State) (q : Nat) (c : Nat) (ftz : Bool) (t : XVal) (K lo n : Nat) : State × List (List XVal) :=
  let inside := (span lo (lo + n)).filter (· < 256)
  let (s, rows) := s.slotRows q inside
  let (s, comps) := if isBlock c then s.slotRows (q + 1) inside else (s, rows.map (fun _ => 0))
  (s, (rows.zip comps).map (fun p => rowValues c ftz t K p.1 p.2) ++
    List.replicate (n - inside.length) (List.replicate K (.zero false)))

/-- The exact sum of one group's products (R149). -/
def groupSum : List XVal → XVal
  | [] => .zero false
  | p :: ps => ps.foldl (XVal.add false) p

/-- The exact group sums of two rows, in ascending k. -/
def groupSums (G : Nat) (as bs : List XVal) : List XVal :=
  (rowsOf G as.length (List.zipWith XVal.mul as bs)).map groupSum

/-- A cell after the group sums: FP32, rounded once for each group; or S32, modulo 2^32. -/
def accumulate (int : Bool) (c : Nat) (gs : List XVal) : Nat :=
  gs.foldl (fun c g => if int then ((c + g.scaled 0) % 2 ^ 32).toNat
    else roundTo 9 0 false false (XVal.add false (readFloat 9 c) g)) c

/-- A compensated pair after the group sums (R150). -/
def accumulatePair (p : Nat × Nat) (gs : List XVal) : Nat × Nat :=
  gs.foldl (fun p g => pairSplit (XVal.add false (XVal.add false (readFloat 9 p.1) (readFloat 9 p.2)) g)) p

/-- Row m of the accumulator (and of its pair) after the product of A row `as` with the B rows. -/
def State.mmaRow (s : State) (x : Nat) (pair ow int : Bool) (G m : Nat) (as : List XVal) (bs : List (List XVal))
    (bad : Bool) : State :=
  let (s, old) := s.accRow x m
  let sums := bs.map (groupSums G as)
  let start (row n : Nat) : Nat := if ow then 0 else cellOf row n
  if pair then
    let (s, lo) := s.accRow (x + 1) m
    let ps := (List.range bs.length).zip sums |>.map (fun e => accumulatePair (start old e.1, start lo e.1) e.2)
    let badHi := bad || (!ow && s.accBad x m)
    let badLo := bad || (!ow && s.accBad (x + 1) m)
    (s.putAcc x m (putCells old (ps.map (·.1))) badHi).putAcc (x + 1) m (putCells lo (ps.map (·.2))) badLo
  else
    let cs := (List.range bs.length).zip sums |>.map (fun e => accumulate int (start old e.1) e.2)
    s.putAcc x m (putCells old cs) (bad || (!ow && s.accBad x m))

/-- MMA and MSLIDE: opt bit 0 is pair mode, bit 1 overwrite. Of two cases of 0x64, K above the format's limit comes before a block
operand in slot 15 (DESIGN CHOICE, log entry 104). -/
def matrixProduct (i : Instr) (slide : Bool) (x y z w : BitVec 5) (o : BitVec 2) (s : State) : Run State := do
  gate i matrixNeed s
  let pair := o.getLsbD 0
  let ow := o.getLsbD 1
  let f := readFD (s.getS w)
  let qa := y.toNat
  let qb := z.toNat
  claimCheck s ([x.toNat] ++ (if pair then [x.toNat + 1] else []))
    ([qa, qb] ++ (if isBlock f.fa then [qa + 1] else []) ++ (if isBlock f.fb then [qb + 1] else []))
  let d ← matrixFD s w (mmaFormats pair)
  let ta ← matrixScale s w 1 d.fa
  let tb ← matrixScale s w 2 d.fb
  shapeCheck s
  let sh := s.x.shape
  check (decide (shapeK sh ≤ min (kLimit d.fa) (kLimit d.fb))) (s.trapS 0x64 sh)
  check (!((isBlock d.fa && qa == 15) || (isBlock d.fb && qb == 15))) (s.trapS 0x64 (wordOf i))
  let off := if slide then shapeSlide sh else 0
  let (s, as) := s.operand qa d.fa d.ftz ta (shapeK sh) off (shapeM sh)
  let (s, bs) := s.operand qb d.fb d.ftz tb (shapeK sh) 0 (shapeN sh)
  let bBad := (List.range (shapeN sh)).any (fun n => s.slotBad qb n || (isBlock d.fb && s.slotBad (qb + 1) n))
  let aBad (m : Nat) : Bool := m + off < 256 && (s.slotBad qa (m + off) || (isBlock d.fa && s.slotBad (qa + 1) (m + off)))
  let G := min (groupSize d.fa) (groupSize d.fb)
  .ok (((List.range (shapeM sh)).zip as).foldl (fun s e =>
    s.mmaRow x.toNat pair ow (d.fdst == 2) G e.1 e.2 bs (bBad || aBad e.1)) s).advance

/-- MMA (R227, R228). -/
def execMma (x y z w : BitVec 5) (o : BitVec 2) (s : State) : Host.Outcome State Fault Refusal :=
  finish (matrixProduct (.mma x y z w o) false x y z w o s)

/-- MSLIDE (R227, R228). -/
def execMslide (x y z w : BitVec 5) (o : BitVec 2) (s : State) : Host.Outcome State Fault Refusal :=
  finish (matrixProduct (.mslide x y z w o) true x y z w o s)

/-! ## Operations on accumulator rows (R229, R230) -/

/-- The cells m < M, n < N of accumulator x from those of y. -/
def State.mapCells (s : State) (x y : Nat) (f : Nat → Nat → Nat) : State :=
  let N := shapeN s.x.shape
  (List.range (shapeM s.x.shape)).foldl (fun s m =>
    let (s, src) := s.accRow y m
    let (s, old) := if x = y then (s, src) else s.accRow x m
    s.putAcc x m (putCells old ((List.range N).map (fun n => f n (cellOf src n)))) (s.accBad y m)) s

/-- MEW (R230). -/
def execMew (x y z : BitVec 5) (o : BitVec 2) (s : State) : Host.Outcome State Fault Refusal :=
  finish do
    gate (.mew x y z o) matrixNeed s
    claimCheck s [x.toNat, y.toNat] []
    shapeCheck s
    let v := (vget s.x.vreg 0 z.toNat).toNat
    let g (a b : XVal) : XVal :=
      if o = 0 then XVal.add false a b else if o = 1 then XVal.mul a b else if o = 2 then XVal.maxOf a b else XVal.minOf a b
    .ok (s.mapCells x.toNat y.toNat (fun n c => roundTo 9 0 false false (g (readFloat 9 c) (readFloat 9 (cellOf v n))))).advance

/-- MPWL (R230). -/
def execMpwl (x y z : BitVec 5) (s : State) : Host.Outcome State Fault Refusal :=
  finish do
    gate (.mpwl x y z) matrixNeed s
    claimCheck s [x.toNat, y.toNat] []
    shapeCheck s
    let t := vget s.st.tables 0 z.toNat
    .ok (s.mapCells x.toNat y.toNat (fun _ c => curveEval t (readFloat 9 c))).advance

/-- MRNORM on the pair x, x + 1 (R229, R236). -/
def execMrnorm (x : BitVec 5) (s : State) : Host.Outcome State Fault Refusal :=
  finish do
    gate (.mrnorm x) matrixNeed s
    let j := x.toNat
    claimCheck s [j, j + 1] []
    shapeCheck s
    let N := shapeN s.x.shape
    .ok ((List.range (shapeM s.x.shape)).foldl (fun s m =>
      let (s, hi) := s.accRow j m
      let (s, lo) := s.accRow (j + 1) m
      let ps := (List.range N).map (fun n => pairSplit (XVal.add false (readFloat 9 (cellOf hi n)) (readFloat 9 (cellOf lo n))))
      let bad := s.accBad j m || s.accBad (j + 1) m
      (s.putAcc j m (putCells hi (ps.map (·.1))) bad).putAcc (j + 1) m (putCells lo (ps.map (·.2))) bad) s).advance

/-- Rows of +0, their poison bits clear (R229). -/
def State.clearRows (s : State) (j : Nat) (k : BitVec 2048) : State :=
  let s := (List.range 256).foldl (fun s r => if k.getLsbD r then s.putAcc j r 0 false else s) s
  { s with x := { s.x with dirty := s.x.dirty ||| ((1#24) <<< j) } }

/-- MZERO (R229). -/
def execMzero (x : BitVec 5) (s : State) : Host.Outcome State Fault Refusal :=
  finish do
    gate (.mzero x) matrixNeed s
    claimCheck s [x.toNat] []
    .ok (s.clearRows x.toNat (~~~0)).advance

/-- MCLR (R229). -/
def execMclr (x y : BitVec 5) (s : State) : Host.Outcome State Fault Refusal :=
  finish do
    gate (.mclr x y) matrixNeed s
    claimCheck s [x.toNat] []
    .ok (s.clearRows x.toNat (s.kmask y.toNat)).advance

/-! ## MACS (R231) -/

def macsFormats (d : FD) : Bool := isMatrixFmt d.fdst && (if d.fdst == 0 then d.fa == 2 else d.fa == 9)

/-- A slot row and its companion row from a list of cells. -/
def macsRow (d : FD) (t : XVal) (cells : List Nat) : Nat × Nat :=
  let w := fmtWidth d.fdst
  let vals := cells.map (fun c => elemValue d.fa false c 0 (.ofInt 1))
  if isBlock d.fdst then
    let qs := (rowsOf 32 vals.length vals).map (fun b => (quantBlock d.fdst d.rm d.sat t (b.map some)).getD (0, []))
    let els := qs.flatMap (fun q => q.2.map (fun p => p.getD 0))
    (putAll 0 w ((List.range els.length).zip els), putAll 0 8 ((List.range qs.length).zip (qs.map (·.1))))
  else (putAll 0 w ((List.range vals.length).zip (vals.map d.round)), 0)

/-- MACS: opt 1 transposes. -/
def execMacs (x y w : BitVec 5) (o : BitVec 1) (s : State) : Host.Outcome State Fault Refusal :=
  finish do
    let i : Instr := .macs x y w o
    gate i matrixNeed s
    let q := x.toNat
    let j := y.toNat
    let blk := isBlock (readFD (s.getS w)).fdst
    claimCheck s [j] ([q] ++ (if blk then [q + 1] else []))
    let d ← matrixFD s w macsFormats
    let t ← matrixScale s w 1 d.fdst
    shapeCheck s
    let M := shapeM s.x.shape
    let N := shapeN s.x.shape
    check (!(blk && q == 15)) (s.trapS 0x64 (wordOf i))
    check (decide ((if o = 1 then M else N) * fmtWidth d.fdst ≤ 4096)) (s.trapS 0x64 (wordOf i))
    let (s, rows) := s.accRows j (List.range M)
    let anyBad := (List.range M).any (fun m => s.accBad j m)
    let out := if o = 1 then (List.range N).map (fun n => (n, rows.map (fun r => cellOf r n), anyBad))
      else ((List.range M).zip rows).map (fun e => (e.1, (List.range N).map (cellOf e.2), s.accBad j e.1))
    .ok (out.foldl (fun s e =>
      let r := macsRow d t e.2.1
      let s := s.putSlot q e.1 r.1 e.2.2
      if blk then s.putSlot (q + 1) e.1 r.2 e.2.2 else s) s).advance

/-! ## MROWV, MWAIT (R232, R235) -/

/-- The row index of MROWV. -/
def rowIndex (s : State) (z : BitVec 5) : Run Nat :=
  if (s.getS z).toNat > 255 then .error (s.trapS 0x66 (s.getS z)) else .ok (s.getS z).toNat

/-- MROWV to a vector register: a poisoned row is consumed as a machine check. -/
def execMrowvToVector (x y z : BitVec 5) (s : State) : Host.Outcome State Fault Refusal :=
  finish do
    gate (.mrowvToVector x y z) matrixNeed s
    claimCheck s [y.toNat] []
    let r ← rowIndex s z
    check (!s.accBad y.toNat r) (s.trapA 0xC0 1 (s.getS z))
    let (s, row) := s.accRow y.toNat r
    let old := (vget s.x.vreg 0 x.toNat).toNat
    let v : BitVec 16384 := BitVec.ofNat 16384 (putField old 0 8192 row)
    .ok ({ s with x := { s.x with vreg := vset s.x.vreg x.toNat v } }).advance

/-- MROWV to an accumulator. -/
def execMrowvToAccumulator (x y z : BitVec 5) (s : State) : Host.Outcome State Fault Refusal :=
  finish do
    gate (.mrowvToAccumulator x y z) matrixNeed s
    claimCheck s [x.toNat] []
    let r ← rowIndex s z
    .ok (s.putAcc x.toNat r ((vget s.x.vreg 0 y.toNat).toNat % 2 ^ 8192) false).advance

/-- MWAIT: the poison map of the claimed resources, once the matrix queue is empty. -/
def execMwait (x : BitVec 5) (s : State) : Host.Outcome State Fault Refusal :=
  finish do
    gate (.mwait x) matrixNeed s
    check (!s.st.mqueue.any (fun it => !isToken it.instr)) s
    let a := (List.range 8).foldl (fun n j => n + b2n (vget s.x.accPoison 0 j != 0) (2 ^ j)) 0
    let q := (List.range 16).foldl (fun n j => n + b2n (vget s.x.slotPoison 0 j != 0) (2 ^ (8 + j))) 0
    .ok (s.result x (BitVec.ofNat 64 ((a + q) &&& s.x.claim.toNat)))

/-! ## Transfers (R224 to R226) -/

/-- The pieces of a row: cut at pages, and where a merge region of the fork begins, so that each failing byte is named. -/
def State.rowPieces (s : State) (va n : Nat) : List (Word × Nat) :=
  let starts := if s.inFork then (s.st.regions.toList.filterMap (fun r => r.map (·.base))) else []
  (pagePieces va n).flatMap (fun p =>
    let cuts := ((starts.filter (fun b => decide (p.1 < b) && decide (b < p.1 + p.2))).foldl (fun l b => insertNat b l) [])
    let lo := p.1 :: cuts
    let hi := cuts ++ [p.1 + p.2]
    (lo.zip hi).map (fun e => (BitVec.ofNat 64 e.1, e.2 - e.1)))

/-- A piece's check: only the start of a row must be a multiple of e (R224). -/
def rowCheck (acc : Acc) (e : Nat) (start : Nat → Word) : PieceCheck := fun s done i va n =>
  plainCheck acc (if va = start i then e else 1) s done i va n

/-- A row part through a window, cut into requests of at most 256 bytes (R350). -/
def cutPart (p : PipeItem) : List PipeItem :=
  (cutAt 256 p.va.toNat p.n).map (fun q => { p with va := BitVec.ofNat 64 q.1, pa := p.pa + (q.1 - p.va.toNat), n := q.2 })

/-- Requests of row parts through windows (R226, R350, R358): all sent, then awaited. A part of a poisoned row says
so in the code byte of its write (R225; DESIGN CHOICE, log entry 31). -/
def State.askParts (s : State) (pipe : Pipe) (write : Bool) (data : PipeItem → List Byte) (bad : Nat → Bool) :
    Run (List (PipeItem × Reply)) :=
  let ps := (pipe.items.filter PipeItem.fabric).flatMap (fun p => (cutPart p).map (fun q => (p, q)))
  if ps.isEmpty then .ok []
  else if s.x.replies.isEmpty then
    .error (ps.foldl (fun t (p, q) =>
      let (t, id) := t.sendReq (if write then .vector else .read) q.xl.ep q.xl.window q.xl.off q.va q.xl.fabAddr none
        (windowMsg (if write then 1 else 0) (b2n (bad q.i) 1) q.n (((data p).drop (q.pa - p.pa)).take q.n))
      { t with x := { t.x with replies := t.x.replies ++ [.waiting id] } }) { s with x := { s.x with pipe := some pipe } })
  else if s.x.replies.any Reply.isWaiting then .error s
  else .ok ((ps.map (·.2)).zip s.x.replies)

/-- A part whose request failed stops the transfer at its row (R360). -/
def partFault (r : PipeItem × Reply) : Option (Nat × Word × BitVec 8) :=
  match r.2 with
  | .failed => some (r.1.i, r.1.va, 0xA1)
  | .waiting _ => none
  | .data _ => none
  | .poison => none

/-- The bytes of a local part and whether any is poisoned; of a speculative chunk it is an exposed read of every line (R110,
R222). -/
def State.readPart (s : State) (p : PipeItem) : Run (State × List Byte × Bool) := do
  let bad := s.itemPoisoned p || s.lostRead p.vc p.pa p.n
  let (s, bs) ← (s.settleScatter p.pa p.n).loadLocal true p.xl p.n
  .ok (if s.spec then s.exposeLines p.pa p.n else s, bs, bad)

def State.readParts : List PipeItem → State → Run (State × List (PipeItem × List Byte × Bool))
  | [], s => .ok (s, [])
  | p :: ps, s => do
    let (s, bs, bad) ← s.readPart p
    let (s, r) ← State.readParts ps s
    .ok (s, (p, bs, bad) :: r)

/-- The parts of row r in ascending address: bytes, and poison. -/
def joinParts (r : Nat) (l : List (PipeItem × List Byte × Bool)) : List Byte × Bool :=
  let here := l.filter (fun e => e.1.i == r)
  let order := (List.range here.length).flatMap (fun f => here.filter (fun e => e.1.f == f))
  (order.flatMap (fun e => e.2.1), here.any (fun e => e.2.2))

/-- A transfer descriptor (R224). -/
structure XferDesc where
  fmt : Nat
  len : Nat
  rows : Nat
  deriving DecidableEq, Repr

def readXfer (v : Word) : XferDesc := { fmt := bits v 32 5, len := bits v 16 10, rows := bits v 0 9 }

def staFormat (c : Nat) : Bool := c == 9 || c == 2 || c == 0xA || c == 0xB || c == 0xC || c == 0xD

def xferLegal (v : Word) (store : Bool) (maxLen : Nat) : Bool :=
  let d := readXfer v
  bits v 37 27 == 0 && bits v 26 6 == 0 && bits v 9 7 == 0 && (if store then staFormat d.fmt else d.fmt == 0) &&
    decide (1 ≤ d.len) && decide (d.len ≤ maxLen) && decide (1 ≤ d.rows) && decide (d.rows ≤ 256)

/-- The rows of a transfer from vbeg on, with the pieces of each. -/
def State.xferRows (s : State) (a b : Word) (rows n : Nat) : List (Nat × List (Word × Nat)) :=
  (span s.vbeg rows).map (fun r => (r, s.rowPieces (a + BitVec.ofNat 64 r * b).toNat n))

/-- The issue of MLDS or MLDA: checks, then the address pipeline (R195, R224). -/
def issueLoad (i : Instr) (accs slots : List Nat) (y z w : BitVec 5) (e maxLen : Nat) (s : State) : Run (State × Pipe) := do
  gate i matrixNeed s
  claimCheck s accs slots
  let desc := s.getS w
  check (xferLegal desc false maxLen) (s.trapS 0x64 desc)
  let d := readXfer desc
  let a := s.getS y
  let b := s.getS z
  s.pipeline .read (rowCheck .read e (fun r => a + BitVec.ofNat 64 r * b)) (s.xferRows a b d.rows (d.len * e))

/-- MLDS and MLDA: `put` writes one row from its bytes and its poison. -/
def matrixLoad (i : Instr) (accs slots : List Nat) (y z w : BitVec 5) (e maxLen : Nat)
    (put : Nat → Nat → Bool → State → State) (s : State) : Run State := do
  let d := readXfer (s.getS w)
  let t : Transfer := { acc := .read, akind := 1, tstride := s.getS z, total := d.rows }
  let (s, pipe) ← issueLoad i accs slots y z w e maxLen s
  s.settledAll false pipe.items
  let rs ← s.askParts pipe false (fun _ => []) (fun _ => false)
  let stop := (rs.map partFault).foldl firstStop pipe.fault
  let (u, loc) ← allOrStall s (State.readParts (belowStop stop (fun p => p) (pipe.items.filter (fun p => !p.fabric))) s)
  let far := rs.map (fun r => match r.2 with
    | .data bs => (r.1, bs, false)
    | _ => (r.1, List.replicate r.1.n (0 : Byte), true))
  let upto := match stop with | some x => x.1 | none => d.rows
  let u := (span u.vbeg upto).foldl (fun u r =>
    let p := joinParts r (loc ++ far)
    put r (leNat p.1) p.2 u) u
  .ok (u.endTransfer t stop)

/-- MLDS: bytes of a row, the rest of the row 0 (R225). -/
def execMlds (x y z w : BitVec 5) (s : State) : Host.Outcome State Fault Refusal :=
  finish (matrixLoad (.mlds x y z w) [] [x.toNat] y z w 1 512 (fun r v bad s => s.putSlot x.toNat r v bad) s)

/-- MLDA: cells of a row, the rest of the row 0 (R225). -/
def execMlda (x y z w : BitVec 5) (s : State) : Host.Outcome State Fault Refusal :=
  finish (matrixLoad (.mlda x y z w) [x.toNat] [] y z w 4 256 (fun r v bad s => s.putAcc x.toNat r v bad) s)

/-- The bytes of a row in the memory format of MSTA (R225). -/
def staBytes (c len row : Nat) : List Byte :=
  let e := fmtWidth c / 8
  (List.range len).flatMap (fun n =>
    let v := cellOf row n
    leBytes e (if c = 9 ∨ c = 2 then v else roundTo c 0 false false (readFloat 9 v)))

/-- Store the local parts. A line they cover whole leaves P; lines of a poisoned row enter it, in the chunk's versions while it
is speculative (R225, R387). -/
def State.storeParts (s : State) (ws : List (PipeItem × List Byte)) (bad : Nat → Bool) : Run State := do
  let covered := (((ws.flatMap (fun w => linesOf w.1.pa w.1.n)).eraseDups).filter (fun l => s.poisonedFor (l * 64))).filter
    (fun l => lineCovered (ws.map (·.1)) l)
  let marks := ((ws.filter (fun w => bad w.1.i)).flatMap (fun w => linesOf w.1.pa w.1.n)).eraseDups
  let s ← ws.foldlM (fun s w => (s.settleScatter w.1.pa w.1.n).storeLocal true w.1.xl w.2) s
  if s.spec then .ok (s.putLines covered marks)
  else if covered.isEmpty && marks.isEmpty then .ok s
  else .ok (marks.foldl (fun s l => s.markPoison l) (covered.foldl (fun s l => s.clearPoison l) s.drainVector))

/-- The issue of MSTA. -/
def issueSta (x y z w : BitVec 5) (s : State) : Run (State × Pipe) := do
  gate (.msta x y z w) matrixNeed s
  claimCheck s [x.toNat] []
  let desc := s.getS w
  check (xferLegal desc true 256) (s.trapS 0x64 desc)
  let d := readXfer desc
  let e := fmtWidth d.fmt / 8
  let a := s.getS y
  let b := s.getS z
  s.pipeline .write (rowCheck .write e (fun r => a + BitVec.ofNat 64 r * b)) (s.xferRows a b d.rows (d.len * e))

/-- MSTA. -/
def execMsta (x y z w : BitVec 5) (s : State) : Host.Outcome State Fault Refusal :=
  finish do
    let j := x.toNat
    let d := readXfer (s.getS w)
    let t : Transfer := { acc := .write, akind := 2, tstride := s.getS z, total := d.rows }
    let (s, pipe) ← issueSta x y z w s
    s.settledAll true pipe.items
    let todo := span s.vbeg d.rows
    let (s', rows) := s.accRows j todo
    let image := (todo.zip rows).map (fun p => (p.1, staBytes d.fmt d.len p.2))
    let data (p : PipeItem) : List Byte :=
      let before := ((pipe.items.filter (fun q => q.i == p.i && decide (q.f < p.f))).map (·.n)).foldl (· + ·) 0
      ((lookupD [] p.i image).drop before).take p.n
    let rs ← s'.askParts pipe true data (fun r => s.accBad j r)
    let stop := (rs.map partFault).foldl firstStop pipe.fault
    let ws := (belowStop stop (fun p => p) (pipe.items.filter (fun p => !p.fabric))).map (fun p => (p, data p))
    let u ← allOrStall s (s'.storeParts ws (fun r => s.accBad j r))
    .ok (u.endTransfer t stop)

/-! ## MCURV (R233, R234) -/

/-- The issue of MCURV: its checks, a fault of which names the table's address pieces with telem 0 and tremain 1. -/
def issueCurv (x y : BitVec 5) (s : State) : Run (State × Pipe) := do
  let i : Instr := .mcurv x y
  gate i matrixNeed s
  check (!s.st.active) (s.trapS 0x67 (wordOf i))
  let a := s.getS y
  let t : Transfer := { acc := .read, akind := 1, tstride := 0, total := 1 }
  check (decide (a.toNat % 32 = 0)) (s.trapV t 0x21 1 0 a)
  s.pipeline .read (plainCheck .read 1) [(0, s.rowPieces a.toNat 96)]

/-- MCURV: never inside a fork; all or nothing. (DEDUCED, log entry 26.) -/
def execMcurv (x y : BitVec 5) (s : State) : Host.Outcome State Fault Refusal :=
  finish do
    let a := s.getS y
    let t : Transfer := { acc := .read, akind := 1, tstride := 0, total := 1 }
    let (s, pipe) ← issueCurv x y s
    match pipe.fault with
    | some (_, va, c) => .error (s.trapV t c 1 0 va)
    | none => do
      s.settledAll false pipe.items
      let rs ← s.askParts pipe false (fun _ => []) (fun _ => false)
      match (rs.map partFault).foldl firstStop none with
      | some (_, va, c) => .error (s.trapV t c 1 0 va)
      | none => do
        let (u, loc) ← allOrStall s (State.readParts (pipe.items.filter (fun p => !p.fabric)) s)
        let far := rs.map (fun r => match r.2 with
          | .data bs => (r.1, bs, false)
          | _ => (r.1, List.replicate r.1.n (0 : Byte), true))
        let p := joinParts 0 (loc ++ far)
        check (!p.2) (s.trapV t 0xC0 1 0 a)
        let v : BitVec 768 := BitVec.ofNat 768 (leNat p.1)
        .ok ({ u with st := { u.st with tables := vset u.st.tables x.toNat v } }).advance

end Sys2Proof.Machine
end

