-- ==== Sys2Proof/Machine/Queues.lean ====
section
/-! DEFINITION. Instructions held in the queues: what holds back their issue (07 R186, 08 R195, 09 R220, R232), the return to an
instruction that traps there (08 R196), and TOKEN_DEADLOCK (14 R322; DEDUCED, log entry 14). -/

namespace Sys2Proof.Machine

/-! ## Interlocks of the front end -/

/-- Scalar registers that instructions held in queues have still to write (R186, R324). -/
def State.pendingScalars (s : State) : List (BitVec 5) := s.heldItems.filterMap (fun it => writesScalar it.instr)

/-- The instruction must wait: it reads an awaited live-in (R107), or touches a register a queue has still to write. -/
def State.interlocked (s : State) (i : Instr) : Bool :=
  (readsScalar i ++ s.scaleReads i).any (fun r =>
    r != 0 && (s.x.await.getLsbD r.toNat || (!s.spec && s.pendingScalars.contains r))) ||
  (match writesScalar i with | some d => d != 0 && !s.spec && s.pendingScalars.contains d | none => false)

/-- The issue of a vector or matrix memory instruction that goes through the address pipeline; none for any other instruction. -/
def issueOf (i : Instr) (s : State) : Option (Run (State × Pipe)) :=
  match i with
  | .vld k v a e _ => some (issueAccess i true k v a e .unit s)
  | .vlds k v a b e _ => some (issueAccess i true k v a e (.stride b) s)
  | .vldsO k v a b e _ => some (issueAccess i true k v a e (.stride b) s)
  | .vldx k v a b e _ => some (issueAccess i true k v a e (.index b) s)
  | .vldxO k v a b e _ => some (issueAccess i true k v a e (.index b) s)
  | .vldseg k v a e n _ => some (issueAccess i true k v a e (.segment (n.toNat + 1)) s)
  | .vst k v a e _ => some (issueAccess i false k v a e .unit s)
  | .vsts k v a b e _ => some (issueAccess i false k v a e (.stride b) s)
  | .vstsO k v a b e _ => some (issueAccess i false k v a e (.stride b) s)
  | .vstx k v a b e _ => some (issueAccess i false k v a e (.index b) s)
  | .vstxO k v a b e _ => some (issueAccess i false k v a e (.index b) s)
  | .vstseg k v a e n _ => some (issueAccess i false k v a e (.segment (n.toNat + 1)) s)
  | .vamo k d a b o => some (issueAtomic i true k d a b o s)
  | .vamoc k d a b o => some (issueAtomic i false k d a b o s)
  | .vgst d a _ k => some (issueGst i d a k s)
  | .mlds x y z w => some (issueLoad i [] [x.toNat] y z w 1 512 s)
  | .mlda x y z w => some (issueLoad i [x.toNat] [] y z w 4 256 s)
  | .msta x y z w => some (issueSta x y z w s)
  | .mcurv x y => some (issueCurv x y s)
  | _ => none

/-- Index groups that the address pipeline reads: issue holds until they are ready (R195). -/
def indexRegs : Instr → List (BitVec 5)
  | .vldx _ _ _ b _ _ => [b]
  | .vldxO _ _ _ b _ _ => [b]
  | .vstx _ _ _ b _ _ => [b]
  | .vstxO _ _ _ b _ _ => [b]
  | .vamo _ _ _ b _ => [b]
  | .vamoc _ _ _ b _ => [b]
  | _ => []

/-- Queues whose accesses are read from a record: they are not issued behind another instruction. -/
def readsRecord : Instr → Bool
  | .vldsq _ _ _ _ => true
  | .vcapp _ _ _ _ _ => true
  | _ => false

/-- An instruction held in the other queue, issued before, orders this one after it. -/
def State.heldBack (s : State) (q : Queue) (i : Instr) : Bool :=
  (s.queue (if q == .vector then .matrix else .vector)).any (fun o => ordered i o.instr)

/-- The instruction runs at once: its queue is empty, and nothing in the other holds it back. -/
def State.runsNow (s : State) (q : Queue) (i : Instr) : Bool := (s.queue q).isEmpty && !s.heldBack q i

/-- Held instructions whose results the issue of `i` reads: its mask, its index group, an accumulator that MROWV reads, the matrix
instructions that MWAIT awaits, and every one for VLDSQ and VCAPP. -/
def State.issueAwaits (s : State) (i : Instr) : Bool :=
  let own : VUse := { rd := indexRegs i, krd := if touchesMemory i then (vuse i).krd.filter (· != 0) else [] }
  (s.st.vqueue ++ s.st.mqueue).any (fun o => !isToken o.instr &&
    (readsRecord i || own.meets { vuse o.instr with rd := [], krd := [] } ||
      (match i with
       | .mrowvToVector _ y _ => (accWrites o.instr).contains y
       | _ => false)))

/-- Issue holds the front end (R186, R195, R220). -/
def State.issueHolds (s : State) (q : Queue) (i : Instr) : Bool :=
  !s.runsNow q i && (!s.hasRoom q || s.issueAwaits i)

/-- The address pipeline has found a fault, so that the instruction waits for every earlier one (R196). -/
def State.faultAhead (s : State) (q : Queue) (i : Instr) : Bool :=
  !s.runsNow q i && (match issueOf i s with
    | some (.ok (_, p)) => p.fault.isSome
    | some (.error _) => false
    | none => false)

/-! ## The return to a held instruction -/

/-- The state in which a held instruction performs: its scalar operands and pipeline, the strand's vector, mask and matrix
registers. -/
def State.withItem (s : State) (it : QItem) : State :=
  { s with
    retired := false
    x := { s.x with
      pc := it.x.pc, sreg := it.x.sreg, vl := it.x.vl, vtype := it.x.vtype, vbeg := it.x.vbeg, rngkey := it.x.rngkey
      rngctr := it.x.rngctr, pipe := it.x.pipe, replies := it.x.replies }
    st := { s.st with qcount := it.seq } }

/-- The front end goes on with its own scalar state, less the register that the held instruction writes. -/
def State.backToFront (t front : State) (d : Option (BitVec 5)) : State :=
  { t with
    retired := front.retired
    x := { t.x with
      pc := front.x.pc
      sreg := (match d with
        | some d => if d = 0 then front.x.sreg else vset front.x.sreg d.toNat (vget t.x.sreg 0 d.toNat)
        | none => front.x.sreg)
      vl := front.x.vl, vtype := front.x.vtype, vbeg := front.x.vbeg, rngkey := front.x.rngkey, rngctr := front.x.rngctr
      pipe := front.x.pipe, replies := front.x.replies }
    st := { t.st with qcount := front.st.qcount } }

/-- Entries of a vector that an instruction has changed, put into another. -/
def changed {α : Type} {n : Nat} [DecidableEq α] (d : α) (old new b : Vector α n) : Vector α n :=
  (List.range n).foldl (fun v j => if vget new d j = vget old d j then v else vset v j (vget new d j)) b

/-- What a performed instruction leaves to the context of one issued after it. -/
def Ctx.follow (old new : Ctx) (matrix : Bool) (d : Option (BitVec 5)) (b : Ctx) : Ctx :=
  let b := { b with
    vreg := changed 0 old.vreg new.vreg b.vreg
    kreg := changed 0 old.kreg new.kreg b.kreg
    sreg := (match d with | some d => if d = 0 then b.sreg else vset b.sreg d.toNat (vget new.sreg 0 d.toNat) | none => b.sreg)
    partials := new.partials.foldl (fun l p => if old.partials.contains p then l else putPartial p l) b.partials }
  if matrix then
    { b with acc := new.acc, slot := new.slot, accPoison := new.accPoison, slotPoison := new.slotPoison, dirty := new.dirty,
             claim := new.claim, shape := new.shape }
  else b

/-- An instruction held in a queue has been performed: `t` is `s` after it. -/
def State.performedItem (s t : State) (q : Queue) (it : QItem) : State :=
  let d := writesScalar it.instr
  let u := (t.backToFront s d).setQueue q ((s.queue q).drop 1)
  u.patchAfter it.seq (fun o => { o with x := s.x.follow t.x (q == .matrix) d o.x, tables := t.st.tables })

/-- Go back to an instruction held in a queue: it and every later instruction have had no effect that can be taken back. What a
later one has made visible stays (DESIGN CHOICE, log entry 14). -/
def State.rollback (s : State) (it : QItem) : State :=
  let s := match s.st.fork with | some _ => s.squash (s.x.cnum.toNat + 1) | none => s
  let fork := if it.active then s.st.fork else none
  let cut (l : List QItem) : List QItem := l.filter (fun o => decide (o.seq < it.seq))
  let keep (l : List BufStore) : List BufStore := l.filter (fun b => decide (b.issue ≤ it.seq))
  { s with
    x := { it.x with seq := s.x.seq, posts := s.x.posts, vers := s.x.vers, pos := s.x.pos }
    st := { s.st with
      tokens := it.tokens, tables := it.tables, trap := it.trap, ptroot := it.ptroot, asid := it.asid
      active := it.active, fork := fork
      vqueue := cut s.st.vqueue, mqueue := cut s.st.mqueue, equeue := cut s.st.equeue
      sbuf := keep s.st.sbuf, vbuf := keep s.st.vbuf } }

/-! ## TOKEN_DEADLOCK (R322) -/

/-- The instruction is the end of a chunk, which waits for the queues (R319). -/
def State.atChunkEnd (s : State) : Bool :=
  match s.x.inline, s.st.fork with
  | none, some f => decide (f.chunkStart s.x.cnum.toNat + f.chunkLen s.x.cnum.toNat ≤ s.x.citer.toNat + 1)
  | _, _ => false

/-- The front end cannot go on from this instruction before a queue does. -/
def State.frontWaits (s : State) (i : Instr) : Bool :=
  s.interlocked i ||
  (match i with
   | .toks q f => if q = 0 then s.tokens f == 15 else !s.hasRoom (queueOfCode q)
   | .tokw q f => if q = 0 then s.tokens f == 0 else !s.hasRoom (queueOfCode q)
   | .ecmd _ _ _ => !s.noneHeld || !s.hasRoom .engine
   | .ecmdb _ _ _ => !s.noneHeld
   | .fvs => !s.noneHeld
   | .fence _ _ => !s.noneHeld
   | .fsc => !s.noneHeld
   | .strel _ _ _ _ => !s.noneHeld
   | .barr _ _ _ => !s.noneHeld
   | .barrw _ _ _ => !s.noneHeld
   | .gbar _ _ => !s.noneHeld
   | .msend _ _ _ => !s.noneHeld
   | .wakew _ _ => !s.noneHeld
   | .launch _ _ => !s.noneHeld
   | .tlogw _ => !s.noneHeld
   | .gcommit _ _ => !s.noneHeld
   | .sdone => !s.queuesEmpty
   | .fork _ _ => !s.snapReady
   | .forkt _ _ _ => !s.snapReady
   | .endi => s.atChunkEnd && !s.drained
   | .fbreak => s.x.inline.isNone && !s.drained
   | .mwait _ => s.st.mqueue.any (fun it => !isToken it.instr)
   | _ => match queueOf i with
     | .vector => s.issueHolds .vector i || s.faultAhead .vector i
     | .matrix => s.issueHolds .matrix i || s.faultAhead .matrix i
     | .scalar => false
     | .engine => false)

/-- The instruction at pc, where it can be fetched. -/
def State.atPc (s : State) : Option Instr :=
  match (s.fetchAt s.x.pc).2 with
  | .ok w => (match decode w with | .ok i => some i | .error _ => none)
  | .error _ => none

/-- The scalar token instruction at pc that its FIFO stalls (R320). -/
def State.stalledScalar (s : State) : Option QItem :=
  match s.atPc with
  | some (.toks q f) => if q = 0 ∧ s.tokens f = 15 then some (s.item (.toks q f)) else none
  | some (.tokw q f) => if q = 0 ∧ s.tokens f = 0 then some (s.item (.tokw q f)) else none
  | _ => none

/-- The front of a queue is a token instruction that its FIFO stalls. -/
def State.stalledFront (s : State) (q : Queue) : Option QItem :=
  match s.queue q with
  | it :: _ => if isToken it.instr && !s.ready q it then some it else none
  | [] => none

/-- A queue is empty, or waits for a token, itself or behind the other queue. -/
def State.stuck (s : State) (q : Queue) : Bool :=
  match s.queue q with
  | it :: _ => !s.ready q it
  | [] => true

/-- TOKEN_DEADLOCK (R322): every queue is empty or stalled on a token FIFO, the scalar queue with what it waits for among them.
The trap is taken at the oldest stalled token instruction, and its queue and every later instruction have no effect. -/
def execTokenDeadlock (s : State) : Host.Outcome State Fault Refusal :=
  let qs := [Queue.vector, .matrix, .engine]
  let waits := match s.atPc with | some i => s.frontWaits i | none => false
  if s.spec || !waits || !qs.all (fun q => s.stuck q) then .next s
  else
    match qs.filterMap s.stalledFront ++ s.stalledScalar.toList with
    | [] => .next s
    | front :: more =>
      let old := more.foldl (fun a b => if b.seq < a.seq then b else a) front
      .next ((s.rollback old).trapS 0x85 (wordOf old.instr))

end Sys2Proof.Machine
end

