-- ==== Sys2Proof/Machine/Schedule.lean ====
section
/-! DEFINITION. Launches: the record (03 R64, R65), submission (R75), strand entry (R74), placement and the scheduling pass (R68 to
R70), resume (18 R411), and reclaim (R72). -/

namespace Sys2Proof.Machine

/-! ## The launch record (R64, R65) -/

/-- A launch record as read. -/
structure LaunchRec where
  entry : Word
  args : Word
  nring : Nat
  ngate : Nat
  argsize : Nat
  prio : Nat
  gang : Bool
  notify : Bool
  ngroups : Nat
  rngkey : BitVec 32
  stack : Word
  stacksize : Nat
  target : BitVec 32
  done : Word
  groups : Word
  /-- Every reserved field is zero. -/
  clean : Bool
  deriving DecidableEq, Repr

def bytesAt (bs : List Byte) (lo n : Nat) : Nat := leNat ((bs.drop lo).take n)

def readLaunch (bs : List Byte) : LaunchRec where
  entry := BitVec.ofNat 64 (bytesAt bs 0 8)
  args := BitVec.ofNat 64 (bytesAt bs 8 8)
  nring := bytesAt bs 16 4
  ngate := bytesAt bs 20 2
  argsize := bytesAt bs 22 2
  prio := bytesAt bs 24 1 % 4
  gang := bytesAt bs 25 1 % 2 == 1
  notify := nbits (bytesAt bs 25 1) 1 1 == 1
  ngroups := bytesAt bs 26 1
  rngkey := BitVec.ofNat 32 (bytesAt bs 28 4)
  stack := BitVec.ofNat 64 (bytesAt bs 32 8)
  stacksize := bytesAt bs 40 4
  target := BitVec.ofNat 32 (bytesAt bs 44 4)
  done := BitVec.ofNat 64 (bytesAt bs 48 8)
  groups := BitVec.ofNat 64 (bytesAt bs 56 8)
  clean := bytesAt bs 24 1 < 4 && bytesAt bs 25 1 < 4 && bytesAt bs 27 1 == 0

def LaunchRec.count (r : LaunchRec) : Nat := r.nring + r.ngate

/-- An address that is a multiple of n, within 54 bits. -/
def addrOk (a : Word) (n : Nat) : Bool := decide (a.toNat < 2 ^ 54) && a.toNat % n == 0

/-- Malformed records (R65), the maps aside. -/
def LaunchRec.ok (r : LaunchRec) : Bool :=
  r.clean && r.count != 0 && decide (r.ngate ≤ 16) && decide (r.nring < 2 ^ 24) && addrOk r.entry 4 && addrOk r.args 8 &&
    addrOk r.stack 16 && addrOk r.done 8 && addrOk r.groups 8 && decide (r.argsize ≤ 4096) && r.argsize % 8 == 0 &&
    r.stacksize % 16 == 0 && decide (r.ngroups ≤ 4) && (r.ngroups == 0 || r.gang) && (!r.gang || decide (r.count ≤ 64))

/-- A group map names at least one strand, and none at or above N. -/
def LaunchRec.mapOk (r : LaunchRec) (m : Word) : Bool := m != 0 && decide (m.toNat < 2 ^ r.count)

/-- The address space of a launch's strands, checked as a user's (R65, R77). (DEDUCED, log entry 48.) -/
def launchSpace (ptroot asid : Word) (vf : Nat) : Space := { ptroot := ptroot, asid := asid, vf := vf, user := true, master := none }

/-- Read a group map; none on a fault, or poison, which is logged (R65). A map on a page of fabric kind, from which the command
processor makes no request (R77), is refused like one (DEDUCED, log entry 99). -/
def State.readMap (s : State) (sp : Space) (va : Nat) : State × Option Word :=
  match s.xlateHub sp .read va with
  | (s, .ok x) =>
    if x.fabric then (s.log 0 0x23, none)
    else if s.poisoned x.pa then (s.log 0 0xC0, none)
    else (s.touch none x.pa, some (s.mem64 x.pa))
  | (s, .error c) => (s.log 0 c.toNat, none)

/-- The n group maps; none when one cannot be read. -/
def State.readMaps (s : State) (sp : Space) (va : Nat) : Nat → State × Option (List Word)
  | 0 => (s, some [])
  | n + 1 =>
    match s.readMap sp va with
    | (s, none) => (s, none)
    | (s, some m) => match s.readMaps sp (va + 8) n with
      | (s, some ms) => (s, some (m :: ms))
      | (s, none) => (s, none)

/-! ## Queues (R68) -/

/-- A launch waits until every strand is placed; a pre-empted one waits again (R68, R71). -/
def Launch.waits (l : Launch) : Bool := !l.toPlace.isEmpty || !l.toResume.isEmpty

/-- The queue of a level and function, head first. -/
def State.queueAt (s : State) (level v : Nat) : List Launch :=
  s.cp.launches.filter (fun l => l.waits && l.prio.toNat == level && l.vf.toNat == v)

def State.head? (s : State) (level v : Nat) : Option Launch := (s.queueAt level v).head?

/-- Waiting launches of a function. -/
def State.waitingCount (s : State) (v : Nat) : Nat := (s.cp.launches.filter (fun l => l.waits && l.vf.toNat == v)).length

def State.suspended (s : State) (v : Nat) : Bool := s.cp.susp.getLsbD v

/-! ## Submission (R75) -/

def State.masterState (s : State) (m : Nat) : Master := vget s.cp.masters .retired m

/-- Rings, and gateway cores, of the function's partition that are in service. -/
def State.partitionRings (s : State) (v : Nat) : List Nat :=
  (List.range 48).filter (fun m => (vget s.cp.parta 0 v).getLsbD m && s.masterState m != .retired)

def State.partitionGates (s : State) (v : Nat) : List Nat :=
  ((List.range 16).map (48 + ·)).filter (fun m => (vget s.cp.parta 0 v).getLsbD m && s.masterState m != .retired)

def Receiver.handles : Receiver → List (BitVec 32)
  | .strand id => [idHandle id]
  | .remote _ _ => []

/-- Handles in use: of launches, and of strands that a bound message, an engine command, a drain or a request still names, so that what
was bound to a strand reaches that strand or none (R312). -/
def State.handlesUsed (s : State) : List (BitVec 32) :=
  s.cp.launches.map (·.handle) ++ s.cp.launches.filterMap (·.issuer) ++
    s.strands.flatMap (fun st => st.retry.flatMap (fun e => e.rcv.handles)) ++
    s.cp.hubOut.filterMap (fun h => h.rcv.map idHandle) ++ s.cp.remoteIn.flatMap (fun r => r.entry.rcv.handles) ++
    s.eng.toList.flatMap (fun g => g.cmds.map (fun c => idHandle c.issuer)) ++
    s.cache.vcaches.filterMap (fun v => v.issuer.map idHandle) ++ s.fab.reqs.map (fun q => idHandle q.owner)

/-- A handle that nothing uses: the implementation's proposal, moved up to the first that R75 allows (DESIGN CHOICE, log entry 16). -/
def State.newHandle (s : State) : BitVec 32 :=
  let g := Config.handleGuess s.cp.handleCount
  let used := s.handlesUsed
  (((List.range (used.length + 2)).map (fun k => g + BitVec.ofNat 32 k)).find? (fun h => h != 0 && !used.contains h)).getD 1

/-- Who submits: function, address space, tvec, and the issuing strand's launch. -/
structure Submitter where
  vf : Nat
  ptroot : Word
  asid : Word
  tvec : Word
  issuer : Option (BitVec 32)
  deriving DecidableEq, Repr

/-- Strands of a function may be launched: features accepted (R384) and the function enabled (R63). -/
def State.enabled (s : State) (v : Nat) : Bool := bits s.mbx.mbstat 1 2 == 1 && bit (vget s.cp.vfcfg 0 v) 8

/-- Admit a legal launch: its group entries and its place at the queue's tail. -/
def State.admitLaunch (s : State) (q : Submitter) (r : LaunchRec) (maps : List Word) : State × BitVec 32 :=
  let h := s.newHandle
  let l : Launch :=
    { handle := h, vf := BitVec.ofNat 5 q.vf, entry := r.entry, args := r.args, nring := r.nring, ngate := r.ngate,
      argsize := r.argsize, prio := BitVec.ofNat 2 r.prio, gang := r.gang, notify := r.notify, maps := maps, rngkey := r.rngkey,
      stack := r.stack, stacksize := r.stacksize, target := r.target, done := r.done, ptroot := q.ptroot, asid := q.asid,
      tvec := q.tvec, issuer := q.issuer, toPlace := List.range r.count, toResume := [], endedOk := 0, endedFault := 0,
      waitFrom := none, serial := s.cp.handleCount + 1 }
  let groups := (List.range maps.length).map (fun i =>
    ({ handle := h, index := i, strands := maps.getD i 0, map := 0, phase := 0, arrived := [], suspended := false } : Group))
  ({ s with cp := { s.cp with
      launches := s.cp.launches ++ [l], groups := s.cp.groups ++ groups, handleCount := s.cp.handleCount + 1 } }, h)

/-- cp_submit of a 64-byte record (R75): code and handle. Refusals in the order 5, 2, 3, 1, 4. -/
def State.submit (s : State) (q : Submitter) (bs : List Byte) : State × Nat × BitVec 32 :=
  let r := readLaunch bs
  if !s.enabled q.vf then (s, 5, 0)
  else if !r.ok then (s, 2, 0)
  else match s.readMaps (launchSpace q.ptroot q.asid q.vf) r.groups.toNat r.ngroups with
    | (s, none) => (s, 2, 0)
    | (s, some maps) =>
      if !maps.all r.mapOk then (s, 2, 0)
      else if r.gang && (decide ((s.partitionRings q.vf).length < r.nring) || decide ((s.partitionGates q.vf).length < r.ngate)) then
        (s, 3, 0)
      else if s.waitingCount q.vf ≥ 64 then (s, 1, 0)
      else if s.cp.groups.length + r.ngroups > 256 then (s, 4, 0)
      else
        let (s, h) := s.admitLaunch q r maps
        (s, 0, h)

/-- Result of LAUNCH, and of cplstat (R75). -/
def submitResult (code : Nat) (h : BitVec 32) : Word := h ++ BitVec.ofNat 32 code

/-! ## Free places (R69) -/

/-- Functions in turn order at a level, starting after the one last served. -/
def State.turnOrder (s : State) (level : Nat) : List Nat :=
  (List.range 32).map (fun k => ((vget s.cp.lastServed 0 level).toNat + 1 + k) % 32)

/-- Launches of functions that are not suspended wait at the level. (DEDUCED, log entry 58.) -/
def State.levelWaits (s : State) (level : Nat) : Bool :=
  s.cp.launches.any (fun l => l.waits && l.prio.toNat == level && !s.suspended l.vf.toNat)

/-- Strands of a launch that a pass may place now, in order: saved ones first. -/
def Launch.pending (l : Launch) : List Nat := l.toResume ++ l.toPlace

def Launch.isGate (l : Launch) (i : Nat) : Bool := decide (l.nring ≤ i)

/-- Strands of a launch frozen in place: they are not placed again. -/
def State.frozenOf (s : State) (h : BitVec 32) : Nat :=
  (s.strands.filter (fun st => idHandle st.id == h && st.place != .management && st.phase == .frozen)).length

/-- Save slots free. -/
def State.slotsLeft (s : State) : Nat := s.cp.svcnt.toNat - (s.strands.filterMap (·.saveSlot)).length

/-- The gang launches that head queues at a level, with the places each holds until it is placed, in turn order: a place in
several partitions is held by the first (R69; DEDUCED, log entry 32). -/
def State.gangHolds (s : State) (level : Nat) : List (BitVec 32 × BitVec 64) :=
  (s.turnOrder level).foldl (fun held v =>
    match (if s.suspended v then none else s.head? level v) with
    | none => held
    | some l =>
      if !l.gang then held
      else held ++ [(l.handle, held.foldl (fun w h => w &&& ~~~h.2) (vget s.cp.parta 0 v))]) []

/-- The gang launch for which a free ring or gateway core is held idle. -/
def State.reservedFor (s : State) (m : Nat) : Option (BitVec 32) :=
  match (List.range 4).find? s.levelWaits with
  | none => none
  | some level => ((s.gangHolds level).find? (fun h => h.2.getLsbD m)).map (·.1)

/-- A ring or gateway core that the launch may take. A place in an overlap of partitions goes to strands of either function in
turn, as R62 says, where R60 says that only strands of one function share a place in time. (DEDUCED, log entry 98.) -/
def State.mayTake (s : State) (l : Launch) (m : Nat) : Bool :=
  (vget s.cp.parta 0 l.vf.toNat).getLsbD m && s.masterState m == .free &&
    (match s.reservedFor m with | some h => h == l.handle | none => true)

def State.openRings (s : State) (l : Launch) : List Nat := (List.range 48).filter (s.mayTake l)
def State.openGates (s : State) (l : Launch) : List Nat := ((List.range 16).map (48 + ·)).filter (s.mayTake l)

/-- Lowest free save slot (R407). -/
def State.freeSlot (s : State) : Option Nat :=
  let used := s.strands.filterMap (·.saveSlot)
  (List.range (min s.cp.svcnt.toNat (used.length + 1))).find? (fun j => !used.contains j)

/-- The next strand that a non-gang launch can place. -/
def State.nextStrand (s : State) (l : Launch) : Option Nat :=
  let fits (i : Nat) : Bool :=
    (if l.isGate i then !(s.openGates l).isEmpty else !(s.openRings l).isEmpty) && (l.toResume.contains i || s.slotsLeft != 0)
  let first (p : Nat → Bool) : Option Nat := l.pending.find? p
  match first (fun i => !l.isGate i), first l.isGate with
  | some i, some j => if fits i then some i else if fits j then some j else none
  | some i, none => if fits i then some i else none
  | none, some j => if fits j then some j else none
  | none, none => none

/-- A gang can place every strand at once on the places it may take (R69). -/
def State.gangFits (s : State) (l : Launch) : Bool :=
  let p := l.pending
  decide (p.length + s.frozenOf l.handle + l.endedOk + l.endedFault = l.nring + l.ngate) &&
    decide ((p.filter (fun i => !l.isGate i)).length ≤ (s.openRings l).length) &&
    decide ((p.filter l.isGate).length ≤ (s.openGates l).length) && decide (l.toPlace.length ≤ s.slotsLeft)

/-- able_to_place of a launch (R69). -/
def State.canPlace (s : State) (l : Launch) : Bool :=
  !s.suspended l.vf.toNat && s.boot == .ready && l.waits && (if l.gang then s.gangFits l else (s.nextStrand l).isSome)

/-! ## Placing a strand (R70, R74) -/

/-- The ring of the next placement and its die. -/
def State.pickRing (s : State) (l : Launch) : Option Nat :=
  let rings := s.openRings l
  ((List.range 8).map (fun k => (s.cp.diePtr + k) % 8 + 1)).findSome? (fun d => rings.find? (fun m => dieOfMaster m == d))

/-- The chunk context of a strand at entry (R74). -/
def entryCtx (l : Launch) (i : Nat) : Ctx :=
  let n := l.nring + l.ngate
  let regs : List (Nat × Word) :=
    [(2, l.stack + BitVec.ofNat 64 ((i + 1) * l.stacksize)), (4, BitVec.ofNat 64 i), (5, BitVec.ofNat 64 n),
     (6, l.handle.setWidth 64), (31, if l.argsize = 0 then 0 else l.args + BitVec.ofNat 64 (i * l.argsize))]
  { Ctx.zero with
    pc := l.entry.setWidth 54, sreg := regs.foldl (fun v p => vset v p.1 p.2) Ctx.zero.sreg, rngkey := l.rngkey
    rngctr := BitVec.ofNat 64 (i * 2 ^ 32) }

/-- The strand at entry, on its place with its save slot. -/
def entryStrand (l : Launch) (i : Nat) (place : Place) (slot : Option Nat) (now : Nat) : Strand :=
  { Strand.zero with
    place := place, id := mkId l.handle i, n := BitVec.ofNat 32 (l.nring + l.ngate), vf := l.vf, prio := l.prio, runPrio := l.prio
    trap := { TrapRegs.zero with tvec := l.tvec &&& 0x3FFFFFFFFFFFFC }, ptroot := l.ptroot, asid := l.asid, saveSlot := slot
    startedAt := now }

def placeOf (m : Nat) : Place := if m < 48 then .ring m else .gateway (m - 48)

/-! ## Resume (R411, R316) -/

/-- Overflow messages enter the inbox as far as entries allow (R316). -/
def refill (st : Strand) : Strand :=
  let k := min st.overflow.length (32 - st.inbox.length)
  { st with inbox := st.inbox ++ st.overflow.take k, overflow := st.overflow.drop k, ovHead := st.ovHead + BitVec.ofNat 32 k }

/-- Rows of accumulators and slots that are not claimed and dirty are not restored: their contents are undefined (R411). -/
def keepDirty (x : Ctx) : Ctx :=
  let kept (j : Nat) : Bool := x.claim.getLsbD j && x.dirty.getLsbD j
  { x with acc := x.acc.filter (fun r => kept (r.1 / 256)), slot := x.slot.filter (fun r => kept (8 + r.1 / 256)) }

/-- The strand as it resumes on a master: the head at ring position 0, its fork's other chunks to be forked again, with no squash
counted, since R410 saves no count and R113 keeps them for the life of the fork. (DEDUCED, log entry 108.) -/
def resumed (r : Runner) (m now : Nat) : Runner :=
  let fork := r.st.fork.map (fun f => { f with
    posBase := (8 - f.committed % 8) % 8, snapAt := 0, chunks := [], next := f.committed + 1, anns := [], squashCount := []
    chain := f.chain.filter (fun c => c.dst ≤ f.committed), confirms := [] })
  { x := { keepDirty r.x with pos := 0 }
    st := refill { r.st with
      place := placeOf m, phase := .running, startedAt := now, resumeNext := false, fork := fork
      pred := r.st.pred.filter (fun e => e.site == r.st.fsite) } }

/-- Place strand i of a launch on a master: a saved one resumes, another one enters. -/
def State.placeOn (s : State) (l : Launch) (i m : Nat) : State :=
  let id := mkId l.handle i
  let saved := l.toResume.contains i
  let old := s.parked.find? (fun r => r.st.id == id && r.st.place == .saved)
  let r : Runner := match saved, old with
    | true, some r => resumed r m s.time
    | _, _ => { x := entryCtx l i, st := entryStrand l i (placeOf m) s.freeSlot s.time }
  let rest := if saved then s.parked.filter (fun r => !(r.st.id == id && r.st.place == .saved)) else s.parked
  let s := { s with
    parked := rest ++ [r]
    cp := { s.cp with
      masters := vset s.cp.masters m .occupied
      diePtr := if m < 48 then dieOfMaster m else s.cp.diePtr
      launches := s.cp.launches.map (fun (k : Launch) => if k.handle = l.handle then
        { k with toPlace := k.toPlace.filter (· != i), toResume := k.toResume.filter (· != i), waitFrom := none } else k) } }
  let s : State := s.joinGroups l.handle i m
  if saved then s.applyLog (dieOfMaster m) else s

/-- Place one strand of the launch where R70 says. -/
def State.placeStrand (s : State) (h : BitVec 32) (i : Nat) : State :=
  match s.launch? h with
  | none => s
  | some l =>
    if l.isGate i then match (s.openGates l).head? with | some m => s.placeOn l i m | none => s
    else match s.pickRing l with | some m => s.placeOn l i m | none => s

/-- Suspension of a launch's groups ends, and phases that can complete do (R67). -/
def State.resumeGroups (s : State) (h : BitVec 32) : State :=
  (s.cp.groups.filter (fun g => g.handle == h)).foldl (fun s g => s.settleGroup { g with suspended := false }) s

/-- place_strands of R69: one strand, or a whole gang; the state and how many were placed. -/
def State.placeStrands (s : State) (l : Launch) : State × Nat :=
  if l.gang then
    let order := (l.pending.filter (fun i => !l.isGate i)) ++ l.pending.filter l.isGate
    ((order.foldl (fun s i => s.placeStrand l.handle i) s).resumeGroups l.handle, l.pending.length)
  else match s.nextStrand l with
    | some i => (s.placeStrand l.handle i, 1)
    | none => (s, 0)

/-! ## The pass (R69) -/

def State.weight (s : State) (v : Nat) : Nat := bits (vget s.cp.vfcfg 0 v) 0 8

def State.canServe (s : State) (level v : Nat) : Bool := match s.head? level v with | some l => s.canPlace l | none => false

/-- The next function to serve at a level; one of weight 0 only when no other can place. -/
def State.nextFunction (s : State) (level : Nat) : Option Nat :=
  let can := (s.turnOrder level).filter (s.canServe level)
  (can.find? (fun v => s.weight v != 0)).orElse (fun _ => can.head?)

def setDeficit (k : Nat) (d : Int) (l : List (Nat × Int)) : List (Nat × Int) :=
  let rest := l.filter (fun e => e.1 != k)
  if d = 0 then rest else update k d rest

/-- Serve one function while its deficit and its head launch last. -/
def State.serve (s : State) (level v : Nat) : Nat → Int → State × Int
  | 0, d => (s, d)
  | fuel + 1, d =>
    match s.head? level v with
    | some l =>
      if d ≥ 1 ∧ s.canPlace l then
        let (t, n) := s.placeStrands l
        t.serve level v fuel (d - n)
      else (s, d)
    | none => (s, d)

/-- Turns that one level of a pass can take: at most 64 placements, each by a function whose deficit, at least −63 while every
other waits its turn, rises by 1 or more a turn. -/
def passTurns : Nat := 64 * 64 * 32

/-- The turns of one level. -/
def State.servePass (s : State) (level : Nat) : Nat → State
  | 0 => s
  | fuel + 1 =>
    match s.nextFunction level with
    | none => s
    | some v =>
      let k := level * 32 + v
      let (t, d) := s.serve level v 65 (lookupD 0 k s.cp.deficit + max (s.weight v) 1)
      let d := if (t.queueAt level v).isEmpty then 0 else d
      State.servePass { t with cp := { t.cp with
        deficit := setDeficit k d t.cp.deficit, lastServed := vset t.cp.lastServed level (BitVec.ofNat 5 v) } } level fuel

/-- The levels in order, until one still waits. -/
def State.passFrom (s : State) : List Nat → State
  | [] => s
  | level :: rest =>
    let t := s.servePass level passTurns
    if t.levelWaits level then t else t.passFrom rest

/-- The wait of R71 begins at the first pass that finds a launch heading its queue and unable to place, and ends when it can. -/
def State.noteWaits (s : State) : State :=
  { s with cp := { s.cp with launches := s.cp.launches.map (fun l =>
      let heads := (s.head? l.prio.toNat l.vf.toNat).map (·.handle) == some l.handle
      if !heads then l
      else if s.canPlace l then { l with waitFrom := none }
      else { l with waitFrom := some (l.waitFrom.getD s.time) }) } }

/-- cp_schedule() of R69. (DEDUCED, log entry 56.) -/
def State.schedule (s : State) : State := (s.passFrom [0, 1, 2, 3]).noteWaits

/-- SCHEDULING_PASS (R69). -/
def execSchedulingPass (s : State) : Host.Outcome State Fault Refusal := .next s.schedule

/-- Counters of the contention predictor of a master's cores return to 1 (R294). -/
def clearContention (m : Nat) (l : List (Nat × BitVec 2)) : List (Nat × BitVec 2) :=
  l.filter (fun e => if m < 48 then e.1 / 512 / 8 != m else e.1 / 512 != 384 + (m - 48))

/-- RING_RECLAIM_DONE (R72): the ring or gateway core is free, and a pass runs. -/
def execRingReclaimDone (master : BitVec 6) (s : State) : Host.Outcome State Fault Refusal :=
  let m := master.toNat
  if s.masterState m = .reclaiming then
    let t := { s with contention := clearContention m s.contention, cp := { s.cp with masters := vset s.cp.masters m .free } }
    .next t.schedule
  else .next s

end Sys2Proof.Machine
end

