-- ==== Sys2Proof/Machine/Switch.lean ====
section
/-! DEFINITION. Pre-emption, the save slot and world switch (18 R407 to R413, 03 R71). -/

namespace Sys2Proof.Machine

/-! ## Asking a strand to stop (R408 step 1) -/

/-- Speculative chunks of the focus strand are squashed, with no squash count. -/
def State.dropSpeculative (s : State) : State :=
  match s.st.fork with
  | none => s
  | some f =>
    let r := discardFrom (if f.passing then f.committed else f.committed + 1) false { x := s.x, st := s.st }
    { s with x := r.x, st := r.st }

/-- The focus strand is asked to stop; `due`: at once. -/
def State.askStop (s : State) (due : Bool) : State :=
  match s.st.phase with
  | .running =>
    let s := s.dropSpeculative
    { s with st := { s.st with phase := .stopping s.time due } }
  | .stopping t d => { s with st := { s.st with phase := .stopping t (d || due) } }
  | .saving => s
  | .frozen => s

/-- Places of the frozen strands of a launch. -/
def State.frozenPlaces (s : State) (h : BitVec 32) : BitVec 64 :=
  (s.strands.filter (fun st => idHandle st.id == h && st.place != .management && st.phase == .frozen)).foldl (fun w st =>
    match st.place.master? with | some m => w ||| (1#64 <<< m) | none => w) 0

/-- Groups of a pre-empted gang: every member's bit is cleared but a frozen one's, and the entries are suspended (R67). -/
def State.suspendGroups (s : State) (h : BitVec 32) : State :=
  let kept := s.frozenPlaces h
  { s with cp := { s.cp with groups := s.cp.groups.map (fun g =>
      if g.handle = h then { g with map := g.map &&& kept, suspended := true } else g) } }

/-- Running strands of a launch. -/
def State.runningOf (s : State) (h : BitVec 32) : List Strand :=
  s.strands.filter (fun st => idHandle st.id == h && st.place != .management && st.place != .saved && st.phase == .running)

/-- Pre-empt a strand: a gang as a whole (R71). -/
def State.preempt (s : State) (id : StrandId) (due : Bool) : State :=
  let h := idHandle id
  let gang := match s.launch? h with | some l => l.gang | none => false
  let s := s.onStrand (isStrandOf id) (fun s => s.askStop due)
  if gang then
    ((s.runningOf h).foldl (fun s st => s.onStrand (isStrandOf st.id) (fun s => s.askStop false)) s).suspendGroups h
  else s

/-! ## Stopping (R408 steps 2 and 3) -/

/-- Bring the head's context to the front: the head itself, or, between two chunks, the start of the next one; none while a
commit waits. -/
def State.headFront (s : State) : Option State :=
  match s.st.fork with
  | none => some s
  | some f =>
    if decide (f.nchunks ≤ f.committed) then
      ((s.x :: f.chunks).find? (fun c => c.phase == .running)).map (fun c =>
        { s with x := c, st := { s.st with fork := some { f with chunks := [], passing := false } } })
    else if f.passing then
      let f := { f with
        passing := false, chunks := [], next := f.committed + 1, arrived := f.arrived ++ f.chain, chain := [], anns := [] }
      let c := chunkContext s.st f f.committed s.x.pos
      some { s with x := { c with confirmed := true }, st := { s.st with fork := some f, resumeNext := true } }
    else
      ((s.x :: f.chunks).find? (fun c => c.phase == .running && c.cnum.toNat == f.committed)).map (fun c =>
        { s with x := c, st := { s.st with fork := some { f with chunks := [], next := f.committed + 1 } } })

/-- Every entry of the retry buffer is delivered at once (R314); one for a remote receiver is at its hub already (DESIGN CHOICE, log
entry 52). -/
def State.flushRetry (s : State) : State :=
  let s' := s.st.retry.foldl (fun s e => match e.rcv with
    | .remote _ _ => s
    | .strand id => match s.attempt id with
      | .ended => s
      | .overflow => s.overflowTo id e.msg
      | .appended => s.appendTo id e.msg
      | .refused => s.overflowTo id e.msg) s
  { s' with st := { s'.st with retry := [] } }

/-- Group stores of the strand are acknowledged (R377). -/
def State.storesAcked (s : State) (id : StrandId) : Bool :=
  s.clo.mine.all (fun g => g.owner != id || g.state != .open_ || g.lostStore || g.dests.all (fun d => d.acked == d.count))

/-- The vector or matrix memory instruction at pc has issued: its accesses have been translated (R198, R200). -/
def State.midAccess (s : State) : Bool := match s.x.pipe with | some p => p.items.any (fun q => q.n != 0) || p.fault.isSome | none => false

/-- Every instruction that the strand has issued is complete (R187, R200, R408), and the instruction at pc has not begun. -/
def State.quiet (s : State) : Bool :=
  s.x.replies.isEmpty && !s.midAccess && s.x.held.isNone && s.x.owed == .nothing && s.queuesEmpty && s.storesAcked s.st.id

/-- IDLE's stall ends with IDLE completed (R401). -/
def State.endIdle (s : State) : State :=
  match s.st.wait with
  | some w => if w.kind = .idle then { s with x := { s.x with pc := s.x.pc + 4 }, st := { s.st with wait := none } } else s
  | none => s

/-- The focus strand stops, and its save begins: what it issued is performed (R408). -/
def State.beginSave (s : State) : State :=
  match s.headFront with
  | none => s
  | some t =>
    if t.quiet then
      let t := t.endIdle.flushRetry.drainAll
      let t := t.flushScatter t.st.id
      { t with x := { t.x with pipe := none }, st := { t.st with phase := .saving } }
    else s

/-- The strand stops when `p` of the time since it was asked, and of having reached its stop, holds. -/
def State.stopWhen (s : State) (p : Nat → Bool → Bool) : State :=
  match s.st.phase with
  | .stopping t d => if p t d then s.beginSave else s
  | .running => s
  | .saving => s
  | .frozen => s

/-- PREEMPT_STOP (R408): after an ENDI. -/
def execPreemptStop (sid : StrandId) (s : State) : Host.Outcome State Fault Refusal :=
  .next (s.onStrand (isStrandOf sid) (fun s => s.stopWhen (fun _ due => due)))

/-- PREEMPT_HEAD_TIMEOUT (R408): after 20 µs without one. -/
def execPreemptHeadTimeout (sid : StrandId) (s : State) : Host.Outcome State Fault Refusal :=
  .next (s.onStrand (isStrandOf sid) (fun s => s.stopWhen (fun t _ => decide (t + 20 ≤ s.time))))

/-! ## The save slot (R409, R410; DEDUCED, log entry 28) -/

def words (ws : List Word) : List Byte := ws.flatMap (fun w => leBytes 8 w.toNat)

def Region.word (r : Region) : Word := BitVec.ofNat 64 (r.op * 2 ^ 45 + r.fmt * 2 ^ 40 + r.len)

/-- The predictor entry, 136 bytes: the site, then for each register its last value, stride, chunk, and number and confidence. -/
def predImage (p : Option PredEntry) : List Byte :=
  match p with
  | none => List.replicate 136 0
  | some e => (words ((BitVec.ofNat 64 e.site.toNat) :: e.regs.flatMap (fun (q : PredReg) =>
      [q.last, q.stride, BitVec.ofNat 64 q.lastc, BitVec.ofNat 64 (q.reg + 256 * q.conf)])) ++ List.replicate 136 0).take 136

def waitWords (w : Option Wait) : List Word :=
  match w with
  | none => [0, 0, 0, 0]
  | some w =>
    let kind : Word × Word := match w.kind with
      | .bwait pa => (1, BitVec.ofNat 64 pa)
      | .barrw pa => (2, BitVec.ofNat 64 pa)
      | .gbar g => (3, BitVec.ofNat 64 g)
      | .idle => (4, 0)
    [kind.1, kind.2, w.phase.setWidth 64, match w.delivered with
      | some (st, ph) => BitVec.ofNat 64 (2 ^ 63 + st.toNat * 2 ^ 32 + ph.toNat)
      | none => 0]

/-- A merge-state line whose every element holds the identity of its region (R121). -/
def identityLine (st : Strand) (region : Nat) : List Byte :=
  match vget st.regions none region with
  | some r => (List.replicate 64 (leBytes r.size r.identity)).flatten.take 64
  | none => List.replicate 64 0

/-- Lines of partials, each with the bytes of its elements: of one untouched, its identity (R121, R133). -/
def partialLines (st : Strand) (x : Ctx) : List (Nat × List Byte) :=
  (x.partials.map (fun p => p.pa / 64)).eraseDups.map (fun l =>
    let here := x.partials.filter (fun p => p.pa / 64 == l)
    (l, here.foldl (fun bs p =>
      let n := match vget st.regions none p.region with | some r => r.size | none => 8
      bs.take (p.pa % 64) ++ leBytes n p.value.toNat ++ bs.drop (p.pa % 64 + n))
      (identityLine st ((here.head?.map (·.region)).getD 0))))

/-- The header (R410), as pieces at offsets. -/
def headerImage (s : State) (x : Ctx) (st : Strand) : List (Nat × List Byte) :=
  let t := st.trap
  let f := st.fork
  let b (n : Nat) : Word := BitVec.ofNat 64 n
  [ (0x000, words [b (1 + b2n f.isSome 256 + b2n st.wait.isSome 512 + b2n st.resumeNext 1024), x.pc.setWidth 64]),
    (0x010, words x.sreg.toList),
    (0x110, words [x.vl, x.vtype, x.vbeg, x.rngkey.setWidth 64, x.rngctr]),
    (0x138, words [x.cnum.setWidth 64, x.citer.setWidth 64, st.ccount.setWidth 64, s.cflags, st.fsite.setWidth 64,
      st.fsquash.setWidth 64]),
    (0x168, words [t.status, t.tvec, t.tcause, t.tpc, t.tval, t.telem, t.tstride, t.tremain, t.tscratch]),
    (0x1B0, words [st.ptroot, st.asid]),
    (0x1C0, words st.pmcfg.toList),
    (0x1E0, words [st.runPrio.setWidth 64, b ((List.range 8).foldr (fun j acc => (vget st.tokens 0 j).toNat + 16 * acc) 0),
      b (st.lost.toNat * 2 ^ 22 + st.overflow.length * 64), (st.ovHead + BitVec.ofNat 32 st.overflow.length) ++ st.ovHead]),
    (0x200, words (match f with
      | some f => [f.forkPc.setWidth 64, (f.endiPc.getD 0).setWidth 64, f.even, f.odd, b (if f.tiled then f.rows else f.count),
          b (if f.tiled then f.cols else 0), b (x.citer.toNat - f.chunkStart x.cnum.toNat),
          b ((x.posts.filter (fun p => p.1 == x.citer.toNat)).foldl (fun acc p => acc ||| 2 ^ p.2) 0)]
      | none => List.replicate 8 0)),
    (0x240, predImage (st.pred.find? (fun e => e.site == st.fsite))),
    (0x2D0, words ((st.regions.toList).flatMap (fun r => match r with | some r => [b r.base, r.word] | none => [0, 0]))),
    (0x310, words [b (partialLines st x).length, b (x.claim.toNat + x.dirty.toNat * 2 ^ 24), x.shape]),
    (0x328, words (waitWords st.wait)),
    (0x380, x.accPoison.toList.flatMap (fun v => leBytes 32 v.toNat)),
    (0x480, x.slotPoison.toList.flatMap (fun v => leBytes 32 v.toNat)),
    (0x700, st.tables.toList.flatMap (fun v => leBytes 96 v.toNat)) ]

/-- The snapshot's parts of the slot. -/
def snapImage (f : Fork) : List (Nat × List Byte) :=
  [ (0x1900, (f.snap.kreg.toList.drop 1).flatMap (fun v => leBytes 256 v.toNat)),
    (0x2900, words f.snap.sreg.toList),
    (0x2A00, words [f.snap.vl, f.snap.vtype, f.snap.vbeg, f.snap.rngkey.setWidth 64, f.snap.rngctr]),
    (0x13000, f.snap.vreg.toList.flatMap (fun v => leBytes 2048 v.toNat)) ]

/-- Rows of claimed and dirty accumulators and slots. -/
def rowImage (x : Ctx) : List (Nat × List Byte) :=
  let k := keepDirty x
  k.acc.map (fun r => (0x74000 + r.1 / 256 * 0x40000 + r.1 % 256 * 1024, leBytes 1024 r.2.toNat)) ++
    k.slot.map (fun r => (0x274000 + r.1 / 256 * 0x20000 + r.1 % 256 * 512, leBytes 512 r.2.toNat))

/-- The overflow inbox, in a ring of 512 places from its head count on. (DEDUCED, log entry 112.) -/
def overflowImage (st : Strand) : List (Nat × List Byte) :=
  (List.range st.overflow.length).flatMap (fun i =>
    let k := (st.ovHead.toNat + i) % 512
    match st.overflow[i]? with
    | some m => [(0x23000 + k * 64, leBytes 64 m.payload.toNat), (0x2B000 + k * 8, leBytes 8 m.sender.toNat)]
    | none => [])

/-- The slot of the focus strand (R409). -/
def slotImage (s : State) : List (Nat × List Byte) :=
  let st := s.st
  let x := s.x
  let lines := partialLines st x
  headerImage s x st ++
  [ (0x1100, (x.kreg.toList.drop 1).flatMap (fun v => leBytes 256 v.toNat)),
    (0x2000, st.inbox.flatMap (fun m => leBytes 64 m.payload.toNat)),
    (0x2800, words (st.inbox.map (·.sender))),
    (0x3000, x.vreg.toList.flatMap (fun v => leBytes 2048 v.toNat)),
    (0x2C000, words (lines.map (fun l => BitVec.ofNat 64 (l.1 * 64)))),
    (0x34000, lines.flatMap (·.2)) ] ++
  overflowImage st ++ (match st.fork with | some f => snapImage f | none => []) ++ rowImage x

/-- Write the slot. -/
def State.writeSlot (s : State) : State :=
  match s.st.saveSlot with
  | none => s
  | some j =>
    let base := s.cp.svbase.toNat + j * 0x474000
    (slotImage s).foldl (fun s p => s.pokeBytes (base + p.1) p.2) s

/-- A pre-empted launch re-enters the head of its queue (R71), its saved strands in ascending index (R70). -/
def State.requeue (s : State) (h : BitVec 32) (i : Nat) : State :=
  let mine := (s.cp.launches.filter (fun l => l.handle == h)).map (fun l => { l with toResume := insertNat i l.toResume })
  { s with cp := { s.cp with launches := mine ++ s.cp.launches.filter (fun l => l.handle != h) } }

/-- The focus strand leaves its ring, its state in the slot (R408 steps 4 and 5). -/
def State.finishSave (s : State) : State :=
  if s.st.phase != .saving then s
  else
    let s := s.writeSlot
    let m := s.st.place.master?
    let r : Runner := { x := s.x, st := { s.st with place := .saved, phase := .running } }
    let s := s.leaveMaster m
    let s := { s with
      cp := setMaster s.cp m .free
      contention := match m with | some k => clearContention k s.contention | none => s.contention }
    let s := s.dropFocus
    let s := { s with parked := s.parked ++ [r] }
    (s.requeue (idHandle r.st.id) (idIndex r.st.id)).schedule

/-- SAVE_COMPLETE (R408): the slot is written, the ring released, and a pass runs. -/
def execSaveComplete (sid : StrandId) (s : State) : Host.Outcome State Fault Refusal :=
  .next (s.onStrand (isStrandOf sid) State.finishSave)

/-! ## Time slices (R71) -/

/-- What can be pre-empted as one: a strand, or a gang. -/
structure Victim where
  rank : Nat
  started : Nat
  ids : List StrandId
  masters : List Nat
  deriving DecidableEq, Repr

/-- The strands that run, by launch for a gang. (DEDUCED, log entry 59.) -/
def State.victims (s : State) : List Victim :=
  let run := s.strands.filter (fun st => st.place != .management && st.place != .saved && st.phase == .running)
  let ofStrands (l : List Strand) : Victim :=
    { rank := l.foldl (fun m st => min m st.runPrio.toNat) 3, started := l.foldl (fun m st => min m st.startedAt) s.time
      ids := l.map (·.id), masters := l.filterMap (·.place.master?) }
  let isGang (st : Strand) : Bool := match s.launch? (idHandle st.id) with | some l => l.gang | none => false
  let gangs := ((run.filter isGang).map (fun st => idHandle st.id)).eraseDups
  (run.filter (fun st => !isGang st)).map (fun st => ofStrands [st]) ++
    gangs.map (fun h => ofStrands (run.filter (fun st => idHandle st.id == h)))

/-- Lowest rank first, the longest-running first within a rank. -/
def insertVictim (v : Victim) : List Victim → List Victim
  | [] => [v]
  | u :: us => if u.rank < v.rank ∨ (u.rank = v.rank ∧ v.started < u.started) then v :: u :: us else u :: insertVictim v us

/-- Take victims while rings or gateway cores of the partition are needed. -/
def takeVictims (inPart : Nat → Bool) : Nat → Nat → List Victim → List Victim
  | _, _, [] => []
  | r, g, v :: vs =>
    let vr := (v.masters.filter (fun m => inPart m && decide (m < 48))).length
    let vg := (v.masters.filter (fun m => inPart m && !decide (m < 48))).length
    if (r != 0 && vr != 0) || (g != 0 && vg != 0) then v :: takeVictims inPart (r - vr) (g - vg) vs
    else takeVictims inPart r g vs

/-- Rings, or gateway cores, of a partition that are free or on their way to it. -/
def State.coming (s : State) (l : Launch) (gate : Bool) : Nat :=
  let stopping := s.strands.filterMap (fun st => match st.phase with
    | .stopping _ _ => st.place.master?
    | .saving => st.place.master?
    | .running => none
    | .frozen => none)
  ((List.range 64).filter (fun m => (decide (m < 48) != gate) && (vget s.cp.parta 0 l.vf.toNat).getLsbD m &&
    (s.mayTake l m || s.masterState m == .reclaiming || stopping.contains m))).length

/-- The launch has waited for one quantum, unable to place (R71). -/
def State.waited (s : State) (l : Launch) : Bool :=
  match l.waitFrom with | some t => decide (t + s.cp.quant.toNat ≤ s.time) | none => false

/-- Strands are pre-empted to make room for a waiting launch (R71). -/
def State.makeRoom (s : State) (l : Launch) : State :=
  let inPart (m : Nat) : Bool := (vget s.cp.parta 0 l.vf.toNat).getLsbD m
  let p := l.prio.toNat
  let may (c : Victim) : Bool :=
    decide (p < c.rank) || (c.rank == p && decide (c.started + s.cp.quant.toNat ≤ s.time))
  let sorted := (s.victims.filter may).foldr insertVictim []
  let needR := (l.pending.filter (fun i => !l.isGate i)).length - s.coming l false
  let needG := (l.pending.filter l.isGate).length - s.coming l true
  (takeVictims inPart needR needG sorted).foldl (fun s c =>
    match c.ids with | id :: _ => s.preempt id false | [] => s) s

/-- QUANTUM_EXPIRY (R69, R71): a launch has headed its queue for one quantum, unable to place. The quantum ends, so a pass runs;
strands are pre-empted for the launch if it still cannot place. -/
def execQuantumExpiry (level : BitVec 2) (v : BitVec 5) (s : State) : Host.Outcome State Fault Refusal :=
  match s.head? level.toNat v.toNat with
  | none => .next s
  | some l =>
    if !s.waited l then .next s
    else
      let s := s.schedule
      match s.head? level.toNat v.toNat with
      | none => .next s
      | some l => .next (if !s.waited l || s.suspended v.toNat || s.canPlace l then s else s.makeRoom l)

/-! ## World switch (R413) -/

def wswOut (w : Word) : Nat := bits w 0 5
def wswIn (w : Word) : Nat := bits w 8 5

/-- A write of cpwsw by the physical function (R413): discarded while a switch runs, else it starts the switch it names. -/
def State.writeWsw (s : State) (value : Word) : State :=
  if s.cp.switch ≠ .idle then s
  else
    let w := value &&& 0x3F3F
    let s := { s with cp := { s.cp with wsw := w } }
    if !bit w 5 && !bit w 13 then s
    else
      let s := { s with cp := { s.cp with switch := .out } }
      if bit w 5 then
        let v := wswOut w
        let s := { s with cp := { s.cp with susp := s.cp.susp ||| (1#32 <<< v) } }
        let run := s.strands.filter (fun st => st.vf.toNat == v && st.place != .management && st.place != .saved && st.phase == .running)
        run.foldl (fun s st => s.preempt st.id false) s
      else s

/-- WORLD_SWITCH_OUT (R413). -/
def execWorldSwitchOut (who : Requester) (value : Word) (s : State) : Host.Outcome State Fault Refusal :=
  match who with
  | .vf _ => .next s
  | .pf => .next (s.writeWsw value)

/-- No strand of the outgoing function holds a ring, frozen ones aside, and its engine commands are complete. -/
def State.outDone (s : State) : Bool :=
  !bit s.cp.wsw 5 ||
    ((s.strands.all (fun st => st.vf.toNat != wswOut s.cp.wsw || st.place == .management || st.place == .saved || st.phase == .frozen)) &&
      (List.range 16).all (fun e => (s.engine e).cmds.all (fun c => c.vf.toNat != wswOut s.cp.wsw)))

/-- Bank counters of the outgoing function are saved, and frozen (R436). -/
def State.freezeBank (s : State) : State :=
  if bit s.cp.wsw 5 then { s with cp := { s.cp with bankFrozen := s.cp.bankFrozen ||| (1#32 <<< wswOut s.cp.wsw) } } else s

/-- WORLD_SWITCH_IN (R413): the incoming function's suspension is cleared, its counters restored, and a pass runs. -/
def execWorldSwitchIn (s : State) : Host.Outcome State Fault Refusal :=
  if s.cp.switch ≠ .out ∨ !bit s.cp.wsw 13 ∨ !s.outDone then .next s
  else
    let s := s.freezeBank
    let v := wswIn s.cp.wsw
    .next ({ s with cp := { s.cp with
      susp := s.cp.susp &&& ~~~(1#32 <<< v), bankFrozen := s.cp.bankFrozen &&& ~~~(1#32 <<< v), switch := .inn } }).schedule

/-- WORLD_SWITCH_COMPLETE (R413, R288): busy clears, and the dies apply their translation logs. -/
def execWorldSwitchComplete (s : State) : Host.Outcome State Fault Refusal :=
  let done := match s.cp.switch with
    | .inn => true
    | .out => !bit s.cp.wsw 13 && s.outDone
    | .idle => false
  if done then
    let s := if s.cp.switch = .out then s.freezeBank else s
    .next ((List.range 9).foldl State.applyLog { s with cp := { s.cp with switch := .idle } })
  else .next s

end Sys2Proof.Machine
end

