-- ==== Sys2Proof/Machine/Registers.lean ====
section
/-! DEFINITION. Writes of the host to BAR0: launch ports, command-processor and fabric registers, the mailbox, freezing,
attestation (03 R63, 17 R381 to R384, 16 R354, R355, 18 R390, R405, 24 R435, 14 R327, 25 R445); and the writes of vl, vtype and the
management registers as events. -/

namespace Sys2Proof.Machine

/-! ## cplaunch (R63, R381) -/

/-- May the requester write the launch port of v? -/
def mayLaunch (who : Requester) (v : BitVec 5) : Bool :=
  match who with
  | .pf => true
  | .vf w => w == v

def State.setPlstat (s : State) (v : Nat) (w : Word) : State := { s with cp := { s.cp with plstat := vset s.cp.plstat v w } }

/-- Address space of host-submitted launches of v (R63). -/
def State.rootOf (s : State) (v : Nat) : Word × Word :=
  let r := vget s.cp.proot 0 v
  (r &&& 0xFFFFFFFFF0000, r &&& 0xFFFF)

/-- The record that a cplaunch write names; none on a fault, on a page of fabric kind (log entry 47), and where its line reads as
poison (DEDUCED, log entry 101). -/
def State.hostRecord (s : State) (v : Nat) (va : Word) : State × Option (List Byte) :=
  let (root, asid) := s.rootOf v
  match s.xlateHub (launchSpace root asid v) .read va.toNat with
  | (s, .ok x) => if x.fabric || s.poisoned x.pa then (s, none) else (s.touch none x.pa, some (s.memBytes x.pa 64))
  | (s, .error _) => (s, none)

/-- A write of the launch port of function n (R381). -/
def State.cplaunch (s : State) (n : Nat) (value : Word) : State :=
  if !s.enabled n then s.setPlstat n (submitResult 5 0)
  else if value.toNat % 64 ≠ 0 then s.setPlstat n (submitResult 2 0)
  else match s.hostRecord n value with
    | (s, none) => s.setPlstat n (submitResult 2 0)
    | (s, some bs) =>
      let (root, asid) := s.rootOf n
      let (s, code, h) := s.submit { vf := n, ptroot := root, asid := asid, tvec := vget s.cp.ptvec 0 n, issuer := none } bs
      let s := s.setPlstat n (submitResult code h)
      if code = 0 then s.schedule else s

/-- CPLAUNCH (R381). -/
def execCplaunch (who : Requester) (v : BitVec 5) (value : Word) (s : State) : Host.Outcome State Fault Refusal :=
  .next (if mayLaunch who v then s.cplaunch v.toNat value else s)

/-- A frozen strand ends as fenced (R404). (DEDUCED, log entry 41.) -/
def State.thawStrand (s : State) : State :=
  if s.st.phase = .frozen then s.fence { cause := 0xE2, pc := s.x.pc } 4 0 0 false else s

/-! ## Registers of the command-processor block (R63, R327, R354, R390, R405, R435) -/

/-- A write of a per-function register at 0x40 × v + off. -/
def Cp.writeFunction (c : Cp) (v off : Nat) (w : Word) : Cp :=
  match off with
  | 0x10 => { c with vfcfg := vset c.vfcfg v (w &&& 0x1FF) }
  | 0x18 => { c with parta := vset c.parta v w }
  | 0x20 => { c with proot := vset c.proot v (w &&& 0xFFFFFFFFFFFFF) }
  | 0x28 => { c with evtgt := vset c.evtgt v (w &&& 0x1FFFFFFFF) }
  | 0x30 => { c with ptvec := vset c.ptvec v (w &&& 0x3FFFFFFFFFFFFC) }
  | 0x38 => { c with phys := vset c.phys v (w &&& 0x800003FFFFFF03FF) }
  | _ => c

/-- What is stored in a bank counter's register (R435): ku is reserved, events are 1 to 6. -/
def bankStored (w : Word) : Word :=
  let w := putBits w 56 5 0
  if bits w 48 8 ≤ 6 then w else putBits w 48 8 0

/-- A write of a global register of the command processor. -/
def Cp.writeGlobal (c : Cp) (off : Nat) (w : Word) : Cp :=
  match off with
  | 0x1000 => { c with quant := BitVec.ofNat 64 (max (bits w 0 32) 100) }
  | 0x1010 => { c with svbase := w &&& 0xFFFFFFFFF0000 }
  | 0x1018 => { c with svcnt := BitVec.ofNat 64 (max (bits w 0 24) 64) }
  | _ => c

/-- A value of a field that is stored as 1 when written 0. -/
def atLeastOne (n : Nat) : Nat := if n = 0 then 1 else n

/-- A write of a fabric register (R354, R355). -/
def Fab.writeReg (f : Fab) (off : Nat) (w : Word) : Fab :=
  if off = 0x4000 then { f with fxep := w &&& 0x103FF }
  else if off = 0x4008 then { f with fxtmo := BitVec.ofNat 64 (max (bits w 0 32) 10) }
  else if off = 0x4010 then
    let c := min (atLeastOne (bits w 32 16)) 512 * 2 ^ 32 + atLeastOne (bits w 16 16) * 2 ^ 16
      + atLeastOne (bits w 0 16)
    { f with fxclcfg := BitVec.ofNat 64 c }
  else if 0x4100 ≤ off ∧ off < 0x4180 then { f with fxacl := vset f.fxacl ((off - 0x4100) / 8) w }
  else if 0x4200 ≤ off ∧ off < 0x4A00 then
    let i := (off - 0x4200) / 0x20
    match (off - 0x4200) % 0x20 with
    | 0x00 => { f with wina := vset f.wina i (w &&& 0x3FFFFFFFFFFFFF) }
    | 0x08 => { f with winb := vset f.winb i (w &&& 0xFFFFFFFFF0000) }
    | 0x10 => { f with winc := vset f.winc i (w &&& 0xE3E00000001FFFFF) }
    | _ => f
  else f

/-- A write of gwbqcfg of gateway core g empties its queue and its counters (R327). -/
def State.writeGwbqcfg (s : State) (g : Nat) (w : Word) : State := { s with gwq := vset s.gwq g { emptyGwq with cfg := gwbqStored w } }

/-- A write of cpunfrz (R405): rings 0 to 47, gateway cores 48 to 63, engines 64 to 79. -/
def State.unfreeze (s : State) (m : Nat) : State :=
  if m < 64 then s.onStrand (fun st => st.place.master? == some m) State.thawStrand
  else if m < 80 then s.thawEngine (m - 64)
  else s

/-- A write of the physical function to the command-processor block. A register whose write does something acts as under its own
event. -/
def State.writeCp (s : State) (off : Nat) (w : Word) : State :=
  if off < 0x800 then
    if off % 0x40 = 0 then s.cplaunch (off / 0x40) w
    else { s with cp := s.cp.writeFunction (off / 0x40) (off % 0x40) w }
  else if off = 0x1020 then s.writeWsw w
  else if off = 0x1028 then s.unfreeze w.toNat
  else if off < 0x2000 then { s with cp := s.cp.writeGlobal off w }
  else if off < 0x2400 then if off % 0x40 = 0 then s.writeGwbqcfg ((off - 0x2000) / 0x40) w else s
  else if 0x4000 ≤ off ∧ off < 0x5000 then { s with fab := s.fab.writeReg off w }
  else if 0x5000 ≤ off ∧ off < 0x5800 ∧ (off - 0x5000) % 0x40 < 0x20 then
    let i := (off - 0x5000) / 0x40 * 4 + (off - 0x5000) % 0x40 / 8
    { s with cp := { s.cp with bankCtr := vset s.cp.bankCtr i (bankStored w) } }
  else s

/-- A register of function v at 0x40 × v + off, as the physical function reads it; the launch port reads zero (log entry 102). -/
def Cp.readFunction (c : Cp) (v off : Nat) : Word :=
  match off with
  | 0x08 => vget c.plstat 0 v
  | 0x10 => vget c.vfcfg 0 v
  | 0x18 => vget c.parta 0 v
  | 0x20 => vget c.proot 0 v
  | 0x28 => vget c.evtgt 0 v
  | 0x30 => vget c.ptvec 0 v
  | 0x38 => vget c.phys 0 v
  | _ => 0

/-- cpwsw as it reads (R413): busy, the suspended functions, and the fields as last written. -/
def Cp.readWsw (c : Cp) : Word := putBits (putBits c.wsw 63 1 (b2n (c.switch != .idle) 1)) 16 32 c.susp.toNat

/-- A global register of the command processor; cpunfrz reads zero (log entry 102). -/
def Cp.readGlobal (c : Cp) (off : Nat) : Word :=
  match off with
  | 0x1000 => c.quant
  | 0x1010 => c.svbase
  | 0x1018 => c.svcnt
  | 0x1020 => c.readWsw
  | _ => 0

/-- A fabric register (R354). -/
def Fab.readReg (f : Fab) (off : Nat) : Word :=
  if off = 0x4000 then f.fxep
  else if off = 0x4008 then f.fxtmo
  else if off = 0x4010 then f.fxclcfg
  else if 0x4100 ≤ off ∧ off < 0x4180 then vget f.fxacl 0 ((off - 0x4100) / 8)
  else if 0x4200 ≤ off ∧ off < 0x4A00 then
    let i := (off - 0x4200) / 0x20
    match (off - 0x4200) % 0x20 with
    | 0x00 => vget f.wina 0 i
    | 0x08 => vget f.winb 0 i
    | 0x10 => vget f.winc 0 i
    | _ => 0
  else 0

/-- A port counter (R435). -/
def Fab.readPort (f : Fab) (off : Nat) : Word :=
  match (off - 0x6000) % 0x10 with
  | 0 => (vget f.sent 0 ((off - 0x6000) / 0x10)).setWidth 64
  | 8 => (vget f.rcvd 0 ((off - 0x6000) / 0x10)).setWidth 64
  | _ => 0

/-- A register of the command-processor block as the physical function reads it: zero where the manual names none (R63). -/
def State.readCp (s : State) (off : Nat) : Word :=
  if off < 0x800 then s.cp.readFunction (off / 0x40) (off % 0x40)
  else if off < 0x2000 then s.cp.readGlobal off
  else if off < 0x2400 then if off % 0x40 = 0 then (vget s.gwq emptyGwq ((off - 0x2000) / 0x40)).cfg else 0
  else if 0x4000 ≤ off ∧ off < 0x5000 then s.fab.readReg off
  else if 0x5000 ≤ off ∧ off < 0x5800 then
    if (off - 0x5000) % 0x40 < 0x20 ∧ off % 8 = 0 then vget s.cp.bankCtr 0 ((off - 0x5000) / 0x40 * 4 + (off - 0x5000) % 0x40 / 8) else 0
  else if 0x6000 ≤ off ∧ off < 0x6200 then s.fab.readPort off
  else 0

/-- Word i of a number laid out in words, the lowest first. -/
def wordAt {w : Nat} (v : BitVec w) (i : Nat) : Word := v.extractLsb' (64 * i) 64

/-- The certificate's bytes [8i+7 : 8i] (R445). -/
def certWord (i : Nat) : Word :=
  BitVec.ofNat 64 (leNat ((List.range 8).map (fun k => if 8 * i + k < Config.certLength then Config.certByte (8 * i + k) else 0)))

/-- A register of the mailbox and of attestation (R382, R445); the command registers read zero (log entry 102). -/
def State.readMailbox (s : State) (off : Nat) : Word :=
  let m := s.mbx
  if off = 0 then m.mbstat
  else if 0x10 ≤ off ∧ off < 0x30 then vget m.fw 0 ((off - 0x10) / 8)
  else if 0x30 ≤ off ∧ off < 0x50 then vget m.fa 0 ((off - 0x30) / 8)
  else if off = 0x50 then m.hdmcfg
  else if off = 0x58 then m.tlbase
  else if off = 0x60 then m.evtail
  else if off = 0x68 then m.evhead
  else if 0x100 ≤ off ∧ off < 0x900 then wordAt (vget m.events 0 ((off - 0x100) / 64)) ((off - 0x100) % 64 / 8)
  else if 0x900 ≤ off ∧ off < 0xA00 then
    let e := vget m.shelves (0, 0) ((off - 0x900) / 16)
    if off % 16 = 0 then e.1 else e.2
  else if 0x4000 ≤ off ∧ off < 0x4040 then wordAt m.nonce ((off - 0x4000) / 8)
  else if off = 0x4080 then m.atstat.setWidth 64
  else if 0x4100 ≤ off ∧ off < 0x4398 then wordAt m.report ((off - 0x4100) / 8)
  else if off = 0x4FF8 then BitVec.ofNat 64 Config.certLength
  else if 0x5000 ≤ off then certWord ((off - 0x5000) / 8)
  else 0

/-- An aligned 8-byte read of BAR0 (R63, R381): the physical function reads the mailbox and the command-processor block; BAR0 of
virtual function v maps cplaunch and cplstat of v, and every other offset reads zero. -/
def State.readBar (s : State) (who : Requester) (off : Nat) : Word :=
  match who with
  | .vf v => if off = 8 then vget s.cp.plstat 0 v.toNat else 0
  | .pf => if off < 0x10000 then s.readMailbox off else s.readCp (off - 0x10000)

/-- The accepted words are refused: a bit that is not offered, no base feature, or a window out of bounds. -/
def commitRefused (m : Mailbox) : Bool :=
  (List.range 4).any (fun i => (vget m.fa 0 i &&& ~~~(vget m.fw 0 i)) != 0) || !bit (vget m.fa 0 0) 0 ||
    decide (768 < bits m.hdmcfg 16 10 + bits m.hdmcfg 0 10) || decide (512 < bits m.hdmcfg 0 10)

/-- A write of mbcmd (R382, R384): it acts once, after the words are published. (DEDUCED, log entry 55.) -/
def State.commit (s : State) (w : Word) : State :=
  if w ≠ 1 ∨ !bit s.mbx.mbstat 0 ∨ bits s.mbx.mbstat 1 2 ≠ 0 then s
  else { s with mbx := { s.mbx with mbstat := putBits s.mbx.mbstat 1 2 (if commitRefused s.mbx then 2 else 1) } }

/-- The host writes the nonce (R445). -/
def State.writeNonce (s : State) (nonce : BitVec 512) : State :=
  if s.mbx.atstat = 2 then s else { s with mbx := { s.mbx with nonce := nonce, atstat := 0 } }

/-- A write of atcmd (R445). -/
def State.startReport (s : State) (w : Word) : State :=
  if w ≠ 1 ∨ s.mbx.atstat = 2 then s else { s with mbx := { s.mbx with atstat := 2 } }

/-- Word i of the nonce replaced (DEDUCED, log entry 117). -/
def putNonceWord (nonce : BitVec 512) (i : Nat) (w : Word) : BitVec 512 :=
  nonce ^^^ ((wordAt nonce i ^^^ w).setWidth 512 <<< (64 * i))

/-- A write of the physical function to the mailbox and to attestation (R382, R445): the accepted words and hdmcfg until the commit,
evhead, and the command registers. -/
def State.writeMailbox (s : State) (off : Nat) (w : Word) : State :=
  let pending := bits s.mbx.mbstat 1 2 == 0
  if off = 8 then s.commit w
  else if 0x30 ≤ off ∧ off ≤ 0x48 ∧ pending then { s with mbx := { s.mbx with fa := vset s.mbx.fa ((off - 0x30) / 8) w } }
  else if off = 0x50 ∧ pending then { s with mbx := { s.mbx with hdmcfg := w &&& 0x3FF03FF } }
  else if off = 0x68 then { s with mbx := { s.mbx with evhead := w } }
  else if 0x4000 ≤ off ∧ off < 0x4040 then s.writeNonce (putNonceWord s.mbx.nonce ((off - 0x4000) / 8) w)
  else if off = 0x4040 then s.startReport w
  else s

/-- REGISTER_WRITE (R63, R381): an aligned 8-byte write at an offset of BAR0. A virtual function reaches its launch port alone. -/
def execRegisterWrite (who : Requester) (off : Nat) (value : Word) (s : State) : Host.Outcome State Fault Refusal :=
  match who with
  | .vf v => .next (if off = 0 then s.cplaunch v.toNat value else s)
  | .pf =>
    if off % 8 ≠ 0 then .next s
    else if off < 0x10000 then .next (s.writeMailbox off value)
    else .next (s.writeCp (off - 0x10000) value)

/-- GWBQCFG_WRITE (R327): the queue and its counters are emptied. -/
def execGwbqcfgWrite (who : Requester) (g : BitVec 4) (value : Word) (s : State) : Host.Outcome State Fault Refusal :=
  match who with
  | .vf _ => .next s
  | .pf => .next (s.writeGwbqcfg g.toNat value)

/-- CPUNFRZ (R405). -/
def execCpunfrz (who : Requester) (value : Word) (s : State) : Host.Outcome State Fault Refusal :=
  match who with
  | .vf _ => .next s
  | .pf => .next (s.unfreeze value.toNat)

/-! ## Negotiation (R383, R384) -/

/-- MBCMD_COMMIT (R382, R384). -/
def execMbcmdCommit (value : Word) (s : State) : Host.Outcome State Fault Refusal := .next (s.commit value)

/-! ## Attestation (R445) -/

/-- ATTEST_NONCE_WRITE. -/
def execAttestNonceWrite (nonce : BitVec 512) (s : State) : Host.Outcome State Fault Refusal := .next (s.writeNonce nonce)

/-- ATCMD. -/
def execAtcmd (value : Word) (s : State) : Host.Outcome State Fault Refusal := .next (s.startReport value)

/-- The digest of the running image, its first byte lowest. The flash changes in recovery alone, when no firmware runs. -/
def State.imageDigest (s : State) : BitVec 512 :=
  BitVec.ofNat 512 (leNat (sha512 (match s.flash with | some i => i.body | none => [])))

/-- Bytes [151:0] of a report: version, digest, nonce, serial number. (DESIGN CHOICE, log entry 95.) -/
def reportBody (digest nonce : BitVec 512) : BitVec 1216 := Config.serial ++ nonce ++ digest ++ (1 : BitVec 64)

/-- ATTEST_REPORT_READY: the report over the held nonce, signed. -/
def execAttestReportReady (s : State) : Host.Outcome State Fault Refusal :=
  if s.mbx.atstat ≠ 2 then .next s
  else
    let b := reportBody s.imageDigest s.mbx.nonce
    .next { s with mbx := { s.mbx with report := Config.signature b ++ b, atstat := 1 } }

/-! ## Register writes as events -/

/-- VL_WRITE (R156): privileged. -/
def execVlWrite (value : Word) (s : State) : Host.Outcome State Fault Refusal :=
  if s.lvl = 0 then .next s else .next (s.writeVl value)

/-- VTYPE_WRITE (R156): privileged. -/
def execVtypeWrite (value : Word) (s : State) : Host.Outcome State Fault Refusal :=
  if s.lvl = 0 then .next s else .next (s.writeVtype value)

/-- MGLOGW (R444). -/
def execMglogw (value : Word) (s : State) : Host.Outcome State Fault Refusal := .next (s.writeMglog value)

/-- MGTHR_WRITE (R443). -/
def execMgthrWrite (value : Word) (s : State) : Host.Outcome State Fault Refusal := .next (s.writeMgthr value)

/-- MGALRT_WRITE (R439). -/
def execMgalrtWrite (value : Word) (s : State) : Host.Outcome State Fault Refusal := .next (s.writeMgalrt value)

end Sys2Proof.Machine
end

