-- ==== Sys2Proof/Machine/Scalar.lean ====
section
/-! DEFINITION. Scalar computation, loads, stores, branches, calls and status access (04_scalar_registers.md R81 to R97). -/

namespace Sys2Proof.Machine

/-! ## Results -/

/-- The instruction writes v to s[d] and completes (R81): no flag, no trap beyond R48. -/
def alu (i : Instr) (d : BitVec 5) (v : Word) (s : State) : Host.Outcome State Fault Refusal :=
  finish do
    gate i Need.any s
    .ok (s.result d v)

def boolWord (b : Bool) : Word := if b then 1 else 0

/-- SRA and the arithmetic shift of SHI: floor(X / 2^n). -/
def sraWord (x : Word) (n : Nat) : Word := toWord (x.toInt.fdiv (2 ^ n))

/-- Rotate right by n below 64 (R82). -/
def rotrWord (x : Word) (n : Nat) : Word := (x >>> n) ||| (x <<< (64 - n))

/-- DIV, REM, DIVN and REMN (R83). -/
def divWord (x y : Word) : Word :=
  if y = 0 then toWord (-1)
  else if x.toInt = -(2 ^ 63) ∧ y.toInt = -1 then toWord (-(2 ^ 63))
  else toWord (x.toInt.tdiv y.toInt)

def remWord (x y : Word) : Word :=
  if y = 0 then x
  else if x.toInt = -(2 ^ 63) ∧ y.toInt = -1 then 0
  else toWord (x.toInt - x.toInt.tdiv y.toInt * y.toInt)

def divnWord (x y : Word) : Word := if y = 0 then BitVec.ofNat 64 (2 ^ 64 - 1) else BitVec.ofNat 64 (x.toNat / y.toNat)
def remnWord (x y : Word) : Word := if y = 0 then x else BitVec.ofNat 64 (x.toNat % y.toNat)

/-- Leading zeros of an n-bit prefix: bits n − 1 downward. -/
def clzFrom (x : Word) : Nat → Nat
  | 0 => 0
  | n + 1 => if x.getLsbD n then 0 else 1 + clzFrom x n

/-- Trailing zeros: n bits left, from bit 64 − n upward. -/
def ctzFrom (x : Word) : Nat → Nat
  | 0 => 0
  | n + 1 => if x.getLsbD (63 - n) then 0 else 1 + ctzFrom x n

/-- One bits among the low n. -/
def popcBelow (x : Word) : Nat → Nat
  | 0 => 0
  | n + 1 => (if x.getLsbD n then 1 else 0) + popcBelow x n

/-- Byte j moved to byte 7 − j. -/
def bswapWord (x : Word) : Word := BitVec.ofNat 64 (leNat (leBytes 8 x.toNat).reverse)

/-- Width in bits of the codes 0 to 2 of SEXT and ZEXT (R33). -/
def extWidth (w : BitVec 2) : Nat := 8 * 2 ^ w.toNat

/-- imm16 sign-extended (R47). -/
def imm16 (i : BitVec 16) : Word := i.signExtend 64

/-- SHI (R85). -/
def shiWord (x : Word) (k : BitVec 2) (n : BitVec 6) : Word :=
  if k = 0 then x <<< n.toNat
  else if k = 1 then x >>> n.toNat
  else if k = 2 then sraWord x n.toNat
  else rotrWord x n.toNat

/-! ## Register-register operations (R82, R83) -/

def execAdd (d a b : BitVec 5) (s : State) : Host.Outcome State Fault Refusal :=
  let x := s.getS a
  let y := s.getS b
  alu (.add d a b) d (x + y) s

def execSub (d a b : BitVec 5) (s : State) : Host.Outcome State Fault Refusal :=
  let x := s.getS a
  let y := s.getS b
  alu (.sub d a b) d (x - y) s

def execAnd (d a b : BitVec 5) (s : State) : Host.Outcome State Fault Refusal :=
  let x := s.getS a
  let y := s.getS b
  alu (.and d a b) d (x &&& y) s

def execOr (d a b : BitVec 5) (s : State) : Host.Outcome State Fault Refusal :=
  let x := s.getS a
  let y := s.getS b
  alu (.or d a b) d (x ||| y) s

def execXor (d a b : BitVec 5) (s : State) : Host.Outcome State Fault Refusal :=
  let x := s.getS a
  let y := s.getS b
  alu (.xor d a b) d (x ^^^ y) s

def execAndn (d a b : BitVec 5) (s : State) : Host.Outcome State Fault Refusal :=
  let x := s.getS a
  let y := s.getS b
  alu (.andn d a b) d (x &&& ~~~y) s

def execSll (d a b : BitVec 5) (s : State) : Host.Outcome State Fault Refusal :=
  let x := s.getS a
  let y := s.getS b
  alu (.sll d a b) d (x <<< (y.toNat % 64)) s

def execSrl (d a b : BitVec 5) (s : State) : Host.Outcome State Fault Refusal :=
  let x := s.getS a
  let y := s.getS b
  alu (.srl d a b) d (x >>> (y.toNat % 64)) s

def execSra (d a b : BitVec 5) (s : State) : Host.Outcome State Fault Refusal :=
  let x := s.getS a
  let y := s.getS b
  alu (.sra d a b) d (sraWord x (y.toNat % 64)) s

def execRotr (d a b : BitVec 5) (s : State) : Host.Outcome State Fault Refusal :=
  let x := s.getS a
  let y := s.getS b
  alu (.rotr d a b) d (rotrWord x (y.toNat % 64)) s

def execMul (d a b : BitVec 5) (s : State) : Host.Outcome State Fault Refusal :=
  let x := s.getS a
  let y := s.getS b
  alu (.mul d a b) d (x * y) s

def execMulh (d a b : BitVec 5) (s : State) : Host.Outcome State Fault Refusal :=
  let x := s.getS a
  let y := s.getS b
  alu (.mulh d a b) d (toWord ((x.toInt * y.toInt).fdiv (2 ^ 64))) s

def execMulhn (d a b : BitVec 5) (s : State) : Host.Outcome State Fault Refusal :=
  let x := s.getS a
  let y := s.getS b
  alu (.mulhn d a b) d (BitVec.ofNat 64 (x.toNat * y.toNat / 2 ^ 64)) s

def execDiv (d a b : BitVec 5) (s : State) : Host.Outcome State Fault Refusal :=
  let x := s.getS a
  let y := s.getS b
  alu (.div d a b) d (divWord x y) s

def execDivn (d a b : BitVec 5) (s : State) : Host.Outcome State Fault Refusal :=
  let x := s.getS a
  let y := s.getS b
  alu (.divn d a b) d (divnWord x y) s

def execRem (d a b : BitVec 5) (s : State) : Host.Outcome State Fault Refusal :=
  let x := s.getS a
  let y := s.getS b
  alu (.rem d a b) d (remWord x y) s

def execRemn (d a b : BitVec 5) (s : State) : Host.Outcome State Fault Refusal :=
  let x := s.getS a
  let y := s.getS b
  alu (.remn d a b) d (remnWord x y) s

def execMin (d a b : BitVec 5) (s : State) : Host.Outcome State Fault Refusal :=
  let x := s.getS a
  let y := s.getS b
  alu (.min d a b) d (if x.toInt < y.toInt then x else y) s

def execMax (d a b : BitVec 5) (s : State) : Host.Outcome State Fault Refusal :=
  let x := s.getS a
  let y := s.getS b
  alu (.max d a b) d (if x.toInt > y.toInt then x else y) s

def execMinn (d a b : BitVec 5) (s : State) : Host.Outcome State Fault Refusal :=
  let x := s.getS a
  let y := s.getS b
  alu (.minn d a b) d (if x.toNat < y.toNat then x else y) s

def execMaxn (d a b : BitVec 5) (s : State) : Host.Outcome State Fault Refusal :=
  let x := s.getS a
  let y := s.getS b
  alu (.maxn d a b) d (if x.toNat > y.toNat then x else y) s

def execSlt (d a b : BitVec 5) (s : State) : Host.Outcome State Fault Refusal :=
  let x := s.getS a
  let y := s.getS b
  alu (.slt d a b) d (boolWord (decide (x.toInt < y.toInt))) s

def execSltn (d a b : BitVec 5) (s : State) : Host.Outcome State Fault Refusal :=
  let x := s.getS a
  let y := s.getS b
  alu (.sltn d a b) d (boolWord (decide (x.toNat < y.toNat))) s

def execClz (d a : BitVec 5) (s : State) : Host.Outcome State Fault Refusal :=
  alu (.clz d a) d (BitVec.ofNat 64 (clzFrom (s.getS a) 64)) s

def execCtz (d a : BitVec 5) (s : State) : Host.Outcome State Fault Refusal :=
  alu (.ctz d a) d (BitVec.ofNat 64 (ctzFrom (s.getS a) 64)) s

def execPopc (d a : BitVec 5) (s : State) : Host.Outcome State Fault Refusal :=
  alu (.popc d a) d (BitVec.ofNat 64 (popcBelow (s.getS a) 64)) s

def execBswap (d a : BitVec 5) (s : State) : Host.Outcome State Fault Refusal :=
  alu (.bswap d a) d (bswapWord (s.getS a)) s

def execSext (d a : BitVec 5) (w : BitVec 2) (s : State) : Host.Outcome State Fault Refusal :=
  alu (.sext d a w) d (toWord (sextN (s.getS a).toNat (extWidth w))) s

def execZext (d a : BitVec 5) (w : BitVec 2) (s : State) : Host.Outcome State Fault Refusal :=
  alu (.zext d a w) d (BitVec.ofNat 64 (zextN (s.getS a).toNat (extWidth w))) s

/-! ## Immediate operations (R84, R85) -/

def execAddi (d a : BitVec 5) (i : BitVec 16) (s : State) : Host.Outcome State Fault Refusal :=
  alu (.addi d a i) d (s.getS a + imm16 i) s

def execAndi (d a : BitVec 5) (i : BitVec 16) (s : State) : Host.Outcome State Fault Refusal :=
  alu (.andi d a i) d (s.getS a &&& imm16 i) s

def execOri (d a : BitVec 5) (i : BitVec 16) (s : State) : Host.Outcome State Fault Refusal :=
  alu (.ori d a i) d (s.getS a ||| imm16 i) s

def execXori (d a : BitVec 5) (i : BitVec 16) (s : State) : Host.Outcome State Fault Refusal :=
  alu (.xori d a i) d (s.getS a ^^^ imm16 i) s

def execSlti (d a : BitVec 5) (i : BitVec 16) (s : State) : Host.Outcome State Fault Refusal :=
  alu (.slti d a i) d (boolWord (decide ((s.getS a).toInt < (imm16 i).toInt))) s

def execSltni (d a : BitVec 5) (i : BitVec 16) (s : State) : Host.Outcome State Fault Refusal :=
  alu (.sltni d a i) d (boolWord (decide ((s.getS a).toNat < (imm16 i).toNat))) s

def execShi (d a : BitVec 5) (k : BitVec 2) (n : BitVec 6) (s : State) : Host.Outcome State Fault Refusal :=
  alu (.shi d a k n) d (shiWord (s.getS a) k n) s

def execLih (d : BitVec 5) (i : BitVec 16) (s : State) : Host.Outcome State Fault Refusal :=
  alu (.lih d i) d (imm16 i <<< 16) s

/-- INSI reads s[d] as a source (R84). -/
def execInsi (d : BitVec 5) (l : BitVec 2) (i : BitVec 16) (s : State) : Host.Outcome State Fault Refusal :=
  alu (.insi d l i) d (putBits (s.getS d) (16 * l.toNat) 16 i.toNat) s

/-- ADDPC uses its own address, and keeps the sum modulo 2^64 (R47, R84). -/
def execAddpc (d : BitVec 5) (i : BitVec 16) (s : State) : Host.Outcome State Fault Refusal :=
  alu (.addpc d i) d (s.x.pc.setWidth 64 + (imm16 i <<< 16)) s

/-! ## Loads and stores (R86 to R89) -/

/-- The effective address of LD and ST. -/
def State.lsAddr (s : State) (a : BitVec 5) (o : BitVec 13) : Word := s.getS a + o.signExtend 64

/-- LD (R87): s0 discards the value after the access. -/
def execLd (d a : BitVec 5) (w : BitVec 3) (o : BitVec 13) (s : State) : Host.Outcome State Fault Refusal :=
  finish do
    gate (.ld d a w o) Need.any s
    let (t, v) ← s.loadW (s.lsAddr a o) w.toNat
    .ok (t.result d v)

/-- ST (R87). -/
def execSt (b a : BitVec 5) (w : BitVec 3) (o : BitVec 13) (s : State) : Host.Outcome State Fault Refusal :=
  finish do
    gate (.st b a w o) Need.any s
    let t ← s.storeW (s.lsAddr a o) w.toNat (s.getS b)
    .ok t.advance

/-! ## Branches, calls and jumps (R90 to R93) -/

/-- BCC (R90): the target when the condition holds, else the next word. -/
def branch (i : Instr) (c : Cond) (b a : BitVec 5) (o : BitVec 13) (s : State) : Host.Outcome State Fault Refusal :=
  finish do
    gate i Need.any s
    .ok (if c.holds (s.getS a) (s.getS b) then s.goto (s.x.pc + (o.signExtend 54 <<< 2)) else s.advance)

def execBeq (b a : BitVec 5) (o : BitVec 13) (s : State) : Host.Outcome State Fault Refusal :=
  branch (.beq b a o) .eq b a o s

def execBne (b a : BitVec 5) (o : BitVec 13) (s : State) : Host.Outcome State Fault Refusal :=
  branch (.bne b a o) .ne b a o s

def execBlt (b a : BitVec 5) (o : BitVec 13) (s : State) : Host.Outcome State Fault Refusal :=
  branch (.blt b a o) .lt b a o s

def execBge (b a : BitVec 5) (o : BitVec 13) (s : State) : Host.Outcome State Fault Refusal :=
  branch (.bge b a o) .ge b a o s

def execBltn (b a : BitVec 5) (o : BitVec 13) (s : State) : Host.Outcome State Fault Refusal :=
  branch (.bltn b a o) .ltn b a o s

def execBgen (b a : BitVec 5) (o : BitVec 13) (s : State) : Host.Outcome State Fault Refusal :=
  branch (.bgen b a o) .gen b a o s

/-- CALL (R91). -/
def execCall (d : BitVec 5) (o : BitVec 21) (s : State) : Host.Outcome State Fault Refusal :=
  finish do
    gate (.call d o) Need.any s
    let pc := s.x.pc
    .ok ((s.setS d ((pc + 4).setWidth 64)).goto (pc + (o.signExtend 54 <<< 2)))

/-- A jump target is a multiple of 4 below 2^54 (R29, R92). -/
def State.targetCheck (s : State) (t : Word) : Run Unit := check (bits t 0 2 == 0 && bits t 54 10 == 0) (s.trapS 0x04 t)

/-- CALLR (R92): the target is read before the link is written. -/
def execCallr (d a : BitVec 5) (s : State) : Host.Outcome State Fault Refusal :=
  finish do
    gate (.callr d a) Need.any s
    let t := s.getS a
    s.targetCheck t
    .ok ((s.setS d ((s.x.pc + 4).setWidth 64)).goto (t.setWidth 54))

/-- JMPR (R92). -/
def execJmpr (a : BitVec 5) (s : State) : Host.Outcome State Fault Refusal :=
  finish do
    gate (.jmpr a) Need.any s
    let t := s.getS a
    s.targetCheck t
    .ok (s.goto (t.setWidth 54))

/-! ## Status registers (R94 to R97) -/

/-- A privileged write waits for head (R97). -/
def State.writeWait (s : State) (n : Nat) : Run Unit := if privilegedWrite n then headWait s else .ok ()

/-- SGET (R95). -/
def execSget (d : BitVec 5) (n : BitVec 11) (s : State) : Host.Outcome State Fault Refusal :=
  finish do
    gate (.sget d n) Need.any s
    statusCheck (.sget d n) n.toNat false s
    .ok (s.result d (s.readStatus n.toNat))

/-- SSET (R95). -/
def execSset (a : BitVec 5) (n : BitVec 11) (s : State) : Host.Outcome State Fault Refusal :=
  finish do
    gate (.sset a n) Need.any s
    statusCheck (.sset a n) n.toNat true s
    s.writeWait n.toNat
    .ok (s.writeStatus n.toNat (s.getS a)).advance

/-- SXCH (R46, R95): the old value is read and the new one written as one step, s[a] before s[d]. -/
def execSxch (d a : BitVec 5) (n : BitVec 11) (s : State) : Host.Outcome State Fault Refusal :=
  finish do
    gate (.sxch d a n) Need.any s
    statusCheck (.sxch d a n) n.toNat true s
    s.writeWait n.toNat
    .ok ((s.writeStatus n.toNat (s.getS a)).result d (s.readStatus n.toNat))

end Sys2Proof.Machine
end

