-- ==== Sys2Proof/Machine/Strands.lean ====
section
/-! DEFINITION. The strand instructions of major 0x13: LAUNCH, SDONE, YIELD, RINGID, GRPQ, SPRIO, STRIDX (03 R75 to R80). -/

namespace Sys2Proof.Machine

/-! ## LAUNCH (R75) -/

/-- The 64-byte record at an aligned address, read as a load of the issuer; none on a page of fabric kind, from which the command
processor makes no request (R77). (DEDUCED, log entry 47.) -/
def State.launchRecord (s : State) (va : Word) : Run (State × Option (List Byte)) := do
  s.regionCheck .read va 64
  let (s, l) ← s.reach .read va.toNat
  match l with
  | .sram _ => .ok (s, none)
  | .mem x =>
    if x.fabric then .ok (s, none)
    else do
      s.settled false x.pa 64
      check (!s.poisonedFor x.pa) (s.trapA 0xC0 1 va)
      .ok (s.touch s.ring? x.pa, some (s.memBytes x.pa 64))

/-- Who the focus strand is as a submitter. -/
def State.submitter (s : State) : Submitter :=
  { vf := s.st.vf.toNat, ptroot := s.st.ptroot, asid := s.st.asid, tvec := s.st.trap.tvec, issuer := some (idHandle s.st.id) }

/-- LAUNCH (R75): the earlier accesses of the strand are performed at package scope before the record is submitted. -/
def execLaunch (d a : BitVec 5) (s : State) : Host.Outcome State Fault Refusal :=
  finish do
    gate (.launch d a) {} s
    headWait s
    let va := s.getS a
    if va.toNat % 64 ≠ 0 then .ok (s.result d (submitResult 2 0))
    else do
      check s.noneHeld s
      let (s, bs) ← s.release.launchRecord va
      match bs with
      | none => .ok (s.result d (submitResult 2 0))
      | some bs =>
        let s := { s with net := s.net.send s.die 0 (Mail.ask [] s.die) }
        let (s, code, h) := s.submit s.submitter bs
        let s := s.result d (submitResult code h)
        .ok (if code = 0 then s.schedule else s)

/-! ## SDONE (R76) -/

/-- The head's versions and partials are committed, younger chunks squashed; the fork is left. -/
def State.leaveFork (s : State) : State :=
  match s.st.fork with
  | none => s
  | some f =>
    let r := discardFrom (s.x.cnum.toNat + 1) true { x := s.x, st := s.st }
    let s := { s with x := r.x, st := { r.st with fork := none } }
    (f.combines ++ combinesOf s.st s.x).foldl (fun s c => s.combineAt c.vc c.pa (fmtWidth c.fmt / 8) c.op c.value.toNat) s

/-- SDONE (R76): waits for commands and messages, and for its fabric stores, then ends the strand. -/
def execSdone (s : State) : Host.Outcome State Fault Refusal :=
  finish do
    gate .sdone {} s
    headWait s
    check (s.queuesEmpty && s.st.retry.isEmpty) s
    let s := s.release
    s.sysWait
    let s := s.leaveFork
    .ok ((s.abortGroupsOf s.st.id).endStrand false false)

/-! ## YIELD (R78) -/

/-- A launch waits, at the strand's run priority or higher, whose partition holds the strand's ring. -/
def State.yieldFor (s : State) : Bool :=
  s.cp.launches.any (fun l => l.waits && !s.suspended l.vf.toNat && decide (l.prio.toNat ≤ s.st.runPrio.toNat) &&
    (vget s.cp.parta 0 l.vf.toNat).getLsbD s.masterNo)

/-- YIELD (R78). (DEDUCED, log entry 53.) -/
def execYield (s : State) : Host.Outcome State Fault Refusal :=
  finish do
    gate .yield {} s
    let t := s.advance
    if s.spec || !s.yieldFor then .ok t
    else .ok (t.preempt t.st.id true)

/-! ## Queries and priority (R79, R80) -/

def execRingid (d : BitVec 5) (s : State) : Host.Outcome State Fault Refusal :=
  finish do
    gate (.ringid d) {} s
    .ok (s.result d (BitVec.ofNat 64 s.ringid))

def execStridx (d : BitVec 5) (s : State) : Host.Outcome State Fault Refusal :=
  finish do
    gate (.stridx d) {} s
    .ok (s.result d (BitVec.ofNat 64 (idIndex s.st.id)))

/-- GRPQ (R79): the member map, 0 for a group the launch has not declared. -/
def execGrpq (d a : BitVec 5) (s : State) : Host.Outcome State Fault Refusal :=
  finish do
    gate (.grpq d a) {} s
    let n := (s.getS a).toNat
    .ok (s.result d (match s.cp.groups.find? (fun g => g.handle == idHandle s.st.id && g.index == n) with
      | some g => g.map
      | none => 0))

/-- SPRIO (R80): max(s[a][1:0], prio); a speculative chunk's takes effect at its commit, the head's at once and for good. -/
def execSprio (a : BitVec 5) (s : State) : Host.Outcome State Fault Refusal :=
  finish do
    gate (.sprio a) {} s
    let p := BitVec.ofNat 2 (max (bits (s.getS a) 0 2) s.st.prio.toNat)
    .ok (if s.spec then { s with x := { s.x with sprio := some p } }
      else { s with x := { s.x with sprio := none }, st := { s.st with runPrio := p } }).advance

end Sys2Proof.Machine
end

