-- ==== Sys2Proof/Machine/Translation.lean ====
section
/-! DEFINITION. The translation instructions of major 0x19: TLBINV, TLOGW, TLOGA, ATRAN (12 R287 to R289). -/

namespace Sys2Proof.Machine

/-- TLBINV (R289): with register field a zero every translation of the ring or gateway core goes; else those of the page holding
s[a] that the current asid or a global entry has. -/
def execTlbinv (a : BitVec 5) (s : State) : Host.Outcome State Fault Refusal :=
  finish do
    gate (.tlbinv a) { lvl := 1 } s
    let m := s.masterNo
    .ok (if a = 0 then { s with tlb := s.tlb.filter (fun t => t.master != m) }
      else s.tlbDrop m s.st.asid (s.getS a).toNat).advance

/-- Append an entry to log n, or set its overflow flag (R287, R289). (DEDUCED, log entry 91.) -/
def State.appendLog (s : State) (ent : List Byte) (n : Nat) : State :=
  let base := s.logBase n
  let app := s.mem64 base
  let done := s.mem64 (base + 8)
  if app - done = 4092 then (s.pokeBytes (base + 16) [s.memByte (base + 16) ||| 1]).writeSeen false (base / 64)
  else
    let at_ := base + 64 + app.toNat % 4092 * 16
    let s := (s.pokeBytes at_ ent).writeSeen false (at_ / 64)
    (s.pokeBytes base (leBytes 8 (app + 1).toNat)).writeSeen false (base / 64)

/-- The class of an HBM page returns to unclassified, every copy written back and dropped, the host's through back-invalidations (R284,
R289, R385). -/
def State.resetClass (s : State) (page : Nat) : State :=
  let t := s.emptyPage page
  { t with
    classes := t.classes.filter (fun c => c.1 != page)
    cache := { t.cache with dir := t.cache.dir.filter (fun r => r.base / 1024 != page) } }

/-- TLOGW (R289): appends an entry to all nine logs, or resets a page's class. -/
def execTlogw (a : BitVec 5) (s : State) : Host.Outcome State Fault Refusal :=
  finish do
    gate (.tlogw a) { lvl := 1 } s
    check (!s.inFork) (s.trapS 0x27 (wordOf (.tlogw a)))
    let va := s.getS a
    check (decide (va.toNat % 16 = 0)) (s.trapA 0x21 1 va)
    let (s, ent) ← s.memRead va 16
    let op := (ent.getD 10 0).toNat
    check ((ent.drop 11).all (· == 0) && decide (op ≤ 4)) (s.trapS 0x26 va)
    check s.noneHeld s
    let s := s.release
    if op = 4 then .ok (s.resetClass (leNat (ent.take 8) / 65536 % 2 ^ 36)).advance
    else .ok ((List.range 9).foldl (fun s n => s.appendLog ent n) s).advance

/-- TLOGA (R289): the die applies its log. -/
def execTloga (s : State) : Host.Outcome State Fault Refusal :=
  finish do
    gate .tloga { lvl := 1 } s
    .ok (s.applyLog s.die).advance

/-- The result layout of ATRAN (R289). -/
def atranResult (x : Xl) : Word := BitVec.ofNat 64 (x.kind * 2 ^ 60 + x.vc * 2 ^ 52 + x.pa)

/-- ATRAN (R289): kinds 0 read, 1 write, 2 execute. -/
def execAtran (d a : BitVec 5) (k : BitVec 2) (s : State) : Host.Outcome State Fault Refusal :=
  finish do
    gate (.atran d a k) { lvl := 1 } s
    let va := s.getS a
    let kind : Acc := if k = 0 then .read else if k = 1 then .write else .exec
    match s.xlateProbe s.walkRead s.space kind va.toNat with
    | .ok x => .ok (s.result d (atranResult x))
    | .error c =>
      if c = mustWait then .error s
      else if c = 0xC0 then .error (s.trapA 0xC0 kind.akind va)
      else .ok (s.result d (BitVec.ofNat 64 (2 ^ 63 + c.toNat)))

end Sys2Proof.Machine
end

