-- ==== Sys2Proof/Machine/Dispatch.lean ====
section
/-! DEFINITION. The dispatch: one arm per constructor of Instr, each one call of its meaning. -/

namespace Sys2Proof.Machine

def exec (i : Instr) (s : State) : Host.Outcome State Fault Refusal :=
  match i with
  | .add d a b => Sys2Proof.Machine.execAdd d a b s
  | .sub d a b => Sys2Proof.Machine.execSub d a b s
  | .and d a b => Sys2Proof.Machine.execAnd d a b s
  | .or d a b => Sys2Proof.Machine.execOr d a b s
  | .xor d a b => Sys2Proof.Machine.execXor d a b s
  | .andn d a b => Sys2Proof.Machine.execAndn d a b s
  | .sll d a b => Sys2Proof.Machine.execSll d a b s
  | .srl d a b => Sys2Proof.Machine.execSrl d a b s
  | .sra d a b => Sys2Proof.Machine.execSra d a b s
  | .rotr d a b => Sys2Proof.Machine.execRotr d a b s
  | .mul d a b => Sys2Proof.Machine.execMul d a b s
  | .mulh d a b => Sys2Proof.Machine.execMulh d a b s
  | .mulhn d a b => Sys2Proof.Machine.execMulhn d a b s
  | .div d a b => Sys2Proof.Machine.execDiv d a b s
  | .divn d a b => Sys2Proof.Machine.execDivn d a b s
  | .rem d a b => Sys2Proof.Machine.execRem d a b s
  | .remn d a b => Sys2Proof.Machine.execRemn d a b s
  | .min d a b => Sys2Proof.Machine.execMin d a b s
  | .max d a b => Sys2Proof.Machine.execMax d a b s
  | .minn d a b => Sys2Proof.Machine.execMinn d a b s
  | .maxn d a b => Sys2Proof.Machine.execMaxn d a b s
  | .slt d a b => Sys2Proof.Machine.execSlt d a b s
  | .sltn d a b => Sys2Proof.Machine.execSltn d a b s
  | .clz d a => Sys2Proof.Machine.execClz d a s
  | .ctz d a => Sys2Proof.Machine.execCtz d a s
  | .popc d a => Sys2Proof.Machine.execPopc d a s
  | .bswap d a => Sys2Proof.Machine.execBswap d a s
  | .sext d a w => Sys2Proof.Machine.execSext d a w s
  | .zext d a w => Sys2Proof.Machine.execZext d a w s
  | .addi d a im => Sys2Proof.Machine.execAddi d a im s
  | .andi d a im => Sys2Proof.Machine.execAndi d a im s
  | .ori d a im => Sys2Proof.Machine.execOri d a im s
  | .xori d a im => Sys2Proof.Machine.execXori d a im s
  | .slti d a im => Sys2Proof.Machine.execSlti d a im s
  | .sltni d a im => Sys2Proof.Machine.execSltni d a im s
  | .shi d a k n => Sys2Proof.Machine.execShi d a k n s
  | .lih d im => Sys2Proof.Machine.execLih d im s
  | .insi d l im => Sys2Proof.Machine.execInsi d l im s
  | .addpc d im => Sys2Proof.Machine.execAddpc d im s
  | .ld d a w o => Sys2Proof.Machine.execLd d a w o s
  | .st b a w o => Sys2Proof.Machine.execSt b a w o s
  | .beq b a o => Sys2Proof.Machine.execBeq b a o s
  | .bne b a o => Sys2Proof.Machine.execBne b a o s
  | .blt b a o => Sys2Proof.Machine.execBlt b a o s
  | .bge b a o => Sys2Proof.Machine.execBge b a o s
  | .bltn b a o => Sys2Proof.Machine.execBltn b a o s
  | .bgen b a o => Sys2Proof.Machine.execBgen b a o s
  | .call d o => Sys2Proof.Machine.execCall d o s
  | .callr d a => Sys2Proof.Machine.execCallr d a s
  | .jmpr a => Sys2Proof.Machine.execJmpr a s
  | .sget d n => Sys2Proof.Machine.execSget d n s
  | .sset a n => Sys2Proof.Machine.execSset a n s
  | .sxch d a n => Sys2Proof.Machine.execSxch d a n s
  | .trap c => Sys2Proof.Machine.execTrap c s
  | .tret => Sys2Proof.Machine.execTret s
  | .svc c => Sys2Proof.Machine.execSvc c s
  | .halt => Sys2Proof.Machine.execHalt s
  | .idle => Sys2Proof.Machine.execIdle s
  | .bkpt c => Sys2Proof.Machine.execBkpt c s
  | .fork a b => Sys2Proof.Machine.execFork a b s
  | .forkt d a b => Sys2Proof.Machine.execForkt d a b s
  | .iter d sc => Sys2Proof.Machine.execIter d sc s
  | .endi => Sys2Proof.Machine.execEndi s
  | .join => Sys2Proof.Machine.execJoin s
  | .fbreak => Sys2Proof.Machine.execFbreak s
  | .cspec d => Sys2Proof.Machine.execCspec d s
  | .headw => Sys2Proof.Machine.execHeadw s
  | .ipost t => Sys2Proof.Machine.execIpost t s
  | .iwait a t => Sys2Proof.Machine.execIwait a t s
  | .rdecl d a b => Sys2Proof.Machine.execRdecl d a b s
  | .chainw a => Sys2Proof.Machine.execChainw a s
  | .launch d a => Sys2Proof.Machine.execLaunch d a s
  | .sdone => Sys2Proof.Machine.execSdone s
  | .yield => Sys2Proof.Machine.execYield s
  | .ringid d => Sys2Proof.Machine.execRingid d s
  | .grpq d a => Sys2Proof.Machine.execGrpq d a s
  | .sprio a => Sys2Proof.Machine.execSprio a s
  | .stridx d => Sys2Proof.Machine.execStridx d s
  | .aadd d a b p => Sys2Proof.Machine.execAadd d a b p s
  | .aand d a b p => Sys2Proof.Machine.execAand d a b p s
  | .aor d a b p => Sys2Proof.Machine.execAor d a b p s
  | .axor d a b p => Sys2Proof.Machine.execAxor d a b p s
  | .amin d a b p => Sys2Proof.Machine.execAmin d a b p s
  | .amax d a b p => Sys2Proof.Machine.execAmax d a b p s
  | .aminn d a b p => Sys2Proof.Machine.execAminn d a b p s
  | .amaxn d a b p => Sys2Proof.Machine.execAmaxn d a b p s
  | .aswap d a b p => Sys2Proof.Machine.execAswap d a b p s
  | .acas d a b c p => Sys2Proof.Machine.execAcas d a b c p s
  | .afadd d a b p => Sys2Proof.Machine.execAfadd d a b p s
  | .binit a b => Sys2Proof.Machine.execBinit a b s
  | .barr d a sc => Sys2Proof.Machine.execBarr d a sc s
  | .bwait d a b => Sys2Proof.Machine.execBwait d a b s
  | .barrw d a sc => Sys2Proof.Machine.execBarrw d a sc s
  | .binv a => Sys2Proof.Machine.execBinv a s
  | .gbar d a => Sys2Proof.Machine.execGbar d a s
  | .msend d a b => Sys2Proof.Machine.execMsend d a b s
  | .mrecv d a => Sys2Proof.Machine.execMrecv d a s
  | .mpeek d => Sys2Proof.Machine.execMpeek d s
  | .wakew a b => Sys2Proof.Machine.execWakew a b s
  | .waitw d a b => Sys2Proof.Machine.execWaitw d a b s
  | .ecmd d a b => Sys2Proof.Machine.execEcmd d a b s
  | .ecmdb k a b => Sys2Proof.Machine.execEcmdb k a b s
  | .toks q f => Sys2Proof.Machine.execToks q f s
  | .tokw q f => Sys2Proof.Machine.execTokw q f s
  | .bqtake d => Sys2Proof.Machine.execBqtake d s
  | .fsv => Sys2Proof.Machine.execFsv s
  | .fvs => Sys2Proof.Machine.execFvs s
  | .fence k sc => Sys2Proof.Machine.execFence k sc s
  | .fsc => Sys2Proof.Machine.execFsc s
  | .ldacq d a w sc => Sys2Proof.Machine.execLdacq d a w sc s
  | .strel d a w sc => Sys2Proof.Machine.execStrel d a w sc s
  | .vcdef d a => Sys2Proof.Machine.execVcdef d a s
  | .vcdel d a => Sys2Proof.Machine.execVcdel d a s
  | .vcqry d a => Sys2Proof.Machine.execVcqry d a s
  | .vcsync a b => Sys2Proof.Machine.execVcsync a b s
  | .vcflush a b => Sys2Proof.Machine.execVcflush a b s
  | .tlbinv a => Sys2Proof.Machine.execTlbinv a s
  | .tlogw a => Sys2Proof.Machine.execTlogw a s
  | .tloga => Sys2Proof.Machine.execTloga s
  | .atran d a k => Sys2Proof.Machine.execAtran d a k s
  | .gopen d => Sys2Proof.Machine.execGopen d s
  | .gst d a b w => Sys2Proof.Machine.execGst d a b w s
  | .vgst d a b k => Sys2Proof.Machine.execVgst d a b k s
  | .gcommit d a => Sys2Proof.Machine.execGcommit d a s
  | .gabort a => Sys2Proof.Machine.execGabort a s
  | .gstat d a => Sys2Proof.Machine.execGstat d a s
  | .gresolve a e => Sys2Proof.Machine.execGresolve a e s
  | .pmcr d j => Sys2Proof.Machine.execPmcr d j s
  | .pmcw a j => Sys2Proof.Machine.execPmcw a j s
  | .pmcf a => Sys2Proof.Machine.execPmcf a s
  | .vsetvl d a b => Sys2Proof.Machine.execVsetvl d a b s
  | .vsetvli d a t => Sys2Proof.Machine.execVsetvli d a t s
  | .vadd k d a b f sc => Sys2Proof.Machine.execVadd k d a b f sc s
  | .vsub k d a b f sc => Sys2Proof.Machine.execVsub k d a b f sc s
  | .vmul k d a b f sc => Sys2Proof.Machine.execVmul k d a b f sc s
  | .vfma k d a b f sc => Sys2Proof.Machine.execVfma k d a b f sc s
  | .vfms k d a b f sc => Sys2Proof.Machine.execVfms k d a b f sc s
  | .vnfma k d a b f sc => Sys2Proof.Machine.execVnfma k d a b f sc s
  | .vdiv k d a b f sc => Sys2Proof.Machine.execVdiv k d a b f sc s
  | .vsqrt k d a f => Sys2Proof.Machine.execVsqrt k d a f s
  | .vmin k d a b f sc => Sys2Proof.Machine.execVmin k d a b f sc s
  | .vmax k d a b f sc => Sys2Proof.Machine.execVmax k d a b f sc s
  | .vabs k d a f => Sys2Proof.Machine.execVabs k d a f s
  | .vneg k d a f => Sys2Proof.Machine.execVneg k d a f s
  | .vexp2 k d a f => Sys2Proof.Machine.execVexp2 k d a f s
  | .vlog2 k d a f => Sys2Proof.Machine.execVlog2 k d a f s
  | .vrcp k d a f => Sys2Proof.Machine.execVrcp k d a f s
  | .vrsq k d a f => Sys2Proof.Machine.execVrsq k d a f s
  | .vcvt k d a f => Sys2Proof.Machine.execVcvt k d a f s
  | .vand k d a b f sc => Sys2Proof.Machine.execVand k d a b f sc s
  | .vor k d a b f sc => Sys2Proof.Machine.execVor k d a b f sc s
  | .vxor k d a b f sc => Sys2Proof.Machine.execVxor k d a b f sc s
  | .vnot k d a f => Sys2Proof.Machine.execVnot k d a f s
  | .vshl k d a b f sc => Sys2Proof.Machine.execVshl k d a b f sc s
  | .vshr k d a b f sc => Sys2Proof.Machine.execVshr k d a b f sc s
  | .vsra k d a b f sc => Sys2Proof.Machine.execVsra k d a b f sc s
  | .vcmp k m a b f sc c => Sys2Proof.Machine.execVcmp k m a b f sc c s
  | .vredsum k d a f => Sys2Proof.Machine.execVredsum k d a f s
  | .vredmax k d a f => Sys2Proof.Machine.execVredmax k d a f s
  | .vredmin k d a f => Sys2Proof.Machine.execVredmin k d a f s
  | .vscan k d a f => Sys2Proof.Machine.execVscan k d a f s
  | .vsort k d a b f => Sys2Proof.Machine.execVsort k d a b f s
  | .vtopk k d a b f => Sys2Proof.Machine.execVtopk k d a b f s
  | .vcomp k d a => Sys2Proof.Machine.execVcomp k d a s
  | .vexpd k d a => Sys2Proof.Machine.execVexpd k d a s
  | .viota k d => Sys2Proof.Machine.execViota k d s
  | .vperm k d a b => Sys2Proof.Machine.execVperm k d a b s
  | .vslup k d a b => Sys2Proof.Machine.execVslup k d a b s
  | .vsldn k d a b => Sys2Proof.Machine.execVsldn k d a b s
  | .vbcast k d a => Sys2Proof.Machine.execVbcast k d a s
  | .vextr d a b => Sys2Proof.Machine.execVextr d a b s
  | .vins d a b => Sys2Proof.Machine.execVins d a b s
  | .vsel k d a b => Sys2Proof.Machine.execVsel k d a b s
  | .kand d a b => Sys2Proof.Machine.execKand d a b s
  | .kor d a b => Sys2Proof.Machine.execKor d a b s
  | .kxor d a b => Sys2Proof.Machine.execKxor d a b s
  | .knot d a => Sys2Proof.Machine.execKnot d a s
  | .kpop d a => Sys2Proof.Machine.execKpop d a s
  | .kfirst d a => Sys2Proof.Machine.execKfirst d a s
  | .vrand k d f => Sys2Proof.Machine.execVrand k d f s
  | .vpwl k d a t f => Sys2Proof.Machine.execVpwl k d a t f s
  | .vquant k d a f => Sys2Proof.Machine.execVquant k d a f s
  | .vdeq k d a f => Sys2Proof.Machine.execVdeq k d a f s
  | .vbaddq k d a b f => Sys2Proof.Machine.execVbaddq k d a b f s
  | .vamo k d a b o => Sys2Proof.Machine.execVamo k d a b o s
  | .vamoc k d a b o => Sys2Proof.Machine.execVamoc k d a b o s
  | .vld k v a e h => Sys2Proof.Machine.execVld k v a e h s
  | .vst k v a e h => Sys2Proof.Machine.execVst k v a e h s
  | .vlds k v a b e h => Sys2Proof.Machine.execVlds k v a b e h s
  | .vldsO k v a b e h => Sys2Proof.Machine.execVldsO k v a b e h s
  | .vsts k v a b e h => Sys2Proof.Machine.execVsts k v a b e h s
  | .vstsO k v a b e h => Sys2Proof.Machine.execVstsO k v a b e h s
  | .vldx k v a b e h => Sys2Proof.Machine.execVldx k v a b e h s
  | .vldxO k v a b e h => Sys2Proof.Machine.execVldxO k v a b e h s
  | .vstx k v a b e h => Sys2Proof.Machine.execVstx k v a b e h s
  | .vstxO k v a b e h => Sys2Proof.Machine.execVstxO k v a b e h s
  | .vldseg k v a e n h => Sys2Proof.Machine.execVldseg k v a e n h s
  | .vstseg k v a e n h => Sys2Proof.Machine.execVstseg k v a e n h s
  | .vpref k a e h => Sys2Proof.Machine.execVpref k a e h s
  | .vprefS k a b e h => Sys2Proof.Machine.execVprefS k a b e h s
  | .vprefX k a b e h => Sys2Proof.Machine.execVprefX k a b e h s
  | .vldsq v a b e => Sys2Proof.Machine.execVldsq v a b e s
  | .vcapp k v a b e => Sys2Proof.Machine.execVcapp k v a b e s
  | .mma x y z w o => Sys2Proof.Machine.execMma x y z w o s
  | .mslide x y z w o => Sys2Proof.Machine.execMslide x y z w o s
  | .mew x y z o => Sys2Proof.Machine.execMew x y z o s
  | .mpwl x y z => Sys2Proof.Machine.execMpwl x y z s
  | .mrnorm x => Sys2Proof.Machine.execMrnorm x s
  | .mzero x => Sys2Proof.Machine.execMzero x s
  | .mclr x y => Sys2Proof.Machine.execMclr x y s
  | .mshape x y => Sys2Proof.Machine.execMshape x y s
  | .mclaim y => Sys2Proof.Machine.execMclaim y s
  | .mrel y => Sys2Proof.Machine.execMrel y s
  | .mlds x y z w => Sys2Proof.Machine.execMlds x y z w s
  | .mlda x y z w => Sys2Proof.Machine.execMlda x y z w s
  | .msta x y z w => Sys2Proof.Machine.execMsta x y z w s
  | .macs x y w t => Sys2Proof.Machine.execMacs x y w t s
  | .mrowvToVector x y z => Sys2Proof.Machine.execMrowvToVector x y z s
  | .mrowvToAccumulator x y z => Sys2Proof.Machine.execMrowvToAccumulator x y z s
  | .mcurv x y => Sys2Proof.Machine.execMcurv x y s
  | .mwait x => Sys2Proof.Machine.execMwait x s
  | .nonInstructionWord w => Sys2Proof.Machine.execNonInstructionWord w s
  | .heldTrapTaken => Sys2Proof.Machine.execHeldTrapTaken s
  | .asyncEventTaken => Sys2Proof.Machine.execAsyncEventTaken s
  | .coreStorageError master => Sys2Proof.Machine.execCoreStorageError master s
  | .cplaunch who v value => Sys2Proof.Machine.execCplaunch who v value s
  | .registerWrite who off value => Sys2Proof.Machine.execRegisterWrite who off value s
  | .gwbqcfgWrite who g value => Sys2Proof.Machine.execGwbqcfgWrite who g value s
  | .worldSwitchOut who value => Sys2Proof.Machine.execWorldSwitchOut who value s
  | .worldSwitchIn => Sys2Proof.Machine.execWorldSwitchIn s
  | .worldSwitchComplete => Sys2Proof.Machine.execWorldSwitchComplete s
  | .cpunfrz who value => Sys2Proof.Machine.execCpunfrz who value s
  | .mbcmdCommit value => Sys2Proof.Machine.execMbcmdCommit value s
  | .attestNonceWrite nonce => Sys2Proof.Machine.execAttestNonceWrite nonce s
  | .atcmd value => Sys2Proof.Machine.execAtcmd value s
  | .attestReportReady => Sys2Proof.Machine.execAttestReportReady s
  | .vlWrite value => Sys2Proof.Machine.execVlWrite value s
  | .vtypeWrite value => Sys2Proof.Machine.execVtypeWrite value s
  | .mglogw value => Sys2Proof.Machine.execMglogw value s
  | .mgthrWrite value => Sys2Proof.Machine.execMgthrWrite value s
  | .mgalrtWrite value => Sys2Proof.Machine.execMgalrtWrite value s
  | .schedulingPass => Sys2Proof.Machine.execSchedulingPass s
  | .quantumExpiry level v => Sys2Proof.Machine.execQuantumExpiry level v s
  | .preemptStop sid => Sys2Proof.Machine.execPreemptStop sid s
  | .preemptHeadTimeout sid => Sys2Proof.Machine.execPreemptHeadTimeout sid s
  | .saveComplete sid => Sys2Proof.Machine.execSaveComplete sid s
  | .ringReclaimDone master => Sys2Proof.Machine.execRingReclaimDone master s
  | .snapshotArrival pos => Sys2Proof.Machine.execSnapshotArrival pos s
  | .chunkStart => Sys2Proof.Machine.execChunkStart s
  | .chainValueArrival k => Sys2Proof.Machine.execChainValueArrival k s
  | .chainConfirmation k => Sys2Proof.Machine.execChainConfirmation k s
  | .storeAnnouncement => Sys2Proof.Machine.execStoreAnnouncement s
  | .headPass => Sys2Proof.Machine.execHeadPass s
  | .mergeCombine => Sys2Proof.Machine.execMergeCombine s
  | .packetArrival src dst seen => Sys2Proof.Machine.execPacketArrival src dst seen s
  | .heldPacketReady die src => Sys2Proof.Machine.execHeldPacketReady die src s
  | .heldPacketTimeout die src => Sys2Proof.Machine.execHeldPacketTimeout die src s
  | .baseline => Sys2Proof.Machine.execBaseline s
  | .dieRetire die => Sys2Proof.Machine.execDieRetire die s
  | .hubDieError => Sys2Proof.Machine.execHubDieError s
  | .directoryRequest agent pa demand => Sys2Proof.Machine.execDirectoryRequest agent pa demand s
  | .regionMerge pa => Sys2Proof.Machine.execRegionMerge pa s
  | .dirtyEviction agent pa => Sys2Proof.Machine.execDirtyEviction agent pa s
  | .writebackAck agent pa => Sys2Proof.Machine.execWritebackAck agent pa s
  | .probeArrival agent pa kind externalWrite => Sys2Proof.Machine.execProbeArrival agent pa kind externalWrite s
  | .fillReply agent pa => Sys2Proof.Machine.execFillReply agent pa s
  | .farAtomicAtBank pa wide op x cmp => Sys2Proof.Machine.execFarAtomicAtBank pa wide op x cmp s
  | .scatterAddApply pa => Sys2Proof.Machine.execScatterAddApply pa s
  | .vcacheDrainStep id => Sys2Proof.Machine.execVcacheDrainStep id s
  | .drainComplete id => Sys2Proof.Machine.execDrainComplete id s
  | .parcelError parcel => Sys2Proof.Machine.execParcelError parcel s
  | .messageDelivery sender => Sys2Proof.Machine.execMessageDelivery sender s
  | .retryDelayExpiry sender => Sys2Proof.Machine.execRetryDelayExpiry sender s
  | .hubMessageDelivery => Sys2Proof.Machine.execHubMessageDelivery s
  | .remoteMessageArrival src target payload core => Sys2Proof.Machine.execRemoteMessageArrival src target payload core s
  | .waitwWake pa => Sys2Proof.Machine.execWaitwWake pa s
  | .tokenPush q => Sys2Proof.Machine.execTokenPush q s
  | .tokenPop q => Sys2Proof.Machine.execTokenPop q s
  | .tokenDeadlock => Sys2Proof.Machine.execTokenDeadlock s
  | .engineAccept => Sys2Proof.Machine.execEngineAccept s
  | .engineCopy e => Sys2Proof.Machine.execEngineCopy e s
  | .engineFill e => Sys2Proof.Machine.execEngineFill e s
  | .engineTranspose e => Sys2Proof.Machine.execEngineTranspose e s
  | .engineQuantisingCopy e => Sys2Proof.Machine.execEngineQuantisingCopy e s
  | .engineCompletion e => Sys2Proof.Machine.execEngineCompletion e s
  | .engineStorageError e => Sys2Proof.Machine.execEngineStorageError e s
  | .blockQueueWrite port window off len => Sys2Proof.Machine.execBlockQueueWrite port window off len s
  | .fabricWindowRequest src addr kind n data => Sys2Proof.Machine.execFabricWindowRequest src addr kind n data s
  | .vectorRequest src record slotData => Sys2Proof.Machine.execVectorRequest src record slotData s
  | .vectorRequestCompletion slot result => Sys2Proof.Machine.execVectorRequestCompletion slot result s
  | .fabricResponse id result => Sys2Proof.Machine.execFabricResponse id result s
  | .fabricRequestTimeout id => Sys2Proof.Machine.execFabricRequestTimeout id s
  | .portLaneLoss port lanes => Sys2Proof.Machine.execPortLaneLoss port lanes s
  | .groupStoreArrival src g seq window off data => Sys2Proof.Machine.execGroupStoreArrival src g seq window off data s
  | .groupStoreAck g ep seq result => Sys2Proof.Machine.execGroupStoreAck g ep seq result s
  | .prepare src g count hash dests => Sys2Proof.Machine.execPrepare src g count hash dests s
  | .voteArrival g ep vote => Sys2Proof.Machine.execVoteArrival g ep vote s
  | .voteTimeout g => Sys2Proof.Machine.execVoteTimeout g s
  | .publish src g fromInitiator => Sys2Proof.Machine.execPublish src g fromInitiator s
  | .abort src g fromInitiator reason => Sys2Proof.Machine.execAbort src g fromInitiator reason s
  | .decisionAck g ep refused => Sys2Proof.Machine.execDecisionAck g ep refused s
  | .doubtTimerExpiry g => Sys2Proof.Machine.execDoubtTimerExpiry g s
  | .terminationQuery asker g initiatorUnreachable => Sys2Proof.Machine.execTerminationQuery asker g initiatorUnreachable s
  | .stagingIdleCheck g => Sys2Proof.Machine.execStagingIdleCheck g s
  | .hostMemWrite y data => Sys2Proof.Machine.execHostMemWrite y data s
  | .hostMemRead y n => Sys2Proof.Machine.execHostMemRead y n s
  | .backInvalidationResponse pa writeback => Sys2Proof.Machine.execBackInvalidationResponse pa writeback s
  | .hostSnoop pa invalidate newData => Sys2Proof.Machine.execHostSnoop pa invalidate newData s
  | .shelfBackInvalidation pa => Sys2Proof.Machine.execShelfBackInvalidation pa s
  | .shelfLost im => Sys2Proof.Machine.execShelfLost im s
  | .shelfResponseTimeout im => Sys2Proof.Machine.execShelfResponseTimeout im s
  | .linkTrainingFailure port => Sys2Proof.Machine.execLinkTrainingFailure port s
  | .counterWrap j => Sys2Proof.Machine.execCounterWrap j s
  | .bankCounterWrap v k => Sys2Proof.Machine.execBankCounterWrap v k s
  | .sensorReading index temp => Sys2Proof.Machine.execSensorReading index temp s
  | .alertRepeat index => Sys2Proof.Machine.execAlertRepeat index s
  | .managementInterrupt => Sys2Proof.Machine.execManagementInterrupt s
  | .moduleReset strap badStacks badSpokes badParcels logBase => Sys2Proof.Machine.execModuleReset strap badStacks badSpokes badParcels logBase s
  | .recoveryImage image interrupted => Sys2Proof.Machine.execRecoveryImage image interrupted s
  | .poolBringUp shelves => Sys2Proof.Machine.execPoolBringUp shelves s
  | .tagPostArrival k => Sys2Proof.Machine.execTagPostArrival k s
  | .terminationAnswer g ep answer => Sys2Proof.Machine.execTerminationAnswer g ep answer s
  | .shelfReturn im base size => Sys2Proof.Machine.execShelfReturn im base size s
  | .endpointUnreachableReport ep => Sys2Proof.Machine.execEndpointUnreachableReport ep s
  | .ualinkPortTrained port => Sys2Proof.Machine.execUalinkPortTrained port s

end Sys2Proof.Machine
end

