-- ==== Sys2Proof/Machine/Plan.lean ====
section
/-! DEFINITION. What the focus does next when no input waits: take a pending trap or interrupt, perform the front of a queue, or
run the word at pc; and the queues behind a TOKW (14 R319 to R322, 07 R186; DEDUCED, log entry 14). -/

namespace Sys2Proof.Machine

/-- What the focus does next. -/
inductive Plan where
  /-- Nothing but this change of state. -/
  | rest (s : State)
  /-- Run this instruction or event. -/
  | run (i : Instr) (s : State)
  /-- Perform the token instruction at the front of a queue: push or pop (R320). -/
  | token (push : Bool) (q : Queue) (s : State)
  /-- Perform the front item of a queue. -/
  | queued (q : Queue) (it : QItem) (s : State)

/-- The traps that the issue of a vector or matrix instruction decides (R48, R163, R219): the rest belong to its operation. -/
def issueCause (c : BitVec 8) : Bool := c == 0x01 || c == 0x03 || c == 0xE1 || decide (0x60 ≤ c.toNat ∧ c.toNat ≤ 0x67)

/-- The cause and tval of the trap that an outcome has taken or holds; none when it has taken none. The probe clears tcause. -/
def trapOf (t : State) : Option (BitVec 8 × Word) :=
  match t.x.held with
  | some r => some (r.cause, r.tval)
  | none =>
    let c : BitVec 8 := t.st.trap.tcause.setWidth 8
    if c = 0 then none else some (c, t.st.trap.tval)

/-- The state in which an instruction is tried, so that a trap shows. -/
def State.probing (s : State) : State :=
  { s with
    retired := false
    st := { s.st with trap := { s.st.trap with status := putBits s.st.trap.status 5 1 0, tcause := 0 } } }

/-- The trap that an instruction would take at once. -/
def State.trapAhead (i : Instr) (s : State) : Option (BitVec 8 × Word) :=
  match exec i s.probing with
  | .next t => trapOf t
  | .fault _ => none
  | .refused _ => none

/-- The matrix control state as the instructions held in the matrix queue will leave it: claims and shapes. -/
def State.claimsAhead (s : State) : State :=
  let t := { s with st := { s.st with vqueue := [], mqueue := [] } }
  s.st.mqueue.foldl (fun t it =>
    let claims := match it.instr with
      | .mclaim _ => true
      | .mrel _ => true
      | .mshape _ _ => true
      | _ => false
    if !claims then t
    else match exec it.instr (t.withItem { it with x := { it.x with pipe := none } }) with
      | .next u => { t with x := { t.x with claim := u.x.claim, shape := u.x.shape, dirty := u.x.dirty } }
      | .fault _ => t
      | .refused _ => t) t

/-- The front end has passed an instruction on to its queue. -/
def State.issued (s : State) (q : Queue) (it : QItem) (front : Ctx) : State :=
  let t := s.enqueueItem q it
  { t with
    retired := true
    x := { t.x with
      pc := t.x.pc + 4, vl := front.vl, vtype := front.vtype, vbeg := front.vbeg, rngctr := front.rngctr, pipe := none, replies := [] } }

/-- Issue behind held instructions (R186, R195): a memory instruction with the translations of its address pipeline, or the front
end waits where that fails; any other once its dispatch checks pass. -/
def issueBehind (q : Queue) (i : Instr) (s : State) : Host.Outcome State Fault Refusal :=
  if s.issueHolds q i then .next s
  else match issueOf i s with
    | some (.error t) => .next t
    | some (.ok (t, p)) =>
      if p.fault.isSome then .next s
      else
        let it := t.item i
        .next (t.issued q { it with x := { it.x with pipe := some p } } (if q == .vector then { t.x with vbeg := 0 } else t.x))
    | none =>
      let u := s.claimsAhead
      match u.trapAhead i with
      | some (c, v) => .next (if issueCause c then s.trapS c v else s.issued q (s.item i) s.x)
      | none => match exec i u.probing with
        | .next v => .next (if v.retired then s.issued q (s.item i) v.x else s)
        | .fault r => .fault r
        | .refused r => .refused r

/-- Run an instruction of the front end at once, or issue it behind others. -/
def runFront (i : Instr) (s : State) : Host.Outcome State Fault Refusal :=
  match queueOf i with
  | .scalar => exec i s
  | .engine => exec i s
  | q =>
    let waits := match i with
      | .mwait _ => true
      | _ => false
    if s.spec || waits || s.runsNow q i then exec i s else issueBehind q i s

/-- Two states of the focus in which the same strand runs, no trap having come between. -/
def sameRun (s t : State) : Bool :=
  t.st.trap == s.st.trap && t.st.id == s.st.id && t.st.place == s.st.place && t.st.phase == s.st.phase && t.st.fatal == s.st.fatal

/-- Perform the instruction at the front of a queue with the operands of its issue: it completes, or waits there, or traps, with the
strand returned to it (R196). -/
def runQueued (q : Queue) (it : QItem) (s : State) : Host.Outcome State Fault Refusal :=
  match exec it.instr (s.withItem it) with
  | .next t =>
    if sameRun s t && t.retired && t.x.pc == it.x.pc + 4 then .next (s.performedItem t q it)
    else if sameRun s t && t.x.pc == it.x.pc then
      let x := { it.x with pipe := t.x.pipe, replies := t.x.replies, vbeg := t.x.vbeg }
      .next ((s.performedItem t q it).setQueue q ({ it with x := x } :: ((s.performedItem t q it).queue q)))
    else exec it.instr (s.rollback it)
  | .fault r => .fault r
  | .refused r => .refused r

def planQueue (s : State) (q : Queue) : Option Plan :=
  match s.queue q with
  | [] => none
  | it :: _ =>
    if !s.ready q it then none
    else match it.instr with
      | .toks _ _ => some (.token true q s)
      | .tokw _ _ => some (.token false q s)
      | .ecmd _ _ _ =>
        let a := match it.instr with | .ecmd _ a _ => if a = 0 then 0 else vget it.x.sreg 0 a.toNat | _ => 0
        if (s.engFront it a).isSome then some (.run .engineAccept s) else none
      | _ => if q == .engine then none else some (.queued q it s)

/-- The word at pc: a non-instruction, or one that a feature or level shuts out, traps first (R48, R395); a JOIN must stand where a
loop ends (R129); else it is the instruction it decodes to. -/
def planWord (s : State) : Plan :=
  match s.fetch with
  | .error t => .rest t
  | .ok (t, w) =>
    match decode w with
    | .ok i =>
      if t.joinHere.isSome && i != .join then
        (match t.trapAhead i with
         | some (0x03, _) => .run i t
         | some (0xE1, _) => .run i t
         | _ => .rest (t.trapS 0x41 (t.x.pc.setWidth 64)))
      else if t.interlocked i then .rest t
      else .run i t
    | .error _ => .run (.nonInstructionWord w) t

/-- The management core fetches once its image is verified, until HALT (R24, R438). -/
def State.mgmtRuns (s : State) : Bool :=
  (match s.boot with | .rom => false | .recovery => false | .halted => true | .ready => true) && !s.mg.halted

/-- What happens next: a host request that was held at the directory goes on (R385), or the focus does something. -/
def State.plan (s : State) : Plan :=
  match s.hostReady with
  | some t => .rest t
  | none =>
  if s.st.place = .management then
    (if !s.mgmtRuns then .rest s
     else if s.asyncDue then .run .managementInterrupt s
     else planWord s)
  else match s.st.place, s.st.phase, s.x.phase with
    | .saved, _, _ => .rest s
    | _, .saving, _ => .rest s
    | _, .frozen, _ => .rest s
    | _, _, .idle => .rest s
    | _, _, _ =>
      match s.st.fatal with
      | some r => .rest ({ s with st := { s.st with fatal := none } }.contain r)
      | none =>
        if s.x.held.isSome then (if s.spec then .rest s else .run .heldTrapTaken s)
        else if s.spec && s.x.phase == .finished then .rest s
        else if s.asyncDue && s.x.phase == .running then .run .asyncEventTaken s
        else if !s.spec && s.x.owed != .nothing then .rest (match s.payOwed with | .ok t => t | .error t => t)
        else match if s.spec then none
            else (planQueue s .vector).orElse (fun _ => (planQueue s .matrix).orElse (fun _ => planQueue s .engine)) with
          | some p => p
          | none => match s.st.phase with
            | .stopping _ due => if due && s.queuesEmpty && s.x.replies.isEmpty && !s.midAccess then .rest s else planWord s
            | _ => planWord s

/-- Counters whose count the instruction writes: it does not count itself there (R434). -/
def writtenCounters : Instr → List Nat
  | .sset _ n => if 0x200 ≤ n.toNat ∧ n.toNat ≤ 0x203 then [n.toNat - 0x200] else []
  | .sxch _ _ n => if 0x200 ≤ n.toNat ∧ n.toNat ≤ 0x203 then [n.toNat - 0x200] else []
  | .pmcw _ j => [j.toNat]
  | _ => []

/-- Count an event on the counters that were enabled before the instruction and that it did not write. -/
def countAround (before : State) (i : Instr) (ev : Nat) (t : State) : State :=
  let u := t.countBy ev 1 (before.lvl == 0)
  let own := (List.range 4).filter (fun j => !bit (vget before.st.pmcfg 0 j) 63 || (writtenCounters i).contains j)
  { u with st := { u.st with pmcfg := own.foldl (fun v j => vset v j (vget t.st.pmcfg 0 j)) u.st.pmcfg } }

/-- Count a completed instruction (R430): 0x02 in the head or outside a fork, 0x03 in a speculative chunk, 0x04 vector; at the
level it ran at. (DEDUCED, log entry 19.) -/
def countRetired (before : State) (i : Instr) (t : State) : State :=
  if !t.retired then t
  else
    let t := { t with retired := false }
    if t.st.id != before.st.id || t.st.place != before.st.place then t
    else
      let t := countAround before i (if before.spec then 0x03 else 0x02) t
      if queueOf i == .vector then countAround before i 0x04 t else t

/-- Count within an outcome. -/
def settle (before : State) (i : Instr) (r : Host.Outcome State Fault Refusal) : Host.Outcome State Fault Refusal :=
  match r with
  | .next t => .next (countRetired before i t)
  | .fault f => .fault f
  | .refused f => .refused f

/-- Carry out a plan. -/
def runPlan (p : Plan) : Host.Outcome State Fault Refusal :=
  match p with
  | .rest t => .next t
  | .run i t => settle t i (runFront i t)
  | .token push q t => if push then execTokenPush q.code t else execTokenPop q.code t
  | .queued q it t => runQueued q it t

/-- Is this input the event of a module reset? -/
def Input.isReset : Input → Bool
  | .event (.moduleReset _ _ _ _ _) => true
  | _ => false

/-- An input is read: an event runs as its instruction (an event word in an input is no word fetched: only events run so),
anything else changes the state. -/
def runInput (inp : Input) (s : State) : Host.Outcome State Fault Refusal :=
  match inp with
  | .event i => if i.isWord then .next s else settle s i (exec i s)
  | inp => .next (s.input inp)

/-! ## Placing an instruction for the first step (DESIGN CHOICE, log entry 4) -/

/-- The machine as it stands when a launch of one user strand has been placed on ring 0, before its first instruction: bring-up
and feature acceptance done, the management core parked, page 0x1000000 mapped read, write and execute at physical address 0,
tables at 0x100000. -/
def State.withStrand (s : State) : State :=
  let mg : Runner := { x := s.x, st := s.st }
  let strand : Strand := { Strand.zero with place := .ring 0, id := mkId 1 0, n := 1, ptroot := 0x100000, saveSlot := some 0 }
  let launch : Launch :=
    { handle := 1, vf := 0, entry := 0x1000000, args := 0, nring := 1, ngate := 0, argsize := 0, prio := 0, gang := false,
      notify := false, maps := [], rngkey := 0, stack := 0, stacksize := 0, target := 0, done := 0x1000008, ptroot := 0x100000,
      asid := 0, tvec := 0, issuer := none, toPlace := [], toResume := [], endedOk := 0, endedFault := 0, waitFrom := none }
  let x : Ctx := { Ctx.zero with pc := 0x1000000#54, sreg := vset (vset Ctx.zero.sreg 5 1) 6 1 }
  { s with
    x := x
    st := strand
    parked := [mg]
    boot := .ready
    mem := Memory.writeBytes (Memory.writeBytes (Memory.writeBytes s.mem unlisted 0x100000 (leBytes 8 0x1100001))
      unlisted 0x110000 (leBytes 8 0x1200001)) unlisted 0x120800 (leBytes 8 0x18DF)
    mbx := { s.mbx with mbstat := 3, fa := vset s.mbx.fa 0 0x73F }
    cp := { s.cp with
      vfcfg := vset s.cp.vfcfg 0 0x101, parta := vset s.cp.parta 0 1, phys := vset s.cp.phys 0 (putBits 0 32 10 768)
      svcnt := 64, svbase := 0xBF00000000, masters := vset s.cp.masters 0 .occupied, launches := [launch] } }

/-- Store a word where the placed strand fetches its next instruction. -/
def State.placeWord (s : State) (w : Nat) : State :=
  { s with mem := Memory.writeBytes s.mem unlisted 0 (leBytes 4 w) }

end Sys2Proof.Machine
end

