-- ==== Sys2Proof/Machine/Step.lean ====
section
/-! DEFINITION. One step of the module: the next input, or what the focus does next. -/

namespace Sys2Proof.Machine

/-- One step (DESIGN CHOICE, log entry 3). A stopped module takes no step but its reset. -/
def step (s : State) : Host.Outcome State Fault Refusal :=
  match s.inputs with
  | inp :: rest =>
    if s.stopped && !inp.isReset then .fault .moduleStopped else runInput inp { s with inputs := rest }
  | [] => if s.stopped then .fault .moduleStopped else runPlan s.plan

/-- The instruction whose 32 bits are w, stored where a placed user strand fetches next (DESIGN CHOICE, log entry 4). -/
def State.withFetchWord (s : State) (nbits w : Nat) : State :=
  s.withStrand.placeWord (w % 2 ^ nbits)

end Sys2Proof.Machine
end

