-- ==== Sys2Proof/Safety.lean ====
section
/-! DEFINITION. What counts as a safe state, and the terms statements use: the invariants that every step keeps, when the focus
passes the dispatch gate, and what an instruction that writes one register leaves. -/

namespace Sys2Proof.Machine

/-- Memory is in its canonical form. -/
def State.memWf (s : State) : Bool := Memory.wf unlisted s.mem

/-- A run is safe when the module has not stopped. -/
def State.safe (s : State) : Bool := !s.stopped

/-- The focus passes the checks of R48 that follow decode_check: the accepted feature, the level, the kind of core. -/
def State.admits (s : State) (n : Need) : Prop :=
  (∀ b, n.feat = some b → s.feature b = true) ∧ n.lvl ≤ s.lvl ∧ n.runsOn s.st.place = true

/-- `t` is `s` with pc at `pc` and any of the scalar registers written; every other part of the module is as it was, but for
`retired` and the record of an access in progress, which are the model's. -/
def State.Passed (s t : State) (pc : BitVec 54) : Prop :=
  t = { s with retired := true, x := { s.x with pc := pc, sreg := t.x.sreg, await := t.x.await, replies := [], pipe := none } }

/-- `t` is `s` after an instruction that wrote v to s[d], s0 discarding it (R44), and passed on to `pc`: no other register and no
other part of the module has changed. -/
structure State.Wrote (s t : State) (d : BitVec 5) (v : Word) (pc : BitVec 54) : Prop where
  dest : d ≠ 0 → t.getS d = v
  others : ∀ r, r ≠ d → t.getS r = s.getS r
  discard : d = 0 → t.x.sreg = s.x.sreg
  passed : s.Passed t pc

/-- `t` is `s` after trap entry (R393) with a record whose fields but the first three are zero: the registers R393 names, pc at
tvec, and nothing else but the count of traps (R430 event 0x0D) and the record of an access in progress. The level becomes `lvl`. -/
structure State.Entered (s t : State) (cause : Nat) (lvl : Nat) (tval : Word) : Prop where
  pc : t.x.pc = s.st.trap.tvec.setWidth 54
  tcause : t.st.trap.tcause = BitVec.ofNat 64 cause
  tpc : t.st.trap.tpc = s.x.pc.setWidth 64
  tval : t.st.trap.tval = tval
  rest : t.st.trap.telem = 0 ∧ t.st.trap.tstride = 0 ∧ t.st.trap.tremain = 0
  level : bits t.st.trap.status 0 2 = lvl
  ie : bit t.st.trap.status 6 = false ∧ bit t.st.trap.status 7 = bit s.st.trap.status 6
  tl : bit t.st.trap.status 5 = true
  other : ∀ i, i = 4 ∨ 8 ≤ i → bit t.st.trap.status i = bit (s.count 0x0D).st.trap.status i
  keeps : t.st.trap.tvec = s.st.trap.tvec ∧ t.st.trap.tscratch = s.st.trap.tscratch
  frame : t = { s.count 0x0D with
    x := { s.x with pc := t.x.pc, held := none, replies := [], pipe := none }
    st := { (s.count 0x0D).st with trap := t.st.trap } }

/-- The focus may access `n` bytes at `va`, plainly: a strand of a ring or gateway core outside a fork, memory in its canonical form;
an aligned address that translates to local memory `x` with no walk, and of which no earlier try has kept a translation; no poison,
no line in doubt, none the host holds or is giving up; the streams of the die fabric open, and none that a retired die has left
incomplete. -/
structure State.Plain (s : State) (k : Acc) (va : Word) (n : Nat) (x : Xl) : Prop where
  wf : s.memWf = true
  core : s.st.place.master? ≠ none
  alone : s.st.fork = none ∧ s.st.active = false
  aligned : va.toNat < 2 ^ 54 ∧ va.toNat % n = 0
  maps : s.keptXl va.toNat = none ∧ s.xlate s.walkRead s.space k va.toNat = (s, .ok x)
  loc : x.kind ≠ 1
  clean : s.poisoned x.pa = false ∧ ∀ l ∈ linesOf x.pa n, s.poisonedFor (l * 64) = false
  quiet : s.inDoubt x.pa n = false ∧ s.hostLines (k != .read) x.pa n = [] ∧ s.hostWaits x.pa n = false
  opened : s.windowOpen x.vc x.pa n = true ∧ s.lostRead x.vc x.pa n = false

/-- A step at a memory bank may be made for the bytes: its streams are open, and no retired die has left them incomplete. -/
def State.Steps (s : State) (x : Xl) (n : Nat) : Prop := s.bankOpen x.vc x.pa n = true ∧ s.lostStep x.vc x.pa n = false

/-- No vector store of the strand in its buffer has been ordered for its own core's scalar accesses: scalar accesses see the scalar
stores alone (R240). -/
def State.Apart (s : State) : Prop := ∀ e ∈ s.st.vbuf, e.joined = false

/-- No scalar store of the strand in its buffer has been ordered for its own core's vector accesses: these see the vector stores alone
(R241). -/
def State.Parted (s : State) : Prop := ∀ e ∈ s.st.sbuf, e.joined = false

/-- `s` when a scalar atomic makes its step on the n bytes at x: the page's class is noted (R284), and what the strand's own core
has ordered before it is performed (R240). -/
def State.atStep (s : State) (x : Xl) (n : Nat) : State := (s.touch s.ring? x.pa).scalarDone x.pa n

/-- `s` once a scalar access has read n bytes at x (R284, R329). -/
def State.atRead (s : State) (x : Xl) (n : Nat) : State := ((s.touch s.ring? x.pa).loadPackets x.vc x.pa n).hostDone x.pa n

/-- `s` when the bank holds the barrier record at x (R300, R269). -/
def State.atRecord (s : State) (x : Xl) : State := ((s.touch s.ring? x.pa).atBank x.vc x.pa 64).hostDone x.pa 64

/-- `s` when an arrival at a scope makes its step on the record at x: it has released at the scope (R304), and what the strand's own
core has ordered before it is performed. -/
def State.atArrival (s : State) (x : Xl) (scope : BitVec 3) : State :=
  (if scope.toNat ≤ 1 then (s.atRecord x).joinAll else (s.atRecord x).release).scalarDone x.pa 64

/-- `t` is `s` after an access of the focus, at `pc`: beside the scalar registers, `st` and `mem`, which a statement names, only
the model's record of page classes (R284), of the directory and of packets has changed. -/
def State.Accessed (s t : State) (pc : BitVec 54) : Prop :=
  t = { s with
    retired := true, st := t.st, mem := t.mem, classes := t.classes, cache := t.cache, net := t.net
    x := { s.x with pc := pc, sreg := t.x.sreg, await := t.x.await, replies := [], pipe := none } }

/-- `t` is `s` but for bank counters (R435), and for what their wraps have sent to supervisors or logged. -/
def State.Counted (s t : State) : Prop :=
  t = { s with
    cp := { s.cp with bankCtr := t.cp.bankCtr, hubOut := t.cp.hubOut }
    fab := { s.fab with out := t.fab.out, sent := t.fab.sent }
    mg := { s.mg with tail := t.mg.tail }
    sram := t.sram, undef := t.undef }

/-- No bank counter is enabled for one of these events. -/
def State.countsNone (s : State) (evs : List Nat) : Bool :=
  (List.range 128).all (fun i => let w := vget s.cp.bankCtr 0 i; !bit w 63 || !evs.contains (bits w 48 8))

/-- s[d] holds v, or it is s0; every other scalar register is as it was. -/
def State.Got (s t : State) (d : BitVec 5) (v : Word) : Prop :=
  (d ≠ 0 → t.getS d = v) ∧ ∀ r, r ≠ d → t.getS r = s.getS r

/-- What a step of the focus at memory may leave changed in its strand: its scalar stores are performed, and its counters and
its own pending wait may move. -/
def Strand.Drained (a b : Strand) : Prop :=
  b = { a with sbuf := [], wait := b.wait, pmcfg := b.pmcfg, ovfPend := b.ovfPend,
               trap := { a.trap with status := b.trap.status } }

/-! ## Vector results -/

/-- Element i, w bits wide, of the n vector registers from `base` up (R158). -/
def State.elemOf (s : State) (base n w i : Nat) : Nat := nbits (s.vgroup base n) (w * i) w

/-- The n vector registers from `base` up hold, w bits wide, v i as element i where v gives one, and what they held where not. -/
def State.Holds (s t : State) (base n w : Nat) (v : Nat → Option Nat) : Prop :=
  ∀ i, i < n * 16384 / w → t.elemOf base n w i = (v i).getD (s.elemOf base n w i)

/-- What vector_apply of R162 gives element i: nothing, f i, or zero. -/
def State.applied (s : State) (w : Nat) (mask : BitVec 2048) (f : Nat → Nat) (i : Nat) : Option Nat :=
  if s.vl = 0 then none
  else if s.vl ≤ i then (if s.tp then some 0 else none)
  else if i < s.vbeg then none
  else if mask.getLsbD i then some (f i % 2 ^ w)
  else if s.mp then some 0
  else none

/-- The listed values from element 0 up, and a tail (R162) after them. -/
def State.packed (s : State) (w : Nat) (l : List Nat) (i : Nat) : Option Nat :=
  if s.vl = 0 then none
  else match l[i]? with
    | some v => some (v % 2 ^ w)
    | none => if s.tp then some 0 else none

/-- An instruction that writes vector registers of `t` has completed: pc at the next word, vbeg 0; no vector register outside the
listed ranges (base and count), and nothing else of the module, has changed. -/
def State.Vectored (s t : State) (ranges : List (Nat × Nat)) : Prop :=
  (∀ j, (∀ r ∈ ranges, j < r.1 ∨ r.1 + r.2 ≤ j) → vget t.x.vreg 0 j = vget s.x.vreg 0 j) ∧
  t = { s with
    retired := true
    x := { s.x with pc := s.x.pc + 4, vreg := t.x.vreg, vbeg := 0, replies := [], pipe := none } }

/-- `t` is `s` after an instruction that writes one operand of format width w, d being its base (R158, R162). -/
def State.Filled (s t : State) (d w : Nat) (v : Nat → Option Nat) : Prop :=
  let n := groupRegs s.x.vtype w
  s.Holds t d n w v ∧ s.Vectored t [(d, n)]

/-- `t` is `s` after an instruction that writes mask register m: bit i becomes v i where v gives one. -/
def State.Masked (s t : State) (m : Nat) (v : Nat → Option Nat) : Prop :=
  (∀ i, i < 2048 → (t.kmask m).getLsbD i = ((v i).map (· == 1)).getD ((s.kmask m).getLsbD i)) ∧
  (∀ j, j ≠ m → t.kmask j = s.kmask j) ∧
  t = { s with
    retired := true
    x := { s.x with pc := s.x.pc + 4, kreg := t.x.kreg, vbeg := 0, replies := [], pipe := none } }

/-- The dispatch checks of R163 pass for an instruction whose FD register is f: the descriptor d is legal, an XF4 operand has a
tensor scale, vtype is not vill, the operand groups are legal. -/
structure State.Ready (s : State) (f : BitVec 5) (d : FD) (used : List Nat) (opds : List Opd) : Prop where
  core : s.st.place.master? ≠ none
  fd : d = readFD (s.getS f)
  legal : fdLegal (s.getS f) = true
  scale : 0x16 ∈ used → f ≠ 31 ∧ tensorScaleOk (s.scaleReg f) = true
  vtype : vill s.x.vtype = false
  groups : groupsLegal s.x.vtype opds = true

/-- The dispatch checks of R163 pass for an instruction that works at the width of vtype's ew. -/
structure State.ReadyEw (s : State) (regs : List (BitVec 5)) : Prop where
  core : s.st.place.master? ≠ none
  vtype : vill s.x.vtype = false
  groups : groupsLegal s.x.vtype (regs.map (fun r => opdW r s.ew)) = true

/-- The value of element i of a source of format c, the tensor scale being that of FD register f. -/
def State.valueOf (s : State) (r : BitVec 5) (c : Nat) (d : FD) (f : BitVec 5) (i : Nat) : XVal :=
  (s.src (opdOf r c)).value c d.ftz (s.tscale f) i

/-- The pattern of element i at the width of vtype's ew. -/
def State.elemEw (s : State) (r : BitVec 5) (i : Nat) : Nat := (s.src (opdW r s.ew)).at_ i

/-! ## Accesses of the vector class and the matrix array -/

/-- The focus is a strand of a ring or gateway core outside a fork, its instruction at pc is not under way, and no addition of
its own pends at a memory port. -/
structure State.Alone (s : State) : Prop where
  core : s.st.place.master? ≠ none
  alone : s.st.fork = none ∧ s.st.active = false
  fresh : s.x.pipe = none ∧ s.x.replies = []
  settled : ∀ c ∈ s.scatter, c.owner ≠ s.st.id

/-- As State.Plain, for an access of the vector class through a page that is cached, at any alignment. -/
structure State.Local (s : State) (k : Acc) (va : Word) (n : Nat) (x : Xl) : Prop where
  wf : s.memWf = true
  bound : va.toNat < 2 ^ 54
  maps : s.xlate s.walkRead s.space k va.toNat = (s, .ok x)
  loc : x.kind ≠ 1
  clean : s.poisoned x.pa = false ∧ ∀ l ∈ linesOf x.pa n, s.poisonedFor (l * 64) = false
  quiet : s.inDoubt x.pa n = false ∧ s.hostLines (k != .read) x.pa n = [] ∧ s.hostWaits x.pa n = false
  cached : (∀ l ∈ linesOf x.pa n, s.uncached x.vc (l * 64) = false) ∧ s.policy x.vc ≠ 3

/-- The bytes that a vector access of the strand reads at `pa`, as a number. -/
def State.viewNum (s : State) (pa n : Nat) : Nat := leNat ((List.range n).map (fun i => s.viewByte true (pa + i)))

/-- A row's value, none where it is not defined. -/
def State.accVal (s : State) (j r : Nat) : Option Nat := (s.x.acc.find? (fun e => e.1 == 256 * j + r)).map (fun e => e.2.toNat)
def State.slotVal (s : State) (q r : Nat) : Option Nat := (s.x.slot.find? (fun e => e.1 == 256 * q + r)).map (fun e => e.2.toNat)

/-- A ring core whose array is in use, with the accumulators and slots claimed. -/
structure State.Array (s : State) (accs slots : List Nat) : Prop where
  ring : s.st.place.master? ≠ none ∧ ∃ r, s.st.place = .ring r
  feature : s.feature 5 = true
  claimed : (∀ j ∈ accs, s.x.claim.getLsbD j = true) ∧ ∀ q ∈ slots, s.x.claim.getLsbD (8 + q) = true

/-- Row r of accumulator j now holds `v`, or is poisoned and holds nothing. -/
def State.AccRow (t : State) (j r : Nat) (bad : Bool) (v : Nat) : Prop :=
  t.accBad j r = bad ∧ t.accVal j r = if bad then none else some v
def State.SlotRow (t : State) (q r : Nat) (bad : Bool) (v : Nat) : Prop :=
  t.slotBad q r = bad ∧ t.slotVal q r = if bad then none else some v

/-- An instruction of the array has completed: rows other than those named, and all else of the module but the dirty bits of
what it wrote and the model's records of page classes, packets and free values, are as they were. -/
def State.Arrayed (s t : State) (acc slot : Nat → Nat → Prop) : Prop :=
  (∀ j r, j < 8 → r < 256 → ¬ acc j r → t.accVal j r = s.accVal j r ∧ t.accBad j r = s.accBad j r) ∧
  (∀ q r, q < 16 → r < 256 → ¬ slot q r → t.slotVal q r = s.slotVal q r ∧ t.slotBad q r = s.slotBad q r) ∧
  (∀ j, j < 8 → (∀ r, ¬ acc j r) → t.x.dirty.getLsbD j = s.x.dirty.getLsbD j) ∧
  (∀ q, q < 16 → (∀ r, ¬ slot q r) → t.x.dirty.getLsbD (8 + q) = s.x.dirty.getLsbD (8 + q)) ∧
  t = { s with
    retired := true, classes := t.classes, cache := t.cache, net := t.net, undef := t.undef
    x := { s.x with
      pc := s.x.pc + 4, acc := t.x.acc, accPoison := t.x.accPoison, slot := t.x.slot, slotPoison := t.x.slotPoison
      dirty := t.x.dirty, vbeg := t.x.vbeg, replies := [], pipe := none } }

/-- Of row m of accumulator j, written poisoned or not, the first N cells now hold `f n`; the others are as they were. -/
def State.AccCells (s t : State) (j m N : Nat) (bad : Bool) (f : Nat → Nat) : Prop :=
  t.accBad j m = bad ∧ (bad = true → t.accVal j m = none) ∧
  (bad = false → ∃ row, t.accVal j m = some row ∧ (∀ n, n < N → cellOf row n = f n % 2 ^ 32) ∧
    ∀ old, s.accVal j m = some old → ∀ n, N ≤ n → n < 256 → cellOf row n = cellOf old n)

end Sys2Proof.Machine
end

