-- ==== Sys2Proof/Certificates/Slice0/Obligations.lean ====
section
/-! DEFINITION. The statements for the provers. Those of several rules are conjunctions of parts, each stated first. -/

open Sys2Proof Sys2Proof.Machine

/-- R82, R83 (04): the register-register operations with a plain result write it to s[d], s0 discarding it, and change nothing else. -/
def Sys2Proof.Parts.ScalarLogicAndShift : Prop :=
  ∀ (s : State) (d a b : BitVec 5), s.st.place ≠ .saved →
    let x := s.getS a
    let y := s.getS b
    let n := y.toNat % 64
    ∀ p ∈ [(Instr.add d a b, x + y), (.sub d a b, x - y), (.and d a b, x &&& y), (.or d a b, x ||| y),
           (.xor d a b, x ^^^ y), (.andn d a b, x &&& ~~~y), (.sll d a b, x <<< n), (.srl d a b, x >>> n),
           (.sra d a b, x.sshiftRight n), (.rotr d a b, x.rotateRight n)],
      ∃ t, exec p.1 s = .next t ∧ s.Wrote t d p.2 (s.x.pc + 4)

/-- R82 (04): minima, maxima and comparisons, signed and unsigned. -/
def Sys2Proof.Parts.ScalarCompare : Prop :=
  ∀ (s : State) (d a b : BitVec 5), s.st.place ≠ .saved →
    let x := s.getS a
    let y := s.getS b
    ∀ p ∈ [(Instr.min d a b, if x.slt y then x else y), (.max d a b, if y.slt x then x else y),
           (.minn d a b, if x < y then x else y), (.maxn d a b, if y < x then x else y),
           (.slt d a b, if x.slt y then 1 else 0), (.sltn d a b, if x < y then (1 : Word) else 0)],
      ∃ t, exec p.1 s = .next t ∧ s.Wrote t d p.2 (s.x.pc + 4)

/-- Register-register logic, shifts, minima and comparisons write their result and nothing else. -/
def Obligations.ScalarLogicShiftAndCompare : Prop :=
  Sys2Proof.Parts.ScalarLogicAndShift ∧ Sys2Proof.Parts.ScalarCompare

/-- R83 (04): products and quotients. A division by zero gives a quotient of all ones and the dividend as remainder; the most
negative number over −1 gives itself and remainder 0; nothing traps. -/
def Obligations.ScalarMultiplyDivide : Prop :=
  ∀ (s : State) (d a b : BitVec 5), s.st.place ≠ .saved →
    let x := s.getS a
    let y := s.getS b
    ∀ p ∈ [(Instr.mul d a b, x * y),
           (.mulh d a b, (x.signExtend 128 * y.signExtend 128).extractLsb' 64 64),
           (.mulhn d a b, (x.setWidth 128 * y.setWidth 128).extractLsb' 64 64),
           (.div d a b, if y = 0 then BitVec.allOnes 64 else x.sdiv y),
           (.divn d a b, if y = 0 then BitVec.allOnes 64 else x / y),
           (.rem d a b, x.srem y), (.remn d a b, x % y)],
      ∃ t, exec p.1 s = .next t ∧ s.Wrote t d p.2 (s.x.pc + 4)

/-- R82 (04): CLZ counts the zeros above the highest one, CTZ those below the lowest, POPC the ones; BSWAP reverses the bytes. -/
def Sys2Proof.Parts.ScalarBitCount : Prop :=
  ∀ (s : State) (d a : BitVec 5), s.st.place ≠ .saved →
    let x := s.getS a
    (∃ t n, exec (.clz d a) s = .next t ∧ s.Wrote t d (BitVec.ofNat 64 n) (s.x.pc + 4) ∧ n ≤ 64 ∧
      (∀ i, 64 - n ≤ i → i < 64 → x.getLsbD i = false) ∧ (n < 64 → x.getLsbD (63 - n) = true)) ∧
    (∃ t n, exec (.ctz d a) s = .next t ∧ s.Wrote t d (BitVec.ofNat 64 n) (s.x.pc + 4) ∧ n ≤ 64 ∧
      (∀ i, i < n → x.getLsbD i = false) ∧ (n < 64 → x.getLsbD n = true)) ∧
    (∃ t, exec (.popc d a) s = .next t ∧
      s.Wrote t d (BitVec.ofNat 64 ((List.range 64).countP (fun i => x.getLsbD i))) (s.x.pc + 4)) ∧
    (∃ t v, exec (.bswap d a) s = .next t ∧ s.Wrote t d v (s.x.pc + 4) ∧
      ∀ j, j < 8 → v.extractLsb' (8 * j) 8 = x.extractLsb' (56 - 8 * j) 8)

/-- R84, R85, R82 (04): immediate operations, shifts by an immediate, SEXT and ZEXT. -/
def Sys2Proof.Parts.ScalarImmediate : Prop :=
  ∀ (s : State) (d a : BitVec 5) (i : BitVec 16) (l : BitVec 2) (n : BitVec 6), s.st.place ≠ .saved →
    let x := s.getS a
    let m := i.signExtend 64
    (∀ p ∈ [(Instr.addi d a i, x + m), (.andi d a i, x &&& m), (.ori d a i, x ||| m), (.xori d a i, x ^^^ m),
            (.slti d a i, if x.slt m then 1 else 0), (.sltni d a i, if x < m then 1 else 0), (.lih d i, m <<< 16),
            (.addpc d i, s.x.pc.setWidth 64 + m <<< 16),
            (.insi d l i, (s.getS d &&& ~~~((0xFFFF : Word) <<< (16 * l.toNat))) ||| (i.setWidth 64 <<< (16 * l.toNat))),
            (.shi d a 0 n, x <<< n.toNat), (.shi d a 1 n, x >>> n.toNat), (.shi d a 2 n, x.sshiftRight n.toNat),
            (.shi d a 3 n, x.rotateRight n.toNat),
            (.sext d a 0, (x.setWidth 8).signExtend 64), (.sext d a 1, (x.setWidth 16).signExtend 64),
            (.sext d a 2, (x.setWidth 32).signExtend 64), (.zext d a 0, (x.setWidth 8).setWidth 64),
            (.zext d a 1, (x.setWidth 16).setWidth 64), (.zext d a 2, (x.setWidth 32).setWidth 64)],
      ∃ t, exec p.1 s = .next t ∧ s.Wrote t d p.2 (s.x.pc + 4))

/-- Bit counts, byte swap, immediate operations and extensions. -/
def Obligations.ScalarCountsAndImmediates : Prop :=
  Sys2Proof.Parts.ScalarBitCount ∧ Sys2Proof.Parts.ScalarImmediate

/-- R90 (04): a branch goes to pc + 4 × off13 when its condition holds, to the next word when not, and writes nothing. -/
def Obligations.BranchTarget : Prop :=
  ∀ (s : State) (b a : BitVec 5) (o : BitVec 13), s.st.place ≠ .saved →
    let x := s.getS a
    let y := s.getS b
    ∀ p ∈ [(Instr.beq b a o, x == y), (.bne b a o, x != y), (.blt b a o, x.slt y), (.bge b a o, !x.slt y),
           (.bltn b a o, x.ult y), (.bgen b a o, !x.ult y)],
      ∃ t, exec p.1 s = .next t ∧
        s.Wrote t 0 0 (if p.2 then s.x.pc + 4 * o.signExtend 54 else s.x.pc + 4)

/-- R91, R92 (04): CALL and CALLR link to the next word; CALLR and JMPR go to s[a], read before the link is written, when it is a
multiple of 4 below 2^54, and trap with cause 0x04 and that value when not. -/
def Obligations.CallAndJump : Prop :=
  ∀ (s : State) (d a : BitVec 5) (o : BitVec 21), s.st.place ≠ .saved →
    let x := s.getS a
    let link := (s.x.pc + 4).setWidth 64
    (∃ t, exec (.call d o) s = .next t ∧ s.Wrote t d link (s.x.pc + 4 * o.signExtend 54)) ∧
    (x.toNat % 4 = 0 → x.toNat < 2 ^ 54 →
      (∃ t, exec (.callr d a) s = .next t ∧ s.Wrote t d link (x.setWidth 54)) ∧
      (∃ t, exec (.jmpr a) s = .next t ∧ s.Wrote t 0 0 (x.setWidth 54))) ∧
    (¬ (x.toNat % 4 = 0 ∧ x.toNat < 2 ^ 54) → ∀ i ∈ [Instr.callr d a, .jmpr a], exec i s = .next (s.trapS 0x04 x))

/-- R94 (04), R45, R46 (02): SGET writes to s[d] the register of each number: those of level 0 at every level, those of
supervisor level from level 1 up, the management registers at level 3 alone. -/
def Sys2Proof.Parts.StatusRead : Prop :=
  ∀ (s : State) (d : BitVec 5), s.st.place ≠ .saved →
    let reads := fun (l : List (BitVec 11 × Word)) =>
      ∀ p ∈ l, ∃ t, exec (.sget d p.1) s = .next t ∧ s.Wrote t d p.2 (s.x.pc + 4)
    reads [(0x001, s.x.vl), (0x002, s.x.vtype), (0x003, s.x.vbeg), (0x010, s.x.cnum.setWidth 64),
      (0x011, s.x.citer.setWidth 64), (0x012, s.st.ccount.setWidth 64), (0x013, s.cflags), (0x014, s.st.fsite.setWidth 64),
      (0x015, s.st.fsquash.setWidth 64), (0x020, s.x.rngkey.setWidth 64), (0x021, s.x.rngctr), (0x030, s.st.id),
      (0x031, BitVec.ofNat 64 s.ringid), (0x032, BitVec.ofNat 64 s.die), (0x033, BitVec.ofNat 64 s.coreid),
      (0x034, s.st.vf.setWidth 64), (0x040, s.inboxst), (0x200, vget s.st.pmcfg 0 0), (0x201, vget s.st.pmcfg 0 1),
      (0x202, vget s.st.pmcfg 0 2), (0x203, vget s.st.pmcfg 0 3)] ∧
    (1 ≤ s.lvl → reads [(0x100, s.st.trap.status), (0x101, s.st.trap.tvec), (0x102, s.st.trap.tcause),
      (0x103, s.st.trap.tpc), (0x104, s.st.trap.tval), (0x105, s.st.trap.telem), (0x106, s.st.trap.tstride),
      (0x107, s.st.trap.tremain), (0x108, s.st.trap.tscratch), (0x110, s.st.ptroot), (0x111, s.st.asid)]) ∧
    (s.lvl = 3 → reads [(0x300, s.mg.sel.setWidth 64), (0x304, s.mg.thr.setWidth 64),
      (0x305, s.mg.energy ++ s.mg.cpw ++ s.mg.modw), (0x306, s.mg.tail), (0x307, 0), (0x308, BitVec.ofNat 64 s.time),
      (0x309, s.mg.trip.setWidth 64)])

/-- R95, R97 (04), R103 (05), R156 (07), R277 (12), R391, R392 (18), R439 (25): what SSET and SXCH store in each register that
they may write, and that SXCH returns the old value in s[d]; s[a] is read first. A write that user level may not make needs
the head chunk. -/
def Sys2Proof.Parts.StatusWrite : Prop :=
  ∀ (s : State) (d a : BitVec 5), s.st.place ≠ .saved →
    let v := s.getS a
    let k := s.st.trap
    let writes := fun (l : List (BitVec 11 × Word × State)) => ∀ p ∈ l,
      (∃ t, exec (.sset a p.1) s = .next t ∧ p.2.2.Wrote t 0 0 (s.x.pc + 4)) ∧
      (∃ t, exec (.sxch d a p.1) s = .next t ∧ p.2.2.Wrote t d p.2.1 (s.x.pc + 4))
    let trap := fun (k' : TrapRegs) => { s with st := { s.st with trap := k' } }
    writes [(0x003, s.x.vbeg, { s with x := { s.x with vbeg := v } }),
      (0x020, s.x.rngkey.setWidth 64, { s with x := { s.x with rngkey := v.setWidth 32 } }),
      (0x021, s.x.rngctr, { s with x := { s.x with rngctr := v } })] ∧
    (1 ≤ s.lvl → s.spec = false → writes [
      (0x001, s.x.vl, { s with x := { s.x with vl := BitVec.ofNat 64 (min v.toNat (vlmaxOf s.x.vtype)) } }),
      (0x002, s.x.vtype, { s with x := { s.x with vtype := if v.toNat < 64 then v else 0x8000000000000000 } }),
      (0x101, k.tvec, trap { k with tvec := v &&& 0x3FFFFFFFFFFFFC }),
      (0x102, k.tcause, trap { k with tcause := v &&& 0xFFF }),
      (0x103, k.tpc, trap { k with tpc := v &&& 0x3FFFFFFFFFFFFF }),
      (0x104, k.tval, trap { k with tval := v }), (0x105, k.telem, trap { k with telem := v }),
      (0x106, k.tstride, trap { k with tstride := v }), (0x107, k.tremain, trap { k with tremain := v }),
      (0x108, k.tscratch, trap { k with tscratch := v }),
      (0x110, s.st.ptroot, { s with st := { s.st with ptroot := v &&& 0xFFFFFFFFF0000 } }),
      (0x111, s.st.asid, { s with st := { s.st with asid := v &&& 0xFFFF } })]) ∧
    (s.lvl = 3 → s.spec = false → writes [
      (0x010, s.x.cnum.setWidth 64, { s with x := { s.x with cnum := v.setWidth 32 } }),
      (0x012, s.st.ccount.setWidth 64, { s with st := { s.st with ccount := v.setWidth 32 } }),
      (0x300, s.mg.sel.setWidth 64, { s with mg := { s.mg with sel := v.setWidth 7 } }),
      (0x304, s.mg.thr.setWidth 64, { s with mg := { s.mg with thr := v.setWidth 32 } }),
      (0x309, s.mg.trip.setWidth 64, { s with mg := { s.mg with trip := v.setWidth 16 } })])

/-- R391 (18): a write of status stores pie, ie, tl and plvl, plvl 2 and 3 as 1, and leaves lvl, ipend and the reserved bits as
they are. -/
def Sys2Proof.Parts.StatusRegisterFields : Prop :=
  ∀ (s : State) (a : BitVec 5), s.st.place.master? ≠ none → 1 ≤ s.lvl → s.spec = false →
    ∃ t, exec (.sset a 0x100) s = .next t ∧ t.x.pc = s.x.pc + 4 ∧
      bits t.st.trap.status 5 3 = bits (s.getS a) 5 3 ∧
      bits t.st.trap.status 2 2 = min (bits (s.getS a) 2 2) 1 ∧
      bits t.st.trap.status 0 2 = bits s.st.trap.status 0 2 ∧
      (∀ i, i = 4 ∨ 8 ≤ i → bit t.st.trap.status i = bit s.st.trap.status i) ∧
      t = { s with retired := true, x := { s.x with pc := t.x.pc, replies := [], pipe := none },
                   st := { s.st with trap := { s.st.trap with status := t.st.trap.status } } }

/-- SGET, SSET and SXCH of every status register. -/
def Obligations.StatusRegistersReadAndWritten : Prop :=
  Sys2Proof.Parts.StatusRead ∧ Sys2Proof.Parts.StatusWrite ∧ Sys2Proof.Parts.StatusRegisterFields

/-- R46 (02): a status access is checked in the order R46 gives. -/
def Obligations.StatusAccessChecks : Prop :=
  ∀ (s : State) (d a : BitVec 5) (n : BitVec 11), s.st.place ≠ .saved →
    let m := n.toNat
    let user : Prop := m ∈ [1, 2, 3, 0x10, 0x11, 0x12, 0x13, 0x14, 0x15, 0x20, 0x21, 0x30, 0x31, 0x32, 0x33, 0x34, 0x40,
      0x200, 0x201, 0x202, 0x203]
    let sup : Prop := 0x100 ≤ m ∧ m ≤ 0x108 ∨ m = 0x110 ∨ m = 0x111
    let mach : Prop := 0x300 ≤ m ∧ m ≤ 0x30F
    (¬ (user ∨ sup ∨ mach) → ∀ i ∈ [Instr.sget d n, .sset a n, .sxch d a n], exec i s = .next (s.trapS 0x01 (wordOf i))) ∧
    (sup ∧ s.lvl = 0 ∨ mach ∧ s.lvl ≠ 3 →
      ∀ i ∈ [Instr.sget d n, .sset a n, .sxch d a n], exec i s = .next (s.trapS 0xE1 (wordOf i))) ∧
    (m ∈ [0x30, 0x31, 0x32, 0x33, 0x34, 0x40] ∨ m ∈ [0x10, 0x11, 0x12, 0x13, 0x14, 0x15] ∧ s.lvl ≠ 3 ∨
        m ∈ [1, 2, 0x200, 0x201, 0x202, 0x203] ∧ s.lvl = 0 →
      ∀ i ∈ [Instr.sset a n, .sxch d a n], exec i s = .next (s.trapS 0x01 (wordOf i)))

/-- R48 (02), R38, R384 (17), R438 (25): the checks that follow the decoder's. An instruction of an optional feature that is not accepted
traps with cause 0x03, a privileged one at a lower level with 0xE1, one that the kind of core does not run with 0x01; tval is
the word. -/
def Obligations.DispatchGate : Prop :=
  ∀ (s : State) (d a b : BitVec 5) (k j : BitVec 2) (w : BitVec 2) (e : BitVec 1) (c : BitVec 3),
    let word (i : Instr) : Word := (encode i).setWidth 64
    (s.feature 5 = false → ∀ i ∈ [Instr.mma d a b b w, .mslide d a b b w, .mew d a b w, .mpwl d a b, .mrnorm d, .mzero d,
        .mclr d a, .mshape d a, .mclaim a, .mrel a, .mlds d a b b, .mlda d a b b, .msta d a b b, .macs d a b e,
        .mrowvToVector d a b, .mrowvToAccumulator d a b, .mcurv d a, .mwait d], exec i s = .next (s.trapS 0x03 (word i))) ∧
    (s.feature 1 = false → ∀ i ∈ [Instr.gopen d, .gst d a b w, .vgst d a b c, .gcommit d a, .gabort a, .gstat d a,
        .gresolve a e], exec i s = .next (s.trapS 0x03 (word i))) ∧
    (s.feature 2 = false → ∀ i ∈ [Instr.vcdef d a, .vcdel d a], exec i s = .next (s.trapS 0x03 (word i))) ∧
    (s.feature 3 = false → ∀ i ∈ [Instr.bqtake d], exec i s = .next (s.trapS 0x03 (word i))) ∧
    (s.lvl = 0 → ∀ i ∈ [Instr.pmcw a j, .pmcf a, .ecmdb d a b, .tret, .idle, .halt, .tlbinv a, .tlogw a, .tloga, .atran d a k],
      exec i s = .next (s.trapS 0xE1 (word i))) ∧
    (s.lvl < 3 → exec .halt s = .next (s.trapS 0xE1 (word .halt))) ∧
    (s.st.place = .management → ∀ i ∈ [Instr.vsetvl d a b, .vbcast c d a, .iter d 0, .join, .endi, .launch d a, .sdone,
        .binit a b, .msend d a b], exec i s = .next (s.trapS 0x01 (word i)))

/-- R393, R399 (18): outside a handler, TRAP, SVC and BKPT of the head chunk of a ring or gateway core enter the handler at tvec
with causes 0x08, 0x09 and 0x0A, the instruction's address in tpc and its code in tval, at supervisor level. -/
def Sys2Proof.Parts.TrapInstructionsEnterHandler : Prop :=
  ∀ (s : State) (c : BitVec 11), s.st.place.master? ≠ none → s.spec = false → bit s.st.trap.status 5 = false →
    ∀ p ∈ [(Instr.trap c, 0x08), (.svc c, 0x09), (.bkpt c, 0x0A)],
      ∃ t, exec p.1 s = .next t ∧ s.Entered t p.2 1 (c.setWidth 64) ∧
        bits t.st.trap.status 2 2 = bits s.st.trap.status 0 2

/-- R393, R118, R399 (18, 05): in a speculative chunk TRAP and SVC stall with nothing changed, and BKPT's trap is held: nothing
else changes. With tl = 1 each of the three freezes the strand. -/
def Sys2Proof.Parts.TrapsHeldAndDouble : Prop :=
  ∀ (s : State) (c : BitVec 11), s.st.place ≠ .saved →
    (s.spec = true → exec (.trap c) s = .next s ∧ exec (.svc c) s = .next s ∧
      exec (.bkpt c) s = .next { s with x := { s.x with
        held := some { cause := 0x0A, pc := s.x.pc, tval := c.setWidth 64 }, replies := [], pipe := none } }) ∧
    (s.spec = false → bit s.st.trap.status 5 = true → ∀ p ∈ [(Instr.trap c, 0x08), (.svc c, 0x09), (.bkpt c, 0x0A)],
      exec p.1 s = .next (s.freeze { cause := p.2, pc := s.x.pc, tval := c.setWidth 64 }))

/-- R48, R394 (02, 18): a word that is no instruction traps with the cause of its decoding, tval holding the word. R397: a held trap
whose chunk has become head enters the handler with its own record and held = 1. R396, R432: an enabled pending event of the head
enters the handler before the next instruction with cause 0xE3 and async = 1, tval naming the counters, and is pending no more but
for a counter that the entry itself makes wrap. None of these happens while its condition does not hold. -/
def Sys2Proof.Parts.TrapEvents : Prop :=
  ∀ (s : State) (w : BitVec 32),
    let k := s.st.trap
    (∀ e, decode w = .error e →
      exec (.nonInstructionWord w) s = .next (s.trapS (BitVec.ofNat 8 e.cause) (w.setWidth 64))) ∧
    (∀ i, decode w = .ok i → exec (.nonInstructionWord w) s = .next s) ∧
    (s.x.held = none → exec .heldTrapTaken s = .next s) ∧
    (∀ r, s.x.held = some r → s.spec = true → exec .heldTrapTaken s = .next s) ∧
    (∀ r, s.x.held = some r → s.spec = false → r.cause ≠ 0xA0 → r.cause ≠ 0xC0 → r.cause ≠ 0xC1 → bit k.status 5 = false →
      ∃ t, exec .heldTrapTaken s = .next t ∧ t.x.pc = k.tvec.setWidth 54 ∧ t.x.held = none ∧
        t.st.trap.tcause = BitVec.ofNat 64 (r.cause.toNat + 256 * r.akind.toNat + 1024) ∧ t.st.trap.tpc = r.pc.setWidth 64 ∧
        t.st.trap.tval = r.tval ∧ t.st.trap.telem = r.telem ∧ t.st.trap.tstride = r.tstride ∧ t.st.trap.tremain = r.tremain ∧
        bit t.st.trap.status 5 = true ∧ bit t.st.trap.status 6 = false ∧ t.x.sreg = s.x.sreg ∧ t.mem = s.mem) ∧
    (s.st.place ≠ .management → s.asyncDue = true → bit k.status 5 = false →
      ∃ t, exec .asyncEventTaken s = .next t ∧ t.x.pc = k.tvec.setWidth 54 ∧ t.st.trap.tcause = 0x8E3 ∧
        t.st.trap.tpc = s.x.pc.setWidth 64 ∧ t.st.trap.tval = s.st.ovfPend.setWidth 64 ∧
        bits t.st.trap.status 0 2 = 1 ∧ bit t.st.trap.status 5 = true ∧ bit t.st.trap.status 6 = false ∧
        bits t.st.trap.status 2 2 = bits k.status 0 2 ∧
        ((∀ j : Nat, j < 4 → bits (vget s.st.pmcfg 0 j) 48 8 ≠ 0x0D) → t.st.ovfPend = 0 ∧ bit t.st.trap.status 11 = false) ∧
        t.x.sreg = s.x.sreg ∧ t.mem = s.mem) ∧
    (s.asyncDue = true ↔ bit k.status 11 = true ∧ bit k.status 6 = true ∧ s.spec = false ∧ s.st.wait = none ∧ s.x.replies = []) ∧
    (s.st.place = .management ∨ s.asyncDue = false → exec .asyncEventTaken s = .next s)

/-- Software traps, illegal words, held traps and asynchronous events enter the handler. -/
def Obligations.TrapsEntered : Prop :=
  Sys2Proof.Parts.TrapInstructionsEnterHandler ∧ Sys2Proof.Parts.TrapsHeldAndDouble ∧ Sys2Proof.Parts.TrapEvents

/-- R400 (18): TRET in a handler returns to tpc at plvl, with ie from pie, and clears plvl and tl; the other bits stay. Outside a
handler or in a speculative chunk it traps with cause 0x05, at user level with 0xE1, and with a tpc that is no code address it
is a double trap. -/
def Sys2Proof.Parts.TrapReturn : Prop :=
  ∀ (s : State), s.st.place.master? ≠ none →
    let k := s.st.trap
    (1 ≤ s.lvl → s.spec = false → bit k.status 5 = true → k.tpc.toNat % 4 = 0 → k.tpc.toNat < 2 ^ 54 →
      ∃ t, exec .tret s = .next t ∧ t.x.pc = k.tpc.setWidth 54 ∧ bits t.st.trap.status 0 2 = bits k.status 2 2 ∧
        bits t.st.trap.status 2 2 = 0 ∧ bit t.st.trap.status 6 = bit k.status 7 ∧ bit t.st.trap.status 5 = false ∧
        (∀ i, i = 4 ∨ 7 ≤ i → bit t.st.trap.status i = bit k.status i) ∧
        t = { s with retired := true, x := { s.x with pc := t.x.pc },
                     st := { s.st with trap := { k with status := t.st.trap.status } } }) ∧
    (s.lvl = 0 → exec .tret s = .next (s.trapS 0xE1 (wordOf .tret))) ∧
    (1 ≤ s.lvl → bit k.status 5 = false ∨ s.spec = true → exec .tret s = .next (s.trapS 0x05 (wordOf .tret))) ∧
    (1 ≤ s.lvl → s.spec = false → bit k.status 5 = true → ¬ (k.tpc.toNat % 4 = 0 ∧ k.tpc.toNat < 2 ^ 54) →
      exec .tret s = .next (s.freeze { cause := 0x04, pc := s.x.pc, tval := k.tpc }))

/-- R401 (18), R438 (25): HALT traps with cause 0xE1 on ring and gateway cores, and on the management core stops fetching. IDLE of
the head chunk at supervisor level passes on once a message waits, an event is pending or a pre-emption stop has arrived; until
then its pc stays. -/
def Sys2Proof.Parts.HaltAndIdle : Prop :=
  ∀ (s : State),
    (s.st.place.master? ≠ none → s.lvl < 3 → exec .halt s = .next (s.trapS 0xE1 (wordOf .halt))) ∧
    (s.st.place = .management → s.lvl = 3 →
      ∃ t, exec .halt s = .next t ∧ t.x.pc = s.x.pc + 4 ∧
        t = { s with retired := true, mg := { s.mg with halted := true },
                     x := { s.x with pc := t.x.pc, replies := [], pipe := none } }) ∧
    (s.st.place ≠ .saved → 1 ≤ s.lvl → s.spec = false →
      (s.st.inbox ≠ [] ∨ bit s.st.trap.status 11 = true ∨ (∃ since due, s.st.phase = .stopping since due) →
        ∃ t, exec .idle s = .next t ∧ t.x.pc = s.x.pc + 4 ∧
          t = { s with retired := true, st := { s.st with wait := none },
                       x := { s.x with pc := t.x.pc, replies := [], pipe := none } }) ∧
      (s.st.inbox = [] → bit s.st.trap.status 11 = false → s.st.phase = .running →
        ∃ t, exec .idle s = .next t ∧ t.x = s.x ∧ t.mem = s.mem ∧ t.st.trap = s.st.trap))

/-- TRET restores what trap entry saved; HALT and IDLE. -/
def Obligations.TrapReturnAndHalt : Prop :=
  Sys2Proof.Parts.TrapReturn ∧ Sys2Proof.Parts.HaltAndIdle

/-- R86, R87 (04), R249 (10): LD reads 2^(w mod 4) bytes at s[a] plus the offset, least significant first, as the strand's scalar
accesses see them, and writes them to s[d], sign-extended for w 4 to 6 and zero-extended for w 0 to 3; memory, the buffers and every
other register stay. LDACQ at a scope below .PKG does the same at s[a]. Vcaches of read-only policy are R253's. -/
def Sys2Proof.Parts.ScalarLoad : Prop :=
  ∀ (s : State) (d a : BitVec 5) (w : BitVec 3) (o : BitVec 13) (scope : BitVec 3) (x : Xl), w.toNat < 7 →
    ∀ p ∈ [(Instr.ld d a w o, s.getS a + o.signExtend 64), (.ldacq d a w scope, s.getS a)],
      (p.1 = .ldacq d a w scope → scope.toNat < 3) →
      let n := 2 ^ (w.toNat % 4)
      s.Plain .read p.2 n x → s.policy x.vc ≠ 3 →
      let bytes := (List.range n).map (fun i => s.viewByte false (x.pa + i))
      ∃ t, exec p.1 s = .next t ∧ s.Accessed t (s.x.pc + 4) ∧ t.st = s.st ∧ t.mem = s.mem ∧
        s.Got t d (if w.toNat < 4 then BitVec.ofNat 64 (leNat bytes)
                   else (BitVec.ofNat (8 * n) (leNat bytes)).signExtend 64)

/-- R249 (10), R288 (12), R359 (16): LDACQ at .PKG reads as LD does and then applies the die's translation log; at .SYS it first
performs the strand's accesses, and needs every fabric store of the strand acknowledged and none failed. `u` is the state the load
reads. Beside s[d] only the log, the translations it names and the model's records change. -/
def Sys2Proof.Parts.LoadAcquire : Prop :=
  ∀ (s : State) (d a : BitVec 5) (w : BitVec 3) (scope : BitVec 3) (x : Xl), w.toNat < 7 → scope = 3 ∨ scope = 4 →
    let u := if scope = 3 then s else s.drainAll.flushScatter s.st.id
    let n := 2 ^ (w.toNat % 4)
    u.fab.reqs.any (fun q => q.owner == u.st.id && q.kind == .write) = false → u.st.failedStores = [] →
    u.Plain .read (u.getS a) n x → u.policy x.vc ≠ 3 →
    let v := BitVec.ofNat 64 (leNat ((List.range n).map (fun i => u.viewByte false (x.pa + i))))
    ∃ t, exec (.ldacq d a w scope) s = .next t ∧ t.x.pc = u.x.pc + 4 ∧ t.st = u.st ∧
      u.Got t d (if w.toNat < 4 then v else (v.setWidth (8 * n)).signExtend 64) ∧
      (∀ q, q < u.logBase u.die ∨ u.logBase u.die + 65536 ≤ q → t.memByte q = u.memByte q) ∧
      (∀ e ∈ t.tlb, e ∈ u.tlb)

/-- LD and LDACQ return the bytes that the strand sees, extended. -/
def Obligations.ScalarLoads : Prop :=
  Sys2Proof.Parts.ScalarLoad ∧ Sys2Proof.Parts.LoadAcquire

/-- R86, R87 (04), R241, R249 (10): ST puts the low bytes of s[b], least significant first, at the end of the strand's scalar store
buffer, for the address s[a] plus the offset; the strand's vector view and memory stay as they were, as does its scalar view of every
other byte, and where the strand has ordered no buffered vector store for its own core its loads see the bytes there. Nothing else
changes. -/
def Sys2Proof.Parts.ScalarStore : Prop :=
  ∀ (s : State) (b a : BitVec 5) (w : BitVec 3) (o : BitVec 13) (x : Xl), w.toNat < 4 →
    let n := 2 ^ w.toNat
    let e : BufStore := { pa := x.pa, data := leBytes n (s.getS b).toNat, vcache := x.vc, seq := s.st.stores, issue := s.st.qcount }
    s.Plain .write (s.getS a + o.signExtend 64) n x →
    ∃ t, exec (.st b a w o) s = .next t ∧ s.Accessed t (s.x.pc + 4) ∧ t.mem = s.mem ∧ s.Got t 0 0 ∧
      t.st = { s.st with sbuf := s.st.sbuf ++ [e], stores := s.st.stores + 1 } ∧
      (s.Apart → ∀ i, i < n → t.viewByte false (x.pa + i) = BitVec.ofNat 8 ((s.getS b).toNat / 256 ^ i)) ∧
      (∀ q, q < x.pa ∨ x.pa + n ≤ q → t.viewByte false q = s.viewByte false q) ∧
      (∀ q, t.memByte q = s.memByte q ∧ t.viewByte true q = s.viewByte true q)

/-- R249 (10): STREL of a strand with no access waiting in a queue is ST after the release: `u` is the state released to the scope,
whose earlier stores are performed with respect to the strand's own core at .CORE and .RING, and performed above. At .SYS the
release needs every fabric store of the strand acknowledged and none failed. -/
def Sys2Proof.Parts.StoreRelease : Prop :=
  ∀ (s : State) (d a : BitVec 5) (w : BitVec 2) (scope : BitVec 3) (x : Xl), scope.toNat ≤ 4 → s.noneHeld = true →
    let u := if scope.toNat ≤ 1 then s.joinAll else s.drainAll.flushScatter s.st.id
    let n := 2 ^ w.toNat
    let e : BufStore := { pa := x.pa, data := leBytes n (u.getS d).toNat, vcache := x.vc, seq := u.st.stores, issue := u.st.qcount }
    (scope = 4 → u.sysWait = .ok ()) → u.Plain .write (u.getS a) n x →
    ∃ t, exec (.strel d a w scope) s = .next t ∧ u.Accessed t (u.x.pc + 4) ∧ t.mem = u.mem ∧ u.Got t 0 0 ∧
      t.st = { u.st with sbuf := u.st.sbuf ++ [e], stores := u.st.stores + 1 }

/-- ST and STREL put their bytes in the scalar store buffer; the frame of both views. -/
def Obligations.ScalarStores : Prop :=
  Sys2Proof.Parts.ScalarStore ∧ Sys2Proof.Parts.StoreRelease

/-- R240, R241, R242, R247, R249 (10): what a strand's accesses see of its two store buffers, and that draining them gives memory what
the strand saw. With nothing ordered between the classes, each class sees its own stores, the latest first, over memory, and each
buffer drains to that view. Once every store is performed with respect to the core (joinAll), both classes see the later of the two
in program order, and memory comes to hold it. Drained buffers are empty. -/
def Obligations.DrainPerformsBufferedStores : Prop :=
  ∀ (s : State) (q : Nat), s.memWf = true →
    s.drainScalar.st.sbuf = [] ∧ s.drainVector.st.vbuf = [] ∧ s.drainAll.st.sbuf = [] ∧ s.drainAll.st.vbuf = [] ∧
    ((∀ e ∈ s.st.sbuf ++ s.st.vbuf, e.joined = false) → (∀ c ∈ s.scatter, c.owner ≠ s.st.id) →
      s.viewByte false q = (bufByte s.st.sbuf q).getD (s.memByte q) ∧
      s.viewByte true q = (bufByte s.st.vbuf q).getD (s.memByte q) ∧
      s.drainScalar.memByte q = s.viewByte false q ∧ s.drainVector.memByte q = s.viewByte true q ∧
      s.drainAll.memByte q = (bufByte s.st.vbuf q).getD ((bufByte s.st.sbuf q).getD (s.memByte q)) ∧
      ∀ pa n, (s.scalarDone pa n).memByte q = s.viewByte false q ∧ (s.scalarDone pa n).st.sbuf = []) ∧
    ((∀ c ∈ s.scatter, c.owner ≠ s.st.id) → ((s.st.sbuf ++ s.st.vbuf).map (·.seq)).Nodup →
      (s.st.sbuf.map (·.seq)).Pairwise (· < ·) → (s.st.vbuf.map (·.seq)).Pairwise (· < ·) →
      let j := s.joinAll
      j.viewByte false q = s.joinByte q ∧ j.viewByte true q = s.joinByte q ∧ j.memByte q = s.memByte q ∧
      j.drainAll.memByte q = s.joinByte q)

/-- R86, R89 (04), R249, R293 (10, 13): the checks of a scalar address come before any access: an address of 2^54 or more traps with
cause 0x20, one that is no multiple of the size with 0x21, tval holding the address and akind read (1) or write (2). A speculative
chunk on a page of fabric kind first waits for head. -/
def Sys2Proof.Parts.ScalarAddressChecks : Prop :=
  ∀ (s : State) (d a b c : BitVec 5) (w : BitVec 3) (o : BitVec 13) (p : BitVec 2), s.st.place ≠ .saved →
    let ea := s.getS a + o.signExtend 64
    let at_ := s.getS a
    let goes (va : Word) : Prop := s.spec = false ∨ s.fabricPage s.space va.toNat = false
    let words := [Instr.aadd d a b p, .aand d a b p, .aor d a b p, .axor d a b p, .amin d a b p, .amax d a b p, .aminn d a b p,
      .amaxn d a b p, .aswap d a b p, .acas d a b c p]
    (2 ^ 54 ≤ ea.toNat → exec (.ld d a w o) s = .next (s.trapA 0x20 1 ea) ∧ exec (.st b a w o) s = .next (s.trapA 0x20 2 ea)) ∧
    (goes ea → ea.toNat < 2 ^ 54 → ea.toNat % 2 ^ (w.toNat % 4) ≠ 0 →
      exec (.ld d a w o) s = .next (s.trapA 0x21 1 ea) ∧ exec (.st b a w o) s = .next (s.trapA 0x21 2 ea)) ∧
    (¬ goes ea → exec (.ld d a w o) s = .next s ∧ exec (.st b a w o) s = .next s) ∧
    (2 ^ 54 ≤ at_.toNat → ∀ i ∈ words ++ [.afadd d a b p], exec i s = .next (s.trapA 0x20 2 at_)) ∧
    (goes at_ → at_.toNat < 2 ^ 54 → at_.toNat % 8 ≠ 0 → ∀ i ∈ words, exec i s = .next (s.trapA 0x21 2 at_)) ∧
    (goes at_ → at_.toNat < 2 ^ 54 → at_.toNat % 4 ≠ 0 → exec (.afadd d a b p) s = .next (s.trapA 0x21 2 at_)) ∧
    (¬ goes at_ → ∀ i ∈ words ++ [.afadd d a b p], exec i s = .next s)

/-- R120 (05), R89 (04): a plain load or store that touches a merge region of its fork traps with cause 0x43, in a speculative chunk
too unless its page is of fabric kind, where it first waits for head. -/
def Sys2Proof.Parts.MergeRegionBarsPlainAccess : Prop :=
  ∀ (s : State) (d a : BitVec 5) (w : BitVec 3) (o : BitVec 13) (i : Nat) (r : Region), s.st.place ≠ .saved →
    s.st.active = true → i < 4 → vget s.st.regions none i = some r →
    let ea := s.getS a + o.signExtend 64
    let n := 2 ^ (w.toNat % 4)
    ea.toNat < 2 ^ 54 → ea.toNat % n = 0 → ea.toNat < r.base + r.len → r.base < ea.toNat + n →
    (s.spec = false ∨ s.fabricPage s.space ea.toNat = false) →
    exec (.ld d a w o) s = .next (s.trapA 0x43 1 ea) ∧ exec (.st d a w o) s = .next (s.trapA 0x43 2 ea)

/-- The checks of a scalar address come before any access. -/
def Obligations.ScalarAddressChecks : Prop :=
  Sys2Proof.Parts.ScalarAddressChecks ∧ Sys2Proof.Parts.MergeRegionBarsPlainAccess

/-- R292, R293 (13), R240 (10): a scalar atomic outside a fork returns the old 8 bytes at s[a] in s[d] and stores the new value there,
the strand's earlier scalar stores performed first; a failed ACAS stores nothing; no other byte of memory and no other register
changes. `u` is the state that the step is made on: with no buffered vector store ordered for the strand's own core, its memory is
what the strand's scalar accesses see. -/
def Sys2Proof.Parts.ScalarAtomic : Prop :=
  ∀ (s : State) (d a b c : BitVec 5) (p : BitVec 2) (x : Xl), s.Plain .both (s.getS a) 8 x → (s.runsFar p x = true → s.Steps x 8) →
    let v := s.getS b
    let u := s.atStep x 8
    let old : Word := BitVec.ofNat 64 (leNat ((List.range 8).map (fun i => u.memByte (x.pa + i))))
    (s.Apart → ∀ r, u.memByte r = s.viewByte false r) ∧
    ∀ q ∈ [(Instr.aadd d a b p, old + v), (.aand d a b p, old &&& v), (.aor d a b p, old ||| v), (.axor d a b p, old ^^^ v),
           (.amin d a b p, if old.sle v then old else v), (.amax d a b p, if v.sle old then old else v),
           (.aminn d a b p, if old ≤ v then old else v), (.amaxn d a b p, if v ≤ old then old else v),
           (.aswap d a b p, v), (.acas d a b c p, if old = s.getS c then v else old)],
      ∃ t, exec q.1 s = .next t ∧ s.Got t d old ∧ u.st.Drained t.st ∧
        t.x = { s.x with pc := s.x.pc + 4, sreg := t.x.sreg, await := t.x.await, replies := [], pipe := none } ∧
        (∀ i, i < 8 → t.memByte (x.pa + i) = BitVec.ofNat 8 (q.2.toNat / 256 ^ i)) ∧
        (∀ r, r < x.pa ∨ x.pa + 8 ≤ r → t.memByte r = u.memByte r)

/-- R292, R293 (13): AFADD adds FP32 numbers of 4 bytes, rounded once to nearest even, and returns the old 4 bytes zero-extended. -/
def Sys2Proof.Parts.FloatAtomic : Prop :=
  ∀ (s : State) (d a b : BitVec 5) (p : BitVec 2) (x : Xl), s.Plain .both (s.getS a) 4 x → (s.runsFar p x = true → s.Steps x 4) →
    let u := s.atStep x 4
    let old := leNat ((List.range 4).map (fun i => u.memByte (x.pa + i)))
    let new := roundTo 9 0 false false (XVal.add false (readFloat 9 old) (readFloat 9 ((s.getS b).toNat % 2 ^ 32)))
    ∃ t, exec (.afadd d a b p) s = .next t ∧ s.Got t d (BitVec.ofNat 64 old) ∧ u.st.Drained t.st ∧
      t.x = { s.x with pc := s.x.pc + 4, sreg := t.x.sreg, await := t.x.await, replies := [], pipe := none } ∧
      (∀ i, i < 4 → t.memByte (x.pa + i) = BitVec.ofNat 8 (new / 256 ^ i)) ∧
      (∀ r, r < x.pa ∨ x.pa + 4 ≤ r → t.memByte r = u.memByte r)

/-- A scalar atomic returns the old value, stores the new one, and changes no other byte. -/
def Obligations.ScalarAtomics : Prop :=
  Sys2Proof.Parts.ScalarAtomic ∧ Sys2Proof.Parts.FloatAtomic

/-- R242, R247, R248, R250 (10): the fences of a strand outside a fork, or of the head, with no access waiting in a queue complete. FSV
leaves the scalar stores performed, FVS the vector stores and the pending additions; FENCE of kind 2 or 3 performs the earlier
accesses of both classes with respect to the strand's own core at .CORE and .RING, and performs them at .CLUSTER and .PKG; FENCE of
kind 1 below .PKG changes nothing more; kinds 1 and 3 acquire at .PKG. In a speculative chunk each goes on at once, and what .SYS
and FSC demand is owed until the chunk is head. -/
def Sys2Proof.Parts.Fences : Prop :=
  ∀ (s : State), s.st.place.master? ≠ none →
    (s.spec = false → exec .fsv s = .next s.drainScalar.advance) ∧
    (s.spec = false → s.noneHeld = true →
      exec .fvs s = .next (s.drainVector.flushScatter s.st.id).advance ∧
      (∀ scope : BitVec 3, scope.toNat < 3 → exec (.fence 1 scope) s = .next s.advance) ∧
      (∀ scope : BitVec 3, scope = 3 ∨ scope = 4 → exec (.fence 1 scope) s = .next s.acquire.advance) ∧
      (∀ scope : BitVec 3, scope.toNat ≤ 1 → exec (.fence 2 scope) s = .next s.joinAll.advance ∧
        exec (.fence 3 scope) s = .next s.joinAll.advance) ∧
      (∀ scope : BitVec 3, scope = 2 ∨ scope = 3 → exec (.fence 2 scope) s = .next s.release.advance) ∧
      exec (.fence 3 2) s = .next s.release.advance ∧ exec (.fence 3 3) s = .next s.release.acquire.advance) ∧
    (s.spec = true →
      exec .fsv s = .next s.advance ∧ exec .fvs s = .next s.advance ∧
      (∀ scope : BitVec 3, scope.toNat < 3 → ∀ k : BitVec 2, exec (.fence k scope) s = .next s.advance) ∧
      exec (.fence 2 3) s = .next s.advance ∧
      (∀ k : BitVec 2, k = 1 ∨ k = 3 → exec (.fence k 3) s = .next s.acquire.advance) ∧
      exec (.fence 1 4) s = .next s.acquire.advance ∧
      ∀ i ∈ [Instr.fence 2 4, .fence 3 4, .fsc], ∃ o : Owed, o ≠ .nothing ∧ (i = .fsc → o = .barrier) ∧
        exec i s = .next (if i = .fence 2 4 then { s with x := { s.x with owed := o } } else
          State.acquire { s with x := { s.x with owed := o } }).advance)

/-- R248 (10), R340 (15): FSC outside a fork performs every access; with no store of the strand unacknowledged on the package fabric
and none failed it sends its barriers and stays, and completes with an acquire once every packet from and to its die has been
applied. -/
def Sys2Proof.Parts.SequentialFence : Prop :=
  ∀ (s : State), s.st.place.master? ≠ none → s.spec = false → s.noneHeld = true →
    let u := s.drainAll.flushScatter s.st.id
    u.fab.reqs.any (fun q => q.owner == u.st.id && q.kind == .write) = false → u.st.failedStores = [] →
    (u.x.replies ≠ [] → u.barriersDone = true → exec .fsc s = .next u.acquire.advance) ∧
    (u.x.replies = [] → u.sendBarriers.barriersDone = true → exec .fsc s = .next u.sendBarriers.acquire.advance) ∧
    (u.x.replies = [] → u.sendBarriers.barriersDone = false →
      ∃ t, exec .fsc s = .next t ∧ t.x.pc = u.x.pc ∧ t.mem = u.mem ∧ t.net = u.sendBarriers.net)

/-- R359, R360 (16): an ordering instruction of .SYS scope waits for the acknowledgements of the strand's fabric stores, and
reports the oldest failed one with cause 0xA1; that one trap stands for every failed store, the model's reading (log entry 116). -/
def Sys2Proof.Parts.SystemFenceWaits : Prop :=
  ∀ (s : State), s.st.place.master? ≠ none → s.spec = false → s.noneHeld = true →
    let u := s.drainAll.flushScatter s.st.id
    (u.fab.reqs.any (fun q => q.owner == u.st.id && q.kind == .write) = true →
      exec .fsc s = .next u ∧ exec (.fence 2 4) s = .next u ∧ exec (.fence 3 4) s = .next u) ∧
    (u.fab.reqs.any (fun q => q.owner == u.st.id && q.kind == .write) = false → ∀ va rest, u.st.failedStores = va :: rest →
      ∀ i ∈ [Instr.fsc, .fence 2 4, .fence 3 4],
        exec i s = .next (({ u with st := { u.st with failedStores := [] } } : State).trapA 0xA1 2 va)) ∧
    (u.fab.reqs.any (fun q => q.owner == u.st.id && q.kind == .write) = false → u.st.failedStores = [] →
      exec (.fence 2 4) s = .next u.advance ∧ exec (.fence 3 4) s = .next u.acquire.advance)

/-- What each fence waits for and leaves performed. -/
def Obligations.FencesComplete : Prop :=
  Sys2Proof.Parts.Fences ∧ Sys2Proof.Parts.SequentialFence ∧ Sys2Proof.Parts.SystemFenceWaits

/-- R300 to R303 (13): BINIT of a record outside a fork sets its expected count, clears its arrivals and its reserved bytes, keeps
its phase and makes it valid; a count of 0 or of 2^32 and more traps with cause 0x81 before any effect. BINV clears the valid bit
alone. The waiters of the record are released, and every other byte of memory stays. `u` is the state that the step is made on. -/
def Sys2Proof.Parts.BarrierInit : Prop :=
  ∀ (s : State) (a b : BitVec 5),
    let n := (s.getS b).toNat
    (s.st.place.master? ≠ none → ¬ (0 < n ∧ n < 2 ^ 32) → exec (.binit a b) s = .next (s.trapS 0x81 (s.getS b))) ∧
    ∀ x : Xl, s.Plain .both (s.getS a) 64 x → x.kind = 0 → s.Steps x 64 →
      let u := (s.atRecord x).scalarDone x.pa 64
      let old := fun i => u.memByte (x.pa + i)
      (s.Apart → ∀ r, u.memByte r = s.viewByte false r) ∧
      (0 < n → n < 2 ^ 32 → ∃ t, exec (.binit a b) s = .next t ∧ t.x.pc = s.x.pc + 4 ∧ s.Got t 0 0 ∧
        (∀ i, i < 4 → t.memByte (x.pa + i) = BitVec.ofNat 8 (n / 256 ^ i)) ∧
        (∀ i, 4 ≤ i → i < 8 → t.memByte (x.pa + i) = 0) ∧
        (∀ i, 8 ≤ i → i < 12 → t.memByte (x.pa + i) = old i) ∧
        t.memByte (x.pa + 12) = 1 ∧ (∀ i, 13 ≤ i → i < 64 → t.memByte (x.pa + i) = 0) ∧
        (∀ q, q < x.pa ∨ x.pa + 64 ≤ q → t.memByte q = u.memByte q) ∧
        (∀ w ∈ t.waiters, w.pa ≠ x.pa)) ∧
      (∃ t, exec (.binv a) s = .next t ∧ t.x.pc = s.x.pc + 4 ∧ s.Got t 0 0 ∧
        t.memByte (x.pa + 12) = old 12 &&& 0xFE ∧
        (∀ q, q ≠ x.pa + 12 → t.memByte q = u.memByte q) ∧ (∀ w ∈ t.waiters, w.pa ≠ x.pa))

/-- R302, R303, R304 (13): an arrival (BARR or BARRW) at a valid record that lacks more than this one arrival counts it, after the
release at its scope; BARR answers the phase joined with status 0, BARRW stays at its pc as a waiter of that phase. `u` is the state
that the step is made on. -/
def Sys2Proof.Parts.BarrierArrival : Prop :=
  ∀ (s : State) (d a : BitVec 5) (scope : BitVec 3) (x : Xl), s.Plain .both (s.getS a) 64 x → x.kind = 0 → s.Steps x 64 →
    s.noneHeld = true → (scope = 4 → (s.atRecord x).release.sysWait = .ok ()) → s.st.wait = none →
    let u := s.atArrival x scope
    let n := (u.recField x.pa 4 + 1) % 2 ^ 32
    let p := u.recPhase x.pa
    u.recInvalid x.pa = false → n < u.recField x.pa 0 →
    (∃ t, exec (.barr d a scope) s = .next t ∧ t.x.pc = s.x.pc + 4 ∧ s.Got t d (p ++ (0 : BitVec 32)) ∧
      t.recField x.pa 4 = n ∧ t.waiters = u.waiters ∧ t.st = u.st ∧
      (∀ q, q < x.pa + 4 ∨ x.pa + 8 ≤ q → t.memByte q = u.memByte q)) ∧
    (∃ t, exec (.barrw d a scope) s = .next t ∧ t.x.pc = s.x.pc ∧ t.recField x.pa 4 = n ∧
      t.waiters = u.waiters ++ [{ id := s.st.id, pa := x.pa, phase := p, joined := true }] ∧
      t.st.wait = some { kind := .barrw x.pa, phase := p, delivered := none } ∧
      (∀ q, q < x.pa + 4 ∨ x.pa + 8 ≤ q → t.memByte q = u.memByte q))

/-- R302, R303, R304 (13): the arrival that completes a phase clears the count, advances the phase modulo 2^32, releases every waiter of
the phase joined and no other, and answers that phase with status 0; BARRW passes on at once. -/
def Sys2Proof.Parts.BarrierPhaseCompletes : Prop :=
  ∀ (s : State) (d a : BitVec 5) (scope : BitVec 3) (x : Xl), s.Plain .both (s.getS a) 64 x → x.kind = 0 → s.Steps x 64 →
    s.noneHeld = true → (scope = 4 → (s.atRecord x).release.sysWait = .ok ()) → s.st.wait = none →
    let u := s.atArrival x scope
    let p := u.recPhase x.pa
    u.recInvalid x.pa = false → u.recField x.pa 0 ≤ (u.recField x.pa 4 + 1) % 2 ^ 32 →
    (∃ t, exec (.barr d a scope) s = .next t ∧ t.x.pc = s.x.pc + 4 ∧ s.Got t d (p ++ (0 : BitVec 32)) ∧
      t.recField x.pa 4 = 0 ∧ t.recPhase x.pa = p + 1 ∧
      (∀ w, w ∈ t.waiters ↔ w ∈ u.waiters ∧ ¬ (w.pa = x.pa ∧ w.phase = p)) ∧
      (∀ q, q < x.pa + 4 ∨ x.pa + 12 ≤ q → t.memByte q = u.memByte q)) ∧
    (∃ t, exec (.barrw d a scope) s = .next t ∧ t.x.pc = s.x.pc + 4 ∧ s.Got t d (p ++ (0 : BitVec 32)))

/-- R302, R303, R305 (13): BWAIT answers status 4 at an invalid record, status 1 where the phase has passed, and else waits for it;
BARR and BARRW at an invalid record count nothing and answer phase 0 with status 4. A wait that has been delivered ends with what
was delivered, for BWAIT, BARRW and GBAR. -/
def Sys2Proof.Parts.BarrierWait : Prop :=
  ∀ (s : State) (d a b : BitVec 5) (scope : BitVec 3),
    (∀ x, s.Plain .both (s.getS a) 64 x → x.kind = 0 → s.Steps x 64 → s.st.wait = none →
      let u := (s.atRecord x).scalarDone x.pa 64
      let r := s.atArrival x scope
      let p := u.recPhase x.pa
      let want : BitVec 32 := (s.getS b).setWidth 32
      (u.recInvalid x.pa = true → ∃ t, exec (.bwait d a b) s = .next t ∧ t.x.pc = s.x.pc + 4 ∧ t.mem = u.mem ∧
        s.Got t d (p ++ (4 : BitVec 32))) ∧
      (s.noneHeld = true → (scope = 4 → (s.atRecord x).release.sysWait = .ok ()) → r.recInvalid x.pa = true →
        ∀ i ∈ [Instr.barr d a scope, .barrw d a scope], ∃ t, exec i s = .next t ∧ t.x.pc = s.x.pc + 4 ∧ t.mem = r.mem ∧
          s.Got t d 4) ∧
      (u.recInvalid x.pa = false → p ≠ want →
        ∃ t, exec (.bwait d a b) s = .next t ∧ t.x.pc = s.x.pc + 4 ∧ s.Got t d (p ++ (1 : BitVec 32))) ∧
      (u.recInvalid x.pa = false → p = want →
        ∃ t, exec (.bwait d a b) s = .next t ∧ t.x.pc = s.x.pc ∧ t.mem = u.mem ∧
          t.waiters = u.waiters ++ [{ id := s.st.id, pa := x.pa, phase := want, joined := false }])) ∧
    (∀ w status phase, s.st.place.master? ≠ none → s.spec = false → s.st.wait = some w →
      w.delivered = some (status, phase) →
      ∀ i ∈ [Instr.bwait d a b, .barrw d a scope, .gbar d a],
        ∃ t, exec i s = .next t ∧ t.x.pc = s.x.pc + 4 ∧ t.st.wait = none ∧ s.Got t d (phase ++ (0 : BitVec 24) ++ status))

/-- R305 (13): GBAR at a group of a gang launch of which the strand is a member arrives there. The last arrival advances the phase
modulo 2^32, clears the arrivals and goes on with the phase joined and status 0; an earlier one waits. No such group, or no gang:
cause 0x83, tval holding s[a]. -/
def Sys2Proof.Parts.LocalGroupBarrier : Prop :=
  ∀ (s : State) (d a : BitVec 5), s.st.place.master? ≠ none → s.spec = false → s.st.wait = none →
    (s.groupOf (s.getS a) = none → exec (.gbar d a) s = .next (s.trapS 0x83 (s.getS a))) ∧
    (s.noneHeld = true → ∀ g : Group, s.groupOf (s.getS a) = some g →
      let now : Group := { g with arrived := g.arrived ++ [idIndex s.st.id] }
      let u := s.release
      (now.complete = true → ∃ t, exec (.gbar d a) s = .next t ∧ t.x.pc = s.x.pc + 4 ∧ t.st.wait = none ∧
        t.getS d = (if d = 0 then 0 else g.phase ++ (0 : BitVec 32))) ∧
      (now.complete = false → ∃ t, exec (.gbar d a) s = .next t ∧ t.x.pc = s.x.pc ∧ t.mem = u.mem ∧
        t.st.wait = some { kind := .gbar g.index, phase := g.phase, delivered := none } ∧
        ∀ q ∈ t.cp.groups, q.handle = g.handle → q.index = g.index → q = now))

/-- Barrier records: initialisation, arrival, completion of a phase, waiting; ring-group barriers. -/
def Obligations.BarrierObjects : Prop :=
  Sys2Proof.Parts.BarrierInit ∧ Sys2Proof.Parts.BarrierArrival ∧ Sys2Proof.Parts.BarrierPhaseCompletes ∧ Sys2Proof.Parts.BarrierWait ∧ Sys2Proof.Parts.LocalGroupBarrier

/-- R102 (05): FORK and FORKT trap with cause 0x40, tval holding the even word, in each of the cases R102 lists, before any other
effect. -/
def Obligations.BadForkDescriptor : Prop :=
  ∀ (s : State) (d a b : BitVec 5), s.st.place.master? ≠ none → s.x.inline = none →
    let even := s.getS b
    let odd := s.getS (b + 1)
    let live := odd.setWidth 32
    let ind := (odd >>> 32).setWidth 32
    let bad : Prop := (∃ i, (i = 16 ∨ 19 ≤ i ∧ i < 32 ∨ 48 ≤ i ∧ i < 64) ∧ even.getLsbD i = true) ∨
      live.getLsbD 0 = true ∨ ind.getLsbD 0 = true ∨ (∃ i : Nat, ind.getLsbD i = true ∧ live.getLsbD i = false) ∨
      4 < (List.range 32).countP (fun i => ind.getLsbD i)
    (bad → exec (.fork a b) s = .next (s.trapS 0x40 even)) ∧
    (bad ∨ 2 ^ 32 ≤ (s.getS a).toNat % 2 ^ 32 * ((s.getS d).toNat % 2 ^ 32) →
      exec (.forkt d a b) s = .next (s.trapS 0x40 even))

/-- R103, R104, R105, R132 (05): FORK outside a fork with a good descriptor and a count n above 0 begins a fork of ceil(n / c) chunks,
c from csize, 0 meaning max(1, ceil(n / 32)); chunk 0 goes on in this core at the next word with iteration 0, the strand's
registers are in the snapshot, cflags are cleared but for bits 1 and 2, and no register of the strand and no byte of memory
changes; the snapshot is taken once no vector or matrix instruction of the strand is held in a queue. FORKT divides rows × columns into rectangles. With no
iteration both go to the word after the ENDI that scan_endi finds. -/
def Sys2Proof.Parts.ForkBegins : Prop :=
  ∀ (s : State) (d a b : BitVec 5), s.st.place.master? ≠ none → s.st.active = false →
    (∀ it ∈ s.st.vqueue ++ s.st.mqueue, isToken it.instr = true) →
    let even := s.getS b
    let odd := s.getS (b + 1)
    let c := even.toNat % 2 ^ 16
    let rows := (s.getS a).toNat % 2 ^ 32
    let cols := (s.getS d).toNat % 2 ^ 32
    let begun := fun (t : State) (count chunks : Nat) =>
      t.x.pc = s.x.pc + 4 ∧ t.x.cnum = 0 ∧ t.x.citer = 0 ∧ t.st.ccount = BitVec.ofNat 32 count ∧
      t.st.fsite = (even >>> 32).setWidth 16 ∧ t.st.fsquash = 0 ∧
      t.st.active = true ∧ t.st.serial = bit even 17 ∧ t.st.nopred = bit even 18 ∧ t.st.broke = false ∧
      (∃ f, t.st.fork = some f ∧ f.nchunks = chunks ∧ f.committed = 0 ∧ f.next = 1 ∧ f.chunks = [] ∧ f.passing = false ∧
        f.odd = odd ∧ f.snap = s.x.snap ∧ f.level = s.lvl) ∧
      t.x.sreg = s.x.sreg ∧ t.x.vreg = s.x.vreg ∧ t.x.kreg = s.x.kreg ∧ t.st.trap = s.st.trap ∧ t.mem = s.mem
    (descriptorOk even odd rows 1 = true → 0 < rows →
      ∃ t, exec (.fork a b) s = .next t ∧
        (let h := if c = 0 then max 1 ((rows + 31) / 32) else c
         begun t rows ((rows + h - 1) / h))) ∧
    (descriptorOk even odd rows cols = true → 0 < rows → 0 < cols →
      ∃ t, exec (.forkt d a b) s = .next t ∧
        (let h := if c / 256 = 0 then max 1 ((rows + 31) / 32) else c / 256
         let w := if c % 256 = 0 then cols else c % 256
         begun t (rows * cols) ((rows + h - 1) / h * ((cols + w - 1) / w)))) ∧
    (descriptorOk even odd rows 1 = true → rows = 0 → ∀ u e, s.findEndi s.x.pc = .ok (u, e) →
      ∃ t, exec (.fork a b) s = .next t ∧ t.x.pc = e + 4 ∧ t.joinHere = some .outer ∧ t.st.ccount = 0 ∧
        ∃ f, t.st.fork = some f ∧ f.nchunks = 0) ∧
    (descriptorOk even odd rows cols = true → rows * cols = 0 → ∀ u e, s.findEndi s.x.pc = .ok (u, e) →
      ∃ t, exec (.forkt d a b) s = .next t ∧ t.x.pc = e + 4 ∧ t.joinHere = some .outer ∧ t.st.ccount = 0 ∧
        ∃ f, t.st.fork = some f ∧ f.nchunks = 0)

/-- R131 (05): inside a fork, FORK and FORKT of a count above 0 begin an inline loop of this chunk alone at iteration 0; inside an
inline loop they trap with cause 0x46. -/
def Sys2Proof.Parts.InlineLoopBegins : Prop :=
  ∀ (s : State) (d a b : BitVec 5), s.st.place.master? ≠ none → s.st.active = true →
    let even := s.getS b
    let odd := s.getS (b + 1)
    let rows := (s.getS a).toNat % 2 ^ 32
    let cols := (s.getS d).toNat % 2 ^ 32
    let loop := fun (n c : Nat) => ({ forkPc := s.x.pc, endiPc := none, count := n, cols := c, index := 0 } : Inline)
    let into := fun (n c : Nat) => ({ s with
      retired := true
      x := { s.x with pc := s.x.pc + 4, replies := [], pipe := none, inline := some (loop n c) } } : State)
    (s.x.inline ≠ none → exec (.fork a b) s = .next (s.trapS 0x46 (wordOf (.fork a b))) ∧
      exec (.forkt d a b) s = .next (s.trapS 0x46 (wordOf (.forkt d a b)))) ∧
    (s.x.inline = none → descriptorOk even odd rows 1 = true → 0 < rows → exec (.fork a b) s = .next (into rows 0)) ∧
    (s.x.inline = none → descriptorOk even odd rows cols = true → 0 < rows * cols → 
      exec (.forkt d a b) s = .next (into (rows * cols) cols))

/-- R131, R132 (05): outside a fork ENDI, ITER, FBREAK, IPOST and IWAIT trap with cause 0x45, tval holding the word; a JOIN that no
loop ends at traps with cause 0x41, tval holding its address. -/
def Sys2Proof.Parts.LoopInstructionsOutsideAFork : Prop :=
  ∀ (s : State) (d a : BitVec 5) (t sel : BitVec 6), s.st.place.master? ≠ none → s.st.active = false →
    (∀ i ∈ [Instr.iter d sel, .endi, .fbreak, .ipost t, .iwait a t], exec i s = .next (s.trapS 0x45 (wordOf i))) ∧
    (s.joinHere = none → exec .join s = .next (s.trapS 0x41 (s.x.pc.setWidth 64)))

/-- FORK and FORKT start a fork or an inline loop; loop instructions outside a fork. -/
def Obligations.ForksBegin : Prop :=
  Sys2Proof.Parts.ForkBegins ∧ Sys2Proof.Parts.InlineLoopBegins ∧ Sys2Proof.Parts.LoopInstructionsOutsideAFork

/-- R131, R132, R117, R127 (05): inside a fork, ITER writes the linear, row or column index of the iteration, or of the inline loop;
CSPEC the distance of this chunk from the head; HEADW passes in the head and stalls in a speculative chunk; CHAINW passes in the
head, in chunk 0, for a register outside livemask and once the live-ins are confirmed, and else stalls. -/
def Sys2Proof.Parts.ForkQueries : Prop :=
  ∀ (s : State) (d a : BitVec 5) (sel : BitVec 6) (f : Fork), s.st.place.master? ≠ none → s.st.active = true →
    s.st.fork = some f →
    (∃ t, exec (.iter d sel) s = .next t ∧ s.Wrote t d (BitVec.ofNat 64 (s.iterIndex sel.toNat)) (s.x.pc + 4)) ∧
    (s.x.inline = none → f.tiled = false → s.iterIndex 0 = s.x.citer.toNat ∧ s.iterIndex 1 = s.x.citer.toNat ∧
      s.iterIndex 2 = 0) ∧
    (s.x.inline = none → f.tiled = true →
      let k := s.x.cnum.toNat
      let across := (f.cols + f.wide - 1) / f.wide
      let w := min f.wide (f.cols - k % across * f.wide)
      let j := s.x.citer.toNat - f.chunkStart k
      s.iterIndex 0 = s.x.citer.toNat ∧ s.iterIndex 1 = k / across * f.high + j / w ∧
        s.iterIndex 2 = k % across * f.wide + j % w) ∧
    (∀ l, s.x.inline = some l → 0 < l.cols → s.iterIndex 0 = l.index ∧ s.iterIndex 1 = l.index / l.cols ∧
      s.iterIndex 2 = l.index % l.cols) ∧
    (f.passing = false → ∃ t, exec (.cspec d) s = .next t ∧
      s.Wrote t d (s.x.cnum.setWidth 64 - BitVec.ofNat 64 f.committed) (s.x.pc + 4)) ∧
    (s.spec = false → ∃ t, exec .headw s = .next t ∧ s.Wrote t 0 0 (s.x.pc + 4)) ∧
    (s.spec = true → exec .headw s = .next s) ∧
    (s.spec = false ∨ s.x.cnum = 0 ∨ f.odd.getLsbD a.toNat = false ∨ s.x.confirmed = true →
      ∃ t, exec (.chainw a) s = .next t ∧ s.Wrote t 0 0 (s.x.pc + 4)) ∧
    (s.spec = true → s.x.cnum ≠ 0 → f.odd.getLsbD a.toNat = true → s.x.confirmed = false → exec (.chainw a) s = .next s)

/-- R125 (05): IPOST posts the tag for the current iteration, once; IWAIT traps with cause 0x42 for an iteration that is not older,
passes for one of this chunk or of a committed chunk and for one whose post has arrived, and else stalls. -/
def Sys2Proof.Parts.IterationTags : Prop :=
  ∀ (s : State) (a : BitVec 5) (g : BitVec 6) (f : Fork), s.st.place.master? ≠ none → s.st.active = true → s.st.fork = some f →
    let it := s.x.citer.toNat
    let i := (s.getS a).toNat % 2 ^ 32
    (s.x.posts.contains (it, g.toNat) = false → ∃ t, exec (.ipost g) s = .next t ∧ t.x.pc = s.x.pc + 4 ∧
      t.x.posts = s.x.posts ++ [(it, g.toNat)] ∧
      t.st.fork = some { f with posts := f.posts ++ [{ iter := it, tag := g.toNat, cnum := s.x.cnum.toNat }] } ∧
      t.x.sreg = s.x.sreg ∧ t.mem = s.mem) ∧
    (s.x.posts.contains (it, g.toNat) = true → ∃ t, exec (.ipost g) s = .next t ∧ s.Wrote t 0 0 (s.x.pc + 4)) ∧
    (it ≤ i → exec (.iwait a g) s = .next (s.trapS 0x42 (BitVec.ofNat 64 i))) ∧
    (i < it → f.chunkStart s.x.cnum.toNat ≤ i ∨ i < f.chunkStart f.committed ∨ s.x.seen.contains (i, g.toNat) = true →
      ∃ t, exec (.iwait a g) s = .next t ∧ s.Wrote t 0 0 (s.x.pc + 4)) ∧
    (i < it → i < f.chunkStart s.x.cnum.toNat → f.chunkStart f.committed ≤ i → s.x.seen.contains (i, g.toNat) = false →
      exec (.iwait a g) s = .next s)

/-- R79, R80, R78 (03): RINGID, STRIDX and GRPQ write their value and change nothing else; SPRIO sets the run priority to
max(s[a][1:0], prio), for a speculative chunk at its commit; YIELD with no launch to yield to, and in a speculative chunk, has no
effect beyond passing on, and else passes on and asks the strand, or its whole gang, to stop: a strand of no gang outside a fork at
the next word. -/
def Sys2Proof.Parts.StrandQueriesAndYield : Prop :=
  ∀ (s : State) (d a : BitVec 5), s.st.place.master? ≠ none →
    let p := BitVec.ofNat 2 (max ((s.getS a).toNat % 4) s.st.prio.toNat)
    (∀ r, s.st.place = .ring r → ∃ t, exec (.ringid d) s = .next t ∧ s.Wrote t d (BitVec.ofNat 64 r) (s.x.pc + 4)) ∧
    (∀ g, s.st.place = .gateway g → ∃ t, exec (.ringid d) s = .next t ∧ s.Wrote t d (BitVec.ofNat 64 (48 + g)) (s.x.pc + 4)) ∧
    (∃ t, exec (.stridx d) s = .next t ∧ s.Wrote t d ((s.st.id.setWidth 32).setWidth 64) (s.x.pc + 4)) ∧
    (∀ g, s.cp.groups.find? (fun g => g.handle == idHandle s.st.id && g.index == (s.getS a).toNat) = some g →
      ∃ t, exec (.grpq d a) s = .next t ∧ s.Wrote t d g.map (s.x.pc + 4)) ∧
    ((∀ g ∈ s.cp.groups, ¬ (g.handle = idHandle s.st.id ∧ g.index = (s.getS a).toNat)) →
      ∃ t, exec (.grpq d a) s = .next t ∧ s.Wrote t d 0 (s.x.pc + 4)) ∧
    (s.spec = false → exec (.sprio a) s =
      .next ({ s with x := { s.x with sprio := none }, st := { s.st with runPrio := p } } : State).advance) ∧
    (s.spec = true → exec (.sprio a) s = .next ({ s with x := { s.x with sprio := some p } } : State).advance) ∧
    (s.spec = true ∨ s.yieldFor = false → ∃ t, exec .yield s = .next t ∧ s.Wrote t 0 0 (s.x.pc + 4)) ∧
    (s.spec = false → s.yieldFor = true → exec .yield s = .next (s.advance.preempt s.st.id true)) ∧
    (s.st.fork = none → s.yieldFor = true → s.st.phase = .running → (∀ l, s.launch? (idHandle s.st.id) = some l → l.gang = false) →
      ∃ t, exec .yield s = .next t ∧ t.x.pc = s.x.pc + 4 ∧ t.x.sreg = s.x.sreg ∧ t.mem = s.mem ∧
        t.st = { s.st with phase := .stopping s.time true })

/-- ITER, CSPEC and waits in a fork; posts and waits for tags; strand queries and YIELD. -/
def Obligations.LoopQueriesAndTags : Prop :=
  Sys2Proof.Parts.ForkQueries ∧ Sys2Proof.Parts.IterationTags ∧ Sys2Proof.Parts.StrandQueriesAndYield

/-- R129, R131, R132 (05): ENDI takes the chunk to its next iteration at the word after FORK, with citer one higher; in an inline
loop to the loop's next iteration, or past its last to the word after ENDI, where JOIN must stand. An ENDI at another address
than the fork's traps with cause 0x41. -/
def Sys2Proof.Parts.NextIteration : Prop :=
  ∀ (s : State) (f : Fork), s.st.place.master? ≠ none → s.st.active = true → s.st.fork = some f → s.st.phase = .running →
    (s.x.inline = none → (f.endiPc = none ∨ f.endiPc = some s.x.pc) → s.x.phase = .running →
      s.x.citer.toNat + 1 < f.chunkStart s.x.cnum.toNat + f.chunkLen s.x.cnum.toNat →
      ∃ t, exec .endi s = .next t ∧ t.x.pc = f.forkPc + 4 ∧ t.x.citer = s.x.citer + 1 ∧ t.x.cnum = s.x.cnum ∧
        t.x.sreg = s.x.sreg ∧ t.mem = s.mem ∧ ∃ f', t.st.fork = some f' ∧ f'.endiPc = some s.x.pc ∧ f'.committed = f.committed) ∧
    (s.x.inline = none → ∀ e, f.endiPc = some e → e ≠ s.x.pc →
      exec .endi s = .next (s.trapS 0x41 (s.x.pc.setWidth 64))) ∧
    (∀ l, s.x.inline = some l → (l.endiPc = none ∨ l.endiPc = some s.x.pc) →
      ∃ t, exec .endi s = .next t ∧ t.st = s.st ∧ t.mem = s.mem ∧ t.x.sreg = s.x.sreg ∧
        (l.index + 1 < l.count → t.x.pc = l.forkPc + 4 ∧
          t.x.inline = some { l with endiPc := some s.x.pc, index := l.index + 1 }) ∧
        (l.count ≤ l.index + 1 → t.x.pc = s.x.pc + 4 ∧ t.joinHere = some .inline))

/-- R114, R116, R129, R130 (05): the ENDI of the last iteration of the head chunk, with nothing queued and its live-ins present,
commits the chunk. After the last chunk pc moves to the word after ENDI, where JOIN must stand; after another one the context is
free and head passes. JOIN ends the fork once its combines are done: the strand goes on after it with the chunk's registers. -/
def Sys2Proof.Parts.CommitAndJoin : Prop :=
  ∀ (s : State) (f : Fork), s.st.place.master? ≠ none → s.st.active = true →
    (s.st.fork = some f → s.st.phase = .running → s.x.inline = none → (f.endiPc = none ∨ f.endiPc = some s.x.pc) →
      s.x.phase = .running → f.chunkStart s.x.cnum.toNat + f.chunkLen s.x.cnum.toNat ≤ s.x.citer.toNat + 1 →
      s.drained = true → s.spec = false → s.x.owed = .nothing → f.committed = s.x.cnum.toNat → f.committed < f.nchunks →
      ∃ t, exec .endi s = .next t ∧ t.mem = s.mem ∧
        (∃ f', t.st.fork = some f' ∧ f'.committed = f.committed + 1 ∧ f'.passing = true) ∧
        (f.committed + 1 = f.nchunks → t.x.pc = s.x.pc + 4 ∧ t.x.sreg = s.x.sreg ∧ t.joinHere = some .outer) ∧
        (f.committed + 1 ≠ f.nchunks → t.x.phase = .idle)) ∧
    (s.joinHere = some .outer → (∀ g, s.st.fork = some g → g.combines = []) →
      ∃ t, exec .join s = .next t ∧ t.x.pc = s.x.pc + 4 ∧ t.st.fork = none ∧ t.st.active = false ∧
        t.st.regions = Vector.replicate 4 none ∧ t.x.sreg = s.x.sreg ∧ t.x.vreg = s.x.vreg ∧ t.x.kreg = s.x.kreg ∧
        t.x.cnum = s.x.cnum ∧ t.x.citer = s.x.citer ∧ t.st.serial = s.st.serial ∧ t.st.broke = s.st.broke ∧
        t.st.ccount = s.st.ccount ∧ t.mem = s.mem) ∧
    (s.joinHere = some .inline → ∃ t, exec .join s = .next t ∧ t.st = s.st ∧ t.mem = s.mem ∧
      t.x = { s.x with pc := s.x.pc + 4, inline := none, joinDue := none, replies := [], pipe := none })

/-- R126, R131 (05): FBREAK of the head chunk with nothing queued, the fork's ENDI address known, discards every younger chunk
without counting a squash, sets broke, and goes to the word after ENDI, where JOIN must stand; in an inline loop it leaves for the
word after the loop's ENDI. -/
def Sys2Proof.Parts.ForkBreak : Prop :=
  ∀ (s : State) (f : Fork) (e : BitVec 54), s.st.place.master? ≠ none → s.st.active = true → s.st.fork = some f →
    (s.x.inline = none → s.x.phase = .running → s.drained = true → s.spec = false → s.x.owed = .nothing →
      f.endiPc = some e → f.committed = s.x.cnum.toNat → f.passing = false →
      ∃ t, exec .fbreak s = .next t ∧ t.x.pc = e + 4 ∧ t.st.broke = true ∧ t.st.fsquash = s.st.fsquash ∧ t.mem = s.mem ∧
        t.x.sreg = s.x.sreg ∧ t.joinHere = some .outer ∧
        ∃ f', t.st.fork = some f' ∧ f'.nchunks = f.committed + 1 ∧ f'.committed = f.committed + 1 ∧
          ∀ c ∈ f'.chunks, c.phase = .idle ∨ c.cnum.toNat ≤ f.committed) ∧
    (∀ l, s.x.inline = some l → l.endiPc = some e →
      ∃ t, exec .fbreak s = .next t ∧ t.x.pc = e + 4 ∧ t.joinHere = some .inline ∧ t.st = s.st ∧ t.mem = s.mem ∧
        t.x.sreg = s.x.sreg)

/-- ENDI, FBREAK, commit and JOIN. -/
def Obligations.IterationsEnd : Prop :=
  Sys2Proof.Parts.NextIteration ∧ Sys2Proof.Parts.CommitAndJoin ∧ Sys2Proof.Parts.ForkBreak

/-- R119 (05): RDECL outside a fork declares merge region d, or clears it for length 0, and changes no other; a declaration that
R119 forbids, or one inside a fork, traps with cause 0x44, tval holding s[a]. -/
def Sys2Proof.Parts.MergeRegionDeclaration : Prop :=
  ∀ (s : State) (d a b : BitVec 5), s.st.place.master? ≠ none → d.toNat < 4 →
    let base := (s.getS a).toNat
    let w := s.getS b
    let len := w.toNat % 2 ^ 40
    let fmt := w.toNat / 2 ^ 40 % 32
    let op := w.toNat / 2 ^ 45 % 8
    let allowed : Prop := (op = 0 ∨ op = 2 ∨ op = 3) ∧ fmt ∈ [2, 3, 6, 7] ∨ op = 1 ∧ fmt = 9 ∨ op = 4 ∧ fmt ∈ [6, 7]
    let apart : Prop := ∀ j r, j < 4 → j ≠ d.toNat → vget s.st.regions none j = some r →
      r.base + r.len ≤ base ∨ base + len ≤ r.base
    let good : Prop := w.toNat < 2 ^ 48 ∧ base % 64 = 0 ∧ len % 64 = 0 ∧ base + len ≤ 2 ^ 54 ∧ allowed ∧ apart
    let declares := fun (r : Option Region) => ∃ t, exec (.rdecl d a b) s = .next t ∧
      t = { s with retired := true, x := { s.x with pc := s.x.pc + 4, replies := [], pipe := none },
                   st := { s.st with regions := vset s.st.regions d.toNat r } }
    (s.st.active = false → len = 0 → declares none) ∧
    (s.st.active = false → len ≠ 0 → good → declares (some { base := base, len := len, op := op, fmt := fmt })) ∧
    (s.st.active = true ∨ len ≠ 0 ∧ ¬ good → exec (.rdecl d a b) s = .next (s.trapS 0x44 (s.getS a)))

/-- R122 (05), R269 (11): a combine is performed at its bank as memory := op(memory, value), at the width of the region's format, and
no other byte of memory changes. Here the strand holds no store of its own back that reaches the element. -/
def Sys2Proof.Parts.MergeCombinePerformed : Prop :=
  ∀ (s : State) (f : Fork) (c : Combine) (rest : List Combine), s.memWf = true → s.st.fork = some f → f.combines = c :: rest →
    let n := fmtWidth c.fmt / 8
    (∀ e ∈ s.st.sbuf ++ s.st.vbuf, e.overlaps c.pa n = false) → (∀ q ∈ s.scatter, q.owner ≠ s.st.id) →
    ∀ new, atomicNew c.op (8 * n) (leNat (s.memBytes c.pa n)) c.value.toNat 0 = some new →
    ∃ t, exec .mergeCombine s = .next t ∧ t.x = s.x ∧ t.st.fork = some { f with combines := rest } ∧
      leNat (t.memBytes c.pa n) = new % 2 ^ (8 * n) ∧ ∀ q, q < c.pa ∨ c.pa + n ≤ q → t.memByte q = s.memByte q

/-- RDECL and the combination of merge partials. -/
def Obligations.MergeRegions : Prop :=
  Sys2Proof.Parts.MergeRegionDeclaration ∧ Sys2Proof.Parts.MergeCombinePerformed

/-- R105, R106, R100 (05): the snapshot's arrival at a ring position marks it. CHUNK_START starts the next chunk, when it may, at the
word after FORK, with the snapshot's registers and its first iteration; the live-ins that no chain value has reached are awaited when
the fork has no prediction. On a ring, in a fork that is not serial, it may once its position has the snapshot and runs no chunk, no
FBREAK is under way and fewer than 16 chunks are ahead of the head, and memory does not change. In a serial fork or on a gateway core
the chunk starts as the head (R61, R128). -/
def Sys2Proof.Parts.ChunkStarts : Prop :=
  ∀ (s : State) (f : Fork) (pos : BitVec 3), s.st.fork = some f →
    (∃ t, exec (.snapshotArrival pos) s = .next t ∧ t = s.setFork { f with snapAt := f.snapAt ||| (1#8 <<< pos.toNat) }) ∧
    (s.st.serial = false → (∃ r, s.st.place = .ring r) →
      (s.mayStart f = true ↔ f.next < f.nchunks ∧ f.breaking = none ∧ f.next < f.committed + 16 ∧
        f.snapAt.getLsbD ((f.posBase + f.next) % 8) = true ∧ s.st.phase = .running ∧
        ∀ c ∈ s.flight f, c.phase = .running → c.pos.toNat ≠ (f.posBase + f.next) % 8)) ∧
    (s.mayStart f = true → ∃ t f' c, exec .chunkStart s = .next t ∧ t.st.fork = some f' ∧ t.x = s.x ∧
      (s.oneAtATime = false → t.mem = s.mem) ∧
      (s.oneAtATime = true → f.next = f.committed ∧ f'.passing = false ∧ t.st.sbuf = [] ∧ t.st.vbuf = []) ∧
      f'.next = f.next + 1 ∧ f'.committed = f.committed ∧ c ∈ f'.chunks ∧
      c.cnum = BitVec.ofNat 32 f.next ∧ c.citer = BitVec.ofNat 32 (f.chunkStart f.next) ∧ c.pc = f.forkPc + 4 ∧
      c.phase = .running ∧ c.vreg = f.snap.vreg ∧ c.kreg = f.snap.kreg ∧ c.vl = f.snap.vl ∧ c.acc = [] ∧ c.slot = [] ∧
      (∀ r : Nat, r < 32 → f.odd.getLsbD r = false → (∀ m ∈ f.arrived, ∀ p ∈ m.vals, p.1 ≠ r) → vget c.sreg 0 r = vget f.snap.sreg 0 r) ∧
      (s.st.nopred = true → (∀ m ∈ f.arrived, m.dst ≠ f.next) → c.await = f.odd.setWidth 32)) ∧
    (s.mayStart f = false → exec .chunkStart s = .next s)

/-- R107 (05): a chain value that arrives for a chunk stands in its registers that await it, and they await no longer; it is then
under way no more. An unconfirmed one confirms nothing. -/
def Sys2Proof.Parts.ChainValueArrives : Prop :=
  ∀ (s : State) (f : Fork) (k : BitVec 32) (m : ChainMsg), s.st.fork = some f → f.chain.find? (fun m => m.dst == k.toNat) = some m →
    m.confirmed = false → m.dst = s.x.cnum.toNat → s.x.phase ≠ .idle → (∀ v ∈ m.vals, v.1 < 32) →
    (m.vals.map (·.1)).Nodup →
    ∃ t, exec (.chainValueArrival k) s = .next t ∧ t.x.pc = s.x.pc ∧ t.mem = s.mem ∧
      (∀ v ∈ m.vals, s.x.await.getLsbD v.1 = true → vget t.x.sreg 0 v.1 = v.2 ∧ t.x.await.getLsbD v.1 = false) ∧
      (∀ r : Nat, (∀ v ∈ m.vals, v.1 ≠ r) ∨ s.x.await.getLsbD r = false → vget t.x.sreg 0 r = vget s.x.sreg 0 r) ∧
      ∃ f', t.st.fork = some f' ∧ (∀ q ∈ f'.chain, q.dst ≠ m.dst) ∧ m ∈ f'.arrived

/-- R107, R113 (05): a confirmation that arrives for the focus chunk, whose start values are the confirmed ones, makes its live-ins
confirmed and squashes nothing. -/
def Sys2Proof.Parts.ChainConfirmationArrives : Prop :=
  ∀ (s : State) (f : Fork) (m : ChainMsg), s.st.fork = some f → f.updated = s.x.cnum.toNat → s.x.phase = .running →
    f.arrived.find? (fun m => m.dst == s.x.cnum.toNat) = some m → f.confirms.contains s.x.cnum.toNat = true →
    (∀ c ∈ s.flight f, c.cnum = s.x.cnum → c.phase = .running ∧
      ∀ p ∈ c.starts, ∀ v, m.vals.find? (fun v => v.1 == p.1) = some v → v.2 = p.2) →
    ∃ t, exec (.chainConfirmation s.x.cnum) s = .next t ∧ t.x = { s.x with confirmed := true } ∧ t.mem = s.mem ∧
      t.st.fsquash = s.st.fsquash ∧ ∃ f', t.st.fork = some f' ∧ f'.confirms.contains s.x.cnum.toNat = false

/-- R111, R113, R125 (05): the oldest announcement leaves the list; when no younger chunk has an exposed read that missed the store,
nothing else changes. The oldest post that chunk k has not seen reaches it. -/
def Sys2Proof.Parts.AnnouncementsAndPosts : Prop :=
  ∀ (s : State) (f : Fork), s.st.fork = some f →
    (∀ an rest, f.anns = an :: rest →
      (∀ c ∈ s.flight f, an.cnum < c.cnum.toNat → c.vers.any (missed an) = false) →
      exec .storeAnnouncement s = .next (s.setFork { f with anns := rest })) ∧
    (∀ p, s.x.phase ≠ .idle → f.posts.find? (fun p => decide (p.cnum < s.x.cnum.toNat) && !s.x.seen.contains (p.iter, p.tag)) = some p →
      (∀ c ∈ f.chunks, c.cnum ≠ s.x.cnum) →
      ∃ t, exec (.tagPostArrival s.x.cnum) s = .next t ∧ t.x = { s.x with seen := s.x.seen ++ [(p.iter, p.tag)] } ∧ t.mem = s.mem)

/-- R114 (05): head passes to the next chunk once it has started, its live-ins are confirmed, and every announcement and chain value
of the older chunks has arrived: that chunk is then no longer speculative, and its written words stand in memory. Until then
nothing changes. -/
def Sys2Proof.Parts.HeadPasses : Prop :=
  ∀ (s : State) (f : Fork), s.memWf = true → s.st.fork = some f → s.st.sbuf = [] → s.st.vbuf = [] →
    s.x.phase ≠ .idle → s.x.cnum.toNat = f.committed → f.committed < f.nchunks →
    (f.passing = true → s.x.confirmed = true → (∀ a ∈ f.anns, f.committed ≤ a.cnum) → (∀ m ∈ f.chain, f.committed < m.dst) →
      (s.x.vers.map (·.word)).Nodup →
      ∃ t f', exec .headPass s = .next t ∧ t.st.fork = some f' ∧ f'.passing = false ∧ t.spec = false ∧ t.x.vers = [] ∧
        t.x.sreg = s.x.sreg ∧ t.x.pc = s.x.pc ∧
        (∀ v ∈ s.x.vers, v.written = true → t.mem64 (v.word * 8) = v.data) ∧
        (∀ q, (∀ v ∈ s.x.vers, v.written = true → q / 8 ≠ v.word) → t.memByte q = s.memByte q)) ∧
    (f.passing = false ∨ s.x.confirmed = false ∨ (∃ a ∈ f.anns, a.cnum < f.committed) ∨ (∃ m ∈ f.chain, m.dst ≤ f.committed) →
      exec .headPass s = .next s)

/-- Chunks start, receive chained values, confirmations, announcements and posts, and become head. -/
def Obligations.ChunkEvents : Prop :=
  Sys2Proof.Parts.ChunkStarts ∧ Sys2Proof.Parts.ChainValueArrives ∧ Sys2Proof.Parts.ChainConfirmationArrives ∧ Sys2Proof.Parts.AnnouncementsAndPosts ∧ Sys2Proof.Parts.HeadPasses

/-- R74 (03): the state in which strand i of a launch is placed. -/
def Sys2Proof.Parts.StrandEntryState : Prop :=
  ∀ (l : Launch) (i now : Nat) (place : Place) (slot : Option Nat),
    let x := entryCtx l i
    let st := entryStrand l i place slot now
    x.pc = l.entry.setWidth 54 ∧
    vget x.sreg 0 2 = l.stack + BitVec.ofNat 64 ((i + 1) * l.stacksize) ∧ vget x.sreg 0 4 = BitVec.ofNat 64 i ∧
    vget x.sreg 0 5 = BitVec.ofNat 64 (l.nring + l.ngate) ∧ vget x.sreg 0 6 = l.handle.setWidth 64 ∧
    vget x.sreg 0 31 = (if l.argsize = 0 then 0 else l.args + BitVec.ofNat 64 (i * l.argsize)) ∧
    (∀ r : Nat, r < 32 → r ∉ [2, 4, 5, 6, 31] → vget x.sreg 0 r = 0) ∧
    (∀ r : Nat, r < 32 → vget x.vreg 0 r = 0) ∧ (∀ r : Nat, r < 8 → vget x.kreg 0 r = 0) ∧
    x.vl = 0 ∧ x.vtype = 0 ∧ x.vbeg = 0 ∧ x.cnum = 0 ∧ x.citer = 0 ∧ x.claim = 0 ∧ x.rngkey = l.rngkey ∧
    x.rngctr = BitVec.ofNat 64 (i * 2 ^ 32) ∧
    st.id = l.handle ++ BitVec.ofNat 32 i ∧ st.trap.status = 0 ∧ st.trap.tvec = l.tvec &&& 0x3FFFFFFFFFFFFC ∧
    st.ptroot = l.ptroot ∧ st.asid = l.asid ∧ st.runPrio = l.prio ∧ st.ccount = 0 ∧ st.fsite = 0 ∧ st.fsquash = 0 ∧
    st.place = place ∧ st.vf = l.vf

/-- R70 (03): a pass places the next strand of a launch that is no gang on a ring that the launch may take: of the first die, in
cyclic order after the one last used, that has such a ring, the lowest one. The strand stands there in its state at entry; the ring is
occupied, its die is the one last used, and the strand is no longer to be placed. -/
def Sys2Proof.Parts.StrandPlaced : Prop :=
  ∀ (s : State) (l : Launch) (i m : Nat), s.launch? l.handle = some l → l.isGate i = false → l.toResume = [] →
    let after := fun (k : Nat) => (k / 6 + 8 - s.cp.diePtr % 8) % 8
    m < 48 → s.mayTake l m = true →
    (∀ k, k < 48 → s.mayTake l k = true → after m < after k ∨ after m = after k ∧ m ≤ k) →
    let t := s.placeStrand l.handle i
    t.parked = s.parked ++ [{ x := entryCtx l i, st := entryStrand l i (.ring m) s.freeSlot s.time }] ∧
    vget t.cp.masters .free m = .occupied ∧ (∀ k : Nat, k ≠ m → vget t.cp.masters .free k = vget s.cp.masters .free k) ∧
    t.cp.diePtr = 1 + m / 6 ∧ (∀ k ∈ t.cp.launches, k.handle = l.handle → i ∉ k.toPlace) ∧ t.x = s.x ∧ t.st = s.st ∧ t.mem = s.mem

/-- R63, R381 (03, 17): a launch submitted through cplaunch leaves its result in the function's plstat: code 5 for a function that is
not enabled, 2 for a record that is misaligned, or whose address is refused or of fabric kind; else, of the 64 bytes that the record's
address translates to, the code and the handle of the submission, a pass following an admitted one. A record whose line reads as poison is
refused with code 2 too: that is the model's choice (log entry 101). A virtual function may write its own port alone. -/
def Sys2Proof.Parts.HostLaunch : Prop :=
  ∀ (s : State) (v : BitVec 5) (va : Word),
    let root := vget s.cp.proot 0 v.toNat &&& 0xFFFFFFFFF0000
    let asid := vget s.cp.proot 0 v.toNat &&& 0xFFFF
    let plstat := fun (t : State) (code : Nat) (h : BitVec 32) =>
      ({ t with cp := { t.cp with plstat := vset t.cp.plstat v.toNat (submitResult code h) } } : State)
    (∀ w, w ≠ v → exec (.cplaunch (.vf w) v va) s = .next s) ∧
    (∀ who, who = .pf ∨ who = .vf v →
      (s.enabled v.toNat = false → exec (.cplaunch who v va) s = .next (plstat s 5 0)) ∧
      (s.enabled v.toNat = true → va.toNat % 64 ≠ 0 → exec (.cplaunch who v va) s = .next (plstat s 2 0)) ∧
      (s.enabled v.toNat = true → va.toNat % 64 = 0 →
        let r := s.xlateHub { ptroot := root, asid := asid, vf := v.toNat, user := true, master := none } .read va.toNat
        (∀ c, r.2 = .error c → exec (.cplaunch who v va) s = .next (plstat r.1 2 0)) ∧
        (∀ x, r.2 = .ok x → x.kind = 1 ∨ r.1.poisoned x.pa = true → exec (.cplaunch who v va) s = .next (plstat r.1 2 0)) ∧
        (∀ x, r.2 = .ok x → x.kind ≠ 1 → r.1.poisoned x.pa = false →
          let u := r.1.touch none x.pa
          let from_ : Submitter := {
            vf := v.toNat, ptroot := vget u.cp.proot 0 v.toNat &&& 0xFFFFFFFFF0000,
            asid := vget u.cp.proot 0 v.toNat &&& 0xFFFF, tvec := vget u.cp.ptvec 0 v.toNat, issuer := none }
          let a := u.submit from_ (r.1.memBytes x.pa 64)
          exec (.cplaunch who v va) s = .next (if a.2.1 = 0 then (plstat a.1 a.2.1 a.2.2).schedule else plstat a.1 a.2.1 a.2.2))))

/-- A launch by the host; the entry state of a placed strand. -/
def Obligations.StrandsPlaced : Prop :=
  Sys2Proof.Parts.StrandEntryState ∧ Sys2Proof.Parts.StrandPlaced ∧ Sys2Proof.Parts.HostLaunch

/-- R75, R65 (03): LAUNCH of a record at an address that is no multiple of 64 writes 2 to s[d]. Else, with no access of the strand
held in a queue, the strand's earlier accesses are performed, the 64 bytes of the record are read and submitted to the hub, and
s[d] receives the code and the handle; an admitted launch is followed by a scheduling pass. A speculative chunk waits. -/
def Sys2Proof.Parts.LaunchCompletes : Prop :=
  ∀ (s : State) (d a : BitVec 5) (x : Xl),
    let va := s.getS a
    let u := s.release
    (s.st.place.master? ≠ none → s.spec = false → va.toNat % 64 ≠ 0 →
      ∃ t, exec (.launch d a) s = .next t ∧ s.Wrote t d 2 (s.x.pc + 4)) ∧
    (s.spec = false → s.noneHeld = true → u.Plain .read va 64 x →
      let r := u.touch u.ring? x.pa
      let out := ({ r with net := r.net.send r.die 0 (Mail.ask [] r.die) } : State).submit u.submitter (u.memBytes x.pa 64)
      let t := out.1.result d (out.2.2 ++ BitVec.ofNat 32 out.2.1)
      exec (.launch d a) s = .next (if out.2.1 = 0 then t.schedule else t)) ∧
    (s.st.place.master? ≠ none → s.spec = true → exec (.launch d a) s = .next s)

/-- R75, R65, R66, R68 (03): the codes of a submission, in the order 5, 2, 3, 1, 4. A refused one leaves every launch and group as
it was, with handle 0. An admitted one stands at the tail of the launches, all its strands to be placed, under a handle that is not
0 and that no other launch holds, with an entry of the group table for each of its maps. -/
def Sys2Proof.Parts.SubmissionCodes : Prop :=
  ∀ (s : State) (q : Submitter) (bs : List Byte),
    let r := readLaunch bs
    let out := s.submit q bs
    (s.enabled q.vf = false → out = (s, 5, 0)) ∧
    (s.enabled q.vf = true → r.ok = false → out = (s, 2, 0)) ∧
    (s.enabled q.vf = true → r.ok = true →
      let read := s.readMaps (launchSpace q.ptroot q.asid q.vf) r.groups.toNat r.ngroups
      let u := read.1
      u.cp.launches = s.cp.launches ∧ u.cp.groups = s.cp.groups ∧
      (read.2 = none → out = (u, 2, 0)) ∧
      (∀ maps, read.2 = some maps →
        (∀ m ∈ maps, r.mapOk m = false → out = (u, 2, 0)) ∧
        ((∀ m ∈ maps, r.mapOk m = true) →
          (r.gang = true → (u.partitionRings q.vf).length < r.nring ∨ (u.partitionGates q.vf).length < r.ngate → out = (u, 3, 0)) ∧
          ((r.gang = false ∨ r.nring ≤ (u.partitionRings q.vf).length ∧ r.ngate ≤ (u.partitionGates q.vf).length) →
            (64 ≤ s.waitingCount q.vf → out = (u, 1, 0)) ∧
            (s.waitingCount q.vf < 64 → 256 < s.cp.groups.length + r.ngroups → out = (u, 4, 0)) ∧
            (s.waitingCount q.vf < 64 → s.cp.groups.length + r.ngroups ≤ 256 → s.handlesUsed.length < 2 ^ 31 →
              ∃ t h l, out = (t, 0, h) ∧ h ≠ 0 ∧ (∀ m ∈ s.cp.launches, m.handle ≠ h) ∧
                t.cp.launches = s.cp.launches ++ [l] ∧ l.handle = h ∧ l.vf = BitVec.ofNat 5 q.vf ∧
                l.toPlace = List.range (r.nring + r.ngate) ∧ l.toResume = [] ∧ l.maps = maps ∧
                t.cp.groups.map (fun g => (g.handle, g.strands, g.map, g.phase)) =
                  s.cp.groups.map (fun g => (g.handle, g.strands, g.map, g.phase)) ++ maps.map (fun m => (h, m, 0, 0)) ∧
                t.mem = u.mem ∧ t.x = u.x ∧ t.st = u.st)))))

/-- LAUNCH: result codes and handles. -/
def Obligations.LaunchesSubmitted : Prop :=
  Sys2Proof.Parts.LaunchCompletes ∧ Sys2Proof.Parts.SubmissionCodes

/-- R76, R72 (03): SDONE of a head chunk waits for the strand's queued work, its messages and its fabric stores; then the strand
ends: its accesses are performed, its speculative chunks squashed and the head's partials combined, its open groups aborted, and its
ring or gateway core goes to reclaim. A failed fabric store not yet reported is reported first, with cause 0xA1. -/
def Sys2Proof.Parts.StrandDone : Prop :=
  ∀ (s : State) (m : Nat), s.st.place.master? = some m → m < 64 → s.spec = false →
    (s.queuesEmpty = false ∨ s.st.retry ≠ [] → exec .sdone s = .next s) ∧
    (s.queuesEmpty = true → s.st.retry = [] → (∀ q ∈ s.fab.reqs, q.owner = s.st.id → q.kind ≠ .write) → s.st.failedStores = [] →
      ∃ t, exec .sdone s = .next t ∧ t = ((s.release.leaveFork).abortGroupsOf s.st.id).endStrand false false ∧
        vget t.cp.masters .free m = .reclaiming) ∧
    (s.queuesEmpty = true → s.st.retry = [] → (∃ q ∈ s.fab.reqs, q.owner = s.st.id ∧ q.kind = .write) →
      exec .sdone s = .next s.release) ∧
    (s.queuesEmpty = true → s.st.retry = [] → (∀ q ∈ s.fab.reqs, q.owner = s.st.id → q.kind ≠ .write) →
      ∀ va rest, s.st.failedStores = va :: rest →
        exec .sdone s = .next (({ s.release with st := { s.release.st with failedStores := [] } } : State).trapA 0xA1 2 va))

/-- R69, R72 (03): a scheduling pass, at its event and after a ring has been reclaimed, which makes the ring free; a master that is
not being reclaimed stays as it is. With no launch at the head of its queue able to place, a pass moves no strand. -/
def Sys2Proof.Parts.SchedulingAndReclaim : Prop :=
  ∀ (s : State) (m : BitVec 6),
    exec .schedulingPass s = .next s.schedule ∧
    ((∀ level v, s.canServe level v = false) → s.schedule.parked = s.parked ∧ s.schedule.cp.masters = s.cp.masters ∧
      s.schedule.x = s.x ∧ s.schedule.st = s.st ∧ s.schedule.mem = s.mem) ∧
    (s.masterState m.toNat = .reclaiming → ∃ u : State, exec (.ringReclaimDone m) s = .next u.schedule ∧
      u.masterState m.toNat = .free ∧ (∀ k : Nat, k ≠ m.toNat → u.masterState k = s.masterState k) ∧ u.mem = s.mem ∧
      u.parked = s.parked) ∧
    (s.masterState m.toNat ≠ .reclaiming → exec (.ringReclaimDone m) s = .next s)

/-- R71, R69 (03): at the expiry of a quantum, when no launch of the function heads its queue at the level, or the head has not
waited for a quantum unable to place, nothing changes. Else a scheduling pass runs; a head that can be placed after it, that is
suspended or that has now not waited pre-empts nothing; one that still cannot be placed pre-empts a running strand of lower priority on
the ring it needs, which is asked to stop. -/
def Sys2Proof.Parts.QuantumExpiry : Prop :=
  ∀ (s : State) (level : BitVec 2) (v : BitVec 5),
    let u := s.schedule
    (s.head? level.toNat v.toNat = none → exec (.quantumExpiry level v) s = .next s) ∧
    (∀ l, s.head? level.toNat v.toNat = some l →
      (l.waitFrom = none ∨ (∃ t, l.waitFrom = some t ∧ s.time < t + s.cp.quant.toNat)) → exec (.quantumExpiry level v) s = .next s) ∧
    (∀ l since, s.head? level.toNat v.toNat = some l → l.waitFrom = some since → since + s.cp.quant.toNat ≤ s.time →
      (u.head? level.toNat v.toNat = none → exec (.quantumExpiry level v) s = .next u) ∧
      (∀ k, u.head? level.toNat v.toNat = some k →
        (k.waitFrom = none ∨ (∃ t, k.waitFrom = some t ∧ u.time < t + u.cp.quant.toNat) ∨ u.canPlace k = true ∨
          u.suspended v.toNat = true → exec (.quantumExpiry level v) s = .next u) ∧
        (∀ from_, k.waitFrom = some from_ → from_ + u.cp.quant.toNat ≤ u.time → u.canPlace k = false →
          u.suspended v.toNat = false → k.gang = false → k.toResume = [] → k.toPlace = [0] → 0 < k.nring →
          u.coming k false = 0 → u.st.place = .ring 0 → (vget u.cp.parta 0 v.toNat).getLsbD 0 = true → u.st.phase = .running →
          u.st.fork = none → level.toNat < u.st.runPrio.toNat → u.st.startedAt ≤ u.time →
          (∀ g, u.launch? (idHandle u.st.id) = some g → g.gang = false) → (∀ r ∈ u.parked, r.st.place = .management) →
          exec (.quantumExpiry level v) s = .next { u with st := { u.st with phase := .stopping u.time false } })))

/-- R405 (18): CPUNFRZ by the physical function ends a frozen strand of the ring or gateway core it names as fenced, its core going to
reclaim, and ends the commands of a frozen engine with status 2; it does nothing to one that is not frozen. -/
def Sys2Proof.Parts.Unfreeze : Prop :=
  ∀ (s : State) (v : Word),
    (∀ m, s.st.place.master? = some m → m < 64 → v.toNat = m →
      (s.st.phase = .frozen → ∃ t, exec (.cpunfrz .pf v) s = .next t ∧ vget t.cp.masters .free m = .reclaiming) ∧
      (s.st.phase ≠ .frozen → exec (.cpunfrz .pf v) s = .next s)) ∧
    (∀ e, e < 16 → v.toNat = 64 + e →
      let g := s.engine e
      exec (.cpunfrz .pf v) s =
        .next (if g.frozen then s.setEngine e { g with cmds := endAll 2 g.cmds, frozen := false } else s)) ∧
    (80 ≤ v.toNat → exec (.cpunfrz .pf v) s = .next s)

/-- SDONE, reclaim, quantum expiry and the end of frozen strands. -/
def Obligations.StrandsEnd : Prop :=
  Sys2Proof.Parts.StrandDone ∧ Sys2Proof.Parts.SchedulingAndReclaim ∧ Sys2Proof.Parts.QuantumExpiry ∧ Sys2Proof.Parts.Unfreeze

/-- R408 (18): a focus strand outside a fork that has been asked to stop, and has nothing that can still complete, is saved once it
has reached its stop, or 20 µs after it was asked: its buffered stores are performed. Before that it goes on. -/
def Sys2Proof.Parts.PreemptionStops : Prop :=
  ∀ (s : State) (since : Nat) (due : Bool), s.st.place.master? ≠ none → s.st.fork = none → s.quiet = true → s.st.wait = none →
    s.st.retry = [] → s.st.phase = .stopping since due →
    let saved := fun (t : State) => t = { s.drainAll.flushScatter s.st.id with
      x := { s.x with pipe := none }, st := { (s.drainAll.flushScatter s.st.id).st with phase := .saving } }
    (due = true → ∃ t, exec (.preemptStop s.st.id) s = .next t ∧ saved t) ∧
    (since + 20 ≤ s.time → ∃ t, exec (.preemptHeadTimeout s.st.id) s = .next t ∧ saved t) ∧
    (due = false → exec (.preemptStop s.st.id) s = .next s) ∧
    (s.time < since + 20 → exec (.preemptHeadTimeout s.st.id) s = .next s)

/-- R408 to R411, R71 (18, 03): once a strand has been saved, its ring is free, its registers stand in the save slot at their
offsets, and its launch waits to resume it, before the pass that follows; the management core has the focus, unless the pass
resumed the strand. -/
def Sys2Proof.Parts.SaveCompletes : Prop :=
  ∀ (s : State) (m : Nat), s.st.place.master? = some m → m < 64 → s.st.phase = .saving →
    (∃ r ∈ s.parked, r.st.place = .management) →
    ∃ u : State, u.st.place = .management ∧
      exec (.saveComplete s.st.id) s = .next ((u.schedule.focusOn (fun st =>
        st.id == s.st.id && (st.place == .management) == false && st.place != .saved)).getD u.schedule) ∧
      vget u.cp.masters .occupied m = .free ∧
      (∃ r ∈ u.parked, r.x = s.x ∧ r.st = { s.st with place := .saved, phase := .running }) ∧
      (∀ l ∈ u.cp.launches, l.handle = idHandle s.st.id → idIndex s.st.id ∈ l.toResume) ∧ u.mem = s.writeSlot.mem

/-- R413 (18): a write of cpwsw by the physical function while no switch runs suspends the outgoing function and asks its strands to
stop; when they and its engine commands are done the incoming function is resumed, with a pass; then the switch is over and the dies
apply their translation logs. -/
def Sys2Proof.Parts.WorldSwitch : Prop :=
  ∀ (s : State) (value : Word),
    (s.cp.switch = .idle → bit value 5 = true → (∀ st ∈ s.strands, st.vf.toNat ≠ value.toNat % 32) →
      ∃ t, exec (.worldSwitchOut .pf value) s = .next t ∧ t.cp.switch = .out ∧ t.cp.wsw = value &&& 0x3F3F ∧
        t.suspended (value.toNat % 32) = true ∧ t.mem = s.mem ∧ t.x = s.x) ∧
    (s.cp.switch ≠ .idle → exec (.worldSwitchOut .pf value) s = .next s) ∧
    (∀ v, exec (.worldSwitchOut (.vf v) value) s = .next s) ∧
    (s.cp.switch = .out → bit s.cp.wsw 13 = true → s.outDone = true →
      ∃ u : State, exec .worldSwitchIn s = .next u.schedule ∧ u.cp.switch = .inn ∧
        u.suspended (s.cp.wsw.toNat / 256 % 32) = false ∧ u.mem = s.mem ∧ u.parked = s.parked) ∧
    (s.cp.switch = .out → s.outDone = false → exec .worldSwitchIn s = .next s ∧ exec .worldSwitchComplete s = .next s) ∧
    (s.cp.switch = .inn ∨ s.cp.switch = .out ∧ bit s.cp.wsw 13 = false ∧ s.outDone = true →
      ∃ t, exec .worldSwitchComplete s = .next t ∧ t.cp.switch = .idle) ∧
    (s.cp.switch = .idle → exec .worldSwitchIn s = .next s ∧ exec .worldSwitchComplete s = .next s)

/-- A pre-empted strand stops, is saved, and a world switch. -/
def Obligations.PreemptionAndSwitch : Prop :=
  Sys2Proof.Parts.PreemptionStops ∧ Sys2Proof.Parts.SaveCompletes ∧ Sys2Proof.Parts.WorldSwitch

/-- R312, R313, R317 (14): MSEND of the 64 bytes at an address that is a multiple of 64, with no access of the strand held in a queue.
A target of no legal form writes 1 to s[d]. A strand of the own launch or of a core of this package is bound: none there gives 2, one
of another function on a named core 3; one that binds has the message put in the sender's retry buffer, with the sender word, and 0 is
written, the strand's earlier accesses performed first. A full buffer of 16 stalls. A target in another package with the fabric off gives 4.
A misaligned source traps with cause 0x21. -/
def Sys2Proof.Parts.MessageSend : Prop :=
  ∀ (s : State) (d a b : BitVec 5) (x : Xl), s.st.place.master? ≠ none → s.spec = false →
    let va := s.getS a
    let n := (s.getS b).toNat
    let payload : BitVec 512 := BitVec.ofNat 512 (leNat ((List.range 64).map (fun i => s.viewByte false (x.pa + i))))
    let u := s.atRead x 64
    let w := u.release
    let own : Prop := n / 2 ^ 24 = 0 ∧ ∃ l, s.launch? (idHandle s.st.id) = some l ∧ n < l.nring + l.ngate
    let core : Prop := n / 2 ^ 9 = 2 ^ 21 ∧ n % 512 < 400
    let far : Prop := n / 2 ^ 29 = 4 ∧ n / 2 ^ 9 % 2 ^ 10 = 0 ∧ n % 512 < 400
    let master := if n % 512 < 384 then n % 512 / 8 else 48 + (n % 512 - 384)
    let sends := fun (id : StrandId) => ∃ t e, exec (.msend d a b) s = .next t ∧ s.Got t d 0 ∧ t.x.pc = s.x.pc + 4 ∧ t.mem = w.mem ∧
      t.st.retry = s.st.retry ++ [e] ∧ e.rcv = .strand id ∧ e.tries = 0 ∧ e.delay = 1 ∧ e.msg.payload = payload ∧
      e.msg.sender = BitVec.ofNat 64 (s.coreid * 2 ^ 41 +
        (if idHandle id = idHandle s.st.id then idIndex s.st.id else 0xFFFFFFFF))
    (va.toNat % 64 ≠ 0 → exec (.msend d a b) s = .next (s.trapA 0x21 1 va)) ∧
    (s.Plain .read va 64 x → s.policy x.vc ≠ 3 →
      (¬ own → ¬ core → ¬ far → exec (.msend d a b) s = .next (u.result d 1)) ∧
      (s.noneHeld = true →
        (own ∨ core → 16 ≤ s.st.retry.length → exec (.msend d a b) s = .next w) ∧
        (s.st.retry.length < 16 →
          (own → (w.strandById (mkId (idHandle s.st.id) n) = none → exec (.msend d a b) s = .next (w.result d 2)) ∧
            ((w.strandById (mkId (idHandle s.st.id) n)).isSome → sends (mkId (idHandle s.st.id) n))) ∧
          (core → (w.occupant master = none → exec (.msend d a b) s = .next (w.result d 2)) ∧
            (∀ q st, w.occupant master = some q → w.strandById q.id = some st →
              (st.vf ≠ s.st.vf → exec (.msend d a b) s = .next (w.result d 3)) ∧
              (st.vf = s.st.vf → sends q.id))) ∧
          (far → w.sysWait = .ok () → bit s.fab.fxep 16 = false → exec (.msend d a b) s = .next (w.result d 4)))))

/-- R314, R316 (14): the first try of a message to a strand of this package, at its event, and a later try once its delay is over.
It is appended to an inbox with room; it goes to the overflow inbox of a strand that is switched out or has messages there; a full
inbox leaves it in the retry buffer with the delay doubled up to 64 µs; the message to an ended strand is dropped. -/
def Sys2Proof.Parts.MessageDelivery : Prop :=
  ∀ (s : State) (e : RetryMsg) (rest : List RetryMsg) (id : StrandId), s.st.place ≠ .management → s.st.retry = e :: rest →
    e.rcv = .strand id →
    ∀ i, (i = Instr.messageDelivery (some s.st.id) ∧ e.tries = 0 ∨ i = .retryDelayExpiry (some s.st.id) ∧ e.tries ≠ 0 ∧ e.due ≤ s.time) →
      let left := fun (u : State) (l : List RetryMsg) => u.mapStrand s.st.id (fun st => { st with retry := l })
      (s.attempt id = .appended → exec i s = .next (left (s.appendTo id e.msg) rest)) ∧
      (s.attempt id = .overflow → exec i s = .next (left (s.overflowTo id e.msg) rest)) ∧
      (s.attempt id = .ended → exec i s = .next (left s rest)) ∧
      (s.attempt id = .refused → e.tries + 1 < 32 → exec i s = .next (left s
        ({ e with tries := e.tries + 1, delay := min (2 * e.delay) 64, due := s.time + e.delay } :: rest))) ∧
      (s.attempt id = .refused → e.tries + 1 = 32 → exec i s = .next (left (s.overflowTo id e.msg) rest))

/-- R447, R314, R325 (14, 25): the oldest hub message is delivered: appended to an inbox with room, once it has crossed to the
receiver's die, else to the overflow inbox; one to a strand that has ended is logged, but for an engine's, which is only discarded. -/
def Sys2Proof.Parts.HubMessage : Prop :=
  ∀ (s : State) (id : StrandId) (m : Msg) (rest : List HubMsg),
    (s.cp.hubOut = [] → exec .hubMessageDelivery s = .next s) ∧
    (s.cp.hubOut = { rcv := some id, msg := m } :: rest →
      let u : State := { s with cp := { s.cp with hubOut := rest } }
      let d := u.dieOfStrand id
      (u.attempt id = .appended → exec .hubMessageDelivery s =
        .next (({ u with net := u.net.send 0 d { cls := .request } } : State).appendTo id { m with bad := m.bad || u.net.lostAhead 0 d })) ∧
      (u.attempt id = .overflow ∨ u.attempt id = .refused → exec .hubMessageDelivery s = .next (u.overflowTo id m)) ∧
      (u.attempt id = .ended → exec .hubMessageDelivery s = .next (if m.sender.toNat / 2 ^ 60 = 2 then u else u.log 0 0)))

/-- R312, R314, R315 (14): a message from a remote package, with the fabric enabled: 3 answers a source that the access list bars, 1 a
target of no legal form, 2 a core with no strand. One that binds is answered 0 and held here: a strand's inbox with room takes it, and
it is acknowledged; a full inbox leaves it to be tried again, and once its delay is over a try that succeeds is acknowledged. -/
def Sys2Proof.Parts.RemoteMessage : Prop :=
  ∀ (s : State) (src : BitVec 10) (target : BitVec 32) (payload : BitVec 512) (core : BitVec 9), bit s.fab.fxep 16 = true →
    let i := Instr.remoteMessageArrival src target payload core
    let c := target.toNat % 512
    let allowed := (vget s.fab.fxacl 0 (src.toNat / 64)).getLsbD (src.toNat % 64)
    let legal : Prop := target.toNat / 2 ^ 29 = 4 ∧ target.toNat / 2 ^ 9 % 2 ^ 10 = 0 ∧ c < 400
    let master := if c < 384 then c / 8 else 48 + (c - 384)
    (allowed = false → exec i s = .next (s.answer src 3)) ∧
    (allowed = true → ¬ legal → exec i s = .next (s.answer src 1)) ∧
    (allowed = true → legal → s.occupant master = none → exec i s = .next (s.answer src 2)) ∧
    (∀ st, allowed = true → legal → s.occupant master = some st → s.cp.remoteIn = [] →
      let d := s.dieOfStrand st.id
      let m : Msg :=
        { payload := payload, sender := BitVec.ofNat 64 (2 ^ 60 + src.toNat * 2 ^ 50 + core.toNat * 2 ^ 41 + 0xFFFFFFFF)
          bad := s.net.lostAhead 0 d }
      let u : State := { s with net := s.net.send 0 d { cls := .request } }
      (s.attempt st.id = .appended → exec i s = .next ((((u.answer src 0).appendTo st.id m).answer src 0x80))) ∧
      (s.attempt st.id = .refused → ∃ t r, exec i s = .next t ∧ t.cp.remoteIn = [r] ∧ r.ep = src ∧ r.core = core ∧
        r.entry = { msg := m, rcv := .strand st.id, tries := 1, delay := 2, due := s.time + 1 } ∧ t.mem = s.mem)) ∧
    (∀ r rest id, s.cp.remoteIn = r :: rest → r.entry.rcv = .strand id → r.entry.tries ≠ 0 → r.entry.due ≤ s.time →
      s.attempt id = .appended →
      let u := s.appendTo id r.entry.msg
      exec (.retryDelayExpiry none) s = .next (({ u with cp := { u.cp with remoteIn := rest } } : State).answer r.ep 0x80))

/-- Sending and delivering messages. -/
def Obligations.MessagesSent : Prop :=
  Sys2Proof.Parts.MessageSend ∧ Sys2Proof.Parts.MessageDelivery ∧ Sys2Proof.Parts.HubMessage ∧ Sys2Proof.Parts.RemoteMessage

/-- R317, R316, R347 (14, 15): MRECV of the head stores the oldest message's payload at a multiple of 64, as a scalar store, writes its
sender word to s[d], and takes it from the inbox, into which the oldest overflow message moves; with an empty inbox it stalls. MPEEK
writes the sender word of the oldest message, or all ones, and changes nothing else. A message that came poisoned is a machine check. -/
def Sys2Proof.Parts.MessageReceive : Prop :=
  ∀ (s : State) (d a : BitVec 5),
    (∀ x m rest, s.Plain .write (s.getS a) 64 x → s.st.inbox = m :: rest → m.bad = false →
      ∃ t e, exec (.mrecv d a) s = .next t ∧ t.x.pc = s.x.pc + 4 ∧ s.Got t d m.sender ∧
        t.st.sbuf = s.st.sbuf ++ [e] ∧ e.pa = x.pa ∧ e.data = leBytes 64 m.payload.toNat ∧
        (s.Apart → ∀ i, i < 64 → t.viewByte false (x.pa + i) = BitVec.ofNat 8 (m.payload.toNat / 256 ^ i)) ∧
        (s.st.overflow = [] → t.st.inbox = rest ∧ t.st.overflow = []) ∧
        (∀ q qs, s.st.overflow = q :: qs → t.st.inbox = rest ++ [q] ∧ t.st.overflow = qs)) ∧
    (∀ x m rest, s.Plain .write (s.getS a) 64 x → s.st.inbox = m :: rest → m.bad = true →
      exec (.mrecv d a) s = .next (s.trapA 0xC0 1 (s.getS a))) ∧
    (∀ x, s.Plain .write (s.getS a) 64 x → s.st.inbox = [] → exec (.mrecv d a) s = .next s) ∧
    (s.st.place.master? ≠ none → (∀ m rest, s.st.inbox = m :: rest → m.bad = false) → ∃ t, exec (.mpeek d) s = .next t ∧
      s.Wrote t d (match s.st.inbox with | [] => BitVec.allOnes 64 | m :: _ => m.sender) (s.x.pc + 4))

/-- R318 (14): WAKEW stores s[b] at the word, and the store is performed when it completes. WAITW passes with the word in s[d] when
that differs from s[b], and stays when it does not; on a page of pool kind both trap with cause 0x84. -/
def Sys2Proof.Parts.WaitWords : Prop :=
  ∀ (s : State) (d a b : BitVec 5) (x : Xl),
    (s.Plain .write (s.getS a) 8 x → s.release.Plain .write (s.getS a) 8 x → s.noneHeld = true →
      (x.kind = 0 → ∃ t, exec (.wakew a b) s = .next t ∧ t.x.pc = s.x.pc + 4 ∧ s.Got t 0 0 ∧ t.st.sbuf = [] ∧
        (∀ i, i < 8 → t.memByte (x.pa + i) = BitVec.ofNat 8 ((s.getS b).toNat / 256 ^ i)) ∧
        (∀ q, q < x.pa ∨ x.pa + 8 ≤ q → t.memByte q = s.release.memByte q)) ∧
      (x.kind = 2 → exec (.wakew a b) s = .next (s.trapA 0x84 2 (s.getS a)))) ∧
    (s.Plain .read (s.getS a) 8 x → s.policy x.vc ≠ 3 →
      let w : Word := BitVec.ofNat 64 (leNat ((List.range 8).map (fun i => s.viewByte false (x.pa + i))))
      (x.kind = 0 → w ≠ s.getS b → ∃ t, exec (.waitw d a b) s = .next t ∧ t.x.pc = s.x.pc + 4 ∧ s.Got t d w) ∧
      (x.kind = 0 → w = s.getS b → ∃ t, exec (.waitw d a b) s = .next t ∧ t.x.pc = s.x.pc ∧ t.x.sreg = s.x.sreg) ∧
      (x.kind = 2 → exec (.waitw d a b) s = .next (s.trapA 0x84 1 (s.getS a))))

/-- R318 (14): the wake of a word makes a strand that stands at a WAITW on it run that WAITW again. -/
def Sys2Proof.Parts.WaitWake : Prop :=
  ∀ (s : State) (pa : BitVec 52) (d a b : BitVec 5) (x : Xl), s.st.place.master? ≠ none → s.st.phase = .running →
    (∀ r ∈ s.parked, r.st.place = .management) → s.fetchedWaitw = some (d, a, b) →
    (s.locate .read (s.getS a).toNat).2 = .ok (.mem x) →
    (x.pa = pa.toNat → ∀ t, exec (.waitw d a b) s = .next t → t.st.id = s.st.id → t.st.place = s.st.place →
      exec (.waitwWake pa) s = .next t) ∧
    (x.pa ≠ pa.toNat → exec (.waitwWake pa) s = .next s)

/-- R327, R328 (14): a fabric write in the window of a gateway core's block queue is counted in its block, and a whole block enters the
queue; BQTAKE of that core takes the oldest block, stalls while there is none, and writes all ones while the queue is disabled. A
write of gwbqcfg empties the queue. -/
def Sys2Proof.Parts.BlockQueues : Prop :=
  ∀ (s : State) (d : BitVec 5) (g : Nat) (port : BitVec 5) (window : BitVec 6) (off : BitVec 36) (len : Nat), g < 16 →
    let q := vget s.gwq emptyGwq g
    let size := 256 * (q.cfg.toNat / 2 ^ 8 % 2 ^ 20)
    let blk := off.toNat / size
    (s.st.place = .gateway g → s.spec = false → s.feature 3 = true →
      (bit q.cfg 7 = false → ∃ t, exec (.bqtake d) s = .next t ∧ t.x.pc = s.x.pc + 4 ∧ s.Got t d (BitVec.allOnes 64)) ∧
      (bit q.cfg 7 = true → q.queue = [] → exec (.bqtake d) s = .next s) ∧
      (∀ b rest, bit q.cfg 7 = true → q.queue = b :: rest → q.waiting = [] →
        ∃ t, exec (.bqtake d) s = .next t ∧ t.x.pc = s.x.pc + 4 ∧ s.Got t d (BitVec.ofNat 64 b) ∧
          (vget t.gwq emptyGwq g).queue = rest)) ∧
    (∀ r, s.st.place = .ring r → s.feature 3 = true → exec (.bqtake d) s = .next (s.trapS 0x01 (wordOf (.bqtake d)))) ∧
    (port.toNat / 2 = g → bit q.cfg 7 = true → q.cfg.toNat % 64 = window.toNat → blk < q.cfg.toNat / 2 ^ 32 % 2 ^ 13 →
      q.bytes = [] → ∃ t, exec (.blockQueueWrite port window off len) s = .next t ∧ t.mem = s.mem ∧
        (size ≤ len → q.queue.length < 256 → (vget t.gwq emptyGwq g).queue = q.queue ++ [blk]) ∧
        (len < size → (vget t.gwq emptyGwq g).queue = q.queue ∧ (vget t.gwq emptyGwq g).bytes = [(blk, len)])) ∧
    (∀ v : Word, ∃ t, exec (.gwbqcfgWrite .pf (BitVec.ofNat 4 g) v) s = .next t ∧ (vget t.gwq emptyGwq g).queue = [] ∧
      (vget t.gwq emptyGwq g).waiting = [] ∧ (vget t.gwq emptyGwq g).bytes = [] ∧
      ((vget t.gwq emptyGwq g).cfg.toNat % 64 = v.toNat % 64))

/-- Receiving messages, wait words and block queues. -/
def Obligations.MessagesReceivedAndWaits : Prop :=
  Sys2Proof.Parts.MessageReceive ∧ Sys2Proof.Parts.WaitWords ∧ Sys2Proof.Parts.WaitWake ∧ Sys2Proof.Parts.BlockQueues

/-- R320, R321 (14): TOKS adds a token to its FIFO and TOKW takes one, when its queue holds nothing and the FIFO allows it; what the
queue has stored before a TOKS is performed with respect to the strand's core. In the scalar queue a full or an empty FIFO stalls the
strand. In another queue that holds something, or where the FIFO does not allow it, the instruction joins the queue and the front end
goes on; a full queue of 64 vector, 32 matrix or 16 engine instructions stalls. -/
def Sys2Proof.Parts.Tokens : Prop :=
  ∀ (s : State) (q : BitVec 2) (f : BitVec 3), s.st.place.master? ≠ none → s.spec = false →
    let n := s.tokens f
    let held := s.queue (queueOfCode q)
    let size := if q = 1 then 64 else if q = 2 then 32 else 16
    (held = [] → n ≠ 15 → ∃ t, exec (.toks q f) s = .next t ∧ t.x = s.advance.x ∧ t.tokens f = n + 1 ∧
      (∀ g, g ≠ f → t.tokens g = s.tokens g) ∧ (q ≠ 1 → t.mem = s.mem) ∧
      (q = 0 → ∀ e ∈ t.st.sbuf, e.joined = true) ∧ (q = 1 ∨ q = 2 → ∀ e ∈ t.st.vbuf, e.joined = true)) ∧
    (held = [] → n ≠ 0 → exec (.tokw q f) s =
      .next ({ s with st := { s.st with tokens := vset s.st.tokens f.toNat (n - 1) } } : State).advance) ∧
    (n = 15 → exec (.toks 0 f) s = .next s) ∧ (n = 0 → exec (.tokw 0 f) s = .next s) ∧
    (q ≠ 0 → held.length < size →
      (n = 15 ∨ held ≠ [] → exec (.toks q f) s = .next (s.enqueue (queueOfCode q) (.toks q f)).advance) ∧
      (n = 0 ∨ held ≠ [] → exec (.tokw q f) s = .next (s.enqueue (queueOfCode q) (.tokw q f)).advance)) ∧
    (q ≠ 0 → size ≤ held.length → exec (.toks q f) s = .next s ∧ exec (.tokw q f) s = .next s)

/-- R320 (14): the token instruction at the front of a queue pushes or pops once its FIFO allows it, and leaves the queue; the other
FIFOs, the strand's registers and what the queues hold behind it stay. -/
def Sys2Proof.Parts.TokenEvents : Prop :=
  ∀ (s : State) (q c : BitVec 2) (f : BitVec 3) (it : QItem) (rest : List QItem), s.queue (queueOfCode q) = it :: rest →
    let n := s.tokens f
    let moved := fun (t : State) (k : BitVec 4) => t.tokens f = k ∧ (∀ g, g ≠ f → t.tokens g = s.tokens g) ∧ t.x = s.x ∧
      (t.queue (queueOfCode q)).map (·.instr) = rest.map (·.instr) ∧
      ∀ p, p ≠ queueOfCode q → (t.queue p).map (·.instr) = (s.queue p).map (·.instr)
    (it.instr = .toks c f → n ≠ 15 → ∃ t, exec (.tokenPush q) s = .next t ∧ moved t (n + 1)) ∧
    (it.instr = .toks c f → n = 15 → exec (.tokenPush q) s = .next s) ∧
    (it.instr = .tokw c f → n ≠ 0 → ∃ t, exec (.tokenPop q) s = .next t ∧ moved t (n - 1) ∧ t.mem = s.mem) ∧
    (it.instr = .tokw c f → n = 0 → exec (.tokenPop q) s = .next s)

/-- R322 (14): with the other queues empty and the front end of a head at a token instruction of the scalar queue that its FIFO stalls,
the strand traps there with cause 0x85, tval holding the word. With the vector queue at a TOKW whose FIFO is empty, no instruction held
elsewhere, and a front end that waits for it, the trap is taken at that TOKW, in the state in which it was issued, nothing held. A
speculative chunk, a front end that can go on and a queue whose front can be performed raise nothing. -/
def Sys2Proof.Parts.TokenDeadlock : Prop :=
  ∀ (s : State), s.spec = false →
    (∀ (f : BitVec 3) (i : Instr), s.st.fork = none → s.st.vqueue = [] → s.st.mqueue = [] → s.st.equeue = [] →
      (∀ b ∈ s.st.sbuf ++ s.st.vbuf, b.issue ≤ s.st.qcount) →
      s.atPc = some i → (i = .toks 0 f ∧ s.tokens f = 15 ∨ i = .tokw 0 f ∧ s.tokens f = 0) →
      exec .tokenDeadlock s = .next (s.trapS 0x85 (wordOf i))) ∧
    (∀ (f : BitVec 3) (i : Instr) (it : QItem), s.st.vqueue = [it] → it.instr = .tokw 1 f → s.tokens f = 0 →
      s.st.mqueue = [] → s.st.equeue = [] → s.atPc = some i → s.frontWaits i = true → s.stalledScalar = none →
      let u := s.rollback it
      exec .tokenDeadlock s = .next (u.trapS 0x85 (wordOf it.instr)) ∧ u.x.pc = it.x.pc ∧ u.x.sreg = it.x.sreg ∧
        u.st.vqueue = [] ∧ u.mem = s.mem) ∧
    (s.atPc = none ∨ (∀ i, s.atPc = some i → s.frontWaits i = false) ∨ (∃ q ∈ [Queue.vector, .matrix, .engine], s.stuck q = false) →
      exec .tokenDeadlock s = .next s)

/-- Tokens order the queues of a strand. -/
def Obligations.TokenInstructions : Prop :=
  Sys2Proof.Parts.Tokens ∧ Sys2Proof.Parts.TokenEvents ∧ Sys2Proof.Parts.TokenDeadlock

/-- R324 (14): ECMD of the 64-byte record at a multiple of 64 puts the command in the engine queue, the strand's earlier accesses
performed; a queue of 16 stalls. The command at the front of the queue is offered to engine s[a] as it was at issue: its status is 1
for a number above 15, 2 for a malformed record, 3 for a frozen or retired engine and 0 once accepted; a full engine makes it wait.
An identical command of the strand accepted at the same time may be merged. -/
def Sys2Proof.Parts.EngineCommand : Prop :=
  ∀ (s : State) (d a b : BitVec 5), s.spec = false →
    (∀ x, s.Plain .read (s.getS b) 64 x → s.policy x.vc ≠ 3 → s.noneHeld = true →
      let w := (s.atRead x 64).release
      let bytes := (List.range 64).map (fun i => s.viewByte false (x.pa + i))
      let it : QItem := { w.item (.ecmd d a b) with cmd := BitVec.ofNat 512 (leNat bytes) }
      (s.st.equeue.length < 16 → exec (.ecmd d a b) s = .next ({ w with st := { w.st with
        equeue := w.st.equeue ++ [it], qcount := w.st.qcount + 1 } } : State).advance) ∧
      (16 ≤ s.st.equeue.length → exec (.ecmd d a b) s = .next w)) ∧
    (∀ it rest, s.st.equeue = it :: rest → it.instr = .ecmd d a b →
      let e := (if a = 0 then 0 else vget it.x.sreg 0 a.toNat)
      let g := s.engine e.toNat
      let answered := fun (t : State) (code : Word) => s.Got t d code ∧ t.st.equeue.map (·.instr) = rest.map (·.instr)
      let status := fun (code : Word) => ∃ t, exec .engineAccept s = .next t ∧ answered t code ∧ t.eng = s.eng ∧ t.mem = s.mem
      (16 ≤ e.toNat → status 1) ∧
      (e.toNat < 16 → engMalformed it.cmd = true → status 2) ∧
      (e.toNat < 16 → engMalformed it.cmd = false → g.shut = true → status 3) ∧
      (e.toNat < 16 → engMalformed it.cmd = false → g.shut = false → s.engTwin e.toNat it.cmd = false →
        (64 ≤ g.cmds.length → exec .engineAccept s = .next s) ∧
        (g.cmds.length < 64 → ∃ t, exec .engineAccept s = .next t ∧ answered t 0 ∧
          ∃ c, (t.engine e.toNat).cmds = g.cmds ++ [c] ∧ c.record = it.cmd ∧ c.issuer = s.st.id ∧ c.vf = s.st.vf ∧
            c.result = none)) ∧
      (e.toNat < 16 → engMalformed it.cmd = false → g.shut = false → s.engTwin e.toNat it.cmd = true → g.cmds.length < 64 →
        ∃ t, exec .engineAccept s = .next t ∧ answered t 0 ∧
          ((t.engine e.toNat).cmds.length = g.cmds.length ∨ (t.engine e.toNat).cmds.length = g.cmds.length + 1)))

/-- R326 (14): ECMDB at user level traps with cause 0xE1, with an illegal vtype with 0x62, with a misaligned group or more than 32
slots a register with 0x60. Else, with no access held in a queue, it completes, and bit j of k[d] is set only for a slot j below vl;
with an engine number above 15, an engine that is frozen or retired or one that is full no bit is set. -/
def Sys2Proof.Parts.EngineCommandBlock : Prop :=
  ∀ (s : State) (k a b : BitVec 5), s.st.place.master? ≠ none →
    (s.lvl = 0 → exec (.ecmdb k a b) s = .next (s.trapS 0xE1 (wordOf (.ecmdb k a b)))) ∧
    (1 ≤ s.lvl → s.spec = false →
      (vill s.x.vtype = true → exec (.ecmdb k a b) s = .next (s.trapS 0x62 s.x.vtype)) ∧
      (vill s.x.vtype = false → ¬ (b.toNat % s.vgm = 0 ∧ s.vl ≤ 32 * s.vgm) →
        exec (.ecmdb k a b) s = .next (s.trapS 0x60 (wordOf (.ecmdb k a b)))) ∧
      (vill s.x.vtype = false → b.toNat % s.vgm = 0 → s.vl ≤ 32 * s.vgm → s.noneHeld = true → k.toNat < 8 →
        k ≠ 0 → ∃ t, exec (.ecmdb k a b) s = .next t ∧ t.x.pc = s.x.pc + 4 ∧
          (∀ j, s.vl ≤ j → (vget t.x.kreg 0 k.toNat).getLsbD j = false) ∧
          (let g := s.engine (s.getS a).toNat
           16 ≤ (s.getS a).toNat ∨ g.shut = true ∨ 64 ≤ g.cmds.length →
             vget t.x.kreg 0 k.toNat = 0 ∧ t.eng = s.eng ∧ t.mem = s.release.mem)))

/-- ECMD and ECMDB issue commands to a stream engine. -/
def Obligations.EngineCommandsIssued : Prop :=
  Sys2Proof.Parts.EngineCommand ∧ Sys2Proof.Parts.EngineCommandBlock

/-- R323, R325 (14): an engine goes on with its oldest command without a result when the event is of the command's operation and the
engine is in service. When every piece it moves lies on accepted pages of local memory and nothing makes it wait, the command ends with
result 0, or 3 where it read poison. In general the moves are carried out in order until one stops: with none stopping the result is 0 or
3, with the bytes written; a not-present page ends it with result 1 and the failing address; another failed translation with result 2,
and the engine freezes. -/
def Sys2Proof.Parts.EnginePerforms : Prop :=
  ∀ (s : State) (e : BitVec 4) (c : EngCmd), (s.engine e.toNat).shut = false →
    (s.engine e.toNat).cmds.find? (fun c => c.result.isNone) = some c →
    let g := s.engine e.toNat
    let r := readEngRec c.record
    let here := fun (write : Bool) (va n : Nat) => ∀ p ∈ pagePieces va n, ∃ x, c.at_ write p.1 = .ok x ∧ x.kind ≠ 1
    let events := [(Instr.engineCopy e, 0), (.engineFill e, 1), (.engineTranspose e, 2), (.engineQuantisingCopy e, 3)]
    ∀ p ∈ events,
      (r.op ≠ p.2 → exec p.1 s = .next s) ∧
      (r.op = p.2 →
        ((∀ m ∈ r.moves, here false m.src m.len ∧ ∀ bs, bs.length = m.len → here true m.dst (m.make bs).length) → c.reads = [] →
          s.clo.here = [] → (∀ l ∈ s.cache.lines, l.holder ≠ .host) →
          ∃ t d v, exec p.1 s = .next t ∧ (t.engine e.toNat).cmds = setFirst d g.cmds ∧ d.record = c.record ∧ d.result = some v ∧
            (v.1 = 0 ∨ v.1 = 3) ∧ (c.bad = none → v.1 = 0 → v.2.1 = 0)) ∧
        (∀ t d, s.engMoves e.toNat (r.moves.drop c.moves) c = (t, d, none) →
          exec p.1 s = .next (t.setEngine e.toNat { g with cmds := setFirst { d with
            result := some (match d.bad with | none => (0, 0, d.written) | some va => (3, va, d.written)) } g.cmds })) ∧
        (∀ t d w va, s.engMoves e.toNat (r.moves.drop c.moves) c = (t, d, some (.fail 0x22 w va)) →
          exec p.1 s = .next (t.setEngine e.toNat { g with cmds := setFirst { d with
            result := some (1, BitVec.ofNat 64 va, d.written) } g.cmds })) ∧
        (∀ t d cause w va, cause ≠ 0x22 → s.engMoves e.toNat (r.moves.drop c.moves) c = (t, d, some (.fail cause w va)) →
          ∃ u, exec p.1 s = .next u ∧ (u.engine e.toNat).frozen = true ∧
            (u.engine e.toNat).cmds = setFirst { d with result := some (2, BitVec.ofNat 64 va, d.written) } g.cmds))

/-- R325, R403 (14, 18): a performed command leaves its engine once no write of the engine through a window awaits its
acknowledgement, with one completion message to the issuer for each ECMD that it stands for when notify is set; a storage error ends
every queued command with result 3 and retires the engine. -/
def Sys2Proof.Parts.EngineCompletes : Prop :=
  ∀ (s : State) (e : BitVec 4) (c : EngCmd) (rest : List EngCmd) (v : BitVec 8 × Word × Nat),
    (s.engine e.toNat).cmds = c :: rest → (s.engine e.toNat).frozen = false →
    let posted : Prop := ∃ q ∈ s.fab.reqs, q.kind = .engine ∧ q.slot = some e.toNat
    (c.result = none ∨ posted → exec (.engineCompletion e) s = .next s) ∧
    (c.result = some v → ¬ posted → (readEngRec c.record).notify = false → ∃ t, exec (.engineCompletion e) s = .next t ∧
      (t.engine e.toNat).cmds = rest ∧ t.cp = s.cp ∧ t.mem = s.mem ∧ t.st = s.st) ∧
    (c.result = some v → ¬ posted → (readEngRec c.record).notify = true → ∃ t m, exec (.engineCompletion e) s = .next t ∧
      (t.engine e.toNat).cmds = rest ∧
      t.cp.hubOut = s.cp.hubOut ++ List.replicate (c.merged + 1) { rcv := some c.issuer, msg := m } ∧
      m.payload.toNat % 2 ^ 32 = (readEngRec c.record).tag ∧ m.payload.toNat / 2 ^ 32 % 256 = v.1.toNat ∧
      m.payload.toNat / 2 ^ 64 % 2 ^ 64 = v.2.1.toNat) ∧
    (∃ t, exec (.engineStorageError e) s = .next t ∧ (t.engine e.toNat).retired = true ∧
      (∀ q ∈ (t.engine e.toNat).cmds, q.result ≠ none) ∧ t.mem = s.mem ∧
      (c.result = none → ((t.engine e.toNat).cmds.head?).bind (·.result) = some (3, 0, 0)))

/-- An engine performs and completes its commands. -/
def Obligations.EngineCommandsPerformed : Prop :=
  Sys2Proof.Parts.EnginePerforms ∧ Sys2Proof.Parts.EngineCompletes

/-- R323 (14): a copy of one row and a fill of one row, between accepted local pages: the destination bytes become the source's, or
the pattern repeated from its first byte, and no other byte of memory changes. -/
def Obligations.EngineCopyAndFillBytes : Prop :=
  ∀ (s : State) (e : BitVec 4) (c : EngCmd) (src dst : PageXl), s.memWf = true → (s.engine e.toNat).shut = false →
    (s.engine e.toNat).cmds = [c] → c.result = none → c.moves = 0 → c.written = 0 → c.bad = none → c.reads = [] →
    let r := readEngRec c.record
    let from_ := src.pa + r.src.toNat % 65536
    let to_ := dst.pa + r.dst.toNat % 65536
    r.rows = 1 → 0 < r.len → r.src.toNat % 65536 + r.len ≤ 65536 → r.dst.toNat % 65536 + r.len ≤ 65536 →
    c.pages.find? (fun p => p.page == r.dst.toNat / 65536 && p.write == true) = some dst → dst.cause = 0 → dst.kind ≠ 1 →
    s.blocked true to_ r.len = false →
    (r.op = 0 → c.pages.find? (fun p => p.page == r.src.toNat / 65536 && p.write == false) = some src → src.cause = 0 →
      src.kind ≠ 1 → s.blocked false from_ r.len = false → (∀ i, i < r.len → s.poisoned (from_ + i) = false) →
      ∃ t, exec (.engineCopy e) s = .next t ∧ (∀ i, i < r.len → t.memByte (to_ + i) = s.memByte (from_ + i)) ∧
        (∀ q, q < to_ ∨ to_ + r.len ≤ q → t.memByte q = s.memByte q) ∧
        ((t.engine e.toNat).cmds.map (·.result)) = [some (0, 0, r.len)]) ∧
    (r.op = 1 → ∃ t, exec (.engineFill e) s = .next t ∧
      (∀ i, i < r.len → t.memByte (to_ + i) = BitVec.ofNat 8 (r.src.toNat / 256 ^ (i % 8))) ∧
      (∀ q, q < to_ ∨ to_ + r.len ≤ q → t.memByte q = s.memByte q) ∧
      ((t.engine e.toNat).cmds.map (·.result)) = [some (0, 0, r.len)])

/-- R63, R381 (03, 17), R354, R355 (16), R390 (18), R435 (24): what a write by the physical function stores in the
registers of the command processor, the fabric, the bank counters and the mailbox (R382), and that nothing else changes; a write by a
virtual function to any of them changes nothing, and one at offset 0 is a write of its launch port. A write of mbcmd, of atcmd or of
the nonce (R384, 17; R445, 25) acts as its event does. -/
def Sys2Proof.Parts.HostRegisterWrites : Prop :=
  ∀ (s : State) (v : Word) (f i : Nat) (off : Nat) (w : BitVec 5) (g : BitVec 4), f < 32 → i < 64 →
    (∀ i ∈ [Instr.gwbqcfgWrite (.vf w) g v, .cpunfrz (.vf w) v], exec i s = .next s) ∧
    (off ≠ 0 → exec (.registerWrite (.vf w) off v) s = .next s) ∧
    exec (.registerWrite (.vf w) 0 v) s = exec (.cplaunch (.vf w) w v) s ∧
    exec (.registerWrite .pf 8 v) s = exec (.mbcmdCommit v) s ∧ exec (.registerWrite .pf 0x4040 v) s = exec (.atcmd v) s ∧
    (∀ k : Nat, k < 8 → s.mbx.atstat ≠ 2 → ∃ nonce, exec (.registerWrite .pf (0x4000 + 8 * k) v) s = exec (.attestNonceWrite nonce) s ∧
      ∀ j : Nat, j < 8 → wordAt nonce j = if j = k then v else wordAt s.mbx.nonce j) ∧
    (let c := s.cp
     ∀ p ∈ [(0x10010 + 0x40 * f, { c with vfcfg := vset c.vfcfg f (v &&& 0x1FF) }),
            (0x10018 + 0x40 * f, { c with parta := vset c.parta f v }),
            (0x10020 + 0x40 * f, { c with proot := vset c.proot f (v &&& 0xFFFFFFFFFFFFF) }),
            (0x10028 + 0x40 * f, { c with evtgt := vset c.evtgt f (v &&& 0x1FFFFFFFF) }),
            (0x10030 + 0x40 * f, { c with ptvec := vset c.ptvec f (v &&& 0x3FFFFFFFFFFFFC) }),
            (0x10038 + 0x40 * f, { c with phys := vset c.phys f (v &&& 0x800003FFFFFF03FF) }),
            (0x11000, { c with quant := BitVec.ofNat 64 (max (v.toNat % 2 ^ 32) 100) }),
            (0x11010, { c with svbase := v &&& 0xFFFFFFFFF0000 }),
            (0x11018, { c with svcnt := BitVec.ofNat 64 (max (v.toNat % 2 ^ 24) 64) })],
       exec (.registerWrite .pf p.1 v) s = .next { s with cp := p.2 }) ∧
    (let c := s.fab
     ∀ p ∈ [(0x14000, { c with fxep := v &&& 0x103FF }),
            (0x14008, { c with fxtmo := BitVec.ofNat 64 (max (v.toNat % 2 ^ 32) 10) }),
            (0x14100 + 8 * (f % 16), { c with fxacl := vset c.fxacl (f % 16) v }),
            (0x14010, { c with fxclcfg := BitVec.ofNat 64 (min (max 1 (v.toNat / 2 ^ 32 % 2 ^ 16)) 512 * 2 ^ 32 +
              max 1 (v.toNat / 2 ^ 16 % 2 ^ 16) * 2 ^ 16 + max 1 (v.toNat % 2 ^ 16)) }),
            (0x14200 + 0x20 * i, { c with wina := vset c.wina i (v &&& 0x3FFFFFFFFFFFFF) }),
            (0x14208 + 0x20 * i, { c with winb := vset c.winb i (v &&& 0xFFFFFFFFF0000) }),
            (0x14210 + 0x20 * i, { c with winc := vset c.winc i (v &&& 0xE3E00000001FFFFF) })],
       exec (.registerWrite .pf p.1 v) s = .next { s with fab := p.2 }) ∧
    (∀ k : Nat, k < 4 → bits v 48 8 ≤ 6 → ∃ t, exec (.registerWrite .pf (0x15000 + 0x40 * f + 8 * k) v) s = .next t ∧
      t = { s with cp := { s.cp with bankCtr := t.cp.bankCtr } } ∧
      (∀ j : Nat, j < 128 → j ≠ 4 * f + k → vget t.cp.bankCtr 0 j = vget s.cp.bankCtr 0 j) ∧
      ∀ j : Nat, j < 64 → bit (vget t.cp.bankCtr 0 (4 * f + k)) j = (bit v j && !decide (56 ≤ j ∧ j ≤ 60))) ∧
    (exec (.registerWrite .pf 0x68 v) s = .next { s with mbx := { s.mbx with evhead := v } }) ∧
    (∀ k : Nat, k < 4 →
      (bits s.mbx.mbstat 1 2 = 0 →
        exec (.registerWrite .pf (0x30 + 8 * k) v) s = .next { s with mbx := { s.mbx with fa := vset s.mbx.fa k v } }) ∧
      (bits s.mbx.mbstat 1 2 ≠ 0 → exec (.registerWrite .pf (0x30 + 8 * k) v) s = .next s))

/-- R383, R384 (17): the one commit of the accepted feature words sets status 1, or 2 when a word asks for a bit that is not
offered, the base feature is missing, or the windows exceed 512 or together 768; nothing else changes. Any other write of mbcmd
does nothing. R445 (25): a nonce clears atstat, unless a report is being prepared; atcmd starts one; the report holds version 1,
the image digest, the nonce and the serial number, signed. -/
def Sys2Proof.Parts.MailboxCommands : Prop :=
  ∀ (s : State) (v : Word) (nonce : BitVec 512),
    let m := s.mbx
    let hdm := m.hdmcfg.toNat % 2 ^ 10
    let bad : Prop := (∃ i : Nat, i < 4 ∧ vget m.fa 0 i &&& ~~~(vget m.fw 0 i) ≠ 0) ∨ (vget m.fa 0 0).getLsbD 0 = false ∨
      512 < hdm ∨ 768 < m.hdmcfg.toNat / 2 ^ 16 % 2 ^ 10 + hdm
    (v = 1 → m.mbstat.getLsbD 0 = true → m.mbstat.toNat / 2 % 4 = 0 →
      ∃ t, exec (.mbcmdCommit v) s = .next t ∧ t = { s with mbx := { m with mbstat := t.mbx.mbstat } } ∧
        (∀ j : Nat, j ≠ 1 → j ≠ 2 → t.mbx.mbstat.getLsbD j = m.mbstat.getLsbD j) ∧
        (bad → t.mbx.mbstat.toNat / 2 % 4 = 2) ∧ (¬ bad → t.mbx.mbstat.toNat / 2 % 4 = 1)) ∧
    (v ≠ 1 ∨ m.mbstat.getLsbD 0 = false ∨ m.mbstat.toNat / 2 % 4 ≠ 0 → exec (.mbcmdCommit v) s = .next s) ∧
    (m.atstat ≠ 2 → exec (.attestNonceWrite nonce) s = .next { s with mbx := { m with nonce := nonce, atstat := 0 } }) ∧
    (m.atstat ≠ 2 → v = 1 → exec (.atcmd v) s = .next { s with mbx := { m with atstat := 2 } }) ∧
    (m.atstat = 2 → exec (.attestNonceWrite nonce) s = .next s ∧ exec (.atcmd v) s = .next s) ∧
    (m.atstat ≠ 2 → exec .attestReportReady s = .next s) ∧
    (m.atstat = 2 → ∃ t, exec .attestReportReady s = .next t ∧
      t = { s with mbx := { m with report := t.mbx.report, atstat := 1 } } ∧
      t.mbx.report.extractLsb' 0 64 = 1 ∧ t.mbx.report.extractLsb' 64 512 = s.imageDigest ∧
      t.mbx.report.extractLsb' 576 512 = m.nonce ∧ t.mbx.report.extractLsb' 1088 128 = Config.serial ∧
      t.mbx.report.extractLsb' 1216 4096 = Config.signature (t.mbx.report.extractLsb' 0 1216))

/-- R156 (07), R439, R443, R444 (25): the register writes that the table lists as events: vl clamped to VLMAX, vtype or vill, by a
strand above user level alone; the throttle steps; the thresholds of the selected sensor, rel no higher than alrt; a firmware
record, its bit 63 set, in the next of the 512 places of the log. -/
def Sys2Proof.Parts.RegisterWriteEvents : Prop :=
  ∀ (s : State) (v : Word),
    (1 ≤ s.lvl → exec (.vlWrite v) s =
        .next { s with x := { s.x with vl := BitVec.ofNat 64 (min v.toNat (vlmaxOf s.x.vtype)) } } ∧
      exec (.vtypeWrite v) s = .next { s with x := { s.x with vtype := if v.toNat < 64 then v else 0x8000000000000000 } }) ∧
    (s.lvl = 0 → exec (.vlWrite v) s = .next s ∧ exec (.vtypeWrite v) s = .next s) ∧
    (exec (.mgthrWrite v) s = .next { s with mg := { s.mg with thr := v.setWidth 32 } }) ∧
    (96 ≤ s.mg.sel.toNat → exec (.mgalrtWrite v) s = .next s) ∧
    (∀ q, s.mg.sensors.toArray[s.mg.sel.toNat]? = some q →
      let alrt : BitVec 16 := v.setWidth 16
      let rel : BitVec 16 := (v >>> 16).setWidth 16
      let q' : Sensor := { q with alrt := alrt, rel := if alrt.toInt < rel.toInt then alrt else rel }
      exec (.mgalrtWrite v) s = .next { s with mg := { s.mg with sensors := vset s.mg.sensors s.mg.sel.toNat q' } }) ∧
    (∃ t, exec (.mglogw v) s = .next t ∧ t = { s with sram := t.sram, mg := { s.mg with tail := s.mg.tail + 1 } } ∧
      (let a := 0x3E000 + s.mg.tail.toNat % 512 * 16
       Memory.wf (fun _ => 0) s.sram = true →
        (∀ i, i < 8 → Memory.read t.sram (fun _ => 0) (a + i) = BitVec.ofNat 8 (s.time / 256 ^ i)) ∧
        (∀ i, i < 8 → Memory.read t.sram (fun _ => 0) (a + 8 + i) =
          BitVec.ofNat 8 ((v ||| 0x8000000000000000).toNat / 256 ^ i)) ∧
        ∀ q, q < a ∨ a + 16 ≤ q → Memory.read t.sram (fun _ => 0) q = Memory.read s.sram (fun _ => 0) q))

/-- Register writes by the host, the mailbox and attestation, and management register events. -/
def Obligations.HostRegisters : Prop :=
  Sys2Proof.Parts.HostRegisterWrites ∧ Sys2Proof.Parts.MailboxCommands ∧ Sys2Proof.Parts.RegisterWriteEvents

/-- R433, R434 (24): PMCR reads the 48-bit count; PMCW sets the count alone and PMCF the four enables alone; both at supervisor level
and above, at user level they trap with cause 0xE1. R432, R435: the wrap of a counter at 2^48 − 1 clears the count and sets
ovf; with oie set it also makes an event pending, or sends the function's supervisor one. A counter that cannot wrap stays. -/
def Obligations.PerformanceCounters : Prop :=
  ∀ (s : State) (d a : BitVec 5) (j k : BitVec 2) (v : BitVec 5),
    let w := vget s.st.pmcfg 0 j.toNat
    let b := vget s.cp.bankCtr 0 (4 * v.toNat + k.toNat)
    (s.st.place.master? ≠ none → ∃ t, exec (.pmcr d j) s = .next t ∧ s.Wrote t d (BitVec.ofNat 64 (w.toNat % 2 ^ 48)) (s.x.pc + 4)) ∧
    (s.st.place.master? ≠ none → s.lvl = 0 → ∀ i ∈ [Instr.pmcw a j, .pmcf a], exec i s = .next (s.trapS 0xE1 (wordOf i))) ∧
    (s.st.place.master? ≠ none → 1 ≤ s.lvl → s.spec = false →
      (∃ t, exec (.pmcw a j) s = .next t ∧
        t = ({ s with st := { s.st with pmcfg := t.st.pmcfg } } : State).advance ∧
        (∀ i : Nat, i < 4 → i ≠ j.toNat → vget t.st.pmcfg 0 i = vget s.st.pmcfg 0 i) ∧
        ∀ n : Nat, n < 64 → bit (vget t.st.pmcfg 0 j.toNat) n = if n < 48 then bit (s.getS a) n else bit w n) ∧
      (∃ t, exec (.pmcf a) s = .next t ∧ t = ({ s with st := { s.st with pmcfg := t.st.pmcfg } } : State).advance ∧
        ∀ i n : Nat, i < 4 → n < 64 →
          bit (vget t.st.pmcfg 0 i) n = if n = 63 then bit (s.getS a) i else bit (vget s.st.pmcfg 0 i) n)) ∧
    (bit w 63 = false ∨ w.toNat % 2 ^ 48 ≠ 2 ^ 48 - 1 ∨ s.st.place = .management → exec (.counterWrap j) s = .next s) ∧
    (bit w 63 = true → w.toNat % 2 ^ 48 = 2 ^ 48 - 1 → s.st.place ≠ .management →
      ∃ t, exec (.counterWrap j) s = .next t ∧ t.x = s.x ∧ t.mem = s.mem ∧
        (∀ n : Nat, n < 64 → bit (vget t.st.pmcfg 0 j.toNat) n = (decide (48 ≤ n) && (n == 62 || bit w n))) ∧
        (bit w 61 = true → t.st.ovfPend = s.st.ovfPend ||| (1#4 <<< j.toNat) ∧ bit t.st.trap.status 11 = true) ∧
        (bit w 61 = false → t.st.ovfPend = s.st.ovfPend ∧ t.st.trap = s.st.trap)) ∧
    (bit b 63 = false ∨ b.toNat % 2 ^ 48 ≠ 2 ^ 48 - 1 ∨ s.cp.bankFrozen.getLsbD v.toNat = true →
      exec (.bankCounterWrap v k) s = .next s) ∧
    (bit b 63 = true → b.toNat % 2 ^ 48 = 2 ^ 48 - 1 → s.cp.bankFrozen.getLsbD v.toNat = false →
      ∃ t, exec (.bankCounterWrap v k) s = .next t ∧ t.x = s.x ∧ t.st = s.st ∧ t.mem = s.mem ∧
        (∀ n : Nat, n < 64 → bit (vget t.cp.bankCtr 0 (4 * v.toNat + k.toNat)) n = (decide (48 ≤ n) && (n == 62 || bit b n))) ∧
        (bit b 61 = false → t.cp.hubOut = s.cp.hubOut) ∧
        (bit b 61 = true → ∃ u : State, t = u.tellSupervisor v.toNat (record [(0, 2, 8), (2, 1, k.toNat)]) ∧
          u = { s with cp := { s.cp with bankCtr := u.cp.bankCtr } }))

/-- R276, R279, R280 (12): a walk from a usable root, the entries read being e1, e2 and e3: an invalid entry ends it with cause 0x22, a
malformed one with 0x24, a poisoned one with 0xC0; a level-2 leaf maps 512 MiB, a level-3 leaf 64 KiB; an address of 2^54 or more has
cause 0x20, an unusable root 0x24. A walk whose entry an earlier access of the strand has yet to store waits (R281). -/
def Obligations.TranslationWalk : Prop :=
  ∀ (s : State) (rd : Nat → Option Word) (ptroot : Word) (vf va : Nat) (e1 e2 e3 : Word),
    let root := ptroot.toNat / 2 ^ 16 % 2 ^ 36 * 2 ^ 16
    let at1 := root + 8 * (va / 2 ^ 42)
    let at2 := ptePpn e1 * 2 ^ 16 + 8 * (va / 2 ^ 29 % 2 ^ 13)
    let at3 := ptePpn e2 * 2 ^ 16 + 8 * (va / 2 ^ 16 % 2 ^ 13)
    let w := s.walk rd ptroot vf va
    let ends := fun (a : Nat) (e : Word) (lv : Nat) =>
      (s.poisoned a = true → w = .error 0xC0) ∧ (s.poisoned a = false → pteV e = false → w = .error 0x22) ∧
      (s.poisoned a = false → pteV e = true → s.malformed vf e lv = true → w = .error 0x24)
    let fine := fun (a : Nat) (e : Word) (lv : Nat) => s.poisoned a = false ∧ pteV e = true ∧ s.malformed vf e lv = false
    let down := fine at1 e1 1 ∧ rd at1 = some e1
    let down2 := down ∧ rd at2 = some e2 ∧ fine at2 e2 2 ∧ pteLf e2 = false
    (2 ^ 54 ≤ va → w = .error 0x20) ∧
    (va < 2 ^ 54 → isHbm root = false ∨ s.allowed vf root 65536 = false → w = .error 0x24) ∧
    (va < 2 ^ 54 → isHbm root = true → s.allowed vf root 65536 = true →
      (rd at1 = some e1 → ends at1 e1 1) ∧
      (down → rd at2 = some e2 → ends at2 e2 2 ∧
        (fine at2 e2 2 → pteLf e2 = true → w = .ok { entry := e2, large := true, at_ := at2 })) ∧
      (down2 → rd at3 = some e3 → ends at3 e3 3 ∧
        (fine at3 e3 3 → w = .ok { entry := e3, large := false, at_ := at3 })) ∧
      (rd at1 = none ∨ down ∧ rd at2 = none ∨ down2 ∧ rd at3 = none → w = .error mustWait))

/-- R289 (12): TLBINV drops every cached translation of the core, or those of the page of s[a] under the current asid or global; TLOGA
applies the die's log; ATRAN writes kind, vcache and address of the translation, or bit 63 and the cause, and changes nothing
else; a poisoned entry is a machine check, and an entry that an access held in a queue has yet to store makes it wait. At user level
these and TLOGW trap with cause 0xE1. -/
def Sys2Proof.Parts.TranslationInstructions : Prop :=
  ∀ (s : State) (d a : BitVec 5) (k : BitVec 2) (m : Nat), s.st.place.master? = some m →
    (s.lvl = 0 → ∀ i ∈ [Instr.tlbinv a, .tlogw a, .tloga, .atran d a k], exec i s = .next (s.trapS 0xE1 (wordOf i))) ∧
    (1 ≤ s.lvl →
      (a = 0 → exec (.tlbinv a) s = .next ({ s with tlb := s.tlb.filter (fun t => t.master != m) } : State).advance) ∧
      (a ≠ 0 → ∃ t, exec (.tlbinv a) s = .next t ∧ t = ({ s with tlb := t.tlb } : State).advance ∧
        ∀ e, e ∈ t.tlb ↔ e ∈ s.tlb ∧ ¬ (e.master = m ∧ (pteG e.entry = true ∨ e.asid = s.st.asid.setWidth 16) ∧
          e.vpage = (s.getS a).toNat / (if e.large then 2 ^ 29 else 2 ^ 16))) ∧
      exec .tloga s = .next (s.applyLog s.die).advance ∧
      (let kind : Acc := if k = 0 then .read else if k = 1 then .write else .exec
       (∀ x, s.xlateProbe s.walkRead s.space kind (s.getS a).toNat = .ok x →
          ∃ t, exec (.atran d a k) s = .next t ∧
            s.Wrote t d (BitVec.ofNat 64 (x.kind * 2 ^ 60 + x.vc * 2 ^ 52 + x.pa)) (s.x.pc + 4)) ∧
       (∀ c, s.xlateProbe s.walkRead s.space kind (s.getS a).toNat = .error c →
          (c ≠ 0xC0 → c ≠ mustWait →
            ∃ t, exec (.atran d a k) s = .next t ∧ s.Wrote t d (BitVec.ofNat 64 (2 ^ 63 + c.toNat)) (s.x.pc + 4)) ∧
          (c = 0xC0 → exec (.atran d a k) s = .next (s.trapA 0xC0 kind.akind (s.getS a))) ∧
          (c = mustWait → exec (.atran d a k) s = .next s))))

/-- R288 (12): applying die d's log drops exactly the translations of the die's cores that an entry not yet applied names, or all of
them when the log has overflowed; it then counts as applied, and no other byte of memory changes. -/
def Sys2Proof.Parts.TranslationLogApplied : Prop :=
  ∀ (s : State) (d : Nat), s.memWf = true → d ≤ 8 →
    let base := s.mbx.tlbase.toNat + d * 65536
    let app := (s.mem64 base).toNat
    let done := (s.mem64 (base + 8)).toNat
    let ovf := (s.memByte (base + 16)).getLsbD 0
    let t := s.applyLog d
    done ≤ app → app ≤ done + 4092 →
    (∀ e, e ∈ t.tlb ↔ e ∈ s.tlb ∧ ¬ (dieOfMaster e.master = d ∧ (ovf = true ∨ ∃ c, done ≤ c ∧ c < app ∧
      (let a := base + 64 + c % 4092 * 16
       logNames (s.mem64 a).toNat (leNat (s.memBytes (a + 8) 2)) (s.memByte (a + 10)).toNat e = true)))) ∧
    t.mem64 base = s.mem64 base ∧ t.mem64 (base + 8) = s.mem64 base ∧ (t.memByte (base + 16)).getLsbD 0 = false ∧
    ∀ q, q < base + 8 ∨ base + 17 ≤ q → t.memByte q = s.memByte q

/-- R287, R289, R284 (12): TLOGW of the 16-byte record at s[a], a multiple of 16 and an accepted address, no access of the strand being held in
a queue: it appends the record to each of the nine logs that has room and marks the others overflowed; a record of operation 4 takes the
page's class away instead, and every holder but the host, which is asked for them, gives its lines up. A reserved byte or an operation above 4 traps with cause 0x26, a misaligned
record with 0x21, and any inside a fork with 0x27. -/
def Sys2Proof.Parts.TranslationLogAppend : Prop :=
  ∀ (s : State) (a : BitVec 5), s.st.place.master? ≠ none → 1 ≤ s.lvl →
    let va := s.getS a
    (s.st.active = true → exec (.tlogw a) s = .next (s.trapS 0x27 (wordOf (.tlogw a)))) ∧
    (s.st.active = false → va.toNat % 16 ≠ 0 → exec (.tlogw a) s = .next (s.trapA 0x21 1 va)) ∧
    (∀ x, s.Plain .read va 16 x → s.policy x.vc ≠ 3 →
      let bs := (List.range 16).map (fun i => s.viewByte false (x.pa + i))
      let u := s.atRead x 16
      let w := u.release
      let op := (bs.getD 10 0).toNat
      let zero : Prop := ∀ b ∈ bs.drop 11, b = 0
      (¬ zero ∨ 4 < op → exec (.tlogw a) s = .next (u.trapS 0x26 va)) ∧
      (zero → op ≤ 4 → s.noneHeld = false → exec (.tlogw a) s = .next u) ∧
      (zero → op = 4 → s.noneHeld = true → ∃ t, exec (.tlogw a) s = .next t ∧ t.x.pc = s.x.pc + 4 ∧ t.x.sreg = s.x.sreg ∧
        (∀ c ∈ t.classes, c.1 ≠ leNat (bs.take 8) / 65536 % 2 ^ 36) ∧
        (∀ c ∈ t.cache.lines, c.line / 1024 = leNat (bs.take 8) / 65536 % 2 ^ 36 →
          c.holder = .host ∨ c.state = .evictPending ∨ c.state = .pendingFill)) ∧
      (zero → op < 4 → s.noneHeld = true →
        ∃ t, exec (.tlogw a) s = .next t ∧ t.x.pc = s.x.pc + 4 ∧ t.x.sreg = s.x.sreg ∧
          ∀ n, n < 9 →
            let base := w.mbx.tlbase.toNat + n * 65536
            let app := w.mem64 base
            (app - w.mem64 (base + 8) ≠ 4092 → t.mem64 base = app + 1 ∧
              ∀ i, i < 16 → t.memByte (base + 64 + app.toNat % 4092 * 16 + i) = bs.getD i 0) ∧
            (app - w.mem64 (base + 8) = 4092 → t.mem64 base = app ∧ (t.memByte (base + 16)).getLsbD 0 = true)))

/-- TLBINV, TLOGW, TLOGA and ATRAN; the translation logs. -/
def Obligations.TranslationMaintenance : Prop :=
  Sys2Proof.Parts.TranslationInstructions ∧ Sys2Proof.Parts.TranslationLogApplied ∧ Sys2Proof.Parts.TranslationLogAppend

/-- R262 (11): VCDEF of the plat record `bs` read at a multiple of 128: 2 for a misaligned or malformed record, 5 for identifiers 0 and
1, 4 where a supervisor may not name the owner or the identifier, 1 while the identifier drains, 3 for a parcel that is fenced or
another vcache's, and else 0: the identifier then has the plat, its old one drains, and no other identifier changes. A record that any
core, the management core among them, reads is meant, and one at an accepted cached address is read so. -/
def Sys2Proof.Parts.VcacheDefine : Prop :=
  ∀ (s : State) (d a : BitVec 5), s.st.place ≠ .saved → s.feature 2 = true → 1 ≤ s.lvl → s.spec = false →
    let va := s.getS a
    (va.toNat % 128 ≠ 0 → ∃ t, exec (.vcdef d a) s = .next t ∧ s.Wrote t d 2 (s.x.pc + 4)) ∧
    (∀ u bs, va.toNat % 128 = 0 ∧ s.memRead va 128 = .ok (u, bs) ∨
        (∃ x, s.Plain .read va 128 x ∧ s.policy x.vc ≠ 3 ∧ u = s.atRead x 128 ∧
          bs = (List.range 128).map (fun i => s.viewByte false (x.pa + i))) →
      (readPlat bs = none → exec (.vcdef d a) s = .next (u.result d 2)) ∧
      (∀ p, readPlat bs = some p →
        let mine : Prop := u.lvl = 1 → p.owner = u.st.vf.toNat ∧ ∀ v q, u.vcache? p.id = some v → v.plat? = some q →
          q.owner = u.st.vf.toNat
        let draining : Prop := ∃ v, u.vcache? p.id = some v ∧ (v.draining ≠ none ∨ v.deleting = true)
        let taken : Prop := (∃ c ∈ u.cache.fenced, p.map.getLsbD (c.toNat / 16) = true ∧ p.waymask.getLsbD (c.toNat % 16) = true) ∨
          ∃ v ∈ u.cache.vcaches, v.id ≠ p.id ∧ ∃ q, (v.current = some q ∨ v.draining = some q) ∧ q.map &&& p.map ≠ 0 ∧
            q.waymask &&& p.waymask ≠ 0
        (p.id ≤ 1 → exec (.vcdef d a) s = .next (u.result d 5)) ∧
        (2 ≤ p.id → ¬ mine → exec (.vcdef d a) s = .next (u.result d 4)) ∧
        (2 ≤ p.id → mine → draining → exec (.vcdef d a) s = .next (u.result d 1)) ∧
        (2 ≤ p.id → mine → ¬ draining → taken → exec (.vcdef d a) s = .next (u.result d 3)) ∧
        (2 ≤ p.id → mine → ¬ draining → ¬ taken → ∃ t v, exec (.vcdef d a) s = .next t ∧ t.x.pc = u.x.pc + 4 ∧ u.Got t d 0 ∧
          t.mem = u.mem ∧ t.vcache? p.id = some v ∧ v.current = some p ∧ v.draining = (u.vcache? p.id).bind (·.current) ∧
          ∀ id, id ≠ p.id → t.vcache? id = u.vcache? id)))

/-- R272 (11): VCDEL: 6 for an identifier that has no vcache, 5 for 0 and 1, 4 for one that a supervisor does not own, 1 while it drains,
and else 0: its plat drains, with no current plat. R273: VCQRY writes the summary of the vcache; 0 for one not defined or of another
owner. -/
def Sys2Proof.Parts.VcacheDeleteAndQuery : Prop :=
  ∀ (s : State) (d a : BitVec 5), s.st.place ≠ .saved →
    let id := (s.getS a).toNat
    (s.feature 2 = true → 1 ≤ s.lvl → s.spec = false →
      let answers := fun (code : Word) => ∃ t, exec (.vcdel d a) s = .next t ∧ s.Wrote t d code (s.x.pc + 4)
      (255 < id → answers 6) ∧ (id ≤ 1 → answers 5) ∧ (2 ≤ id → s.vcache? id = none → answers 6) ∧
      (∀ v, id ≤ 255 → 2 ≤ id → s.vcache? id = some v →
        let mine : Prop := s.lvl = 1 → ∀ p, v.plat? = some p → p.owner = s.st.vf.toNat
        (¬ mine → answers 4) ∧
        (mine → v.draining ≠ none ∨ v.deleting = true → answers 1) ∧
        (mine → v.draining = none → v.deleting = false → ∃ t w, exec (.vcdel d a) s = .next t ∧ t.x.pc = s.x.pc + 4 ∧ s.Got t d 0 ∧
          t.mem = s.mem ∧ t.vcache? id = some w ∧ w.current = none ∧ w.draining = v.current ∧ w.deleting = true ∧
          ∀ i, i ≠ id → t.vcache? i = s.vcache? i))) ∧
    (∃ t v, exec (.vcqry d a) s = .next t ∧ s.Wrote t d v (s.x.pc + 4) ∧
      (id = 0 → v = 0x8000000000000000) ∧
      (2 ≤ id → s.vcache? id = none → v = 0) ∧
      (∀ c p, 2 ≤ id → s.vcache? id = some c → c.plat? = some p → p.owner ≠ 0xFF → p.owner ≠ s.st.vf.toNat → v = 0) ∧
      (∀ c p, 2 ≤ id → s.vcache? id = some c → c.plat? = some p → p.owner = 0xFF ∨ p.owner = s.st.vf.toNat → p.policy < 8 →
        p.line < 4 → bit v 63 = true ∧ bit v 62 = (c.draining.isSome || c.deleting) ∧ bit v 61 = c.degraded ∧
          bits v 48 8 = p.owner ∧ bits v 45 3 = p.policy ∧ bit v 44 = p.repl ∧ bits v 42 2 = p.line ∧
          bits v 37 5 = (List.range 16).countP (fun i => p.waymask.getLsbD i) ∧
          bits v 27 10 = (List.range 512).countP (fun i => p.map.getLsbD i)))

/-- R274 (11): over the pages of a range, each translated for reads to xs of its first byte: VCSYNC drops the copies that a read-only vcache
and the core's L1 hold of the range's lines, and VCFLUSH makes the dirty copies of the range, in the core's L1 and in the vcaches, clean;
a page of fabric kind is skipped, and memory stays as it is. The write-backs of VCFLUSH may count (R435). A range in one page shows which lines go: VCSYNC acts on whole lines of the
vcache. The first page that fails traps, tval holding the range's first byte in it. An empty range does nothing, one past 2^54 traps
with cause 0x20. -/
def Sys2Proof.Parts.VcacheRangeOperations : Prop :=
  ∀ (s : State) (a b : BitVec 5), s.st.place.master? ≠ none →
    let va := (s.getS a).toNat
    let n := (s.getS b).toNat
    let pages := (List.range ((va + n - 1) / 65536 - va / 65536 + 1)).map (fun i => max va ((va / 65536 + i) * 65536))
    let maps := fun (p : Nat) (x : Xl) => s.keptXl p = none ∧ s.xlate s.walkRead s.space .read p = (s, .ok x)
    let gone := fun (l : CLine) => l.state = .evictPending ∨ l.state = .pendingFill
    (n = 0 → ∀ i ∈ [Instr.vcsync a b, .vcflush a b], exec i s = .next s.advance) ∧
    (n ≠ 0 → 2 ^ 54 < va + n → ∀ i ∈ [Instr.vcsync a b, .vcflush a b], exec i s = .next (s.trapA 0x20 1 (s.getS a))) ∧
    (n ≠ 0 → va + n ≤ 2 ^ 54 →
      (∀ c, s.keptXl va = none → (s.xlate s.walkRead s.space .read va).2 = .error c →
        ∀ i ∈ [Instr.vcsync a b, .vcflush a b],
          exec i s = .next ((s.xlate s.walkRead s.space .read va).1.trapA c 1 (s.getS a))) ∧
      (∀ xs : Nat → Xl, (∀ p ∈ pages, maps p (xs p)) →
        let at_ := fun (q : Nat) => ((xs (max va (q / 65536 * 65536))).pa + (q - max va (q / 65536 * 65536))) / 64
        let page := fun (q : Nat) => xs (max va (q / 65536 * 65536))
        (∃ t, exec (.vcsync a b) s = .next t ∧
          t = ({ s with roCopies := t.roCopies, cache := { s.cache with lines := t.cache.lines }, net := t.net } : State).advance ∧
          ∀ q, va ≤ q → q < va + n → (page q).kind ≠ 1 → s.policy (page q).vc = 3 →
            (∀ c ∈ t.roCopies, ¬ (c.vcache = (page q).vc ∧ c.line = at_ q)) ∧
            ∀ l ∈ t.cache.lines, l.line = at_ q → l.holder = .l1 s.coreid ∨ l.holder = .vcache (page q).vc → gone l) ∧
        (∃ t, exec (.vcflush a b) s = .next t ∧
          let u := ({ s with cache := { s.cache with lines := t.cache.lines }, net := t.net } : State).advance
          u.Counted t ∧ (s.countsNone [6] = true → t = u) ∧
          ∀ q, va ≤ q → q < va + n → (page q).kind ≠ 1 →
            ∀ l ∈ t.cache.lines, l.line = at_ q → l.holder = .l1 s.coreid ∨ (∃ v, l.holder = .vcache v) →
              l.state ≠ .modified ∧ l.state ≠ .owned)) ∧
      (∀ x, va % 65536 + n ≤ 65536 → maps va x →
        (x.kind = 1 → ∀ i ∈ [Instr.vcsync a b, .vcflush a b], exec i s = .next s.advance) ∧
        (x.kind ≠ 1 → s.policy x.vc ≠ 3 → exec (.vcsync a b) s = .next s.advance) ∧
        (x.kind ≠ 1 → s.policy x.vc = 3 →
          let span := match s.platOf x.vc with | some p => 2 ^ p.line | none => 1
          let touched := fun (l : Nat) => x.pa / 64 / span ≤ l / span ∧ l / span ≤ (x.pa + n - 1) / 64 / span
          ∃ t, exec (.vcsync a b) s = .next t ∧
            (∀ c, c ∈ t.roCopies ↔ c ∈ s.roCopies ∧ ¬ (c.vcache = x.vc ∧ touched c.line)) ∧
            (∀ l ∈ s.cache.lines, ¬ (touched l.line ∧ (l.holder = .l1 s.coreid ∨ l.holder = .vcache x.vc)) → l ∈ t.cache.lines))))

/-- Vcaches: definition, deletion, queries and range operations. -/
def Obligations.VirtualCaches : Prop :=
  Sys2Proof.Parts.VcacheDefine ∧ Sys2Proof.Parts.VcacheDeleteAndQuery ∧ Sys2Proof.Parts.VcacheRangeOperations

/-- R269, R293 (11, 13): an operation that arrives at a bank replaces its 4 or 8 aligned bytes by the operation's result, a failed
compare leaving them; it is not performed on poison, or while the line is in doubt or held by the host. R270: the additions that pend at
an address are applied in order of arrival as one store, each exact at its own width. -/
def Sys2Proof.Parts.BankArithmetic : Prop :=
  ∀ (s : State) (pa : BitVec 52) (wide : Bool) (op : BitVec 5) (x cmp : Word), s.memWf = true →
    let n := if wide then 8 else 4
    let a := pa.toNat
    let old := leNat (s.memBytes a n)
    let able : Prop := op.toNat ≤ 10 ∧ a % n = 0 ∧ (isHbm a || isHostMem a || isPool a) = true ∧ s.poisoned a = false ∧
      s.inDoubt a n = false ∧ s.hostLines true a n = []
    (¬ able → exec (.farAtomicAtBank pa wide op x cmp) s = .next s) ∧
    (able → ∃ t, exec (.farAtomicAtBank pa wide op x cmp) s = .next t ∧
      (∀ q, q < a ∨ a + n ≤ q → t.memByte q = s.memByte q) ∧
      (op = 0 → leNat (t.memBytes a n) = (old + x.toNat) % 2 ^ (8 * n)) ∧
      (op = 8 → leNat (t.memBytes a n) = x.toNat % 2 ^ (8 * n)) ∧
      (op = 9 → leNat (t.memBytes a n) = if old = cmp.toNat % 2 ^ (8 * n) then x.toNat % 2 ^ (8 * n) else old) ∧
      (∀ new, atomicNew op.toNat (8 * n) old (x.toNat % 2 ^ (8 * n)) (cmp.toNat % 2 ^ (8 * n)) = some new →
        leNat (t.memBytes a n) = new % 2 ^ (8 * n))) ∧
    ((∀ c ∈ s.scatter, c.pa ≠ a) → exec (.scatterAddApply pa) s = .next s) ∧
    (∀ c rest, s.scatter.filter (fun c => c.pa == a) = c :: rest → (∀ e ∈ c :: rest, e.op = 0) →
      let sum := ((c :: rest).map (fun e => e.value.toNat)).sum
      ∃ t, exec (.scatterAddApply pa) s = .next t ∧ t.scatter = s.scatter.filter (fun c => c.pa != a) ∧
        leNat (t.memBytes a 4) = (leNat (s.memBytes a 4) + sum) % 2 ^ 32 ∧
        ((∀ e ∈ c :: rest, e.wide = true) → leNat (t.memBytes a 8) = (leNat (s.memBytes a 8) + sum) % 2 ^ 64) ∧
        (∀ q, q < a ∨ a + 8 ≤ q → t.memByte q = s.memByte q) ∧
        ((∀ e ∈ c :: rest, e.wide = false) → ∀ q, a + 4 ≤ q → t.memByte q = s.memByte q))

/-- R435, R436 (24): the chain of additions applied at an address counts as one event 5, and a write-back of a vcache's line as one
event 6, on each counter of the function that owns the vcache, where the counter is enabled for that event and no world switch has
frozen it; other functions' counters for it stay. That the chain counts for the vcache of its oldest addition, and the write-back
when it is acknowledged, is the model's choice (log entry 118). -/
def Sys2Proof.Parts.BankEvents : Prop :=
  ∀ (s : State) (i : Instr) (ev vc : Nat) (pa : BitVec 52) (v : Vcache) (p : Plat) (f k : Nat), f < 32 → k < 4 →
    s.vcache? vc = some v → v.plat? = some p → p.owner < 32 →
    (i = .scatterAddApply pa ∧ ev = 5 ∧ (∃ c rest, s.scatter.filter (fun c => c.pa == pa.toNat) = c :: rest ∧ c.vc = vc)) ∨
      (i = .writebackAck (.vcache vc) pa ∧ ev = 6 ∧
        ∃ l, s.cline? (.vcache vc) (pa.toNat / 64) = some l ∧ l.state = .evictPending) →
    let b := vget s.cp.bankCtr 0 (4 * f + k)
    bits b 48 8 = ev →
    ∃ t, exec i s = .next t ∧
      (p.owner = f → bit b 63 = true → s.cp.bankFrozen.getLsbD f = false → b.toNat % 2 ^ 48 < 2 ^ 48 - 1 →
        vget t.cp.bankCtr 0 (4 * f + k) = b + 1) ∧
      (p.owner ≠ f ∨ bit b 63 = false ∨ s.cp.bankFrozen.getLsbD f = true → vget t.cp.bankCtr 0 (4 * f + k) = b)

/-- R263, R264, R272 (11): a step of a drain takes the first draining line that can leave, with all its sectors: a clean line, or one of a
read-only plat, is dropped; a dirty one moves to the current plat where that has lines of the size and a way free for it, and else is
written back, each counted once. With no draining line left the drain completes: the identifier of a deletion goes, another has its
current plat alone, and no copy that a read-only plat served stays; the issuing strand is sent the message with the counts. -/
def Sys2Proof.Parts.VcacheDrain : Prop :=
  ∀ (s : State) (id : BitVec 8) (v : Vcache) (old : Plat), s.vcache? id.toNat = some v → v.draining = some old →
    (∀ l, s.cache.lines.find? (drains id.toNat) = some l →
      let dirty : Prop := ∃ c ∈ s.cache.lines, s.sameLine l c = true ∧ (c.state = .modified ∨ c.state = .owned)
      let left := fun (t : State) => t.mem = s.mem ∧
        (∀ c ∈ s.cache.lines, (∀ d ∈ s.cache.lines, s.sameLine l d = true → d.holder ≠ c.holder ∨ d.line ≠ c.line) → c ∈ t.cache.lines) ∧
        ∀ c ∈ t.cache.lines, s.sameLine l c = true → c.state = .evictPending ∨ c.state = .pendingFill
      let way := v.current.bind (fun p => if p.line = old.line then s.freeWay (some p) l.line else none)
      (old.policy = 3 ∨ ¬ dirty → ∃ t, exec (.vcacheDrainStep id) s = .next t ∧ left t ∧ t.cache.vcaches = s.cache.vcaches) ∧
      (old.policy ≠ 3 → dirty →
        (∀ w, way = some w → ∃ t, exec (.vcacheDrainStep id) s = .next t ∧
          t.cache.lines = s.cache.lines.map (fun c => if s.sameLine l c then { c with current := true, way := w } else c) ∧
          t.vcache? id.toNat = some { v with moved := v.moved + 1 } ∧ t.mem = s.mem) ∧
        (way = none → ∃ t, exec (.vcacheDrainStep id) s = .next t ∧ left t ∧
          t.vcache? id.toNat = some { v with written := v.written + 1 }))) ∧
    (s.cache.lines.find? (drains id.toNat) = none → exec (.vcacheDrainStep id) s = .next s) ∧
    ((∃ l ∈ s.cache.lines, l.holder = .vcache id.toNat ∧ l.current = false) → exec (.drainComplete id) s = .next s) ∧
    (∀ q, (∀ l ∈ s.cache.lines, ¬ (l.holder = .vcache id.toNat ∧ l.current = false)) → v.issuer = some q →
      ∃ t m, exec (.drainComplete id) s = .next t ∧
        t.vcache? id.toNat = (if v.deleting then none else some { v with draining := none }) ∧
        t.roCopies = (if old.policy = 3 then s.roCopies.filter (fun c => c.vcache != v.id) else s.roCopies) ∧
        t.cp.hubOut = s.cp.hubOut ++ [{ rcv := some q, msg := m }] ∧ t.mem = s.mem ∧
        m.payload.toNat % 2 ^ 16 = 1 ∧ m.payload.toNat / 2 ^ 16 % 2 ^ 8 = v.id % 2 ^ 8 ∧
        m.payload.toNat / 2 ^ 32 % 2 ^ 32 = v.moved % 2 ^ 32 ∧ m.payload.toNat / 2 ^ 64 % 2 ^ 32 = v.written % 2 ^ 32)

/-- R268 (11): an uncorrectable error fences the parcel: no cached line stands in it any longer, its dirty lines are poison, and its
vcache, or vcache 1, is degraded; an error of a fenced parcel does nothing. -/
def Sys2Proof.Parts.ParcelFenced : Prop :=
  ∀ (s : State) (c : BitVec 13),
    (c ∈ s.cache.fenced → exec (.parcelError c) s = .next s) ∧
    (c ∉ s.cache.fenced → ∃ t, exec (.parcelError c) s = .next t ∧ t.cache.fenced = s.cache.fenced ++ [c] ∧ t.mem = s.mem ∧
      t.x = s.x ∧ t.st = s.st ∧
      (∀ l, l ∈ t.cache.lines ↔ l ∈ s.cache.lines ∧ s.lineInParcel (c.toNat / 16) (c.toNat % 16) l = false) ∧
      (∀ l ∈ s.cache.lines, s.lineInParcel (c.toNat / 16) (c.toNat % 16) l = true → l.state = .modified ∨ l.state = .owned →
        l.line ∈ t.poison) ∧
      ((∀ v ∈ s.cache.vcaches, v.holdsParcel (c.toNat / 16) (c.toNat % 16) = false) → t.cache.sysDegraded = true) ∧
      (∀ v, s.cache.vcaches.find? (fun v => v.holdsParcel (c.toNat / 16) (c.toNat % 16)) = some v →
        t.vcache? v.id = (s.vcache? v.id).map (fun _ => { v with degraded := true })))

/-- Far atomics at a bank, additions at the scatter-add units, drains of a vcache, and fenced parcels. -/
def Obligations.BankArithmetic : Prop :=
  Sys2Proof.Parts.BankArithmetic ∧ Sys2Proof.Parts.BankEvents ∧ Sys2Proof.Parts.VcacheDrain ∧ Sys2Proof.Parts.ParcelFenced

/-- R364, R367 (16): GOPEN opens the lowest free local group for the strand, with no store yet, and writes its number; with none free
it writes bit 63 and 1. R374: GABORT of an open group of the strand aborts it with reason 6, and of another has no effect. -/
def Sys2Proof.Parts.GroupOpenAndAbort : Prop :=
  ∀ (s : State) (d a : BitVec 5), s.st.place.master? ≠ none → s.feature 1 = true → s.spec = false →
    let free := fun (l : Nat) => ∀ r, s.group1? l = some r → s.groupFree r = true
    ((∀ l, l < 64 → ¬ free l) → ∃ t, exec (.gopen d) s = .next t ∧ s.Wrote t d 0x8000000000000001 (s.x.pc + 4)) ∧
    (∀ l, l < 64 → free l → (∀ m, m < l → ¬ free m) → ∃ t g, exec (.gopen d) s = .next t ∧ t.x.pc = s.x.pc + 4 ∧
      s.Got t d (BitVec.ofNat 64 (bits s.fab.fxep 0 10 * 64 + l)) ∧ t.group1? l = some g ∧ g.state = .open_ ∧ g.owner = s.st.id ∧
      g.held = true ∧ g.seq = 0 ∧ g.dests = [] ∧ (∀ m, m ≠ l → t.group1? m = s.group1? m) ∧ t.mem = s.mem) ∧
    (s.openGroup (s.getS a) = none → ∃ t, exec (.gabort a) s = .next t ∧ s.Wrote t 0 0 (s.x.pc + 4)) ∧
    (∀ r, s.openGroup (s.getS a) = some r → ∃ t g, exec (.gabort a) s = .next t ∧ t.x.pc = s.x.pc + 4 ∧
      t.group1? r.loc = some g ∧ g.state = .aborted ∧ g.reason = 6 ∧ g.held = !r.dests.isEmpty ∧ t.mem = s.mem ∧
      t.x.sreg = s.x.sreg)

/-- R368, R365 (16): GST of a head chunk to a page of fabric kind, in an open group of the strand: the group counts the store in its
destination, with the next sequence number, and its request is outstanding; in a doomed group nothing is sent, and a store for a seventeenth
destination dooms the group. A word that names no open group of the strand traps with cause 0xA3, a page of another kind with 0xA4. `u`
is the state once the address has been translated; GST changes no byte of memory. -/
def Sys2Proof.Parts.GroupStore : Prop :=
  ∀ (s : State) (d a b : BitVec 5) (w : BitVec 2) (x : Xl), s.st.place.master? ≠ none → s.feature 1 = true → s.spec = false →
    let va := s.getS a
    let n := 2 ^ w.toNat
    let u := (s.xlate s.walkRead s.space .write va.toNat).1
    va.toNat < 2 ^ 54 → va.toNat % n = 0 → s.regionAt va.toNat n = none → s.keptXl va.toNat = none →
    (s.xlate s.walkRead s.space .write va.toNat).2 = .ok x →
    (x.kind ≠ 1 → exec (.gst d a b w) s = .next (u.trapA 0xA4 2 va)) ∧
    (x.kind = 1 → u.openGroup (u.getS b) = none → exec (.gst d a b w) s = .next (u.trapS 0xA3 (u.getS b))) ∧
    (∀ r, x.kind = 1 → u.openGroup (u.getS b) = some r →
      (r.state = .doomed → exec (.gst d a b w) s = .next u.advance) ∧
      (∀ ds, r.state = .open_ → countStore (BitVec.ofNat 10 x.ep) (storeHash x.window x.off n (leNat (leBytes n (u.getS d).toNat)))
          r.dests 16 = some ds →
        ∃ t q, exec (.gst d a b w) s = .next t ∧ t.x.pc = u.x.pc + 4 ∧ t.x.sreg = u.x.sreg ∧ t.mem = u.mem ∧
          t.group1? r.loc = some { r with seq := r.seq + 1, dests := ds } ∧
          q ∈ t.fab.reqs ∧ q.kind = .group ∧ q.ep = BitVec.ofNat 10 x.ep ∧ q.owner = u.st.id ∧
          q.group = some (bits u.fab.fxep 0 10 * 64 + r.loc, r.seq, 1)) ∧
      (r.state = .open_ → (r.dests.map (·.ep)).length = 16 → BitVec.ofNat 10 x.ep ∉ r.dests.map (·.ep) →
        ∃ t, exec (.gst d a b w) s = .next t ∧ t.x.pc = u.x.pc + 4 ∧ t.group1? r.loc = some { r with state := .doomed } ∧
          t.fab = u.fab ∧ t.mem = u.mem))

/-- R368 (16), R361 (15): VGST of active elements that all lie, aligned, on fabric pages sends them as group stores of the open group that s[b]
names, in vector requests that each take a reply slot, of which there are enough free; it changes no register but vbeg and no memory. Each element to
a destination of the group, or to a new one that it has room for, counts; a doomed group sends nothing. A first active element on a page of
another kind traps with cause 0xA4, whatever the handle, and else a handle of no open group with 0xA3, in the order of GST (the model's
reading, log entry 68). -/
def Sys2Proof.Parts.VectorGroupStore : Prop :=
  ∀ (s : State) (d a b : BitVec 5) (k : BitVec 3) (x : Nat → Xl), s.Alone → s.feature 1 = true → vill s.x.vtype = false →
    vmemGroups s.x.vtype d s.ew 1 none false = true →
    let size := s.ew / 8
    let addr (i : Nat) : Word := s.getS a + BitVec.ofNat 64 (i * size)
    let act := (List.range s.vl).filter (fun i => (s.kmask k.toNat).getLsbD i && decide (s.vbeg ≤ i))
    let free := (List.range 64).countP (fun n => !s.fab.reqs.any (fun q => q.kind == .vector && q.slot == some n))
    (∀ i ∈ act, (addr i).toNat < 2 ^ 54 ∧ (addr i).toNat % size = 0 ∧ s.xlate s.walkRead s.space .write (addr i).toNat = (s, .ok (x i))) →
    (s.openGroup (s.getS b) = none → (∀ i rest, act = i :: rest → (x i).kind = 1) → ∃ t u : State,
      exec (.vgst d a b k) s = .next t ∧ t = u.trapS 0xA3 (s.getS b) ∧ u = { s with x := { s.x with pipe := u.x.pipe } }) ∧
    (∀ r, s.openGroup (s.getS b) = some r →
      (∀ i ∈ act, (x i).kind = 1) → act.length ≤ free → ∃ t, exec (.vgst d a b k) s = .next t ∧ t.mem = s.mem ∧
        t.x = { s.x with pc := s.x.pc + 4, vbeg := 0, replies := [], pipe := none } ∧
        (r.state = .doomed → t.fab = s.fab ∧ t.clo = s.clo) ∧
        (r.state = .open_ → ∀ ep, (∀ i ∈ act, BitVec.ofNat 10 (x i).ep = ep) → ep ∈ r.dests.map (·.ep) ∨ r.dests.length < 16 →
          ∃ g, t.group1? r.loc = some g ∧ g.state = .open_ ∧ g.seq = r.seq + act.length)) ∧
    ∀ i rest, act = i :: rest → (x i).kind ≠ 1 → s.Local .write (addr i) size (x i) → ∃ t u : State,
      exec (.vgst d a b k) s = .next t ∧ u.st = s.st ∧ u.mem = s.mem ∧ u.x = { s.x with vbeg := BitVec.ofNat 64 i } ∧
      t = u.raise { cause := 0xA4, akind := 2, pc := s.x.pc, tval := addr i, telem := BitVec.ofNat 64 i,
                    tstride := BitVec.ofNat 64 size, tremain := BitVec.ofNat 64 (s.vl - i) }

/-- R370, R372 (16): GCOMMIT of a word that names no open group of the strand traps with cause 0xA3; of a group with stores not yet
acknowledged, none lost, it waits. A group with no destination is published at once, a doomed one is aborted with reason 1, one that lost a
store with 4; any other is prepared. Once the group is known to be published or aborted GCOMMIT writes the reason, 0 for published. -/
def Sys2Proof.Parts.GroupCommit : Prop :=
  ∀ (s : State) (d a : BitVec 5), s.st.place.master? ≠ none → s.feature 1 = true → s.spec = false →
    let v := s.getS a
    (∀ r, s.committing? v = some r → r.state = .published ∨ r.state = .aborted ∨ r.state = .pending ∧ r.waited = true →
      ∃ t, exec (.gcommit d a) s = .next t ∧ t.x.pc = s.x.pc + 4 ∧ s.Got t d (r.reason.setWidth 64)) ∧
    (∀ r, s.committing? v = some r → r.state = .committing ∨ r.state = .pending ∧ r.waited = false →
      exec (.gcommit d a) s = .next s) ∧
    (s.committing? v = none → s.openGroup v = none → exec (.gcommit d a) s = .next (s.trapS 0xA3 v)) ∧
    (∀ r, s.committing? v = none → s.openGroup v = some r →
      (r.lostStore = false → (∃ e ∈ r.dests, e.acked ≠ e.count) → exec (.gcommit d a) s = .next s) ∧
      (s.noneHeld = true → s.release.sysWait = .ok () →
        (r.dests = [] → r.lostStore = false → ∃ t g, exec (.gcommit d a) s = .next t ∧ t.x.pc = s.x.pc + 4 ∧
          t.group1? r.loc = some g ∧ g.held = false ∧
          (r.state = .open_ → g.state = .published ∧ s.Got t d 0) ∧ (r.state = .doomed → g.state = .aborted ∧ s.Got t d 1)) ∧
        (r.dests ≠ [] → r.lostStore = true → (∀ e ∈ r.dests, e.done = false ∧ e.refused = false) → ∃ t g,
          exec (.gcommit d a) s = .next t ∧ t.x.pc = s.x.pc ∧ t.group1? r.loc = some g ∧ g.state = .pending ∧
          g.publish = false ∧ g.reason = 4) ∧
        (r.dests ≠ [] → r.lostStore = false → r.state = .open_ → (∀ e ∈ r.dests, e.acked = e.count ∧ e.vote = none) →
          (∀ e ∈ r.dests, e.ep ∉ s.fab.unreachable) → ∃ t g,
          exec (.gcommit d a) s = .next t ∧ t.x.pc = s.x.pc ∧ t.group1? r.loc = some g ∧ g.state = .committing)))

/-- R375 (16): GSTAT writes the state code, reason, destinations and stores of a group this endpoint initiates, or the state of one it
stages, and 0 for one it does not know or, at user level, of another function; R376: GRESOLVE publishes or aborts a group in
doubt, and has no effect on one that is finished or unknown. At user level GRESOLVE traps with cause 0xE1. -/
def Sys2Proof.Parts.GroupStatusAndResolve : Prop :=
  ∀ (s : State) (d a : BitVec 5), s.st.place ≠ .saved → s.feature 1 = true → s.spec = false →
    let g : BitVec 16 := (s.getS a).setWidth 16
    (∃ t v, exec (.gstat d a) s = .next t ∧ s.Wrote t d v (s.x.pc + 4) ∧
      (∀ r, g.toNat / 64 = bits s.fab.fxep 0 10 → s.group1? (g.toNat % 64) = some r → s.lvl ≠ 0 ∨ r.vf = s.st.vf →
        r.dests.length < 2 ^ 16 → bits v 0 8 = r.state.code ∧ bits v 16 16 = r.dests.length ∧ bits v 32 32 = r.seq % 2 ^ 32 ∧
          bits v 8 8 = (if r.state = .published ∨ r.state = .aborted then r.reason.toNat else 0)) ∧
      (g.toNat / 64 = bits s.fab.fxep 0 10 → s.group1? (g.toNat % 64) = none → v = 0) ∧
      (∀ r, g.toNat / 64 ≠ bits s.fab.fxep 0 10 → s.group2? g = some r → s.lvl ≠ 0 → bits v 0 8 = r.state.code) ∧
      (g.toNat / 64 ≠ bits s.fab.fxep 0 10 → s.group2? g = none → v = 0)) ∧
    (∀ e : BitVec 1, s.lvl = 0 → exec (.gresolve a e) s = .next (s.trapS 0xE1 (wordOf (.gresolve a e)))) ∧
    (1 ≤ s.lvl → (∀ e : BitVec 1, s.group2? g = none ∨ (∃ r, s.group2? g = some r ∧ r.state.final = true) →
        exec (.gresolve a e) s = .next s.advance) ∧
      (∀ r, s.group2? g = some r → r.state = .inDoubt → s.lvl ≠ 1 ∨ s.ownsGroup r s.st.vf = true →
        exec (.gresolve a 1) s = .next (s.publishGroup { r with resolved := true }).advance ∧
        ∃ t q, exec (.gresolve a 0) s = .next t ∧ t.x.pc = s.x.pc + 4 ∧ t.mem = s.mem ∧ t.x.sreg = s.x.sreg ∧
          q ∈ (s.finishGroup { r with resolved := true } .aborted 6).clo.here ∧ q.g = g ∧ q.state = .aborted ∧ q.reason = 6))

/-- R370 (16): at the initiator, the last vote decides: every vote yes publishes, and a no aborts with the lowest reason, a vote that
is lost or missing before it with 4 or 5; the decision goes to each destination, and when the last has acknowledged it the group is
published or aborted. The acknowledgement of a store counts it, a lost one marks the group. -/
def Sys2Proof.Parts.GroupDecision : Prop :=
  ∀ (s : State) (g : BitVec 16) (ep : BitVec 10) (vote : BitVec 8) (r : Group1), s.mineNo g = some r →
    let voted := r.dests.map (fun (e : Dest) => if e.ep = ep then { e with vote := some vote } else e)
    let missing := r.dests.map (fun (e : Dest) => if e.vote.isNone then { e with vote := some 5 } else e)
    let acks := r.dests.map (fun (e : Dest) => if e.ep = ep then { e with done := true, refused := false } else e)
    let late : Prop := r.since + bits s.fab.fxclcfg 16 16 ≤ s.time
    (r.state = .committing → (∃ e ∈ r.dests, e.ep = ep ∧ e.vote = none) →
      ((∀ e ∈ voted, e.vote ≠ none) → (∀ e ∈ r.dests, e.done = false ∧ e.refused = false) → ∃ t q,
        exec (.voteArrival g ep vote) s = .next t ∧ t.group1? r.loc = some q ∧ q.state = .pending ∧ q.dests = voted ∧
        (q.publish = true ↔ ∀ e ∈ voted, e.vote = some 0) ∧ t.mem = s.mem ∧ t.x = s.x) ∧
      ((∃ e ∈ voted, e.vote = none) → ∃ t, exec (.voteArrival g ep vote) s = .next t ∧
        t.group1? r.loc = some { r with dests := voted } ∧ t.mem = s.mem ∧ t.x = s.x)) ∧
    (r.state ≠ .committing → exec (.voteArrival g ep vote) s = .next s) ∧
    (¬ late → exec (.voteTimeout g) s = .next s) ∧
    (late → r.state = .committing → r.dests ≠ [] → (∀ e ∈ r.dests, e.done = false ∧ e.refused = false) →
      (∃ e ∈ r.dests, e.vote = none) → (∀ e ∈ r.dests, e.vote ≠ some 4) → ∃ t q, exec (.voteTimeout g) s = .next t ∧
        t.group1? r.loc = some q ∧ q.state = .pending ∧ q.dests = missing ∧ q.publish = false ∧ q.reason = 5) ∧
    (r.held = true → r.state = .pending → (∃ e ∈ r.dests, e.ep = ep ∧ e.done = false) → (∀ e ∈ acks, e.done = true) → ∃ t q,
      exec (.decisionAck g ep false) s = .next t ∧ t.group1? r.loc = some q ∧ q.held = false ∧
        q.state = (if r.publish then .published else .aborted) ∧ t.mem = s.mem ∧ t.x = s.x) ∧
    (r.held = false → exec (.decisionAck g ep false) s = .next s)

/-- R368, R360 (16): the answer to a group store takes its request away; acknowledged, the store counts in its destination; dropped, the
group has lost a store. -/
def Sys2Proof.Parts.GroupStoreAcknowledged : Prop :=
  ∀ (s : State) (g : BitVec 16) (ep : BitVec 10) (seq : BitVec 32) (q : FabReq) (r : Group1),
    s.fab.reqs.find? (fun q => q.kind == .group && q.ep == ep && q.group == some (g.toNat, seq.toNat, 1)) = some q →
    s.clo.mine.find? (fun r => s.groupNo r.loc == g.toNat && r.held) = some r →
    (∃ t, exec (.groupStoreAck g ep seq (.ok [])) s = .next t ∧ (∀ p ∈ t.fab.reqs, p.id ≠ q.id) ∧ t.mem = s.mem ∧
      ∃ p ∈ t.clo.mine, p = { r with dests := r.dests.map (fun (e : Dest) => if e.ep = ep then { e with acked := e.acked + 1 } else e) }) ∧
    (∃ t, exec (.groupStoreAck g ep seq .dropped) s = .next t ∧ (∀ p ∈ t.fab.reqs, p.id ≠ q.id) ∧ t.mem = s.mem ∧
      ∃ p ∈ t.clo.mine, p = { r with lostStore := true })

/-- Closure groups at the endpoint that opens them. -/
def Obligations.ClosureInitiator : Prop :=
  Sys2Proof.Parts.GroupOpenAndAbort ∧ Sys2Proof.Parts.GroupStore ∧ Sys2Proof.Parts.VectorGroupStore ∧ Sys2Proof.Parts.GroupCommit ∧ Sys2Proof.Parts.GroupStatusAndResolve ∧ Sys2Proof.Parts.GroupDecision ∧ Sys2Proof.Parts.GroupStoreAcknowledged

/-- R369, R371, R373 (16): at a destination, with the fabric enabled. A group store that passes the check and finds room is staged,
memory unchanged. PREPARE of a staging group whose stores are those counted and hashed, its windows enabled, puts it in doubt; with
another count it is aborted with reason 2. PUBLISH applies a group in doubt that is not marked, ABORT discards it with its reason;
a query is answered with the group's state where a port is up, and marks a group in doubt whose initiator is unreachable. -/
def Sys2Proof.Parts.GroupAtDestination : Prop :=
  ∀ (s : State) (g : BitVec 16) (src : BitVec 10), bit s.fab.fxep 16 = true → s.admitted src = true →
    (∀ (seq : BitVec 32) (w : BitVec 6) (off : BitVec 36) (data : List Byte) (x : Xl) (r : Group2), src = initiatorOf g →
      data.length ∈ [1, 2, 4, 8] → s.windowCheck .write src w.toNat off.toNat data.length = .ok x →
      s.instance2 g = r → r.state = .staging → s.stageRoom { r with since := s.time } = true → ∃ t q,
        exec (.groupStoreArrival src g seq w off data) s = .next t ∧ t.mem = s.mem ∧ t.x = s.x ∧ t.st = s.st ∧
        t.group2? g = some q ∧ q.state = .staging ∧
        q.stores = r.stores ++ [{ seq := seq, window := w, off := off.toNat, pa := x.pa, vc := x.vc, data := data }]) ∧
    (∀ (count : Nat) (hash : Word) (dests : List (BitVec 10)) (r : Group2), src = initiatorOf g → s.instance2 g = r →
      r.state = .staging →
      (r.stores.length = count → stagedHash r.stores = hash → (∀ w ∈ r.windows, s.windowOff w = false) → ∃ t q,
        exec (.prepare src g count hash dests) s = .next t ∧ t.mem = s.mem ∧ t.x = s.x ∧ t.group2? g = some q ∧
        q.state = .inDoubt ∧ q.stores = r.stores ∧ q.parties = dests) ∧
      (r.stores.length ≠ count → ∃ t, exec (.prepare src g count hash dests) s = .next t ∧ t.mem = s.mem ∧
        ∀ q ∈ t.clo.here, q.g = g → q.state = .aborted ∧ q.stores = [] ∧ q.reason = 2)) ∧
    (∀ (r : Group2), s.group2? g = some r → r.state = .inDoubt →
      (r.marked = false → exec (.publish src g true) s = .next ((s.fabIn.publishGroup
        { r with outcomeAcked := src == initiatorOf g }).cloAnswer src .done g 0 [])) ∧
      (r.marked = true → src = initiatorOf g → exec (.publish src g true) s = .next (s.fabIn.cloAnswer src .done g 1 [])) ∧
      (∀ reason, ∃ t, exec (.abort src g false reason) s = .next t ∧ t.mem = s.mem ∧
        ∀ q ∈ t.clo.here, q.g = g → q.state = .aborted ∧ q.stores = [] ∧ q.reason = reason) ∧
      ((initiatorOf g).toNat ≠ bits s.fab.fxep 0 10 → ∃ t, exec (.terminationQuery src g true) s = .next t ∧ t.mem = s.mem ∧
        t.group2? g = some { r with marked := true } ∧
        ((∃ p, p < 32 ∧ vget s.fab.lanes 0 p ≠ 0) → ∃ o, t.fab.out = o :: s.fab.out ∧ o.payload = closureMsg .answer g.toNat 7 [])))

/-- R371, R369 (16): PUBLISH of a group in doubt writes its staged stores in ascending sequence number and finishes the group as
published: where no two stores of the group overlap, each address that one stores to holds its byte, and no other byte of
memory changes. -/
def Sys2Proof.Parts.PublishAppliesStores : Prop :=
  ∀ (s : State) (r : Group2), s.memWf = true →
    (∀ i j : Nat, ∀ a b, r.stores[i]? = some a → r.stores[j]? = some b → i ≠ j →
      a.pa + a.data.length ≤ b.pa ∨ b.pa + b.data.length ≤ a.pa) →
    let t := s.publishGroup r
    (∀ a ∈ r.stores, ∀ i, i < a.data.length → t.memByte (a.pa + i) = a.data.getD i 0) ∧
    (∀ q, (∀ a ∈ r.stores, q < a.pa ∨ a.pa + a.data.length ≤ q) → t.memByte q = s.memByte q)

/-- R373, R369 (16): a group in doubt for a doubt period, or one staging for 100 of them without a store, asks its initiator and
notes that it asks; before, nothing happens. An answer that the group was published publishes it; an answer to the idle check that
the group is aborted or unknown discards it; an answer that no question awaits changes nothing of the group, and one while the fabric is off, or of an endpoint that is not
admitted, nothing at all. -/
def Sys2Proof.Parts.GroupTermination : Prop :=
  ∀ (s : State) (g : BitVec 16) (r : Group2), s.group2? g = some r → initiatorOf g ∉ s.fab.unreachable → r.g = g →
    let doubt := bits s.fab.fxclcfg 0 16
    let ini := initiatorOf g
    (r.state = .inDoubt → r.since + doubt ≤ s.time → ∃ t, exec (.doubtTimerExpiry g) s = .next t ∧ t.mem = s.mem ∧
      t.group2? g = some { r with asking := true, answers := [], since := s.time }) ∧
    (r.state ≠ .inDoubt ∨ s.time < r.since + doubt → exec (.doubtTimerExpiry g) s = .next s) ∧
    (r.state = .staging ∨ r.state = .doomed → r.since + 100 * doubt ≤ s.time → ∃ t,
      exec (.stagingIdleCheck g) s = .next t ∧ t.mem = s.mem ∧
      t.group2? g = some { r with asking := true, answers := [], since := s.time }) ∧
    (r.state = .inDoubt ∨ s.time < r.since + 100 * doubt → exec (.stagingIdleCheck g) s = .next s) ∧
    (∀ ep a, s.fabricOn = false ∨ s.admitted ep = false → exec (.terminationAnswer g ep a) s = .next s) ∧
    (r.asking = false → ∀ ep a, s.fabricOn = true → s.admitted ep = true → exec (.terminationAnswer g ep a) s = .next s.fabIn) ∧
    (s.fabricOn = true → s.admitted ini = true → r.asking = true → r.answers = [] → r.state = .staging → ∀ a, a = .aborted ∨ a = .unknown → ∃ t,
      exec (.terminationAnswer g ini a) s = .next t ∧ t.mem = s.mem ∧ ∀ q ∈ t.clo.here, q.g = g → q.state = .aborted ∧ q.stores = []) ∧
    (s.fabricOn = true → s.admitted ini = true → r.asking = true → r.answers = [] → r.state = .inDoubt → r.stores = [] → ∃ t,
      exec (.terminationAnswer g ini .published) s = .next t ∧ t.mem = s.mem ∧ ∀ q ∈ t.clo.here, q.g = g → q.state = .published)

/-- Closure groups at a destination: staging, decision, publication, termination. -/
def Obligations.ClosureDestination : Prop :=
  Sys2Proof.Parts.GroupAtDestination ∧ Sys2Proof.Parts.PublishAppliesStores ∧ Sys2Proof.Parts.GroupTermination

/-- R353, R356, R358, R357 (16): a malformed request through a window is dropped with a record and status 2; one that fails the target check
performs nothing and is answered 0xA0, its reason recorded; a read that passes it is answered with the bytes, one of poison with status 1,
a write stores its bytes, an atomic its result, returning the old value; a line in doubt, or the host's, holds the request. Here the bytes lie
in one page. -/
def Sys2Proof.Parts.FabricWindowRequests : Prop :=
  ∀ (s : State) (port : BitVec 5) (src : BitVec 10) (addr : Word) (n : Nat) (data : List Byte) (x : Xl) (op : BitVec 5),
    s.memWf = true →
    let w := addr.toNat / 2 ^ 36 % 2 ^ 6
    let off := addr.toNat % 2 ^ 36
    let in_ := s.fabInOn port.toNat
    let answer := fun (u : State) (code : Nat) (bs : List Byte) => u.answerFab src addr code bs
    let passes := fun (k : Acc) => s.windowCheck k src w off n = .ok x ∧ s.targetPieces k src w off n = .ok [(x, n)]
    let request := fun (kind : ReqKind) => exec (.fabricWindowRequest { port := port, ep := src } addr kind n data) s
    (∀ kind, windowRequestOk addr kind n data = false → request kind = .next (answer (in_.log 0 0) 2 [])) ∧
    (∀ kind e, windowRequestOk addr kind n data = true → s.windowCheck (reqAcc kind) src w off n = .error e →
      request kind = .next (answer (in_.fatalHere e src w off) 0xA0 [])) ∧
    (∀ kind, windowRequestOk addr kind n data = true → passes (reqAcc kind) → s.blocked (kind != .read) x.pa n = true →
      request kind = .next s) ∧
    (windowRequestOk addr .read n data = true → passes .read → s.blocked false x.pa n = false →
      ∃ u : State, u.mem = s.mem ∧ u.st = s.st ∧ u.x = s.x ∧
        ((∀ l ∈ linesOf x.pa n, s.poisoned (l * 64) = false) → request .read = .next (answer u 0 (s.memBytes x.pa n))) ∧
        ((∃ l ∈ linesOf x.pa n, s.poisoned (l * 64) = true) → request .read = .next (answer u 1 []))) ∧
    (windowRequestOk addr .write n data = true → passes .write → s.blocked true x.pa n = false →
      ∃ u : State, request .write = .next ((answer u 0 []).countWrite port .write w off n) ∧
        (∀ i, i < n → u.memByte (x.pa + i) = data.getD i 0) ∧ (∀ q, q < x.pa ∨ x.pa + n ≤ q → u.memByte q = s.memByte q)) ∧
    (windowRequestOk addr (.atomic op) n data = true → passes .both → s.blocked true x.pa n = false →
      (s.poisoned x.pa = true → request (.atomic op) = .next (answer in_ 1 [])) ∧
      (s.poisoned x.pa = false →
        let old := leNat (s.memBytes x.pa n)
        ∃ u : State, request (.atomic op) = .next (answer u 0 (leBytes n old)) ∧
          (∀ q, q < x.pa ∨ x.pa + n ≤ q → u.memByte q = s.memByte q) ∧
          (∀ new, atomicNew op.toNat (8 * n) old (leNat (data.take 8) % 2 ^ (8 * n)) (leNat ((data.drop 8).take 8)) = some new →
            leNat (u.memBytes x.pa n) = new % 256 ^ n)))

/-- R356 (16): the checks of one byte of a request at the target, in their order, each with its reason: 1 fabric disabled or endpoint
not admitted, 2 window disabled, 3 access not allowed, 4 outside the window, 5 page not present, 6 refused by the page or its vcache, 7 another
failed walk or a page of another memory than HBM, 8 a page without p. A byte that passes them all translates as the leaf says. -/
def Sys2Proof.Parts.FabricTargetCheck : Prop :=
  ∀ (s : State) (k : Acc) (src : BitVec 10) (w off : Nat),
    let c := vget s.fab.winc 0 w
    let vf := bits c 53 5
    let va := (vget s.fab.wina 0 w).toNat / 2 ^ 16 % 2 ^ 38 * 2 ^ 16 + off
    let check := s.targetByte k src w off
    let walk := s.walk (fun a => some (s.mem64 a)) (vget s.fab.winb 0 w) vf va
    let one : Prop := bit s.fab.fxep 16 = true ∧ s.admitted src = true
    let two : Prop := bit c 63 = true ∧ bits c 0 21 ≠ 0
    let three : Prop := (k ≠ .read → bit c 62 = true) ∧ (k = .both → bit c 61 = true)
    let four : Prop := off / 65536 < bits c 0 21 ∧ va < 2 ^ 54
    (¬ one → check = .error 1) ∧ (one → ¬ two → check = .error 2) ∧ (one → two → ¬ three → check = .error 3) ∧
    (one → two → three → ¬ four → check = .error 4) ∧
    (one → two → three → four →
      (∀ e, walk = .error e → check = .error (if e = 0x22 then 5 else 7)) ∧
      (∀ l, walk = .ok l →
        let x := leafXl l.entry l.large va
        let open_ : Prop := checkPte l.entry k true = true ∧ s.checkVcache vf x.vc = .ok ()
        let local_ : Prop := x.kind = 0 ∧ isHbm x.pa = true
        (pteU l.entry = false ∨ (k ≠ .read ∧ pteW l.entry = false) → k ≠ .exec → check = .error 6) ∧
        (¬ open_ → check = .error 6) ∧ (open_ → ¬ local_ → check = .error 7) ∧
        (open_ → local_ → pteP l.entry = false → check = .error 8) ∧
        (open_ → local_ → pteP l.entry = true → check = .ok x)))

/-- R361 to R363, R365 (16): a vector request that breaks the layout of the record, or brings group stores from another endpoint than the
group's, is dropped with status 2; one with an access that fails the check performs nothing and is answered 0xA0; a read that passes is
answered with the bytes of its elements, one of poison with status 1; a write stores them and changes no other byte; an atomic of one
element makes its step, returning the old value for op 2; group stores are staged, memory unchanged. An access to a line in doubt, or the
host's, holds the request. -/
def Sys2Proof.Parts.VectorRequests : Prop :=
  ∀ (s : State) (src : BitVec 10) (record : BitVec 2048) (slot : List Byte), s.memWf = true →
    let q := readVReq record.toNat
    let i := Instr.vectorRequest src record slot
    let good : Prop := vreqOk record.toNat = true ∧ (q.op = 4 → src = initiatorOf (BitVec.ofNat 16 q.group))
    (¬ good → exec i s = .next ((s.fabIn.log 0 0).answerFab src portVector 2 [])) ∧
    (good →
      (∀ c off, q.op ≠ 4 → s.vreqItems src q slot = .error (c, off) →
        exec i s = .next ((s.fabIn.fatalHere c src q.window off).answerFab src portVector 0xA0 [])) ∧
      (∀ c off, q.op = 4 → s.vreqItems src q slot = .error (c, off) → ∃ u : State,
        exec i s = .next (u.answerFab src portVector 0xA0 []) ∧ u.mem = s.mem) ∧
      (∀ ps, s.vreqItems src q slot = .ok ps →
        (q.op = 4 → ∃ u : State, exec i s = .next (u.answerFab src portVector 0 []) ∧ u.mem = s.mem ∧ u.x = s.x ∧ u.st = s.st) ∧
        (q.op ≠ 4 → (∃ p ∈ ps, s.blocked (q.op != 0) p.pa p.n = true) → exec i s = .next s) ∧
        ((∀ p ∈ ps, s.blocked (q.op != 0) p.pa p.n = false) →
          (q.op = 0 → ∃ u : State, u.mem = s.mem ∧
            ((∀ p ∈ ps, s.poisoned p.pa = false) →
              exec i s = .next (u.answerFab src portVector 0 (ps.flatMap (fun p => s.memBytes p.pa p.n)))) ∧
            ((∃ p ∈ ps, s.poisoned p.pa = true) → exec i s = .next (u.answerFab src portVector 1 []))) ∧
          (q.op = 1 → ∃ u : State, exec i s = .next (u.answerFab src portVector 0 []) ∧
            (∀ a, (∀ p ∈ ps, a < p.pa ∨ p.pa + (q.data slot p.i p.f).length ≤ a) → u.memByte a = s.memByte a) ∧
            ∀ p, ps = [p] → ∀ j, j < (q.data slot p.i p.f).length → u.memByte (p.pa + j) = (q.data slot p.i p.f).getD j 0) ∧
          (q.op = 2 ∨ q.op = 3 → ∀ p, ps = [p] →
            let old := leNat (s.memBytes p.pa p.n)
            (s.poisoned p.pa = true → ∃ u : State, exec i s = .next (u.answerFab src portVector 1 []) ∧ u.mem = s.mem) ∧
            (s.poisoned p.pa = false → ∃ u : State,
              exec i s = .next (u.answerFab src portVector 0 (if q.op = 2 then leBytes p.n old else [])) ∧
              (∀ a, a < p.pa ∨ p.pa + p.n ≤ a → u.memByte a = s.memByte a) ∧
              ∀ new, atomicNew q.aop (8 * p.n) old (leNat (q.data slot p.i 0)) 0 = some new →
                leNat (u.memBytes p.pa p.n) = new % 256 ^ p.n)))))

/-- R359, R360, R362 (16): an answer takes its request away and is what the context that waits for it receives; a request answered by
nobody fails once fxtmo has passed, and not before; the failure of a store is kept for the strand to report. An answer to no
request changes nothing. Here no launch all of whose strands have ended waits for its completion (R77), which the last answer would bring. -/
def Sys2Proof.Parts.FabricAnswers : Prop :=
  ∀ (s : State) (id : Nat) (q : FabReq) (bs : List Byte) (slot : BitVec 6),
    ((∀ r ∈ s.fab.reqs, r.id ≠ id) → ∀ res, exec (.fabricResponse id res) s = .next s ∧ exec (.fabricRequestTimeout id) s = .next s) ∧
    (s.fab.reqs.find? (fun q => q.id == id) = some q → q.group = none →
      (∀ l ∈ s.cp.launches, l.endedOk + l.endedFault ≠ l.nring + l.ngate) →
      (∀ i, i = Instr.fabricResponse id (.ok bs) ∨
          i = .vectorRequestCompletion slot (.ok bs) ∧ q.kind = .vector ∧ q.slot = some slot.toNat ∧
            s.fab.reqs.find? (fun q => q.kind == .vector && q.slot == some slot.toNat) = some q →
        ∃ t, exec i s = .next t ∧ (∀ r ∈ t.fab.reqs, r.id ≠ id) ∧ t.mem = s.mem ∧ t.x.sreg = s.x.sreg ∧ t.x.pc = s.x.pc ∧
          t.x.replies = s.x.replies.map (fun r => if r = .waiting id then .data bs else r)) ∧
      (q.kind = .read ∨ q.kind = .atomic → ∃ t, exec (.fabricResponse id .poison) s = .next t ∧
        t.x.replies = s.x.replies.map (fun r => if r = .waiting id then .poison else r)) ∧
      (s.time < q.sentAt + s.fab.fxtmo.toNat % 2 ^ 32 → q.ep ∉ s.fab.unreachable → exec (.fabricRequestTimeout id) s = .next s) ∧
      (q.sentAt + s.fab.fxtmo.toNat % 2 ^ 32 ≤ s.time ∨ q.ep ∈ s.fab.unreachable →
        (q.kind = .read ∨ q.kind = .atomic ∨ q.kind = .vector → ∃ t, exec (.fabricRequestTimeout id) s = .next t ∧
          (∀ r ∈ t.fab.reqs, r.id ≠ id) ∧ t.x.replies = s.x.replies.map (fun r => if r = .waiting id then .failed else r) ∧
          t.mem = s.mem) ∧
        (q.kind = .write → q.owner = s.st.id → s.st.place ≠ .management → ∃ t, exec (.fabricRequestTimeout id) s = .next t ∧
          (∀ r ∈ t.fab.reqs, r.id ≠ id) ∧ t.st = { s.st with failedStores := s.st.failedStores ++ [q.va] } ∧ t.mem = s.mem)))

/-- R351 (16), R360, R446 (25): a port loses lanes down to two, one or none, with a record, and a port that is down trains at four lanes
once feature 4 is accepted. An endpoint reported unreachable is so known, no request to it stays outstanding, and no message to it stays in a retry buffer. -/
def Sys2Proof.Parts.FabricPortsAndEndpoints : Prop :=
  ∀ (s : State) (port : BitVec 5) (lanes : BitVec 3) (ep : BitVec 10),
    let now := vget s.fab.lanes 0 port.toNat
    (lanes.toNat ≤ 2 → lanes.toNat < now.toNat → exec (.portLaneLoss port lanes) s =
      .next (({ s with fab := { s.fab with lanes := vset s.fab.lanes port.toNat lanes } } : State).log 0 0)) ∧
    (¬ (lanes.toNat ≤ 2 ∧ lanes.toNat < now.toNat) → exec (.portLaneLoss port lanes) s = .next s) ∧
    (now = 0 → s.feature 4 = true → exec (.ualinkPortTrained port) s =
      .next { s with fab := { s.fab with lanes := vset s.fab.lanes port.toNat 4 } }) ∧
    (now ≠ 0 ∨ s.feature 4 = false → exec (.ualinkPortTrained port) s = .next s) ∧
    (∃ t, exec (.endpointUnreachableReport ep) s = .next t ∧ ep ∈ t.fab.unreachable ∧
      (∀ q ∈ t.fab.reqs, q.ep ≠ ep) ∧ (∀ e ∈ t.st.retry, ∀ c, e.rcv ≠ .remote ep c) ∧
      (∀ r ∈ t.parked, ∀ e ∈ r.st.retry, ∀ c, e.rcv ≠ .remote ep c))

/-- Requests through fabric windows, their target checks and answers. -/
def Obligations.PackageFabric : Prop :=
  Sys2Proof.Parts.FabricWindowRequests ∧ Sys2Proof.Parts.FabricTargetCheck ∧ Sys2Proof.Parts.VectorRequests ∧ Sys2Proof.Parts.FabricAnswers ∧ Sys2Proof.Parts.FabricPortsAndEndpoints

/-- R330, R331, R336, R337, R338, R347 (15): the oldest packet of a stream, its stamp well formed, reaches its port while its destination has
credits for it, and the hub holds it while not. It is applied once every count of its stamp for the destination is covered and none of the
stream is held before it: it has left, and the destination counts it; else it is held. A held packet is applied once it is ready and its
flits have entries; what that lets go out comes after all that was on its way. One that names a packet which a retired die never sent is
applied so too, and poisons the lines it would write. -/
def Sys2Proof.Parts.DiePackets : Prop :=
  ∀ (s : State) (src dst : BitVec 4) (p : Packet) (key : Nat),
    s.net.transit.find? (fun t => t.1 == strKey src.toNat dst.toNat) = some (key, p) → stampOk p.stamp = true → src ≠ dst →
    let rest := dropTransit (strKey src.toNat dst.toNat) s.net.transit
    let held := s.net.firstHeld dst.toNat src.toNat
    let room := s.net.roomFor src.toNat dst.toNat = true ∧ queueKey dst.toNat p.mail.cls ∉ s.net.full
    let goes := fun (q : Packet) => s.net.ready dst.toNat q = true ∨ s.net.lostCause dst.toNat q = true
    let quiet := fun (t : State) => t.mem = s.mem ∧ t.x = s.x ∧ t.st = s.st
    (¬ room → exec (.packetArrival src dst none) s = .next s) ∧
    (room → held = none → goes p → ∃ t new, exec (.packetArrival src dst none) s = .next t ∧ t.net.transit = rest ++ new ∧
      t.net.early = s.net.early ∧ quiet t ∧
      (s.net.stalled = [] → p.mail.follow = [] → lookupD 0 (strKey dst.toNat src.toNat) s.net.unacked < 255 → new = []) ∧
      (s.net.ready dst.toNat p = true →
        t.net.count dst.toNat src.toNat dst.toNat = s.net.count dst.toNat src.toNat dst.toNat + 1) ∧
      (s.net.lostCause dst.toNat p = false → t.poison = s.poison) ∧
      (s.net.lostCause dst.toNat p = true → ∀ l ∈ p.mail.writes, l ∈ t.poison)) ∧
    (room → held ≠ none ∨ ¬ goes p → exec (.packetArrival src dst none) s = .next { s with net := { s.net with
        transit := rest, early := s.net.early ++ [{ die := dst.toNat, src := src.toNat, packet := p, since := s.time }] } }) ∧
    (held = none → exec (.heldPacketReady dst src) s = .next s) ∧
    (∀ h, held = some h → ¬ goes h.packet ∨ s.net.flitsIn dst.toNat src.toNat h.packet = false →
      exec (.heldPacketReady dst src) s = .next s) ∧
    (∀ h, held = some h → goes h.packet → s.net.flitsIn dst.toNat src.toNat h.packet = true →
      ∃ t new, exec (.heldPacketReady dst src) s = .next t ∧ t.net.early = dropHeld dst.toNat src.toNat s.net.early ∧
        t.net.transit = s.net.transit ++ new ∧ quiet t)

/-- R348 (15): a baseline runs after an error, and once a packet has been held longer than 100 µs, not before; with nothing in transit,
held or waiting to be sent it leaves every count and acknowledgement 0, nothing under way, and the strands and memory as they are. -/
def Sys2Proof.Parts.Baseline : Prop :=
  ∀ (s : State) (die src : BitVec 4),
    (exec .baseline s = .next s.baseline) ∧
    ((∃ h ∈ s.net.early, h.die = die.toNat ∧ h.src = src.toNat ∧ h.since + 100 < s.time) →
      exec (.heldPacketTimeout die src) s = .next s.baseline) ∧
    ((∀ h ∈ s.net.early, h.die = die.toNat → h.src = src.toNat → s.time ≤ h.since + 100) →
      exec (.heldPacketTimeout die src) s = .next s) ∧
    (s.net.transit = [] → s.net.early = [] → s.net.stalled = [] → ∀ t, t = s.baseline → t.net.early = [] ∧ t.net.transit = [] ∧
      (∀ a j e, t.net.count a j e = 0) ∧ t.net.changed = [] ∧ t.net.acks = [] ∧ t.net.reads = [] ∧ t.mem = s.mem ∧ t.x = s.x ∧
      t.st = s.st)

/-- R346, R347, R403 (15, 18): an uncontained fault of the hub stops the module. A spoke die that is retired is so recorded; its rings are
retired; a die that is the hub, absent, or retired already is left alone. -/
def Sys2Proof.Parts.DieLost : Prop :=
  ∀ (s : State) (die : BitVec 4),
    (exec .hubDieError s = .next { s with stopped := true }) ∧
    (die = 0 ∨ 12 < die.toNat ∨ (∃ r ∈ s.net.retired, r.1 = die.toNat) → exec (.dieRetire die) s = .next s) ∧
    (die ≠ 0 → die.toNat ≤ 12 → (∀ r ∈ s.net.retired, r.1 ≠ die.toNat) → s.strands = [s.st] → s.st.place = .management →
      ∃ t, exec (.dieRetire die) s = .next t ∧ (∃ r ∈ t.net.retired, r.1 = die.toNat) ∧ t.mem = s.mem ∧ t.x = s.x ∧
        (∀ m : Nat, m < 48 → 1 + m / 6 = die.toNat → vget t.cp.masters .free m = .retired) ∧
        (∀ m : Nat, m < 64 → dieOfMaster m ≠ die.toNat → vget t.cp.masters .free m = vget s.cp.masters .free m))

/-- Counted packets of the die fabric, baselines and a lost die. -/
def Obligations.DieFabric : Prop :=
  Sys2Proof.Parts.DiePackets ∧ Sys2Proof.Parts.Baseline ∧ Sys2Proof.Parts.DieLost

/-- R342, R284 (15, 12): a request of a ring core to a line of a shared page of which the directory has no entry yet makes an entry of the whole
page, listing the core, and a miss leaves the core's copy in pending fill. A request to a page that is not shared enters nothing. Two sibling
regions with the same holders merge 1 ms after their last conflict. -/
def Sys2Proof.Parts.DirectoryRegions : Prop :=
  ∀ (s : State) (core : Nat) (pa : BitVec 52) (write : Bool) (hint : Hint), core < 384 →
    let a := Agent.l1 core
    let line := pa.toNat / 64
    let page := line / 1024
    (isHbm pa.toNat = true → (classOf s page = none ∨ classOf s page = some (.priv (core / 8))) →
      ∃ t, exec (.directoryRequest a pa { write := write, hint := hint }) s = .next t ∧ t.cache = s.cache ∧ classOf t page = some (.priv (core / 8)) ∧
        t.mem = s.mem ∧ t.x = s.x ∧ t.st = s.st) ∧
    (isHbm pa.toNat = true → classOf s page = some .shared →
      (∀ r ∈ s.cache.dir, r.base + r.size ≤ page * 1024 ∨ page * 1024 + 1024 ≤ r.base) → s.cache.dir.length < 4194304 →
      s.cline? a line = none → s.hostLines write (line * 64) 64 = [] → ∃ t, exec (.directoryRequest a pa { write := write, hint := hint }) s = .next t ∧
        t.cache.dir = s.cache.dir ++ [{ base := page * 1024, size := 1024, holders := [a], conflictAt := s.time, used := s.time }] ∧
        t.cache.lines = s.cache.lines ++
          [{ holder := a, line := line, state := .pendingFill, current := true, way := 0, probe := none, want := write }] ∧
        t.mem = s.mem ∧ t.x = s.x ∧ t.st = s.st) ∧
    (∀ r q, s.regionFor line = some r → r.size < 1024 →
      s.cache.dir.find? (fun q => q.base == (if r.base / r.size % 2 = 0 then r.base + r.size else r.base - r.size) && q.size == r.size)
        = some q →
      ((sameHolders r q = true ∧ r.conflictAt + 1000 ≤ s.time ∧ q.conflictAt + 1000 ≤ s.time) → ∃ t m,
        exec (.regionMerge pa) s = .next t ∧ t = { s with cache := { s.cache with dir := t.cache.dir } } ∧ m ∈ t.cache.dir ∧
        r ∉ t.cache.dir ∧ q ∉ t.cache.dir ∧ m.base = min r.base q.base ∧ m.size = 2 * r.size ∧ m.holders = r.holders) ∧
      (¬ (sameHolders r q = true ∧ r.conflictAt + 1000 ≤ s.time ∧ q.conflictAt + 1000 ≤ s.time) →
        exec (.regionMerge pa) s = .next s))

/-- R344, R345, R266, R112 (15, 11, 05): of the one copy that a holder has of a line: the eviction of a dirty one leaves it in evict-pending
until home acknowledges the write-back, which drops it. A probe of a copy in pending fill is held with what it is of; of an installed one it
makes a dirty copy evict-pending and drops a clean one, or leaves it shared; a read-only vcache takes none. A fill installs the copy, modified
when it is for a write, else exclusive when no other agent has one, and a held probe then acts. A probe of an external write to a line of which
the holder has no copy squashes its speculative readers all the same. Memory and the strands stay. -/
def Sys2Proof.Parts.CacheLineEvents : Prop :=
  ∀ (s : State) (a : Agent) (pa : BitVec 52) (k : ProbeKind) (c : CLine),
    let line := pa.toNat / 64
    let others := s.cache.lines.filter (fun q => !(q.holder == a && q.line == line))
    let quiet := fun (t : State) => t.mem = s.mem ∧ t.x = s.x ∧ t.st = s.st
    let dirty : Prop := c.state = .modified ∨ c.state = .owned
    let out : CLine := { c with state := .evictPending, probe := none, want := false }
    (s.cline? a line = none → (∀ i ∈ [Instr.dirtyEviction a pa, .writebackAck a pa, .fillReply a pa, .probeArrival a pa k false],
      exec i s = .next s) ∧ exec (.probeArrival a pa k true) s = .next (s.writeSeen false line)) ∧
    (s.cline? a line = some c → (∀ q ∈ s.cache.lines, q.holder = a → q.line = line → q = c) →
      (dirty → ∃ t, exec (.dirtyEviction a pa) s = .next t ∧ quiet t ∧ t.cline? a line = some out) ∧
      (¬ dirty → exec (.dirtyEviction a pa) s = .next s) ∧
      (c.state = .evictPending → ∃ t, exec (.writebackAck a pa) s = .next t ∧ quiet t ∧ t.cache.lines = others) ∧
      (c.state ≠ .evictPending → exec (.writebackAck a pa) s = .next s) ∧
      (c.state = .pendingFill → ∀ w, ∃ t, exec (.probeArrival a pa k w) s = .next t ∧ quiet t ∧
        t.cline? a line = some { c with probe := some (k, w) }) ∧
      (c.state ≠ .pendingFill → c.state = .evictPending ∨ s.unsnooped a = true → exec (.probeArrival a pa k false) s = .next s) ∧
      (c.state ≠ .pendingFill → c.state ≠ .evictPending → s.unsnooped a = false →
        (∃ t, exec (.probeArrival a pa .invalidate false) s = .next t ∧ quiet t ∧ (dirty → t.cline? a line = some out) ∧
          (¬ dirty → t.cline? a line = none)) ∧
        (∃ t, exec (.probeArrival a pa .share false) s = .next t ∧ quiet t ∧
          t.cline? a line = some { c with state := .shared, probe := none })) ∧
      (c.state ≠ .pendingFill → exec (.fillReply a pa) s = .next s) ∧
      (c.state = .pendingFill → (∀ q ∈ s.sectorsOf c, q.probe = none) → ∃ t d, exec (.fillReply a pa) s = .next t ∧ quiet t ∧
        t.cline? a line = some d ∧ (c.want = true → d.state = .modified) ∧
        (c.want = false → (∀ q ∈ s.cache.lines, q.line = line → q.holder = a) → d.state = .exclusive) ∧
        (c.want = false → (∃ q ∈ s.cache.lines, q.line = line ∧ q.holder ≠ a) → d.state = .shared)) ∧
      (c.state = .pendingFill → s.sectorsOf c = [c] → c.probe = some (.invalidate, false) → s.unsnooped a = false →
        ∃ t, exec (.fillReply a pa) s = .next t ∧ quiet t ∧ (c.want = false → t.cache.lines = others) ∧
          (c.want = true → t.cline? a line = some out)))

/-- R385, R342 (17, 15): with bit 8 accepted, a host write of `data` at offset y of the HDM-DB window, on no line in doubt or held, stores the
bytes at the window's place in HBM and no other; a read makes the host a holder of the line. Outside the window, or with the bit not
accepted, nothing happens. A back-invalidation response performs the host's write-back, and makes the line free for the access that waits. -/
def Sys2Proof.Parts.HostMemory : Prop :=
  ∀ (s : State) (y : Nat) (data : List Byte) (pa : BitVec 52), s.memWf = true →
    let base := s.mbx.hdmcfg.toNat / 2 ^ 16 % 2 ^ 10 * 2 ^ 30
    let size := s.mbx.hdmcfg.toNat % 2 ^ 10 * 2 ^ 30
    let at_ := base + y
    (s.feature 8 = false ∨ data = [] ∨ size < y + data.length → exec (.hostMemWrite y data) s = .next s) ∧
    (s.feature 8 = false ∨ size < y + 64 → exec (.hostMemRead y 64) s = .next s) ∧
    (s.feature 8 = true → data ≠ [] → y + data.length ≤ size →
      s.inDoubt at_ data.length = false → s.hostHolding at_ data.length = false →
      ∃ t, exec (.hostMemWrite y data) s = .next t ∧ (∀ i, i < data.length → t.memByte (at_ + i) = data.getD i 0) ∧
        ∀ q, q < at_ ∨ at_ + data.length ≤ q → t.memByte q = s.memByte q) ∧
    (s.feature 8 = true → y % 64 = 0 → y + 64 ≤ size → s.inDoubt at_ 64 = false →
      (s.hostHolding at_ 64 = false → ∃ t c, exec (.hostMemRead y 64) s = .next t ∧ c ∈ t.cache.lines ∧ c.holder = .host ∧
        c.line = at_ / 64 ∧ t.mem = s.mem ∧ t.x = s.x ∧ t.st = s.st) ∧
      (s.hostHolding at_ 64 = true → exec (.hostMemRead y 64) s =
        .next { s with cache := { s.cache with hostHeld := s.cache.hostHeld ++ [(at_, none)] } })) ∧
    (let line := pa.toNat / 64
     ((∀ b ∈ s.cache.backInv, b.line = line → b.answered = true) → ∀ v, exec (.backInvalidationResponse pa v) s = .next s) ∧
     (∀ b v, s.cache.backInv.find? (fun b => b.line == line && !b.answered) = some b →
       ∃ t, exec (.backInvalidationResponse pa v) s = .next t ∧ (v = none → t.mem = s.mem ∧ t.x = s.x ∧ t.st = s.st) ∧
         (∀ w, v = some w → ∀ i, i < 64 → t.memByte (line * 64 + i) = BitVec.ofNat 8 (w.toNat / 256 ^ i)) ∧
         (∀ q ∈ t.cache.backInv, q.line = line → q.answered = true) ∧
         (∀ c ∈ t.cache.lines, c.holder = .host → c.line = line → b.write = false ∧ c.state = .shared)))

/-- R386 (17): a snoop of a host line makes the device's installed copies of it leave, the dirty ones by a write-back, or leaves them
shared; a copy in pending fill holds it; a line that is no host line is left alone. R387: a shelf's back-invalidation makes the copies of a
pool line leave. A read-only vcache takes no probe (R266). Memory stays, but for the bytes that the host then holds there. -/
def Sys2Proof.Parts.SnoopsAndBackInvalidations : Prop :=
  ∀ (s : State) (pa : BitVec 52),
    let line := pa.toNat / 64
    let device := s.cache.lines.filter (fun c => c.line == line && c.holder != .host)
    let left := fun (c : CLine) => c.state = .evictPending ∨ s.unsnooped c.holder = true
    let quiet := fun (t : State) => t.mem = s.mem ∧ t.x = s.x ∧ t.st = s.st
    (isHostMem pa.toNat = false → ∀ inv d, exec (.hostSnoop pa inv d) s = .next s) ∧
    (isHostMem pa.toNat = true → (∀ c ∈ device, c.state ≠ .pendingFill) →
      (∃ t, exec (.hostSnoop pa true none) s = .next t ∧ quiet t ∧
        ∀ c ∈ t.cache.lines, c.line = line → c.holder = .host ∨ left c) ∧
      (∃ t, exec (.hostSnoop pa false none) s = .next t ∧ quiet t ∧
        ∀ c ∈ t.cache.lines, c.line = line → c.holder ≠ .host → c.state = .shared ∨ left c) ∧
      (s.memWf = true → ∀ v, ∃ t, exec (.hostSnoop pa true (some v)) s = .next t ∧
        (∀ i, i < 64 → t.memByte (line * 64 + i) = BitVec.ofNat 8 (v.toNat / 256 ^ i)) ∧
        ∀ q, q < line * 64 ∨ line * 64 + 64 ≤ q → t.memByte q = s.memByte q)) ∧
    (isHostMem pa.toNat = true → (∃ c ∈ device, c.state = .pendingFill) → ∃ t, exec (.hostSnoop pa true none) s = .next t ∧
      quiet t ∧ t.cache.lines.map (·.line) = s.cache.lines.map (·.line)) ∧
    (isPool pa.toNat = false → exec (.shelfBackInvalidation pa) s = .next s) ∧
    (isPool pa.toNat = true → (∀ c ∈ s.cache.lines, c.line = line → c.state ≠ .pendingFill) →
      ∃ t, exec (.shelfBackInvalidation pa) s = .next t ∧ quiet t ∧ ∀ c ∈ t.cache.lines, c.line = line → left c)

/-- The directory, cached lines, host accesses, snoops and back-invalidations. -/
def Obligations.DirectoryAndHostMemory : Prop :=
  Sys2Proof.Parts.DirectoryRegions ∧ Sys2Proof.Parts.CacheLineEvents ∧ Sys2Proof.Parts.HostMemory ∧ Sys2Proof.Parts.SnoopsAndBackInvalidations

/-- R388, R446 (17, 25), R379: a shelf that is lost, or silent for 10 ms, is so recorded, no copy of its lines is kept, and its range
reads as poison, and a record of kind 3 with its index and base goes to the mailbox; a shelf that is absent or lost already changes nothing. Pool bring-up, once, after bit 10 is accepted, enters the
shelves that fit and sets mbstat bit 3; a shelf that returns is entered afresh. A link that fails training is recorded. -/
def Sys2Proof.Parts.PoolShelves : Prop :=
  ∀ (s : State) (i : BitVec 4) (base size : Nat) (port : BitVec 5),
    let entered : State := { s with
      shelves := vset s.shelves i.toNat (some { base := base, size := size, lost := false })
      mbx := { s.mbx with shelves := vset s.mbx.shelves i.toNat (BitVec.ofNat 64 base, BitVec.ofNat 64 size) } }
    (vget s.shelves none i.toNat = none → exec (.shelfLost i) s = .next s ∧ exec (.shelfResponseTimeout i) s = .next s) ∧
    (∀ h, vget s.shelves none i.toNat = some h → h.lost = true →
      exec (.shelfLost i) s = .next s ∧ exec (.shelfResponseTimeout i) s = .next s) ∧
    (∀ h e, vget s.shelves none i.toNat = some h → h.lost = false → e ∈ [Instr.shelfLost i, .shelfResponseTimeout i] →
      ∃ t, exec e s = .next t ∧ vget t.shelves none i.toNat = some { h with lost := true } ∧ t.mem = s.mem ∧ t.x = s.x ∧
        (∀ c ∈ t.cache.lines, c.line * 64 < h.base ∨ h.base + h.size ≤ c.line * 64) ∧
        (∀ q, h.base % 64 = 0 → h.base ≤ q → q < h.base + h.size → t.poisoned q = true) ∧
        t.mbx.evtail = s.mbx.evtail + 1 ∧
        let r := vget t.mbx.events 0 (s.mbx.evtail.toNat % 32)
        r.toNat % 2 ^ 32 = i.toNat * 2 ^ 16 + 3 ∧ r.toNat / 2 ^ 64 % 2 ^ 64 = h.base % 2 ^ 64) ∧
    (s.poolUp = false → exec (.shelfReturn i base size) s = .next s) ∧
    (s.poolUp = true → (∀ h, vget s.shelves none i.toNat = some h → h.lost = true) →
      (s.shelfFits i.toNat base size = true → exec (.shelfReturn i base size) s = .next entered) ∧
      (s.shelfFits i.toNat base size = false → exec (.shelfReturn i base size) s = .next s)) ∧
    (s.boot ≠ .ready ∨ s.poolUp = true ∨ s.feature 10 = false → ∀ l, exec (.poolBringUp l) s = .next s) ∧
    (s.boot = .ready → s.poolUp = false → s.feature 10 = true → s.shelfFits i.toNat base size = true → ∃ t,
      exec (.poolBringUp [(i, base, size)]) s = .next t ∧ t.poolUp = true ∧ bit t.mbx.mbstat 3 = true ∧
      t.shelves = entered.shelves ∧ t.mbx.shelves = entered.mbx.shelves ∧ t.mem = s.mem) ∧
    (exec (.linkTrainingFailure (.ualink port)) s =
        .next (({ s with fab := { s.fab with lanes := vset s.fab.lanes port.toNat 0 } } : State).log 0 0)) ∧
    (∀ p, (∀ q, p ≠ .ualink q) → exec (.linkTrainingFailure p) s = .next (s.log 0 0))

/-- R440, R441, R442 (25): a reading that reaches alrt puts a normal sensor in alert and queues its transition, one that falls to rel
puts it back to normal and queues that; one between them, 1 ms after the entry or the last repeat, queues a repeat, as the event
for it does; others change the reading alone. A reading at the trip of a compute die forces its die to step 15; of another die it stops the module. -/
def Sys2Proof.Parts.Sensors : Prop :=
  ∀ (s : State) (index : BitVec 7) (temp : BitVec 16) (q : Sensor), s.mg.sensors.toArray[index.toNat]? = some q →
    let i := index.toNat
    let set := fun (v : Sensor) => vset s.mg.sensors i v
    (temp.toInt < s.mg.trip.toInt → s.mg.tripped.getLsbD i = false →
      (q.alert = false → q.alrt.toInt ≤ temp.toInt → ∃ t, exec (.sensorReading index temp) s = .next t ∧
        t.mg.sensors = set { q with temp := temp, alert := true, since := s.time } ∧ t.mg.irqs = putIrq i (BitVec.ofNat 64 i) s.mg.irqs ∧
        t.mem = s.mem) ∧
      (q.alert = true → temp.toInt ≤ q.rel.toInt → ∃ t, exec (.sensorReading index temp) s = .next t ∧
        t.mg.sensors = set { q with temp := temp, alert := false, since := s.time } ∧
        t.mg.irqs = putIrq i (BitVec.ofNat 64 (i + 256)) s.mg.irqs ∧ t.mem = s.mem) ∧
      (q.alert = true → q.rel.toInt < temp.toInt → q.since + 1000 ≤ s.time → ∃ t, exec (.sensorReading index temp) s = .next t ∧
        t.mg.sensors = set { q with temp := temp, since := s.time } ∧
        t.mg.irqs = putIrq i (BitVec.ofNat 64 (i + 512)) s.mg.irqs ∧ t.mem = s.mem) ∧
      ((q.alert = false ∧ temp.toInt < q.alrt.toInt) ∨ (q.alert = true ∧ q.rel.toInt < temp.toInt ∧ s.time < q.since + 1000) →
        exec (.sensorReading index temp) s = .next { s with mg := { s.mg with sensors := set { q with temp := temp } } })) ∧
    (s.mg.trip.toInt ≤ temp.toInt → ∃ t, exec (.sensorReading index temp) s = .next t ∧ t.mem = s.mem ∧
      (64 ≤ i → t.stopped = true) ∧ (i < 64 → t.stopped = s.stopped ∧ t.mg.stepOf (1 + i / 8) = 15)) ∧
    (q.alert = true → q.rel.toInt < q.temp.toInt → q.since + 1000 ≤ s.time → ∃ t, exec (.alertRepeat index) s = .next t ∧
      t.mg.sensors = set { q with since := s.time } ∧ t.mg.irqs = putIrq i (BitVec.ofNat 64 (i + 512)) s.mg.irqs ∧ t.mem = s.mem) ∧
    (q.alert = false ∨ q.temp.toInt ≤ q.rel.toInt ∨ s.time < q.since + 1000 → exec (.alertRepeat index) s = .next s)

/-- R442, R438 (25): the management core takes its oldest queued interrupt with cause 0xE4, tval holding the transition, at
machine level; its ipend stays while others wait. R403 (18): a storage error of a core with no strand retires it; that of a core whose
strand is the focus, head, fences the strand and retires the core. -/
def Sys2Proof.Parts.CoreEvents : Prop :=
  ∀ (s : State) (m : BitVec 6),
    (s.st.place = .management → s.mg.irqs = [] → exec .managementInterrupt s = .next s) ∧
    (∀ q rest, s.st.place = .management → s.mg.irqs = q :: rest →
      (s.asyncDue = false ∨ s.mg.halted = true → exec .managementInterrupt s = .next s) ∧
      (s.asyncDue = true → s.mg.halted = false → bit s.st.trap.status 5 = false →
        ∃ t, exec .managementInterrupt s = .next t ∧ t.mg.irqs = rest ∧ t.x.pc = s.st.trap.tvec.setWidth 54 ∧
          t.st.trap.tcause = 0x8E4 ∧ t.st.trap.tval = q.2 ∧ t.st.trap.tpc = s.x.pc.setWidth 64 ∧
          bits t.st.trap.status 0 2 = 3 ∧ bit t.st.trap.status 5 = true ∧ bit t.st.trap.status 6 = false ∧
          bit t.st.trap.status 11 = !rest.isEmpty ∧ t.x.sreg = s.x.sreg ∧ t.mem = s.mem)) ∧
    (s.occupant m.toNat = none → exec (.coreStorageError m) s =
      .next { s with cp := { s.cp with masters := vset s.cp.masters m.toNat .retired } }) ∧
    (s.st.place.master? = some m.toNat → s.spec = false → (∃ r ∈ s.parked, r.st.place = .management) →
      (∀ r ∈ s.parked, r.st.id = s.st.id → r.st.place = .management) →
      ∃ t, exec (.coreStorageError m) s = .next t ∧ vget t.cp.masters .free m.toNat = .retired ∧
        ∀ st ∈ t.strands, isStrandOf s.st.id st = false)

/-- R24, R25, R26 (01), R438, R446 (25): a module reset with an image in flash that verifies, its SHA-512 signed as the module's key demands,
and links that train leaves the module ready, the image's first 256 KiB in the SRAM, every byte of HBM 0, the management core in focus, no strand,
the features published and mbstat 1; with a stack or spoke link that fails it halts after training; with no image that verifies, or the strap, it is in recovery. Host
and pool memory stay. In recovery an image that verifies is written to flash, and a reset that interrupts it leaves none. That the image's place in
the SRAM is its first bytes is the model's choice (log entry 90). -/
def Sys2Proof.Parts.ResetAndRecovery : Prop :=
  ∀ (s : State) (strap interrupted : Bool) (hbms spokes : List (BitVec 4)) (bad : List (BitVec 13)) (log : BitVec 36) (image : Image),
    let verifies := fun (i : Image) => Config.imageSigned (sha512 i.body) i.signature
    let good : Prop := ∃ i, s.flash = some i ∧ verifies i = true
    let links : Prop := (∀ k ∈ hbms, 12 ≤ k.toNat) ∧ ∀ d ∈ spokes, d = 0 ∨ 12 < d.toNat
    (∃ t, exec (.moduleReset strap hbms spokes bad log) s = .next t ∧ t.st = Strand.management ∧ t.parked = [] ∧ t.x = Ctx.zero ∧
      t.stopped = false ∧ t.flash = s.flash ∧
      (∀ q, q < 0xC000000000 → t.memByte q = 0) ∧ (∀ q, 0xC000000000 ≤ q → t.memByte q = s.memByte q) ∧
      (strap = true ∨ ¬ good → t.boot = .recovery ∧ t.mbx = Mailbox.reset) ∧
      (strap = false → good → ¬ links → t.boot = .halted) ∧
      (strap = false → good → links → t.boot = .ready ∧ t.mbx.mbstat = 1 ∧ vget t.mbx.fw 0 0 = 0x73F ∧
        (∀ c, c ∈ t.cache.fenced ↔ c ∈ bad) ∧
        ∀ i, s.flash = some i → ∀ q, q < 0x40000 → Memory.read t.sram (fun _ => 0) q = i.body.getD q 0)) ∧
    (s.boot = .recovery → verifies image = true →
      exec (.recoveryImage image interrupted) s = .next { s with flash := if interrupted then none else some image }) ∧
    (s.boot ≠ .recovery ∨ verifies image = false → exec (.recoveryImage image interrupted) s = .next s)

/-- Pool shelves, sensors, management interrupts, storage errors, reset and recovery. -/
def Obligations.ManagementEvents : Prop :=
  Sys2Proof.Parts.PoolShelves ∧ Sys2Proof.Parts.Sensors ∧ Sys2Proof.Parts.CoreEvents ∧ Sys2Proof.Parts.ResetAndRecovery

/-- R164 to R168 (07), R141, R142 (06): two-source arithmetic. Where the checks of R163 pass, each active element is the exact
result of its operands, rounded once to fdst; the other elements follow R162; nothing else changes. -/
def Sys2Proof.Parts.VectorArithmetic : Prop :=
  ∀ (s : State) (k : BitVec 3) (r a b f : BitVec 5) (vs : BitVec 1) (d : FD),
    s.Ready f d [d.fa, d.fb] ([opdOf a d.fa] ++ (if vs = 0 then [opdOf b d.fb] else []) ++ [opdOf r d.fdst]) →
    arithFormats true d = true →
    let A := s.valueOf a d.fa d f
    let B := s.sourceB d (s.tscale f) b vs
    let C := s.valueOf r d.fdst d f
    let z := d.rm == 2
    let out (x : XVal) : Nat := roundTo d.fdst d.rm d.sat d.ftz x
    ∀ p ∈ [(Instr.vadd k r a b f vs, fun j => out (XVal.add z (A j) (B j))),
           (.vsub k r a b f vs, fun j => out (XVal.add z (A j) (B j).neg)),
           (.vmul k r a b f vs, fun j => out (XVal.mul (A j) (B j))),
           (.vfma k r a b f vs, fun j => out (XVal.add z (XVal.mul (A j) (B j)) (C j))),
           (.vfms k r a b f vs, fun j => out (XVal.add z (XVal.mul (A j) (B j)) (C j).neg)),
           (.vnfma k r a b f vs, fun j => out (XVal.add z (C j) (XVal.mul (A j) (B j)).neg)),
           (.vdiv k r a b f vs, fun j =>
             if 8 ≤ d.fdst then out (XVal.div (A j) (B j))
             else if (B j).scaled 0 = 0 then 2 ^ fmtWidth d.fdst - 1
             else roundTo d.fdst 0 d.sat false (.ofInt (((A j).scaled 0).tdiv ((B j).scaled 0)))),
           (.vmin k r a b f vs, fun j => out (XVal.minOf (A j) (B j))),
           (.vmax k r a b f vs, fun j => out (XVal.maxOf (A j) (B j)))],
      ∃ t, exec p.1 s = .next t ∧
        s.Filled t r.toNat (fmtWidth d.fdst) (s.applied (fmtWidth d.fdst) (s.kmask k.toNat) p.2)

/-- R166, R168, R169 (07): the one-source functions and conversion, and VDEQ (R184): as for two sources. -/
def Sys2Proof.Parts.VectorOneSource : Prop :=
  ∀ (s : State) (k : BitVec 3) (r a f : BitVec 5) (d : FD),
    s.Ready f d [d.fa] [opdOf a d.fa, opdOf r d.fdst] →
    let A := s.valueOf a d.fa d f
    let w := fmtWidth d.fdst
    let done (i : Instr) (g : XVal → XVal) : Prop := ∃ t, exec i s = .next t ∧
      s.Filled t r.toNat w (s.applied w (s.kmask k.toNat) (fun j => roundTo d.fdst d.rm d.sat d.ftz (g (A j))))
    (arithFormats false d = true → done (.vabs k r a f) XVal.abs ∧ done (.vneg k r a f) XVal.neg) ∧
    (isReal d.fa = true → isFloat d.fdst = true →
      done (.vsqrt k r a f) sqrtX ∧ done (.vexp2 k r a f) exp2X ∧ done (.vlog2 k r a f) log2X ∧
      done (.vrcp k r a f) (XVal.div (.ofInt 1)) ∧ done (.vrsq k r a f) rsqrtX) ∧
    (notScale d.fa = true → isPlain d.fdst = true → done (.vcvt k r a f) (fun x => x)) ∧
    ((isBlock d.fa || isE8M0 d.fa) = true → isFloat d.fdst = true → done (.vdeq k r a f) (fun x => x))

/-- Vector arithmetic: each active element is the exact result rounded once. -/
def Obligations.VectorArithmetic : Prop :=
  Sys2Proof.Parts.VectorArithmetic ∧ Sys2Proof.Parts.VectorOneSource

/-- R170 (07): bitwise operations and shifts act on the patterns of one width w, whatever the format means, the shift amount
modulo w; a scalar operand is taken modulo fb's width. -/
def Obligations.VectorBitwise : Prop :=
  ∀ (s : State) (k : BitVec 3) (r a b f : BitVec 5) (vs : BitVec 1) (d : FD),
    let w := fmtWidth d.fdst
    let A := (s.src (opdOf a d.fa)).at_
    let B := fun j => if vs = 1 then (s.getS b).toNat % 2 ^ fmtWidth d.fb else (s.src (opdOf b d.fb)).at_ j
    let done (p : Instr × (Nat → Nat)) : Prop := ∃ t, exec p.1 s = .next t ∧
      s.Filled t r.toNat w (s.applied w (s.kmask k.toNat) p.2)
    (s.Ready f d [d.fa, d.fb] ([opdOf a d.fa] ++ (if vs = 0 then [opdOf b d.fb] else []) ++ [opdOf r d.fdst]) →
      (bitFormats true d = true → ∀ p ∈ [(Instr.vand k r a b f vs, fun j => A j &&& B j), (.vor k r a b f vs, fun j => A j ||| B j),
        (.vxor k r a b f vs, fun j => A j ^^^ B j)], done p) ∧
      (shiftFormats d = true → ∀ p ∈ [(Instr.vshl k r a b f vs, fun j => A j * 2 ^ (B j % w)),
        (.vshr k r a b f vs, fun j => A j / 2 ^ (B j % w)),
        (.vsra k r a b f vs, fun j => (sextN (A j) w / 2 ^ (B j % w) % 2 ^ w).toNat)], done p)) ∧
    (s.Ready f d [d.fa] [opdOf a d.fa, opdOf r d.fdst] → bitFormats false d = true →
      done (.vnot k r a f, fun j => 2 ^ w - 1 - A j))

/-- R156, R157 (07): VSETVL and VSETVLI take vtype from s[b] or the word. Bits [63:6] other than zero leave vill, vl 0 and s[d] 0;
otherwise vl is the smaller of VLMAX and s[a], s0 asking for VLMAX, and goes to s[d]; vbeg is 0; nothing else changes. -/
def Sys2Proof.Parts.VectorLengthSetting : Prop :=
  ∀ (s : State) (d a b : BitVec 5) (m : BitVec 6), s.st.place.master? ≠ none →
    ∀ p ∈ [(Instr.vsetvl d a b, s.getS b), (.vsetvli d a m, m.setWidth 64)],
      let vlmax := min (vgmOf p.2 * 16384 / ewOf p.2) 2048
      let ok : Bool := decide (p.2.toNat < 64)
      let vl : Word := if !ok then 0 else if a = 0 then BitVec.ofNat 64 vlmax else BitVec.ofNat 64 (min (s.getS a).toNat vlmax)
      ∃ t, exec p.1 s = .next t ∧ s.Got t d vl ∧
        t = { s with
          retired := true
          x := { s.x with
            pc := s.x.pc + 4, sreg := t.x.sreg, await := t.x.await, replies := [], pipe := none
            vl := vl, vbeg := 0, vtype := if ok then p.2 else 0x8000000000000000 } }

/-- R171 (07): VCMP sets bit i of mask m where the condition holds of element i of the two sources: a NaN makes every comparison
but NE and UN false. -/
def Sys2Proof.Parts.VectorCompare : Prop :=
  ∀ (s : State) (k m : BitVec 3) (a b f : BitVec 5) (vs : BitVec 1) (d : FD), m ≠ 0 →
    s.Ready f d [d.fa, d.fb] ([opdOf a d.fa] ++ (if vs = 0 then [opdOf b d.fb] else [])) → compareFormats d = true →
    let A := s.valueOf a d.fa d f
    let B := s.sourceB d (s.tscale f) b vs
    let un (j : Nat) : Bool := (A j).isNan || (B j).isNan
    ∀ p ∈ [((0 : BitVec 3), fun j => !un j && XVal.cmp (A j) (B j) == .eq), (1, fun j => un j || XVal.cmp (A j) (B j) != .eq),
           (2, fun j => !un j && XVal.cmp (A j) (B j) == .lt), (3, fun j => !un j && XVal.cmp (A j) (B j) != .gt),
           (4, fun j => !un j && XVal.cmp (B j) (A j) == .lt), (5, fun j => !un j && XVal.cmp (B j) (A j) != .gt),
           (6, un), (7, fun j => !un j)],
      ∃ t, exec (.vcmp k m a b f vs p.1) s = .next t ∧
        s.Masked t m.toNat (s.applied 1 (s.kmask k.toNat) (fun j => if p.2 j then 1 else 0))

/-- R163 (07): the dispatch traps. An illegal format descriptor traps with cause 0x61 and its value, a vill vtype with 0x62, an
illegal group with 0x60 and the word, a vbeg other than 0, for an instruction that does not honour it, with 0x63 and vbeg. -/
def Sys2Proof.Parts.VectorDispatchTraps : Prop :=
  ∀ (s : State) (k m : BitVec 3) (r a b f : BitVec 5) (vs : BitVec 1) (c : BitVec 3), s.st.place.master? ≠ none →
    (fdLegal (s.getS f) = false → ∀ i ∈ [Instr.vadd k r a b f vs, .vsub k r a b f vs, .vmul k r a b f vs, .vfma k r a b f vs,
        .vfms k r a b f vs, .vnfma k r a b f vs, .vdiv k r a b f vs, .vmin k r a b f vs, .vmax k r a b f vs, .vabs k r a f,
        .vneg k r a f, .vsqrt k r a f, .vexp2 k r a f, .vlog2 k r a f, .vrcp k r a f, .vrsq k r a f, .vcvt k r a f,
        .vand k r a b f vs, .vor k r a b f vs, .vxor k r a b f vs, .vnot k r a f, .vshl k r a b f vs, .vshr k r a b f vs,
        .vsra k r a b f vs, .vcmp k m a b f vs c, .vredsum k r a f, .vredmax k r a f, .vredmin k r a f, .vscan k r a f,
        .vsort k r a b f, .vtopk k r a b f, .vrand k r f, .vpwl k r a b f, .vquant k r a f, .vdeq k r a f],
      exec i s = .next (s.trapS 0x61 (s.getS f))) ∧
    (let plain := [(Instr.vcomp k r a, [a, r], true), (.vexpd k r a, [a, r], false), (.viota k r, [r], false),
        (.vperm k r a b, [a, b, r], true), (.vslup k r a b, [a, r], true), (.vsldn k r a b, [a, r], true),
        (.vbcast k r a, [r], false), (.vextr r a b, [a], false), (.vins r a b, [r], false), (.vsel k r a b, [a, b, r], false),
        (.kand r a b, [], false), (.kor r a b, [], false), (.kxor r a b, [], false), (.knot r a, [], false),
        (.kpop r a, [], false), (.kfirst r a, [], false)]
     ∀ p ∈ plain,
      let legal := groupsLegal s.x.vtype (p.2.1.map (fun q => opdW q s.ew))
      (vill s.x.vtype = true → exec p.1 s = .next (s.trapS 0x62 s.x.vtype)) ∧
      (vill s.x.vtype = false → legal = false → exec p.1 s = .next (s.trapS 0x60 ((encode p.1).setWidth 64))) ∧
      (vill s.x.vtype = false → legal = true → p.2.2 = true → s.x.vbeg ≠ 0 → exec p.1 s = .next (s.trapS 0x63 s.x.vbeg)))

/-- VSETVL, VCMP, and the dispatch traps of vector instructions. -/
def Obligations.VectorLengthAndCompare : Prop :=
  Sys2Proof.Parts.VectorLengthSetting ∧ Sys2Proof.Parts.VectorCompare ∧ Sys2Proof.Parts.VectorDispatchTraps

/-- R173, R174 (07), R149 (06): a reduction writes to element 0 the value of the pairwise tree over the active elements, each combined
value rounded once to fdst, a list of one element its rounded value, an empty one the identity; VSCAN writes to each active element
the rounded sum of the active elements up to it. -/
def Sys2Proof.Parts.VectorReductions : Prop :=
  ∀ (s : State) (k : BitVec 3) (r a f : BitVec 5) (d : FD),
    s.Ready f d [d.fa] [opdOf a d.fa, opdOf r d.fdst] → reduceFormats d = true → s.x.vbeg = 0 →
    let A := s.valueOf a d.fa d f
    let w := fmtWidth d.fdst
    let z := d.rm == 2
    let out (x : XVal) : Nat := roundTo d.fdst d.rm d.sat d.ftz x
    let act := (List.range s.vl).filter (fun i => (s.kmask k.toNat).getLsbD i)
    let back (p : Nat) : XVal := elemValue d.fdst false p 0 (.ofInt 1)
    let order (p : Nat) : XVal := if isInt d.fdst then .ofInt (if isSigned d.fa then sextN p w else (p % 2 ^ w : Nat)) else back p
    let tree (read : Nat → XVal) (g : XVal → XVal → XVal) (e0 : XVal) : Nat :=
      let join (x y : XVal × Nat) : XVal × Nat := (read (out (g x.1 y.1)), out (g x.1 y.1))
      ((reduceTree join 12 (act.map (fun i => (A i, out (A i))))).getD (e0, out e0)).2
    (∀ p ∈ [(Instr.vredsum k r a f, tree back (XVal.add z) (.zero false)),
            (.vredmax k r a f, tree order XVal.maxOf (if isInt d.fdst then .ofInt (smallestInt d.fdst) else .inf true)),
            (.vredmin k r a f, tree order XVal.minOf (if isInt d.fdst then .ofInt (largestInt d.fdst) else .inf false))],
      ∃ t, exec p.1 s = .next t ∧ s.Filled t r.toNat w (s.packed w [p.2])) ∧
    ∃ (t : State) (ps : List Nat), exec (.vscan k r a f) s = .next t ∧ ps.length = act.length ∧
      (∀ i ∈ act.head?, ps.head? = some (out (A i))) ∧
      (∀ j, j + 1 < act.length → ps.getD (j + 1) 0 = out (XVal.add z (back (ps.getD j 0)) (A (act.getD (j + 1) 0)))) ∧
      s.Filled t r.toNat w (s.applied w (s.kmask k.toNat) (fun i => ps.getD (act.idxOf i) 0))

/-- R175, R176 (07): VSORT writes the keys of the active elements in a stable order, and their payloads beside them; VTOPK the
first s[b] keys of the opposite order, and their indices. The order is a permutation of the active elements. -/
def Sys2Proof.Parts.VectorSort : Prop :=
  ∀ (s : State) (k : BitVec 3) (r a b f : BitVec 5) (d : FD), s.x.vbeg = 0 → isPlain d.fa = true →
    let act := (List.range s.vl).filter (fun i => (s.kmask k.toNat).getLsbD i)
    let w := fmtWidth d.fa
    let n := groupRegs s.x.vtype w
    let A := (s.src (opdOf a d.fa)).at_
    let next (c : Nat) : Opd := { base := r.toNat + n, width := fmtWidth c, block := false }
    let pair (t : State) (c : Nat) (ks vals : List Nat) : Prop :=
      s.Holds t r.toNat n w (s.packed w ks) ∧
      s.Holds t (r.toNat + n) (groupRegs s.x.vtype (fmtWidth c)) (fmtWidth c) (s.packed (fmtWidth c) vals) ∧
      s.Vectored t [(r.toNat, n), (r.toNat + n, groupRegs s.x.vtype (fmtWidth c))]
    (∀ c lt, (s.sorted k a c lt).Perm act) ∧
    (s.Ready f d [d.fa, d.fb] [opdOf a d.fa, opdOf b d.fb, opdOf r d.fa, next d.fb] → isPlain d.fb = true →
      let order := s.sorted k a d.fa keyLt
      ∃ t, exec (.vsort k r a b f) s = .next t ∧
        pair t d.fb (order.map A) (order.map (s.src (opdOf b d.fb)).at_)) ∧
    (s.Ready f d [d.fa] [opdOf a d.fa, opdOf r d.fa, next d.fdst] → d.fdst = 5 ∨ d.fdst = 6 →
      let order := (s.sorted k a d.fa (fun x y => keyLt y x)).take (s.getS b).toNat
      ∃ t, exec (.vtopk k r a b f) s = .next t ∧ pair t d.fdst (order.map A) order)

/-- Reductions, scan, sort and top-k. -/
def Obligations.VectorReductionsAndSort : Prop :=
  Sys2Proof.Parts.VectorReductions ∧ Sys2Proof.Parts.VectorSort

/-- R177, R178, R179 (07): the moves, at the width of vtype's ew, whose result follows R162 or, for VCOMP, starts at element 0. -/
def Sys2Proof.Parts.VectorMoves : Prop :=
  ∀ (s : State) (k : BitVec 3) (r a b : BitVec 5),
    let K := s.kmask k.toNat
    let A := s.elemEw a
    let B := s.elemEw b
    let n := (s.getS b).toNat
    let below (i : Nat) : Nat := ((List.range i).filter (fun j => K.getLsbD j)).length
    let done (i : Instr) (v : Nat → Option Nat) : Prop := ∃ t, exec i s = .next t ∧ s.Filled t r.toNat s.ew v
    let all : BitVec 2048 := ~~~0
    (s.ReadyEw [r] →
      done (.viota k r) (s.applied s.ew all below) ∧
      done (.vbcast k r a) (s.applied s.ew K (fun _ => (s.getS a).toNat)) ∧
      done (.vins r a b) (fun i => if i < s.vl ∧ i = n then some ((s.getS a).toNat % 2 ^ s.ew) else none)) ∧
    (s.ReadyEw [a, r] →
      done (.vexpd k r a) (s.applied s.ew K (fun i => A (below i))) ∧
      (s.x.vbeg = 0 →
        done (.vcomp k r a) (s.packed s.ew (((List.range s.vl).filter (fun i => K.getLsbD i)).map A)) ∧
        done (.vslup k r a b) (fun i => if i < n ∧ i < s.vl then none else s.applied s.ew K (fun i => A (i - n)) i) ∧
        done (.vsldn k r a b) (s.applied s.ew K (fun i => if i + n < s.vl then A (i + n) else 0)))) ∧
    (s.ReadyEw [a, b, r] →
      done (.vsel k r a b) (s.applied s.ew all (fun i => if K.getLsbD i then A i else B i)) ∧
      (s.x.vbeg = 0 → done (.vperm k r a b) (s.applied s.ew K (fun i => if B i < s.vl then A (B i) else 0)))) ∧
    (s.ReadyEw [a] → ∃ t, exec (.vextr r a b) s = .next t ∧
      s.Got t r (if n < s.vl then BitVec.ofNat 64 (A n) else 0) ∧
      t = { s with
        retired := true
        x := { s.x with
          pc := s.x.pc + 4, sreg := t.x.sreg, await := t.x.await, vbeg := 0, replies := [], pipe := none } })

/-- R180 (07): the mask instructions act on bits 0 to vl − 1 whatever vbeg holds, and leave vbeg 0. -/
def Sys2Proof.Parts.MaskInstructions : Prop :=
  ∀ (s : State) (r a b : BitVec 5), s.st.place.master? ≠ none → vill s.x.vtype = false →
    let A := s.kmask a.toNat
    let B := s.kmask b.toNat
    let act := (List.range s.vl).filter (fun i => A.getLsbD i)
    (0 < r.toNat → r.toNat < 8 →
      ∀ p ∈ [(Instr.kand r a b, A &&& B), (.kor r a b, A ||| B), (.kxor r a b, A ^^^ B), (.knot r a, ~~~A)],
        ∃ t, exec p.1 s = .next t ∧
          s.Masked t r.toNat (fun i => if s.vl = 0 then none else if i < s.vl then some (if p.2.getLsbD i then 1 else 0)
            else if s.tp then some 0 else none)) ∧
    ∀ p ∈ [(Instr.kpop r a, (BitVec.ofNat 64 act.length : Word)), (.kfirst r a, match act with
        | i :: _ => BitVec.ofNat 64 i
        | [] => BitVec.allOnes 64)],
      ∃ t, exec p.1 s = .next t ∧ s.Got t r p.2 ∧
        t = { s with
          retired := true
          x := { s.x with
            pc := s.x.pc + 4, sreg := t.x.sreg, await := t.x.await, vbeg := 0, replies := [], pipe := none } }

/-- Moves of vector elements and the mask instructions. -/
def Obligations.VectorMovesAndMasks : Prop :=
  Sys2Proof.Parts.VectorMoves ∧ Sys2Proof.Parts.MaskInstructions

/-- R181, R182 (07), R151, R153 (06): VRAND fills the active elements from the generator and advances rngctr by vl; VPWL
evaluates the contour table, an FP32 result unrounded. -/
def Sys2Proof.Parts.VectorRandomAndTable : Prop :=
  ∀ (s : State) (k : BitVec 3) (r a c f : BitVec 5) (d : FD),
    let w := fmtWidth d.fdst
    let out (x : XVal) : Nat := roundTo d.fdst d.rm d.sat d.ftz x
    (s.Ready f d [] [opdOf r d.fdst] → randFormats d = true →
      ∃ t, exec (.vrand k r f) s = .next t ∧ t.x.rngctr = s.x.rngctr + BitVec.ofNat 64 s.vl ∧
        s.Filled { t with x := { t.x with rngctr := s.x.rngctr } } r.toNat w
          (s.applied w (s.kmask k.toNat) (fun i =>
            let q := s.x.rngctr + BitVec.ofNat 64 i
            if isInt d.fdst then vrandBits s.x.rngkey q else out (vrandUniform s.x.rngkey q)))) ∧
    (s.Ready f d [d.fa] [opdOf a d.fa, opdOf r d.fdst] → isFloat d.fa = true → isFloat d.fdst = true →
      ∃ t, exec (.vpwl k r a c f) s = .next t ∧
        s.Filled t r.toNat w (s.applied w (s.kmask k.toNat) (fun i =>
          let y := curveEval (vget s.st.tables 0 c.toNat) (s.valueOf a d.fa d f i)
          if d.fdst = 9 then y else out (readFloat 9 y))))

/-- R183, R185 (07), R146, R147 (06): VQUANT and VBADDQ quantise, block by block, the active elements and their exact sums. Each
block with an active element receives its scale byte and its active elements; a block with none keeps both; elements and scales
from vl on are tail. -/
def Sys2Proof.Parts.VectorQuantise : Prop :=
  ∀ (s : State) (k : BitVec 3) (r a b f : BitVec 5) (d : FD), s.x.vbeg = 0 →
    let w := fmtWidth d.fdst
    let n := groupRegs s.x.vtype w
    let act (i : Nat) : Bool := (s.kmask k.toNat).getLsbD i && decide (i < s.vl)
    let block (x : Nat → XVal) (j : Nat) : Option (Nat × List (Option Nat)) :=
      quantBlock d.fdst d.rm d.sat (s.tscale f) ((List.range 32).map (fun e => if act (32 * j + e) then some (x (32 * j + e)) else none))
    let written (x : Nat → XVal) (t : State) : Prop :=
      s.Holds t r.toNat n w (fun i => if s.vl = 0 then none else if s.vl ≤ i then (if s.tp then some 0 else none) else
        match block x (i / 32) with
        | none => none
        | some q => match (q.2.getD (i % 32) none) with
          | some p => some (p % 2 ^ w)
          | none => if s.mp then some 0 else none) ∧
      s.Holds t (r.toNat + n) 1 8 (fun j => if s.vl = 0 then none else if (s.vl + 31) / 32 ≤ j then (if s.tp then some 0 else none) else
        (block x j).map (fun q => q.1 % 256)) ∧
      s.Vectored t [(r.toNat, n), (r.toNat + n, 1)]
    (s.Ready f d [d.fdst] [opdOf a d.fa, opdOf r d.fdst] → isFloat d.fa = true →
      (isBlock d.fdst = true → ∃ t, exec (.vquant k r a f) s = .next t ∧ written (s.valueOf a d.fa d f) t) ∧
      (isE8M0 d.fdst = true → ∃ t, exec (.vquant k r a f) s = .next t ∧
        s.Filled t r.toNat 8 (s.applied 8 (s.kmask k.toNat) (fun i => scaleElem d.sat (s.valueOf a d.fa d f i))))) ∧
    (s.Ready f d [d.fa, d.fb] [opdOf a d.fa, opdOf b d.fb, opdOf r d.fdst] → s.feature 3 = true →
      isBlock d.fa = true → d.fb = d.fa → d.fdst = d.fa →
      ∃ t, exec (.vbaddq k r a b f) s = .next t ∧
        written (fun i => XVal.add (d.rm == 2) (s.valueOf a d.fa d f i) (s.valueOf b d.fb d f i)) t)

/-- VRAND, VPWL, VQUANT and VBADDQ. -/
def Obligations.VectorRandomTableAndQuantise : Prop :=
  Sys2Proof.Parts.VectorRandomAndTable ∧ Sys2Proof.Parts.VectorQuantise

/-- R188 to R194 (08), R240, R249 (10): a vector load of a strand outside a fork, every active element of which lies in local memory
that it may read, gives each active element the bytes at its address, through the strand's own buffered vector stores; the
other elements follow R162; memory and the buffers stay. The ordered forms give the same. -/
def Sys2Proof.Parts.VectorLoad : Prop :=
  ∀ (s : State) (k nf : BitVec 3) (v a b : BitVec 5) (e h : BitVec 2) (x : Nat → Nat → Xl), s.Alone → vill s.x.vtype = false →
    let size := 2 ^ e.toNat
    let w := 8 * size
    let n := groupRegs s.x.vtype w
    let A := s.getS a
    let act (i : Nat) : Prop := s.vbeg ≤ i ∧ i < s.vl ∧ (s.kmask k.toNat).getLsbD i = true
    let strided (i _f : Nat) : Word := A + BitVec.ofNat 64 i * s.getS b
    let indexed (i _f : Nat) : Word := A + BitVec.ofNat 64 (s.elemEw b i)
    let F := nf.toNat + 1
    ∀ p ∈ [(Instr.vld k v a e h, 1, none, fun i _ => A + BitVec.ofNat 64 (i * size)),
           (.vlds k v a b e h, 1, none, strided), (.vldsO k v a b e h, 1, none, strided),
           (.vldx k v a b e h, 1, some b, indexed), (.vldxO k v a b e h, 1, some b, indexed),
           (.vldseg k v a e nf h, F, none, fun i f => A + BitVec.ofNat 64 ((i * F + f) * size))],
      vmemGroups s.x.vtype v w p.2.1 p.2.2.1 true = true →
      (∀ i f, act i → f < p.2.1 → s.Local .read (p.2.2.2 i f) size (x i f) ∧ (p.2.2.2 i f).toNat % size = 0) →
      ∃ t, exec p.1 s = .next t ∧
        (∀ f, f < p.2.1 → s.Holds t (v.toNat + f * n) n w
          (s.applied w (s.kmask k.toNat) (fun i => s.viewNum (x i f).pa size))) ∧
        { s with classes := t.classes, cache := t.cache, net := t.net }.Vectored t [(v.toNat, p.2.1 * n)]

/-- R188 to R194 (08), R241, R249 (10): a vector store of a strand outside a fork, every active element of which lies in local memory
that it may write, leaves in the vector store buffer, for each byte, the byte of an element at that address; of an ordered store
the last; every other byte is as it was, and so are memory, the scalar view and every register but vbeg and pc. What the strand's vector
accesses then read is said where its buffered scalar stores are not ordered before them. -/
def Sys2Proof.Parts.VectorStore : Prop :=
  ∀ (s : State) (k nf : BitVec 3) (v a b : BitVec 5) (e h : BitVec 2) (x : Nat → Nat → Xl), s.Alone → vill s.x.vtype = false →
    let size := 2 ^ e.toNat
    let w := 8 * size
    let n := groupRegs s.x.vtype w
    let A := s.getS a
    let act (i : Nat) : Prop := s.vbeg ≤ i ∧ i < s.vl ∧ (s.kmask k.toNat).getLsbD i = true
    let strided (i _f : Nat) : Word := A + BitVec.ofNat 64 i * s.getS b
    let indexed (i _f : Nat) : Word := A + BitVec.ofNat 64 (s.elemEw b i)
    let F := nf.toNat + 1
    ∀ p ∈ [(Instr.vst k v a e h, 1, none, (fun i _ => A + BitVec.ofNat 64 (i * size)), false),
           (.vsts k v a b e h, 1, none, strided, false), (.vstsO k v a b e h, 1, none, strided, true),
           (.vstx k v a b e h, 1, some b, indexed, false), (.vstxO k v a b e h, 1, some b, indexed, true),
           (.vstseg k v a e nf h, F, none, (fun i f => A + BitVec.ofNat 64 ((i * F + f) * size)), false)],
      vmemGroups s.x.vtype v w p.2.1 p.2.2.1 false = true →
      (∀ i f, act i → f < p.2.1 → s.Local .write (p.2.2.2.1 i f) size (x i f) ∧ (p.2.2.2.1 i f).toNat % size = 0 ∧
        (x i f).pa % size = 0) →
      let at_ (i f q : Nat) : Prop := act i ∧ f < p.2.1 ∧ (x i f).pa ≤ q ∧ q < (x i f).pa + size
      let byte (i f q : Nat) : Byte := BitVec.ofNat 8 (s.elemOf (v.toNat + f * n) n w i / 256 ^ (q - (x i f).pa))
      ∃ t, exec p.1 s = .next t ∧
        (s.Parted → ∀ q, (∃ i f, at_ i f q) → ∃ i f, at_ i f q ∧ t.viewByte true q = byte i f q ∧
          (p.2.2.2.2 = true → ∀ j g, at_ j g q → j ≤ i)) ∧
        (∀ q, (∀ i f, ¬ at_ i f q) → t.viewByte true q = s.viewByte true q) ∧
        (∀ q, t.memByte q = s.memByte q ∧ t.viewByte false q = s.viewByte false q) ∧
        t = { s with
          retired := true, classes := t.classes, cache := t.cache, net := t.net, undef := t.undef
          st := { s.st with vbuf := t.st.vbuf, stores := t.st.stores }
          x := { s.x with pc := s.x.pc + 4, vbeg := 0, replies := [], pipe := none } }

/-- R196, R197 (08): the first element in ascending index whose address fails a check stops a vector load or store: the trap names
the element, vbeg is left at it. The first active element of the whole access here. -/
def Sys2Proof.Parts.VectorElementFault : Prop :=
  ∀ (s : State) (k : BitVec 3) (v a b : BitVec 5) (e h : BitVec 2) (i : Nat), s.Alone → vill s.x.vtype = false →
    let size := 2 ^ e.toNat
    s.vbeg ≤ i → i < s.vl → (s.kmask k.toNat).getLsbD i = true →
    (∀ j, s.vbeg ≤ j → j < i → (s.kmask k.toNat).getLsbD j = false) →
    let unit := s.getS a + BitVec.ofNat 64 (i * size)
    let strided := s.getS a + BitVec.ofNat 64 i * s.getS b
    ∀ p ∈ [(Instr.vld k v a e h, unit, (BitVec.ofNat 64 size : Word), true), (.vlds k v a b e h, strided, s.getS b, true),
           (.vst k v a e h, unit, BitVec.ofNat 64 size, false), (.vsts k v a b e h, strided, s.getS b, false)],
      vmemGroups s.x.vtype v (8 * size) 1 none p.2.2.2 = true →
      ∀ c : BitVec 8, (2 ^ 54 ≤ p.2.1.toNat ∧ c = 0x20) ∨ (p.2.1.toNat < 2 ^ 54 ∧ p.2.1.toNat % size ≠ 0 ∧ c = 0x21) →
      ∃ t u : State, exec p.1 s = .next t ∧ u.st = s.st ∧ u.mem = s.mem ∧
        u.x = { s.x with vreg := u.x.vreg, vbeg := BitVec.ofNat 64 i } ∧
        t = u.raise { cause := c, akind := if p.2.2.2 then 1 else 2, pc := s.x.pc, tval := p.2.1, telem := BitVec.ofNat 64 i,
                      tstride := p.2.2.1, tremain := BitVec.ofNat 64 (s.vl - i) }

/-- R204, R257 (08, 11): a prefetch completes whatever its addresses are, and changes no register, no memory and no translation. The line that a
prefetch of one element asks for is on its way into the vcache of its page, where that is none of vcache 0, has a plat for new lines and a way
free, and does not have the line. Its look into the vcache may count (R435). -/
def Sys2Proof.Parts.VectorPrefetch : Prop :=
  ∀ (s : State) (k : BitVec 3) (a b : BitVec 5) (e h : BitVec 2), s.st.place.master? ≠ none → vill s.x.vtype = false →
    let size := 2 ^ e.toNat
    let A := s.getS a
    let act := (List.range s.vl).filter (fun i => (s.kmask k.toNat).getLsbD i)
    ∀ p ∈ [(Instr.vpref k a e h, fun i => A + BitVec.ofNat 64 (i * size), true),
           (.vprefS k a b e h, fun i => A + BitVec.ofNat 64 i * s.getS b, true),
           (.vprefX k a b e h, fun i => A + BitVec.ofNat 64 (s.elemEw b i), groupsLegal s.x.vtype [opdW b s.ew])],
      p.2.2 = true →
      ∃ t, exec p.1 s = .next t ∧
        (let u : State := { s with
          retired := true, net := t.net, cache := t.cache
          x := { s.x with pc := s.x.pc + 4, replies := [], pipe := none } }
         u.Counted t ∧ (s.countsNone [1, 2] = true → t = u)) ∧
        ∀ i x, act = [i] → (plainCheck .read size s [] i (p.2.1 i) size).2 = .ok x → x.kind ≠ 1 → x.vc ≠ 0 →
          let plat := (s.vcache? x.vc).bind (·.current)
          (x.vc = 1 ∨ plat ≠ none) → s.bare x.vc (x.pa / 64 * 64) = false → s.cline? (.vcache x.vc) (x.pa / 64) = none →
          s.freeWay plat (x.pa / 64) ≠ none →
          ∃ l ∈ t.cache.lines, l.line = x.pa / 64 ∧ l.holder = .vcache x.vc ∧ l.state = .pendingFill

/-- Vector loads, stores and prefetches; where an element's address fails. -/
def Obligations.VectorLoadsAndStores : Prop :=
  Sys2Proof.Parts.VectorLoad ∧ Sys2Proof.Parts.VectorStore ∧ Sys2Proof.Parts.VectorElementFault ∧ Sys2Proof.Parts.VectorPrefetch

/-- R205 to R208, R192 (08): the memory queues. VLDSQ loads the oldest elements, as many as vl and the queue allow, and moves head past
them; VCAPP compacts the active elements behind the last and moves tail, or answers −1 and does nothing when they do not fit. With vl 0
neither accesses anything: VCAPP writes nothing, and VLDSQ 0 to its scalar register (the model's reading, log entry 25). -/
def Obligations.MemoryQueues : Prop :=
  ∀ (s : State) (k : BitVec 3) (v a b : BitVec 5) (e : BitVec 2) (x : Xl) (q : QueueRec) (y : Nat → Xl), s.Alone →
    vill s.x.vtype = false → s.x.vbeg = 0 →
    let size := 2 ^ e.toNat
    let w := 8 * size
    let n := groupRegs s.x.vtype w
    groupsLegal s.x.vtype [opdW v w] = true →
    (s.vl = 0 → exec (.vcapp k v a b e) s = .next s.advance ∧ exec (.vldsq v a b e) s = .next (s.result b 0)) ∧
    (s.vl ≠ 0 → s.Local .both (s.getS a) 64 x → (s.getS a).toNat % 64 = 0 → x.pa % 64 = 0 →
    readQueue e ((List.range 64).map (fun i => s.viewByte true (x.pa + i))) = some q →
    let src := ((List.range s.vl).filter (fun i => (s.kmask k.toNat).getLsbD i)).map (s.elemOf v.toNat n w)
    let took := min s.vl q.wait
    let put (off val : Nat) : Nat × List Byte × Nat := (x.pa + off, leBytes 8 val, x.vc)
    let stored (t : State) (l : List (Nat × List Byte × Nat)) : Prop := ∃ new, t.st.vbuf = s.st.vbuf ++ new ∧
      new.map (fun e => (e.pa, e.data, e.vcache)) = l ∧ ∀ e ∈ new, e.joined = false
    let frame (t : State) : Prop := t = { s with
      retired := true, classes := t.classes, cache := t.cache, net := t.net, undef := t.undef
      st := { s.st with vbuf := t.st.vbuf, stores := t.st.stores }
      x := { s.x with
        pc := s.x.pc + 4, sreg := t.x.sreg, await := t.x.await, vreg := t.x.vreg, vbeg := 0, replies := [], pipe := none } }
    ((∀ j, j < took → s.Local .both (q.addr (q.head + j) size) size (y j) ∧ (q.addr (q.head + j) size).toNat % size = 0) →
      ∃ t, exec (.vldsq v a b e) s = .next t ∧ frame t ∧ s.Got t b (BitVec.ofNat 64 took) ∧
        s.Holds t v.toNat n w (s.packed w ((List.range took).map (fun j => s.viewNum (y j).pa size))) ∧
        (∀ j, j < v.toNat ∨ v.toNat + n ≤ j → vget t.x.vreg 0 j = vget s.x.vreg 0 j) ∧
        stored t [put 24 ((q.head + took) % 2 ^ 64)]) ∧
    (q.cap - q.wait < src.length → ∃ t, exec (.vcapp k v a b e) s = .next t ∧ frame t ∧ s.Got t b (BitVec.allOnes 64) ∧
      t.x.vreg = s.x.vreg ∧ t.st.vbuf = s.st.vbuf) ∧
    (src.length ≤ q.cap - q.wait →
      (∀ j, j < src.length → s.Local .both (q.addr (q.tail + j) size) size (y j) ∧ (q.addr (q.tail + j) size).toNat % size = 0) →
      (∀ i j, i < j → j < src.length → (y i).pa + size ≤ (y j).pa ∨ (y j).pa + size ≤ (y i).pa) →
      ∃ t, exec (.vcapp k v a b e) s = .next t ∧ frame t ∧ s.Got t b (BitVec.ofNat 64 (q.wait + src.length)) ∧
        t.x.vreg = s.x.vreg ∧
        stored t ((List.range src.length).map (fun j => ((y j).pa, leBytes size (src.getD j 0), (y j).vc)) ++
          [put 16 ((q.tail + src.length) % 2 ^ 64)])))

/-- R296, R297, R293 (13): VAMO, on elements at different places of local memory outside a fork, replaces each active element of
the operand by the old value there and stores the new one, the strand's buffered vector stores performed first. No die has been retired, and
no buffered scalar store of the strand is ordered before its vector accesses. -/
def Sys2Proof.Parts.VectorAtomic : Prop :=
  ∀ (s : State) (k : BitVec 3) (d a b o : BitVec 5) (x : Nat → Xl), s.Alone → vill s.x.vtype = false → 32 ≤ s.ew →
    o.toNat ≤ 8 ∨ (o.toNat = 10 ∧ s.ew = 32) →
    groupsLegal s.x.vtype [opdW d s.ew, opdW b s.ew] = true → (opdW d s.ew).disjoint s.x.vtype (opdW b s.ew) = true →
    s.Parted → s.net.retired = [] →
    let n := s.ew / 8
    let act (i : Nat) : Prop := s.vbeg ≤ i ∧ i < s.vl ∧ (s.kmask k.toNat).getLsbD i = true
    let addr (i : Nat) : Word := s.getS a + BitVec.ofNat 64 (s.elemEw b i)
    (∀ i, act i → s.Local .both (addr i) n (x i) ∧ (addr i).toNat % n = 0) →
    (∀ i j, act i → act j → i ≠ j → (x i).pa + n ≤ (x j).pa ∨ (x j).pa + n ≤ (x i).pa) → s.memWf = true →
    let old (i : Nat) : Nat := s.viewNum (x i).pa n
    ∃ t, exec (.vamo k d a b o) s = .next t ∧
      s.Holds t d.toNat (groupRegs s.x.vtype s.ew) s.ew (s.applied s.ew (s.kmask k.toNat) old) ∧
      (∀ i new, act i → atomicNew o.toNat s.ew (old i) (s.elemEw d i) 0 = some new →
        ∀ j, j < n → t.memByte ((x i).pa + j) = BitVec.ofNat 8 (new / 256 ^ j)) ∧
      (∀ q, (∀ i, act i → q < (x i).pa ∨ (x i).pa + n ≤ q) → t.memByte q = s.viewByte true q) ∧
      t.st.vbuf = [] ∧ t.st.sbuf = s.st.sbuf ∧ t.st.trap = s.st.trap ∧
      (∀ j, (j < d.toNat ∨ d.toNat + groupRegs s.x.vtype s.ew ≤ j) → vget t.x.vreg 0 j = vget s.x.vreg 0 j) ∧
      t.x = { s.x with pc := s.x.pc + 4, vreg := t.x.vreg, vbeg := 0, replies := [], pipe := none }

/-- R298 (13), R270, R243 (11, 10): VAMOC outside a fork performs the strand's vector stores, sends the active elements to the scatter-add
units in ascending order and changes no vector register; the additions pend there. No buffered scalar store of the strand is ordered before its
vector accesses. -/
def Sys2Proof.Parts.VectorAtomicScatter : Prop :=
  ∀ (s : State) (k : BitVec 3) (d a b o : BitVec 5) (x : Nat → Xl), s.Alone → vill s.x.vtype = false → 32 ≤ s.ew →
    o.toNat ≤ 7 ∨ (o.toNat = 10 ∧ s.ew = 32) → groupsLegal s.x.vtype [opdW d s.ew, opdW b s.ew] = true →
    s.scatter = [] → s.memWf = true → s.Parted →
    let n := s.ew / 8
    let mask := s.kmask k.toNat
    let act := (List.range s.vl).filter (fun i => mask.getLsbD i && decide (s.vbeg ≤ i))
    let addr (i : Nat) : Word := s.getS a + BitVec.ofNat 64 (s.elemEw b i)
    act.length ≤ 256 → (∀ i ∈ act, s.Local .both (addr i) n (x i) ∧ (addr i).toNat % n = 0) →
    ∃ t, exec (.vamoc k d a b o) s = .next t ∧
      t.scatter = act.map (fun i => { pa := (x i).pa, vc := (x i).vc, wide := decide (n = 8), op := o.toNat,
                                      value := BitVec.ofNat 64 (s.elemEw d i), owner := s.st.id }) ∧
      (∀ q, t.memByte q = s.viewByte true q) ∧ t.st.vbuf = [] ∧ t.st.sbuf = s.st.sbuf ∧
      t.x = { s.x with pc := s.x.pc + 4, vbeg := 0, replies := [], pipe := none }

/-- VAMO and VAMOC. -/
def Obligations.VectorAtomics : Prop :=
  Sys2Proof.Parts.VectorAtomic ∧ Sys2Proof.Parts.VectorAtomicScatter

/-- R210, R211, R227, R228, R236 (09), R149, R150 (06): MMA and MSLIDE. Every cell of the M × N region takes, group by group in ascending
k, the exact sum of the group's products, rounded to FP32 once for each group, or modulo 2^32; a pair takes it compensated; rows
of A above 255 are zero; a poisoned row of A poisons its row of the result, one of B all of them. -/
def Sys2Proof.Parts.MatrixProduct : Prop :=
  ∀ (s : State) (x y z w : BitVec 5) (o : BitVec 2) (d : FD) (ta tb : XVal) (a ca b cb hi lo : Nat → Nat),
    let pair := o.getLsbD 0
    let ow := o.getLsbD 1
    let M := shapeM s.x.shape
    let N := shapeN s.x.shape
    let K := shapeK s.x.shape
    let G := min (groupSize d.fa) (groupSize d.fb)
    let blkA := isBlock d.fa
    let blkB := isBlock d.fb
    let qa := y.toNat
    let qb := z.toNat
    x.toNat < 8 → qa < 16 → qb < 16 → (pair = true → x.toNat % 2 = 0) → (blkA = true → qa < 15) → (blkB = true → qb < 15) →
    s.Array ([x.toNat] ++ (if pair then [x.toNat + 1] else []))
      ([qa, qb] ++ (if blkA then [qa + 1] else []) ++ (if blkB then [qb + 1] else [])) →
    d = readFD (s.getS w) → fdLegal (s.getS w) = true → mmaFormats pair d = true → matrixScale s w 1 d.fa = .ok ta →
    matrixScale s w 2 d.fb = .ok tb → shapeLegal s.x.shape = true → K ≤ min (kLimit d.fa) (kLimit d.fb) →
    (∀ m, m < M → ow = false → s.accBad x.toNat m = false → s.accVal x.toNat m = some (hi m)) →
    (∀ m, m < M → ow = false → pair = true → s.accBad (x.toNat + 1) m = false → s.accVal (x.toNat + 1) m = some (lo m)) →
    let bad (off m : Nat) : Bool :=
      (decide (m + off < 256) && (s.slotBad qa (m + off) || (blkA && s.slotBad (qa + 1) (m + off)))) ||
        (List.range N).any (fun n => s.slotBad qb n || (blkB && s.slotBad (qb + 1) n))
    let sums (off m n : Nat) : List XVal :=
      groupSums G
        (if m + off < 256 then rowValues d.fa d.ftz ta K (a (m + off)) (if blkA then ca (m + off) else 0)
         else List.replicate K (.zero false))
        (rowValues d.fb d.ftz tb K (b n) (if blkB then cb n else 0))
    let start (v : Nat → Nat) (m n : Nat) : Nat := if ow then 0 else cellOf (v m) n
    ∀ p ∈ [(Instr.mma x y z w o, 0), (.mslide x y z w o, shapeSlide s.x.shape)],
      (∀ m, m < M → m + p.2 < 256 → s.slotBad qa (m + p.2) = false → s.slotVal qa (m + p.2) = some (a (m + p.2))) →
      (∀ m, m < M → m + p.2 < 256 → blkA = true → s.slotBad (qa + 1) (m + p.2) = false →
        s.slotVal (qa + 1) (m + p.2) = some (ca (m + p.2))) →
      (∀ n, n < N → s.slotBad qb n = false → s.slotVal qb n = some (b n)) →
      (∀ n, n < N → blkB = true → s.slotBad (qb + 1) n = false → s.slotVal (qb + 1) n = some (cb n)) →
      ∃ t, exec p.1 s = .next t ∧
        s.Arrayed t (fun j m => m < M ∧ (j = x.toNat ∨ (pair = true ∧ j = x.toNat + 1))) (fun _ _ => False) ∧ t.x.vbeg = s.x.vbeg ∧
        ∀ m, m < M →
          (pair = false → s.AccCells t x.toNat m N (bad p.2 m || (!ow && s.accBad x.toNat m))
            (fun n => accumulate (d.fdst == 2) (start hi m n) (sums p.2 m n))) ∧
          (pair = true →
            s.AccCells t x.toNat m N (bad p.2 m || (!ow && s.accBad x.toNat m))
              (fun n => if s.accBad (x.toNat + 1) m && !ow then cellOf ((t.accVal x.toNat m).getD 0) n
                else (accumulatePair (start hi m n, start lo m n) (sums p.2 m n)).1) ∧
            s.AccCells t (x.toNat + 1) m N (bad p.2 m || (!ow && s.accBad (x.toNat + 1) m))
              (fun n => if s.accBad x.toNat m && !ow then cellOf ((t.accVal (x.toNat + 1) m).getD 0) n
                else (accumulatePair (start hi m n, start lo m n) (sums p.2 m n)).2))

/-- R229, R230, R236 (09), R153 (06): MEW, MPWL and MRNORM act on the cells of the M × N region, each row taking its source's poison; MZERO
and MCLR leave +0 and no poison in the rows they clear. -/
def Sys2Proof.Parts.MatrixElementwise : Prop :=
  ∀ (s : State) (x y z : BitVec 5) (o : BitVec 2) (c lo : Nat → Nat), x.toNat < 8 → y.toNat < 8 →
    let M := shapeM s.x.shape
    let N := shapeN s.x.shape
    let v (n : Nat) : XVal := readFloat 9 (cellOf (vget s.x.vreg 0 z.toNat).toNat n)
    let g (u w : XVal) : XVal :=
      if o = 0 then XVal.add false u w else if o = 1 then XVal.mul u w else if o = 2 then XVal.maxOf u w else XVal.minOf u w
    (s.Array [x.toNat, y.toNat] [] → shapeLegal s.x.shape = true →
      (∀ m, m < M → s.accBad y.toNat m = false → s.accVal y.toNat m = some (c m)) →
      ∀ p ∈ [(Instr.mew x y z o, fun m n => roundTo 9 0 false false (g (readFloat 9 (cellOf (c m) n)) (v n))),
             (.mpwl x y z, fun m n => curveEval (vget s.st.tables 0 z.toNat) (readFloat 9 (cellOf (c m) n)))],
        ∃ t, exec p.1 s = .next t ∧ s.Arrayed t (fun j m => j = x.toNat ∧ m < M) (fun _ _ => False) ∧ t.x.vbeg = s.x.vbeg ∧
          ∀ m, m < M → s.AccCells t x.toNat m N (s.accBad y.toNat m) (p.2 m)) ∧
    (x.toNat % 2 = 0 → s.Array [x.toNat, x.toNat + 1] [] → shapeLegal s.x.shape = true →
      (∀ m, m < M → s.accBad x.toNat m = false → s.accVal x.toNat m = some (c m)) →
      (∀ m, m < M → s.accBad (x.toNat + 1) m = false → s.accVal (x.toNat + 1) m = some (lo m)) →
      ∃ t, exec (.mrnorm x) s = .next t ∧ t.x.vbeg = s.x.vbeg ∧
        s.Arrayed t (fun j m => (j = x.toNat ∨ j = x.toNat + 1) ∧ m < M) (fun _ _ => False) ∧
        ∀ m, m < M →
          let bad := s.accBad x.toNat m || s.accBad (x.toNat + 1) m
          let r (n : Nat) : Nat × Nat := pairSplit (XVal.add false (readFloat 9 (cellOf (c m) n)) (readFloat 9 (cellOf (lo m) n)))
          s.AccCells t x.toNat m N bad (fun n => (r n).1) ∧ s.AccCells t (x.toNat + 1) m N bad (fun n => (r n).2)) ∧
    (s.Array [x.toNat] [] →
      ∀ p ∈ [(Instr.mzero x, (~~~0 : BitVec 2048)), (.mclr x y, s.kmask y.toNat)],
        ∃ t, exec p.1 s = .next t ∧ t.x.vbeg = s.x.vbeg ∧ s.Arrayed t (fun j _ => j = x.toNat) (fun _ _ => False) ∧
          ∀ r, r < 256 → if p.2.getLsbD r then t.AccRow x.toNat r false 0
            else t.accVal x.toNat r = s.accVal x.toNat r ∧ t.accBad x.toNat r = s.accBad x.toNat r)

/-- R231, R236 (09): MACS converts the M × N region of an accumulator into slot rows, transposed for opt 1, the scales of a block format
into the companion; the rest of each written row is zero, and its poison is that of what it came from. -/
def Sys2Proof.Parts.MatrixConvert : Prop :=
  ∀ (s : State) (x y w : BitVec 5) (o : BitVec 1) (d : FD) (t0 : XVal) (c : Nat → Nat), x.toNat < 16 → y.toNat < 8 →
    let M := shapeM s.x.shape
    let N := shapeN s.x.shape
    let blk := isBlock d.fdst
    let q := x.toNat
    let j := y.toNat
    (blk = true → q < 15) → s.Array [j] ([q] ++ (if blk then [q + 1] else [])) →
    d = readFD (s.getS w) → fdLegal (s.getS w) = true → macsFormats d = true → matrixScale s w 1 d.fdst = .ok t0 →
    shapeLegal s.x.shape = true → (if o = 1 then M else N) * fmtWidth d.fdst ≤ 4096 →
    (∀ m, m < M → s.accBad j m = false → s.accVal j m = some (c m)) →
    let cells (r : Nat) : List Nat :=
      if o = 1 then (List.range M).map (fun m => cellOf (c m) r) else (List.range N).map (cellOf (c r))
    let bad (r : Nat) : Bool := if o = 1 then (List.range M).any (s.accBad j) else s.accBad j r
    let rows := if o = 1 then N else M
    ∃ t, exec (.macs x y w o) s = .next t ∧ t.x.vbeg = s.x.vbeg ∧
      s.Arrayed t (fun _ _ => False) (fun p r => r < rows ∧ (p = q ∨ (blk = true ∧ p = q + 1))) ∧
      ∀ r, r < rows → t.SlotRow q r (bad r) ((macsRow d t0 (cells r)).1 % 2 ^ 4096) ∧
        (blk = true → t.SlotRow (q + 1) r (bad r) ((macsRow d t0 (cells r)).2 % 2 ^ 4096))

/-- Matrix products, row operations and conversion into slots. -/
def Obligations.MatrixArithmetic : Prop :=
  Sys2Proof.Parts.MatrixProduct ∧ Sys2Proof.Parts.MatrixElementwise ∧ Sys2Proof.Parts.MatrixConvert

/-- R215, R223 (09): MSHAPE takes a legal shape and returns the old one, and traps with cause 0x64 on any other; MCLAIM claims
resources, which start clean, unpoisoned and undefined, and leaves those already claimed untouched; MREL gives them up. -/
def Sys2Proof.Parts.MatrixShapeAndClaims : Prop :=
  ∀ (s : State) (d a : BitVec 5), s.Array [] [] →
    let v := s.getS a
    let c : BitVec 24 := v.setWidth 24
    let fresh := c &&& ~~~s.x.claim
    let gone := c &&& s.x.claim
    (shapeLegal v = false → exec (.mshape d a) s = .next (s.trapS 0x64 v)) ∧
    (shapeLegal v = true → ∃ t, exec (.mshape d a) s = .next t ∧ s.Got t d s.x.shape ∧
      t = { s with
        retired := true
        x := { s.x with
          pc := s.x.pc + 4, shape := v, sreg := t.x.sreg, await := t.x.await, replies := [], pipe := none } }) ∧
    (2 ^ 24 ≤ v.toNat → exec (.mclaim a) s = .next (s.trapS 0x65 v) ∧ exec (.mrel a) s = .next (s.trapS 0x65 v)) ∧
    (v.toNat < 2 ^ 24 →
      (∃ t, exec (.mclaim a) s = .next t ∧ t.x.claim = s.x.claim ||| c ∧ t.x.vbeg = s.x.vbeg ∧ t.x.dirty = s.x.dirty &&& ~~~fresh ∧
        (∀ j r, j < 8 → r < 256 → fresh.getLsbD j = true → t.accBad j r = false ∧ t.accVal j r = none) ∧
        (∀ q r, q < 16 → r < 256 → fresh.getLsbD (8 + q) = true → t.slotBad q r = false ∧ t.slotVal q r = none) ∧
        { s with x := { s.x with claim := t.x.claim } }.Arrayed t (fun j _ => fresh.getLsbD j = true)
          (fun q _ => fresh.getLsbD (8 + q) = true)) ∧
      (∃ t, exec (.mrel a) s = .next t ∧ t.x.claim = s.x.claim &&& ~~~c ∧ t.x.vbeg = s.x.vbeg ∧ t.x.dirty = s.x.dirty &&& ~~~gone ∧
        (∀ j r, j < 8 → r < 256 → gone.getLsbD j = true → t.accVal j r = none) ∧
        (∀ q r, q < 16 → r < 256 → gone.getLsbD (8 + q) = true → t.slotVal q r = none) ∧
        { s with x := { s.x with claim := t.x.claim } }.Arrayed t (fun j _ => gone.getLsbD j = true)
          (fun q _ => gone.getLsbD (8 + q) = true)))

/-- R232, R235 (09): MROWV moves a row of 256 cells between an accumulator and the low half of a vector register; a row index above 255
traps with cause 0x66, a poisoned row read with 0xC0 and the row index. MWAIT, with the matrix queue empty, gives the map of
claimed resources that hold a poisoned row. -/
def Sys2Proof.Parts.MatrixRowsAndWait : Prop :=
  ∀ (s : State) (x y z d : BitVec 5), x.toNat < 8 → y.toNat < 8 →
    let r := (s.getS z).toNat
    (s.Array [y.toNat] [] →
      (255 < r → exec (.mrowvToVector d y z) s = .next (s.trapS 0x66 (s.getS z))) ∧
      (r ≤ 255 → s.accBad y.toNat r = true → exec (.mrowvToVector d y z) s = .next (s.trapA 0xC0 1 (s.getS z))) ∧
      ∀ v, r ≤ 255 → s.accBad y.toNat r = false → s.accVal y.toNat r = some v →
        ∃ t, exec (.mrowvToVector d y z) s = .next t ∧
          (∀ n, n < 256 → cellOf (vget t.x.vreg 0 d.toNat).toNat n = cellOf v n) ∧
          (∀ n, 256 ≤ n → n < 512 → cellOf (vget t.x.vreg 0 d.toNat).toNat n = cellOf (vget s.x.vreg 0 d.toNat).toNat n) ∧
          (∀ j, j ≠ d.toNat → vget t.x.vreg 0 j = vget s.x.vreg 0 j) ∧
          t = { s with
            retired := true, x := { s.x with pc := s.x.pc + 4, vreg := t.x.vreg, replies := [], pipe := none } }) ∧
    (s.Array [x.toNat] [] →
      (255 < r → exec (.mrowvToAccumulator x d z) s = .next (s.trapS 0x66 (s.getS z))) ∧
      (r ≤ 255 → ∃ t, exec (.mrowvToAccumulator x d z) s = .next t ∧ t.x.vbeg = s.x.vbeg ∧
        s.Arrayed t (fun j m => j = x.toNat ∧ m = r) (fun _ _ => False) ∧
        t.AccRow x.toNat r false ((vget s.x.vreg 0 d.toNat).toNat % 2 ^ 8192))) ∧
    (s.Array [] [] → s.st.mqueue = [] → ∃ t v, exec (.mwait d) s = .next t ∧ s.Wrote t d v (s.x.pc + 4) ∧
      (∀ j, j < 8 → (v.getLsbD j = true ↔ s.x.claim.getLsbD j = true ∧ ∃ m, m < 256 ∧ s.accBad j m = true)) ∧
      (∀ q, q < 16 → (v.getLsbD (8 + q) = true ↔ s.x.claim.getLsbD (8 + q) = true ∧ ∃ m, m < 256 ∧ s.slotBad q m = true)) ∧
      ∀ i, 24 ≤ i → v.getLsbD i = false)

/-- R224, R225, R236 (09), R233, R234: MLDS and MLDA load rows of memory into a slot or an accumulator, the rest of each row 0; MSTA
puts the rows of an accumulator in the vector store buffer in ascending order, converted to the memory format; MCURV loads the
96 bytes of a contour table. The rows lie in one page each, in local memory that the strand may access outside a fork. -/
def Sys2Proof.Parts.MatrixTransfers : Prop :=
  ∀ (s : State) (x y z w : BitVec 5) (p : Nat → Xl) (c : Nat → Nat), s.Alone → x.toNat < 16 →
    let v := s.getS w
    let d := readXfer v
    let row (r : Nat) : Word := s.getS y + BitVec.ofNat 64 r * s.getS z
    let todo (r : Nat) : Prop := s.vbeg ≤ r ∧ r < d.rows
    let reads (k : Acc) (e : Nat) : Prop := ∀ r, todo r → (row r).toNat % e = 0 ∧
      (row r).toNat % 65536 + d.len * e ≤ 65536 ∧ s.Local k (row r) (d.len * e) (p r)
    (s.Array [] [x.toNat] → xferLegal v false 512 = true → reads .read 1 →
      ∃ t, exec (.mlds x y z w) s = .next t ∧ t.x.vbeg = 0 ∧ s.Arrayed t (fun _ _ => False) (fun q r => q = x.toNat ∧ todo r) ∧
        ∀ r, todo r → t.SlotRow x.toNat r false (s.viewNum (p r).pa d.len)) ∧
    (x.toNat < 8 → s.Array [x.toNat] [] → xferLegal v false 256 = true → reads .read 4 →
      ∃ t, exec (.mlda x y z w) s = .next t ∧ t.x.vbeg = 0 ∧ s.Arrayed t (fun j r => j = x.toNat ∧ todo r) (fun _ _ => False) ∧
        ∀ r, todo r → t.AccRow x.toNat r false (s.viewNum (p r).pa (d.len * 4))) ∧
    (x.toNat < 8 → s.Array [x.toNat] [] → xferLegal v true 256 = true → reads .write (fmtWidth d.fmt / 8) →
      (∀ r, todo r → s.accBad x.toNat r = false ∧ s.accVal x.toNat r = some (c r)) →
      let bytes (r : Nat) : List Byte := (List.range d.len).flatMap (fun n => leBytes (fmtWidth d.fmt / 8)
        (if d.fmt = 9 ∨ d.fmt = 2 then cellOf (c r) n else roundTo d.fmt 0 false false (readFloat 9 (cellOf (c r) n))))
      ∃ t, exec (.msta x y z w) s = .next t ∧
        (∃ new, t.st.vbuf = s.st.vbuf ++ new ∧ new.map (fun b => (b.pa, b.data, b.vcache)) =
          (span s.vbeg d.rows).map (fun r => ((p r).pa, bytes r, (p r).vc)) ∧ ∀ b ∈ new, b.joined = false) ∧
        t = { s with
          retired := true, classes := t.classes, cache := t.cache, net := t.net
          st := { s.st with vbuf := t.st.vbuf, stores := t.st.stores }
          x := { s.x with pc := s.x.pc + 4, vbeg := 0, replies := [], pipe := none } }) ∧
    (∀ u : Xl, x.toNat < 8 → s.Array [] [] → (s.getS y).toNat % 32 = 0 → (s.getS y).toNat % 65536 + 96 ≤ 65536 →
      s.Local .read (s.getS y) 96 u →
      ∃ t, exec (.mcurv x y) s = .next t ∧
        vget t.st.tables 0 x.toNat = BitVec.ofNat 768 (s.viewNum u.pa 96) ∧
        (∀ j, j ≠ x.toNat → vget t.st.tables 0 j = vget s.st.tables 0 j) ∧
        t = { s with
          retired := true, classes := t.classes, cache := t.cache, net := t.net
          st := { s.st with tables := t.st.tables }
          x := { s.x with pc := s.x.pc + 4, replies := [], pipe := none } })

/-- R214, R219, R215 (09): the dispatch traps of the array. A resource that is not claimed traps with cause 0x65 and the mask needed, an
illegal shape with 0x64 and the shape, and MCURV inside a fork with 0x67 and its word. -/
def Sys2Proof.Parts.MatrixDispatchTraps : Prop :=
  ∀ (s : State) (x y z : BitVec 5) (o : BitVec 2), s.Array [] [] → x.toNat < 8 → y.toNat < 8 →
    let bitOf (j : Nat) : Word := BitVec.ofNat 64 (2 ^ j)
    (s.x.claim.getLsbD x.toNat = false →
      (∀ i ∈ [Instr.mzero x, .mclr x y, .mlda x y z z, .msta x y z z, .mrowvToAccumulator x y z],
        exec i s = .next (s.trapS 0x65 (bitOf x.toNat))) ∧
      ∀ i ∈ [Instr.mew x y z o, .mpwl x y z], exec i s = .next (s.trapS 0x65 (bitOf x.toNat ||| bitOf y.toNat))) ∧
    (s.x.claim.getLsbD (8 + x.toNat) = false → exec (.mlds x y z z) s = .next (s.trapS 0x65 (bitOf (8 + x.toNat)))) ∧
    (s.x.claim.getLsbD x.toNat = true → s.x.claim.getLsbD y.toNat = true → shapeLegal s.x.shape = false →
      ∀ i ∈ [Instr.mew x y z o, .mpwl x y z], exec i s = .next (s.trapS 0x64 s.x.shape)) ∧
    (s.st.active = true → exec (.mcurv x y) s = .next (s.trapS 0x67 ((encode (.mcurv x y)).setWidth 64)))

/-- Shape, claims, rows, transfers and traps of the matrix array. -/
def Obligations.MatrixStores : Prop :=
  Sys2Proof.Parts.MatrixShapeAndClaims ∧ Sys2Proof.Parts.MatrixRowsAndWait ∧ Sys2Proof.Parts.MatrixTransfers ∧ Sys2Proof.Parts.MatrixDispatchTraps

/-- R48 (02): every word instruction that is well formed is read back from its own encoding, every operand at every value. -/
def Sys2Proof.Parts.DecodeEncode : Prop :=
  ∀ i : Instr, i.isWord = true → i.wf = true → decode (encode i) = .ok i

/-- R48 (02): the decoder accepts a word only as the well-formed instruction whose encoding is that word. -/
def Sys2Proof.Parts.DecodeExact : Prop :=
  ∀ (w : BitVec 32) (i : Instr), decode w = .ok i → i.isWord = true ∧ i.wf = true ∧ encode i = w

/-- Decoding and encoding are inverse on well-formed instructions and accepted words. -/
def Obligations.DecodeAndEncodeAgree : Prop :=
  Sys2Proof.Parts.DecodeEncode ∧ Sys2Proof.Parts.DecodeExact

/-- R380 (17), R446 (25): memory and the management core's SRAM, lists of cells in this model, keep their canonical form: addresses strictly rising, no entry equal to what an
unlisted address reads as. -/
def Obligations.StepKeepsMemoryCanonical : Prop :=
  ∀ s t : State, s.memWf = true → Memory.wf (fun _ => 0) s.sram = true → step s = .next t →
    t.memWf = true ∧ Memory.wf (fun _ => 0) t.sram = true

/-- R27, R28, R48 (02), R430 (24): where no input, host request, trap, interrupt, owed wait or queued instruction comes first, and the word at pc is
fetched and decodes to i, with its operands there, the step runs i on the state after the fetch; beside what i does, the count
of completed instructions may go up. -/
def Sys2Proof.Parts.StepRunsDecoded : Prop :=
  ∀ (s u : State) (w : BitVec 32) (i : Instr), s.inputs = [] → s.stopped = false → s.hostReady = none →
    s.asyncDue = false → s.fetch = .ok (u, w) → decode w = .ok i → (u.joinHere = none ∨ i = .join) → u.interlocked i = false →
    ((s.st.place = .management ∧ s.mgmtRuns = true) ∨
     (s.st.place.master? ≠ none ∧ s.st.phase = .running ∧ s.x.phase = .running ∧ s.st.fatal = none ∧ s.x.held = none ∧
      (s.spec = true ∨ s.x.owed = .nothing ∧ s.st.vqueue = [] ∧ s.st.mqueue = [] ∧ s.st.equeue = []))) →
    step s = settle u i (runFront i u) ∧
    ((u.spec = true ∨ u.st.vqueue = [] ∧ u.st.mqueue = []) → step s = settle u i (exec i u)) ∧
    ∀ t, (u.spec = true ∨ u.st.vqueue = [] ∧ u.st.mqueue = []) → exec i u = .next t → ∃ t', step s = .next t' ∧
      t' = { t with
        retired := false
        st := { t.st with
          pmcfg := t'.st.pmcfg, ovfPend := t'.st.ovfPend
          trap := { t.st.trap with status := t'.st.trap.status } } }

/-- Words of every family, from the spec's own examples and listings, decode to the instructions they stand for. -/
def Sys2Proof.Parts.DecodedWords : Prop :=
  decodeTableWord 32 0x08A4FFF0 = some (.addi 5 4 0xFFF0) ∧ decodeTableWord 32 0x20E7803F = some (.shi 7 7 2 63) ∧
  decodeTableWord 32 0x38073FFE = some (.bne 0 7 0x1FFE) ∧ decodeTableWord 32 0x45800620 = some (.sget 12 0x031) ∧
  decodeTableWord 32 0x440000A6 = some (.svc 5) ∧ decodeTableWord 32 0x4CC80000 = some (.launch 6 8) ∧ decodeTableWord 32 0x4D800003 = some (.ringid 12) ∧
  decodeTableWord 32 0x518D7020 = some (.aadd 12 13 14 2) ∧ decodeTableWord 32 0x518D73C9 = some (.acas 12 13 14 15 0) ∧
  decodeTableWord 32 0x55940063 = some (.barrw 12 20 3) ∧ decodeTableWord 32 0x598D7000 = some (.msend 12 13 14) ∧
  decodeTableWord 32 0x59ED0001 = some (.mrecv 15 13) ∧ decodeTableWord 32 0x69CDA301 = some (.gst 14 13 20 3) ∧
  decodeTableWord 32 0x69940003 = some (.gcommit 12 20) ∧ decodeTableWord 32 0x68050026 = some (.gresolve 5 1) ∧
  decodeTableWord 32 0x718D0041 = some (.vsetvli 12 13 2) ∧ decodeTableWord 32 0x85043483 = some (.vfma 1 8 4 6 18 0) ∧
  decodeTableWord 32 0xA9053180 = some (.vlds 2 8 5 6 2 0) ∧ decodeTableWord 32 0xC9056030 = some (.vamo 2 8 5 12 0) ∧
  decodeTableWord 32 0x30C46078 = some (.ld 6 4 3 120) ∧ decodeTableWord 32 0x36CA60C8 = some (.st 22 10 3 200) ∧
  decodeTableWord 32 0x74000000 = none ∧ decodeTableWord 32 0xFFFFFFFF = none ∧ decodeTableWord 32 0x00000000 = none

/-- A step runs the instruction that the word at pc decodes to. -/
def Obligations.StepRunsDecodedInstruction : Prop :=
  Sys2Proof.Parts.StepRunsDecoded ∧ Sys2Proof.Parts.DecodedWords

/-- R24 (01), R74 (03), R355 (16), R382 (17), R390, R391 (18), R438, R439, R446 (25): what reset leaves: no strand, every feature word and mailbox register 0, the
registers of the command processor, the fabric and the sensors at their reset values, memory in canonical form and reading 0. -/
def Sys2Proof.Parts.ResetState : Prop :=
  let s := State.reset
  s.memWf = true ∧ Memory.wf (fun _ => 0) s.sram = true ∧ (∀ a, a < 0xC000000000 → s.memByte a = 0) ∧
  s.parked = [] ∧ s.cp.launches = [] ∧ s.st.place = .management ∧ s.lvl = 3 ∧ s.x.shape = 0 ∧
  s.mbx.mbstat = 0 ∧ (∀ i, vget s.mbx.fa 0 i = 0) ∧ s.fab.fxtmo = 1000 ∧ s.fab.fxclcfg = 0x0000004007D007D0 ∧
  s.cp.quant = 2000 ∧ s.cp.svcnt = 0 ∧ (∀ f, f < 32 → vget s.cp.vfcfg 0 f = 1) ∧
  s.mg.trip = 0x07D0 ∧ s.mg.tail = 0 ∧ s.poison = [] ∧ s.net.retired = [] ∧ s.stopped = false

/-- The module refuses nothing: every instruction and every event has an effect in every state. -/
def Sys2Proof.Parts.EveryInstructionAnswers : Prop :=
  (∀ (i : Instr) (s : State), ∃ t, exec i s = .next t) ∧
  ∀ s : State, (∃ t, step s = .next t) ∨ (s.stopped = true ∧ step s = .fault .moduleStopped)

/-- What reset leaves; every instruction and event has an effect in every state. -/
def Obligations.ResetStateAndTotality : Prop :=
  Sys2Proof.Parts.ResetState ∧ Sys2Proof.Parts.EveryInstructionAnswers
end

