-- ==== Sys2Proof/Laws/Access.lean ====
section
/-! SUPPORT. What an access of the focus comes to where its translation buffer answers. -/

namespace Sys2Proof.Machine

/-- The focus's translation buffer holds an entry that allows the access, and it leads to `x`. -/
def State.hits (s : State) (k : Acc) (va : Nat) (x : Xl) : Bool :=
  decide (va < 2 ^ 54) &&
    (match s.space.master.bind (fun m => s.tlbFind m s.space.asid va) with
    | some t => checkPte t.entry k s.space.user && decide (leafXl t.entry t.large va = x) &&
        (match s.checkVcache s.space.vf x.vc with | .ok _ => true | .error _ => false)
    | none => false)

/-- A hit answers with the entry's page and changes nothing (R285). -/
theorem xlate_of_hits (s : State) (rd : Nat → Option Word) (k : Acc) (va : Nat) (x : Xl) (h : s.hits k va x = true) :
    s.xlate rd s.space k va = (s, .ok x) := by
  unfold State.hits at h
  simp only [Bool.and_eq_true, decide_eq_true_eq] at h
  obtain ⟨hv, h⟩ := h
  unfold State.xlate
  rw [if_neg (by omega)]
  cases ht : s.space.master.bind (fun m => s.tlbFind m s.space.asid va) with
  | none => simp only [ht] at h; cases h
  | some t =>
    simp only [ht, Bool.and_eq_true, decide_eq_true_eq] at h ⊢
    obtain ⟨⟨hc, hx⟩, hk⟩ := h
    rw [if_pos hc, hx]
    cases hu : s.checkVcache s.space.vf x.vc with
    | ok a => rfl
    | error c => simp only [hu] at hk; cases hk

end Sys2Proof.Machine
end

