-- ==== Sys2Proof/Laws/Bits.lean ====
section
/-! SUPPORT. Bit fields of a word: reading what putBits wrote. -/

namespace Sys2Proof.Machine

theorem testBit_bits (x : Word) (lo n i : Nat) : (bits x lo n).testBit i = (decide (i < n) && x.getLsbD (lo + i)) := by
  simp [bits, nbits, Nat.testBit_mod_two_pow, Nat.testBit_div_two_pow, BitVec.getLsbD, Nat.add_comm]

theorem getLsbD_putBits (x : Word) (lo n v i : Nat) (h : i < 64) :
    (putBits x lo n v).getLsbD i = if lo ≤ i ∧ i < lo + n then v.testBit (i - lo) else x.getLsbD i := by
  simp only [putBits, BitVec.getLsbD_or, BitVec.getLsbD_and, BitVec.getLsbD_not, BitVec.getLsbD_ofNat, h, decide_true,
    Bool.true_and, Nat.testBit_mul_two_pow, Nat.testBit_two_pow_sub_one, Nat.testBit_mod_two_pow]
  by_cases h1 : lo ≤ i <;> by_cases h2 : i < lo + n <;> simp [h1, h2]
  · have : i - lo < n := by omega
    simp [this]
  · have : ¬ i - lo < n := by omega
    simp [this]

theorem bit_putBits (x : Word) (lo n v i : Nat) (h : i < 64) :
    bit (putBits x lo n v) i = if lo ≤ i ∧ i < lo + n then v.testBit (i - lo) else bit x i := getLsbD_putBits x lo n v i h

theorem bit_ge (x : Word) (i : Nat) (h : 64 ≤ i) : bit x i = false := BitVec.getLsbD_of_ge x i h

/-- The field just written. -/
theorem bits_putBits_same (x : Word) (lo n v : Nat) (h : lo + n ≤ 64) : bits (putBits x lo n v) lo n = v % 2 ^ n := by
  apply Nat.eq_of_testBit_eq
  intro i
  rw [testBit_bits, Nat.testBit_mod_two_pow]
  by_cases hi : i < n
  · simp [hi, getLsbD_putBits x lo n v (lo + i) (by omega)]
  · simp [hi]

/-- A field apart from the one written. -/
theorem bits_putBits_apart (x : Word) (lo n v lo' n' : Nat) (h : lo' + n' ≤ lo ∨ lo + n ≤ lo') :
    bits (putBits x lo n v) lo' n' = bits x lo' n' := by
  apply Nat.eq_of_testBit_eq
  intro i
  rw [testBit_bits, testBit_bits]
  by_cases hi : i < n'
  · by_cases h64 : lo' + i < 64
    · rw [getLsbD_putBits _ _ _ _ _ h64, if_neg (by omega)]
    · rw [BitVec.getLsbD_of_ge _ _ (by omega), BitVec.getLsbD_of_ge _ _ (by omega)]
  · simp [hi]

end Sys2Proof.Machine
end

