-- ==== Sys2Proof/Laws/Hub.lean ====
section
/-! SUPPORT. Nothing that the hub records, sends or counts changes a byte of memory. -/

namespace Sys2Proof.Machine

/-- A fold of steps that each leave memory alone leaves it alone. -/
theorem mem_foldl {α : Type} (f : State → α → State) (hf : ∀ s a, (f s a).mem = s.mem) (l : List α) (s : State) :
    (l.foldl f s).mem = s.mem := by
  induction l generalizing s with
  | nil => rfl
  | cons a l ih => rw [List.foldl_cons, ih, hf]

/-! ## The event log, the mailbox and hub messages -/

theorem mem_free (s : State) (k w : Nat) : (s.free k w).1.mem = s.mem := rfl

theorem mem_logEntry (s : State) (v : Word) : (s.logEntry v).mem = s.mem := rfl

theorem mem_log (s : State) (d c : Nat) : (s.log d c).mem = s.mem := rfl

theorem mem_mailEvent (s : State) (r : Nat) : (s.mailEvent r).mem = s.mem := by
  unfold State.mailEvent
  dsimp only
  split <;> rfl

theorem mem_fabOut (s : State) (ep : Nat) (a : Word) (p : List Byte) : (s.fabOut ep a p).mem = s.mem := by
  unfold State.fabOut
  split
  · rfl
  · split <;> rfl

theorem mem_hubSend (s : State) (r : Except Nat Receiver) (m : Msg) : (s.hubSend r m).mem = s.mem := by
  unfold State.hubSend
  split
  · rfl
  · rfl
  · exact mem_fabOut _ _ _ _

theorem mem_tellSupervisor (s : State) (v r : Nat) : (s.tellSupervisor v r).mem = s.mem := by
  unfold State.tellSupervisor
  dsimp only
  split
  · rfl
  · exact mem_hubSend _ _ _

/-! ## Bank counters -/

theorem mem_bankAdd (s : State) (v k n : Nat) : (s.bankAdd v k n).mem = s.mem := by
  unfold State.bankAdd
  dsimp only
  split
  · rfl
  · split
    · exact mem_tellSupervisor _ _ _
    · rfl

theorem mem_countBank (s : State) (ev vc : Nat) (req : Option Nat) : (s.countBank ev vc req).mem = s.mem := by
  unfold State.countBank
  split
  · rfl
  · refine mem_foldl _ (fun s k => ?_) _ _
    split
    · exact mem_bankAdd s _ k 1
    · rfl

end Sys2Proof.Machine
end

