-- ==== Sys2Proof/Laws/Caches.lean ====
section
/-! SUPPORT. Nothing that the caches, the directory and the die fabric do to a line changes a byte of memory: a line holds no data of
its own, and its bytes are memory's. -/

namespace Sys2Proof.Machine

/-! ## Packets -/

theorem mem_lineMail (s : State) (src vc line : Nat) (w : Bool) : (s.lineMail src vc line w).mem = s.mem := rfl

theorem mem_agentLines (s : State) (src vc pa n : Nat) (w : Bool) : (s.agentLines src vc pa n w).mem = s.mem :=
  mem_foldl _ (fun s l => mem_lineMail s src vc l w) _ _

theorem mem_storePackets (s : State) (vc pa n : Nat) : (s.storePackets vc pa n).mem = s.mem :=
  mem_foldl _ (fun s l => by split <;> rfl) _ _

theorem mem_loadPackets (s : State) (vc pa n : Nat) : (s.loadPackets vc pa n).mem = s.mem :=
  mem_foldl _ (fun s l => by split <;> rfl) _ _

theorem mem_sendProbes (s : State) (cs : List CLine) : (s.sendProbes cs).mem = s.mem := rfl

/-! ## Lines -/

theorem mem_countHeld (s : State) (ev : Nat) (a : Agent) : (s.countHeld ev a).mem = s.mem := by
  unfold State.countHeld
  split
  · exact mem_countBank _ _ _ _
  all_goals rfl

theorem mem_writeBack (s : State) (c : CLine) : (s.writeBack c).mem = s.mem := rfl

theorem mem_evictLine (s : State) (c : CLine) : (s.evictLine c).mem = s.mem := by
  unfold State.evictLine
  split
  · exact mem_writeBack s c
  · split <;> rfl

theorem mem_evictAll (s : State) (p : CLine → Bool) : (s.evictAll p).mem = s.mem := mem_foldl _ mem_evictLine _ _

theorem mem_recall (s : State) (f : CLine → Bool) : (s.recall f).mem = s.mem := mem_foldl _ mem_evictLine _ _

theorem mem_recallFrom (s : State) (a : Option Agent) (l : Nat) : (s.recallFrom a l).mem = s.mem := mem_recall s _

theorem mem_bankHolds (s : State) (pa n : Nat) : (s.bankHolds pa n).mem = s.mem :=
  mem_foldl _ (fun s l => mem_recallFrom s none l) _ _

theorem mem_atBank (s : State) (vc pa n : Nat) : (s.atBank vc pa n).mem = s.mem := mem_bankHolds _ pa n

/-! ## Regions of the directory -/

theorem mem_emptyPage (s : State) (p : Nat) : (s.emptyPage p).mem = s.mem := mem_evictAll s _

theorem mem_dirEvict (s : State) (p : Nat) : (s.dirEvict p).mem = s.mem := by
  unfold State.dirEvict
  split
  · rfl
  · exact mem_emptyPage s _

theorem mem_dirRoom (s : State) (p n : Nat) : (s.dirRoom p n).mem = s.mem :=
  mem_foldl _ (fun s _ => by split; · rfl
                             · exact mem_dirEvict s p) _ _

theorem mem_dirEnter (s : State) (a : Agent) (l : Nat) (w k : Bool) : (s.dirEnter a l w k).mem = s.mem := by
  unfold State.dirEnter
  dsimp only
  split
  · exact mem_dirRoom s _ _
  · exact mem_dirRoom s _ _

/-! ## Page classes -/

theorem mem_reclassify (s : State) (p r : Nat) : (s.reclassify p r).mem = s.mem := by
  unfold State.reclassify
  exact (mem_foldl _ (fun s k => mem_dirEnter s _ _ _ _) _ _).trans (mem_evictAll s _)

theorem mem_touch (s : State) (r : Option Nat) (pa : Nat) : (s.touch r pa).mem = s.mem := by
  unfold State.touch
  split
  · rfl
  · split
    · rfl
    · rfl
    · rfl
    · split
      · rfl
      · exact mem_reclassify s _ _
    · exact mem_reclassify s _ _

end Sys2Proof.Machine
end

