-- ==== Sys2Proof/Laws/Memory.lean ====
section
/-! SUPPORT. The list of cells: a byte reads back as written, other bytes stay, every write keeps the canonical form, and equal
readings are equal lists. -/

namespace Sys2Proof.Machine
namespace Memory

variable {dflt : Nat → Byte} {m : List Host.Cell}

/-- Every address of the list is above a. -/
def above (a : Nat) (m : List Host.Cell) : Prop := ∀ c ∈ m, a < c.1

theorem wf_cons (c : Host.Cell) (h : wf dflt (c :: m) = true) : c.2 ≠ dflt c.1 ∧ above c.1 m ∧ wf dflt m = true := by
  induction m generalizing c with
  | nil => simp_all [wf, above]
  | cons d cs ih =>
    simp only [wf, Bool.and_eq_true, decide_eq_true_eq] at h
    obtain ⟨_, h2, _⟩ := ih d h.2
    refine ⟨h.1.1, ?_, h.2⟩
    intro e he
    rcases List.mem_cons.mp he with rfl | he
    · exact h.1.2
    · exact Nat.lt_trans h.1.2 (h2 e he)

theorem wf_of_cons (c : Host.Cell) (hc : c.2 ≠ dflt c.1) (ha : above c.1 m) (hw : wf dflt m = true) : wf dflt (c :: m) = true := by
  cases m with
  | nil => simp [wf, hc]
  | cons d cs => simp [wf, hc, ha d (List.mem_cons_self ..), hw]

theorem above_write {a b : Nat} {v : Byte} (h : above a m) (hb : a < b) : above a (write m dflt b v) := by
  induction m with
  | nil => unfold write; split <;> simp [above, hb]
  | cons c cs ih =>
    have h1 : a < c.1 := h c (List.mem_cons_self ..)
    have h2 : above a cs := fun e he => h e (List.mem_cons_of_mem _ he)
    unfold write
    split
    · intro e he
      rcases List.mem_cons.mp he with rfl | he
      · exact h1
      · exact ih h2 e he
    · split
      · split
        · exact h2
        · intro e he
          rcases List.mem_cons.mp he with rfl | he
          · exact hb
          · exact h2 e he
      · split
        · exact h
        · intro e he
          rcases List.mem_cons.mp he with rfl | he
          · exact hb
          · exact h e he

/-- A write keeps the canonical form. -/
theorem wf_write (a : Nat) (v : Byte) (h : wf dflt m = true) : wf dflt (write m dflt a v) = true := by
  induction m with
  | nil => unfold write; split <;> simp_all [wf]
  | cons c cs ih =>
    obtain ⟨h1, h2, h3⟩ := wf_cons c h
    unfold write
    split
    · exact wf_of_cons c h1 (above_write h2 ‹_›) (ih h3)
    · split
      · rename_i h4
        split
        · exact h3
        · exact wf_of_cons _ ‹_› (fun e he => h4 ▸ h2 e he) h3
      · split
        · exact h
        · refine wf_of_cons _ ‹_› ?_ h
          intro e he
          rcases List.mem_cons.mp he with rfl | he
          · show a < e.1; omega
          · have := h2 e he; show a < e.1; omega

theorem wf_writeBytes (bs : List Byte) (a : Nat) (h : wf dflt m = true) : wf dflt (writeBytes m dflt a bs) = true := by
  induction bs generalizing a m with
  | nil => exact h
  | cons b bs ih => exact ih (a + 1) (wf_write a b h)

theorem read_above (a : Nat) (h : above a m) : read m dflt a = dflt a := by
  induction m with
  | nil => rfl
  | cons c cs ih =>
    have : c.1 ≠ a := by have := h c (List.mem_cons_self ..); omega
    simp [read, this, ih (fun e he => h e (List.mem_cons_of_mem _ he))]

/-- A byte reads back as written. -/
theorem read_write_same (a : Nat) (v : Byte) (h : wf dflt m = true) : read (write m dflt a v) dflt a = v := by
  induction m with
  | nil => unfold write; split <;> simp_all [read]
  | cons c cs ih =>
    obtain ⟨_, h2, h3⟩ := wf_cons c h
    unfold write
    split
    · have : c.1 ≠ a := by omega
      simp [read, this, ih h3]
    · split
      · rename_i h4
        split
        · rw [read_above a (fun e he => h4 ▸ h2 e he)]; exact (‹v = dflt a›).symm
        · simp [read]
      · split
        · rw [read_above a, ‹v = dflt a›]
          intro e he
          rcases List.mem_cons.mp he with rfl | he
          · omega
          · have := h2 e he; omega
        · simp [read]

/-- Every other byte stays. -/
theorem read_write_ne (a b : Nat) (v : Byte) (hne : b ≠ a) : read (write m dflt a v) dflt b = read m dflt b := by
  have hn : a ≠ b := hne.symm
  induction m with
  | nil => unfold write; split <;> simp [read, hn]
  | cons c cs ih =>
    unfold write
    split
    · simp [read, ih]
    · split
      · rename_i h4
        have : c.1 ≠ b := by omega
        split <;> simp [read, hn, this]
      · split <;> simp [read, hn]

/-- Bytes outside a written range stay. -/
theorem read_writeBytes_out (bs : List Byte) (a b : Nat) (h : b < a ∨ a + bs.length ≤ b) :
    read (writeBytes m dflt a bs) dflt b = read m dflt b := by
  induction bs generalizing a m with
  | nil => rfl
  | cons v bs ih =>
    simp only [List.length_cons] at h
    rw [writeBytes, ih (a + 1) (by omega), read_write_ne a b v (by omega)]

/-- Bytes inside a written range read as written. -/
theorem read_writeBytes_in (bs : List Byte) (a i : Nat) (h : wf dflt m = true) (hi : i < bs.length) :
    read (writeBytes m dflt a bs) dflt (a + i) = bs[i] := by
  induction bs generalizing a m i with
  | nil => simp at hi
  | cons v bs ih =>
    rw [writeBytes]
    cases i with
    | zero => rw [read_writeBytes_out bs (a + 1) _ (by omega)]; exact read_write_same a v h
    | succ i =>
      have := ih (a + 1) i (wf_write a v h) (by simpa using hi)
      rw [show a + (i + 1) = a + 1 + i by omega, this]; simp

/-- In canonical form, memories that read alike are the same list. -/
theorem eq_of_read_eq {m n : List Host.Cell} (hm : wf dflt m = true) (hn : wf dflt n = true)
    (h : ∀ a, read m dflt a = read n dflt a) : m = n := by
  induction m generalizing n with
  | nil =>
    cases n with
    | nil => rfl
    | cons d ds =>
      have := h d.1
      simp [read] at this
      exact absurd this.symm (wf_cons d hn).1
  | cons c cs ih =>
    obtain ⟨c1, c2, c3⟩ := wf_cons c hm
    cases n with
    | nil =>
      have := h c.1
      simp [read] at this
      exact absurd this c1
    | cons d ds =>
      obtain ⟨d1, d2, d3⟩ := wf_cons d hn
      have hc := h c.1
      have hd := h d.1
      have e : c.1 = d.1 := by
        rcases Nat.lt_trichotomy c.1 d.1 with l | l | l
        · have ha : above c.1 (d :: ds) := by
            intro e he
            rcases List.mem_cons.mp he with rfl | he
            · exact l
            · exact Nat.lt_trans l (d2 e he)
          rw [read_above c.1 ha] at hc
          simp [read] at hc
          exact absurd hc c1
        · exact l
        · have ha : above d.1 (c :: cs) := by
            intro e he
            rcases List.mem_cons.mp he with rfl | he
            · exact l
            · exact Nat.lt_trans l (c2 e he)
          rw [read_above d.1 ha] at hd
          simp [read] at hd
          exact absurd hd.symm d1
      have e2 : c.2 = d.2 := by simpa [read, e] using hc
      have ec : c = d := Prod.ext e e2
      subst ec
      congr 1
      apply ih c3 d3
      intro a
      by_cases ha : c.1 = a
      · rw [read_above a (ha ▸ c2), read_above a (ha ▸ d2)]
      · have := h a
        simpa [read, ha] using this

end Memory

/-! ## Bytes as numbers -/

@[simp] theorem length_leBytes (n x : Nat) : (leBytes n x).length = n := by
  induction n generalizing x with
  | zero => rfl
  | succ n ih => simp [leBytes, ih]

theorem leBytes_getElem (n x i : Nat) (h : i < (leBytes n x).length) : (leBytes n x)[i] = BitVec.ofNat 8 (x / 256 ^ i) := by
  induction n generalizing x i with
  | zero => simp [leBytes] at h
  | succ n ih =>
    cases i with
    | zero => simp [leBytes]
    | succ i =>
      simp only [leBytes, List.getElem_cons_succ]
      rw [ih, Nat.div_div_eq_div_mul, Nat.pow_succ']

theorem leNat_lt (bs : List Byte) : leNat bs < 256 ^ bs.length := by
  induction bs with
  | nil => simp [leNat]
  | cons b bs ih =>
    have := b.isLt
    rw [leNat, List.length_cons, Nat.pow_succ]
    omega

theorem leNat_leBytes (n x : Nat) : leNat (leBytes n x) = x % 256 ^ n := by
  induction n generalizing x with
  | zero => simp [leBytes, leNat, Nat.mod_one]
  | succ n ih =>
    rw [leBytes, leNat, ih, Nat.pow_succ']
    simp only [BitVec.toNat_ofNat]
    rw [Nat.mod_mul]

/-! ## State.pokeBytes -/

theorem memByte_pokeBytes_out (s : State) (pa q : Nat) (bs : List Byte) (h : q < pa ∨ pa + bs.length ≤ q) :
    (s.pokeBytes pa bs).memByte q = s.memByte q := Memory.read_writeBytes_out bs pa q h

theorem memByte_pokeBytes_in (s : State) (pa i : Nat) (bs : List Byte) (w : Memory.wf unlisted s.mem = true)
    (h : i < bs.length) : (s.pokeBytes pa bs).memByte (pa + i) = bs[i] := Memory.read_writeBytes_in bs pa i w h

theorem wf_pokeBytes (s : State) (pa : Nat) (bs : List Byte) (h : Memory.wf unlisted s.mem = true) :
    Memory.wf unlisted (s.pokeBytes pa bs).mem = true := Memory.wf_writeBytes bs pa h

end Sys2Proof.Machine
end

