-- ==== Sys2Proof/Laws/Ops.lean ====
section
/-! SUPPORT. What the register operations and the dispatch gate can do (R44, R48). -/

namespace Sys2Proof.Machine

@[simp] theorem vget_vset_same {α : Type} {n : Nat} (v : Vector α n) (d a : α) (i : Nat) (h : i < n) :
    vget (vset v i a) d i = a := by
  simp [vget, vset, h]

@[simp] theorem vget_vset_ne {α : Type} {n : Nat} (v : Vector α n) (d a : α) (i j : Nat) (h : i ≠ j) :
    vget (vset v i a) d j = vget v d j := by
  simp [vget, vset, h]

theorem getS_zero (s : State) : s.getS 0 = 0 := by simp [State.getS]

theorem getS_setS_same (s : State) (d : BitVec 5) (v : Word) (h : d ≠ 0) : (s.setS d v).getS d = v := by
  unfold State.getS State.setS
  rw [if_neg h, if_neg h]
  exact vget_vset_same _ _ _ _ d.isLt

theorem getS_setS_ne (s : State) (d r : BitVec 5) (v : Word) (h : r ≠ d) : (s.setS d v).getS r = s.getS r := by
  have : d.toNat ≠ r.toNat := fun e => h (BitVec.eq_of_toNat_eq e.symm)
  unfold State.getS State.setS
  by_cases e : r = 0
  · rw [if_pos e, if_pos e]
  · rw [if_neg e, if_neg e]
    split
    · rfl
    · exact vget_vset_ne _ _ _ _ _ this

theorem setS_zero (s : State) (v : Word) : s.setS 0 v = s := by simp [State.setS]

/-- What State.setS followed by State.goto does. -/
theorem wrote_goto (s : State) (d : BitVec 5) (v : Word) (pc : BitVec 54) : s.Wrote ((s.setS d v).goto pc) d v pc where
  dest h := getS_setS_same s d v h
  others r h := getS_setS_ne s d r v h
  discard h := by subst h; simp [State.setS, State.goto]
  passed := by unfold State.Passed State.setS State.goto; split <;> rfl

theorem wrote_result (s : State) (d : BitVec 5) (v : Word) : s.Wrote (s.result d v) d v (s.x.pc + 4) := by
  have : (s.setS d v).x.pc = s.x.pc := by unfold State.setS; split <;> rfl
  rw [State.result, State.advance, this]
  exact wrote_goto s d v _

theorem gate_admits (i : Instr) (n : Need) (s : State) (h : s.admits n) : gate i n s = .ok () := by
  obtain ⟨hf, hl, hp⟩ := h
  unfold gate
  cases e : n.feat with
  | none => simp [Nat.not_lt.mpr hl, hp]
  | some b => simp [hf b e, Nat.not_lt.mpr hl, hp]

theorem admits_any (s : State) (h : s.st.place ≠ .saved) : s.admits Need.any := by
  refine ⟨by simp [Need.any], Nat.zero_le _, ?_⟩
  cases e : s.st.place <;> simp_all [Need.runsOn, Need.any]

theorem alu_spec (i : Instr) (d : BitVec 5) (v : Word) (s : State) (h : s.st.place ≠ .saved) :
    ∃ t, alu i d v s = .next t ∧ s.Wrote t d v (s.x.pc + 4) := by
  refine ⟨s.result d v, ?_, wrote_result s d v⟩
  simp [alu, gate_admits _ _ _ (admits_any s h), finish, Bind.bind, Except.bind]

end Sys2Proof.Machine
end

