-- ==== Sys2Proof/Laws/PerInstr.lean ====
section
/-! SUPPORT. Facts of the syntax, one lemma for each constructor: an event has no instruction word. -/

namespace Sys2Proof.Laws.EventsHaveNoWord

/-- An event, which is no instruction word, is encoded as the word 0, which R48 reserves. -/
def Statement (i : Instr) : Prop := i.isWord = false → encode i = 0#32

theorem add a b c : Statement (.add a b c) := fun h => nomatch h
theorem sub a b c : Statement (.sub a b c) := fun h => nomatch h
theorem and a b c : Statement (.and a b c) := fun h => nomatch h
theorem or a b c : Statement (.or a b c) := fun h => nomatch h
theorem xor a b c : Statement (.xor a b c) := fun h => nomatch h
theorem andn a b c : Statement (.andn a b c) := fun h => nomatch h
theorem sll a b c : Statement (.sll a b c) := fun h => nomatch h
theorem srl a b c : Statement (.srl a b c) := fun h => nomatch h
theorem sra a b c : Statement (.sra a b c) := fun h => nomatch h
theorem rotr a b c : Statement (.rotr a b c) := fun h => nomatch h
theorem mul a b c : Statement (.mul a b c) := fun h => nomatch h
theorem mulh a b c : Statement (.mulh a b c) := fun h => nomatch h
theorem mulhn a b c : Statement (.mulhn a b c) := fun h => nomatch h
theorem div a b c : Statement (.div a b c) := fun h => nomatch h
theorem divn a b c : Statement (.divn a b c) := fun h => nomatch h
theorem rem a b c : Statement (.rem a b c) := fun h => nomatch h
theorem remn a b c : Statement (.remn a b c) := fun h => nomatch h
theorem min a b c : Statement (.min a b c) := fun h => nomatch h
theorem max a b c : Statement (.max a b c) := fun h => nomatch h
theorem minn a b c : Statement (.minn a b c) := fun h => nomatch h
theorem maxn a b c : Statement (.maxn a b c) := fun h => nomatch h
theorem slt a b c : Statement (.slt a b c) := fun h => nomatch h
theorem sltn a b c : Statement (.sltn a b c) := fun h => nomatch h
theorem clz a b : Statement (.clz a b) := fun h => nomatch h
theorem ctz a b : Statement (.ctz a b) := fun h => nomatch h
theorem popc a b : Statement (.popc a b) := fun h => nomatch h
theorem bswap a b : Statement (.bswap a b) := fun h => nomatch h
theorem sext a b c : Statement (.sext a b c) := fun h => nomatch h
theorem zext a b c : Statement (.zext a b c) := fun h => nomatch h
theorem addi a b c : Statement (.addi a b c) := fun h => nomatch h
theorem andi a b c : Statement (.andi a b c) := fun h => nomatch h
theorem ori a b c : Statement (.ori a b c) := fun h => nomatch h
theorem xori a b c : Statement (.xori a b c) := fun h => nomatch h
theorem slti a b c : Statement (.slti a b c) := fun h => nomatch h
theorem sltni a b c : Statement (.sltni a b c) := fun h => nomatch h
theorem shi a b c d : Statement (.shi a b c d) := fun h => nomatch h
theorem lih a b : Statement (.lih a b) := fun h => nomatch h
theorem insi a b c : Statement (.insi a b c) := fun h => nomatch h
theorem addpc a b : Statement (.addpc a b) := fun h => nomatch h
theorem ld a b c d : Statement (.ld a b c d) := fun h => nomatch h
theorem st a b c d : Statement (.st a b c d) := fun h => nomatch h
theorem beq a b c : Statement (.beq a b c) := fun h => nomatch h
theorem bne a b c : Statement (.bne a b c) := fun h => nomatch h
theorem blt a b c : Statement (.blt a b c) := fun h => nomatch h
theorem bge a b c : Statement (.bge a b c) := fun h => nomatch h
theorem bltn a b c : Statement (.bltn a b c) := fun h => nomatch h
theorem bgen a b c : Statement (.bgen a b c) := fun h => nomatch h
theorem call a b : Statement (.call a b) := fun h => nomatch h
theorem callr a b : Statement (.callr a b) := fun h => nomatch h
theorem jmpr a : Statement (.jmpr a) := fun h => nomatch h
theorem sget a b : Statement (.sget a b) := fun h => nomatch h
theorem sset a b : Statement (.sset a b) := fun h => nomatch h
theorem sxch a b c : Statement (.sxch a b c) := fun h => nomatch h
theorem trap a : Statement (.trap a) := fun h => nomatch h
theorem tret : Statement (.tret) := fun h => nomatch h
theorem svc a : Statement (.svc a) := fun h => nomatch h
theorem halt : Statement (.halt) := fun h => nomatch h
theorem idle : Statement (.idle) := fun h => nomatch h
theorem bkpt a : Statement (.bkpt a) := fun h => nomatch h
theorem fork a b : Statement (.fork a b) := fun h => nomatch h
theorem forkt a b c : Statement (.forkt a b c) := fun h => nomatch h
theorem iter a b : Statement (.iter a b) := fun h => nomatch h
theorem endi : Statement (.endi) := fun h => nomatch h
theorem join : Statement (.join) := fun h => nomatch h
theorem fbreak : Statement (.fbreak) := fun h => nomatch h
theorem cspec a : Statement (.cspec a) := fun h => nomatch h
theorem headw : Statement (.headw) := fun h => nomatch h
theorem ipost a : Statement (.ipost a) := fun h => nomatch h
theorem iwait a b : Statement (.iwait a b) := fun h => nomatch h
theorem rdecl a b c : Statement (.rdecl a b c) := fun h => nomatch h
theorem chainw a : Statement (.chainw a) := fun h => nomatch h
theorem launch a b : Statement (.launch a b) := fun h => nomatch h
theorem sdone : Statement (.sdone) := fun h => nomatch h
theorem yield : Statement (.yield) := fun h => nomatch h
theorem ringid a : Statement (.ringid a) := fun h => nomatch h
theorem grpq a b : Statement (.grpq a b) := fun h => nomatch h
theorem sprio a : Statement (.sprio a) := fun h => nomatch h
theorem stridx a : Statement (.stridx a) := fun h => nomatch h
theorem aadd a b c d : Statement (.aadd a b c d) := fun h => nomatch h
theorem aand a b c d : Statement (.aand a b c d) := fun h => nomatch h
theorem aor a b c d : Statement (.aor a b c d) := fun h => nomatch h
theorem axor a b c d : Statement (.axor a b c d) := fun h => nomatch h
theorem amin a b c d : Statement (.amin a b c d) := fun h => nomatch h
theorem amax a b c d : Statement (.amax a b c d) := fun h => nomatch h
theorem aminn a b c d : Statement (.aminn a b c d) := fun h => nomatch h
theorem amaxn a b c d : Statement (.amaxn a b c d) := fun h => nomatch h
theorem aswap a b c d : Statement (.aswap a b c d) := fun h => nomatch h
theorem acas a b c d e : Statement (.acas a b c d e) := fun h => nomatch h
theorem afadd a b c d : Statement (.afadd a b c d) := fun h => nomatch h
theorem binit a b : Statement (.binit a b) := fun h => nomatch h
theorem barr a b c : Statement (.barr a b c) := fun h => nomatch h
theorem bwait a b c : Statement (.bwait a b c) := fun h => nomatch h
theorem barrw a b c : Statement (.barrw a b c) := fun h => nomatch h
theorem binv a : Statement (.binv a) := fun h => nomatch h
theorem gbar a b : Statement (.gbar a b) := fun h => nomatch h
theorem msend a b c : Statement (.msend a b c) := fun h => nomatch h
theorem mrecv a b : Statement (.mrecv a b) := fun h => nomatch h
theorem mpeek a : Statement (.mpeek a) := fun h => nomatch h
theorem wakew a b : Statement (.wakew a b) := fun h => nomatch h
theorem waitw a b c : Statement (.waitw a b c) := fun h => nomatch h
theorem ecmd a b c : Statement (.ecmd a b c) := fun h => nomatch h
theorem ecmdb a b c : Statement (.ecmdb a b c) := fun h => nomatch h
theorem toks a b : Statement (.toks a b) := fun h => nomatch h
theorem tokw a b : Statement (.tokw a b) := fun h => nomatch h
theorem bqtake a : Statement (.bqtake a) := fun h => nomatch h
theorem fsv : Statement (.fsv) := fun h => nomatch h
theorem fvs : Statement (.fvs) := fun h => nomatch h
theorem fence a b : Statement (.fence a b) := fun h => nomatch h
theorem fsc : Statement (.fsc) := fun h => nomatch h
theorem ldacq a b c d : Statement (.ldacq a b c d) := fun h => nomatch h
theorem strel a b c d : Statement (.strel a b c d) := fun h => nomatch h
theorem vcdef a b : Statement (.vcdef a b) := fun h => nomatch h
theorem vcdel a b : Statement (.vcdel a b) := fun h => nomatch h
theorem vcqry a b : Statement (.vcqry a b) := fun h => nomatch h
theorem vcsync a b : Statement (.vcsync a b) := fun h => nomatch h
theorem vcflush a b : Statement (.vcflush a b) := fun h => nomatch h
theorem tlbinv a : Statement (.tlbinv a) := fun h => nomatch h
theorem tlogw a : Statement (.tlogw a) := fun h => nomatch h
theorem tloga : Statement (.tloga) := fun h => nomatch h
theorem atran a b c : Statement (.atran a b c) := fun h => nomatch h
theorem gopen a : Statement (.gopen a) := fun h => nomatch h
theorem gst a b c d : Statement (.gst a b c d) := fun h => nomatch h
theorem vgst a b c d : Statement (.vgst a b c d) := fun h => nomatch h
theorem gcommit a b : Statement (.gcommit a b) := fun h => nomatch h
theorem gabort a : Statement (.gabort a) := fun h => nomatch h
theorem gstat a b : Statement (.gstat a b) := fun h => nomatch h
theorem gresolve a b : Statement (.gresolve a b) := fun h => nomatch h
theorem pmcr a b : Statement (.pmcr a b) := fun h => nomatch h
theorem pmcw a b : Statement (.pmcw a b) := fun h => nomatch h
theorem pmcf a : Statement (.pmcf a) := fun h => nomatch h
theorem vsetvl a b c : Statement (.vsetvl a b c) := fun h => nomatch h
theorem vsetvli a b c : Statement (.vsetvli a b c) := fun h => nomatch h
theorem vadd a b c d e f : Statement (.vadd a b c d e f) := fun h => nomatch h
theorem vsub a b c d e f : Statement (.vsub a b c d e f) := fun h => nomatch h
theorem vmul a b c d e f : Statement (.vmul a b c d e f) := fun h => nomatch h
theorem vfma a b c d e f : Statement (.vfma a b c d e f) := fun h => nomatch h
theorem vfms a b c d e f : Statement (.vfms a b c d e f) := fun h => nomatch h
theorem vnfma a b c d e f : Statement (.vnfma a b c d e f) := fun h => nomatch h
theorem vdiv a b c d e f : Statement (.vdiv a b c d e f) := fun h => nomatch h
theorem vsqrt a b c d : Statement (.vsqrt a b c d) := fun h => nomatch h
theorem vmin a b c d e f : Statement (.vmin a b c d e f) := fun h => nomatch h
theorem vmax a b c d e f : Statement (.vmax a b c d e f) := fun h => nomatch h
theorem vabs a b c d : Statement (.vabs a b c d) := fun h => nomatch h
theorem vneg a b c d : Statement (.vneg a b c d) := fun h => nomatch h
theorem vexp2 a b c d : Statement (.vexp2 a b c d) := fun h => nomatch h
theorem vlog2 a b c d : Statement (.vlog2 a b c d) := fun h => nomatch h
theorem vrcp a b c d : Statement (.vrcp a b c d) := fun h => nomatch h
theorem vrsq a b c d : Statement (.vrsq a b c d) := fun h => nomatch h
theorem vcvt a b c d : Statement (.vcvt a b c d) := fun h => nomatch h
theorem vand a b c d e f : Statement (.vand a b c d e f) := fun h => nomatch h
theorem vor a b c d e f : Statement (.vor a b c d e f) := fun h => nomatch h
theorem vxor a b c d e f : Statement (.vxor a b c d e f) := fun h => nomatch h
theorem vnot a b c d : Statement (.vnot a b c d) := fun h => nomatch h
theorem vshl a b c d e f : Statement (.vshl a b c d e f) := fun h => nomatch h
theorem vshr a b c d e f : Statement (.vshr a b c d e f) := fun h => nomatch h
theorem vsra a b c d e f : Statement (.vsra a b c d e f) := fun h => nomatch h
theorem vcmp a b c d e f g : Statement (.vcmp a b c d e f g) := fun h => nomatch h
theorem vredsum a b c d : Statement (.vredsum a b c d) := fun h => nomatch h
theorem vredmax a b c d : Statement (.vredmax a b c d) := fun h => nomatch h
theorem vredmin a b c d : Statement (.vredmin a b c d) := fun h => nomatch h
theorem vscan a b c d : Statement (.vscan a b c d) := fun h => nomatch h
theorem vsort a b c d e : Statement (.vsort a b c d e) := fun h => nomatch h
theorem vtopk a b c d e : Statement (.vtopk a b c d e) := fun h => nomatch h
theorem vcomp a b c : Statement (.vcomp a b c) := fun h => nomatch h
theorem vexpd a b c : Statement (.vexpd a b c) := fun h => nomatch h
theorem viota a b : Statement (.viota a b) := fun h => nomatch h
theorem vperm a b c d : Statement (.vperm a b c d) := fun h => nomatch h
theorem vslup a b c d : Statement (.vslup a b c d) := fun h => nomatch h
theorem vsldn a b c d : Statement (.vsldn a b c d) := fun h => nomatch h
theorem vbcast a b c : Statement (.vbcast a b c) := fun h => nomatch h
theorem vextr a b c : Statement (.vextr a b c) := fun h => nomatch h
theorem vins a b c : Statement (.vins a b c) := fun h => nomatch h
theorem vsel a b c d : Statement (.vsel a b c d) := fun h => nomatch h
theorem kand a b c : Statement (.kand a b c) := fun h => nomatch h
theorem kor a b c : Statement (.kor a b c) := fun h => nomatch h
theorem kxor a b c : Statement (.kxor a b c) := fun h => nomatch h
theorem knot a b : Statement (.knot a b) := fun h => nomatch h
theorem kpop a b : Statement (.kpop a b) := fun h => nomatch h
theorem kfirst a b : Statement (.kfirst a b) := fun h => nomatch h
theorem vrand a b c : Statement (.vrand a b c) := fun h => nomatch h
theorem vpwl a b c d e : Statement (.vpwl a b c d e) := fun h => nomatch h
theorem vquant a b c d : Statement (.vquant a b c d) := fun h => nomatch h
theorem vdeq a b c d : Statement (.vdeq a b c d) := fun h => nomatch h
theorem vbaddq a b c d e : Statement (.vbaddq a b c d e) := fun h => nomatch h
theorem vamo a b c d e : Statement (.vamo a b c d e) := fun h => nomatch h
theorem vamoc a b c d e : Statement (.vamoc a b c d e) := fun h => nomatch h
theorem vld a b c d e : Statement (.vld a b c d e) := fun h => nomatch h
theorem vst a b c d e : Statement (.vst a b c d e) := fun h => nomatch h
theorem vlds a b c d e f : Statement (.vlds a b c d e f) := fun h => nomatch h
theorem vldsO a b c d e f : Statement (.vldsO a b c d e f) := fun h => nomatch h
theorem vsts a b c d e f : Statement (.vsts a b c d e f) := fun h => nomatch h
theorem vstsO a b c d e f : Statement (.vstsO a b c d e f) := fun h => nomatch h
theorem vldx a b c d e f : Statement (.vldx a b c d e f) := fun h => nomatch h
theorem vldxO a b c d e f : Statement (.vldxO a b c d e f) := fun h => nomatch h
theorem vstx a b c d e f : Statement (.vstx a b c d e f) := fun h => nomatch h
theorem vstxO a b c d e f : Statement (.vstxO a b c d e f) := fun h => nomatch h
theorem vldseg a b c d e f : Statement (.vldseg a b c d e f) := fun h => nomatch h
theorem vstseg a b c d e f : Statement (.vstseg a b c d e f) := fun h => nomatch h
theorem vpref a b c d : Statement (.vpref a b c d) := fun h => nomatch h
theorem vprefS a b c d e : Statement (.vprefS a b c d e) := fun h => nomatch h
theorem vprefX a b c d e : Statement (.vprefX a b c d e) := fun h => nomatch h
theorem vldsq a b c d : Statement (.vldsq a b c d) := fun h => nomatch h
theorem vcapp a b c d e : Statement (.vcapp a b c d e) := fun h => nomatch h
theorem mma a b c d e : Statement (.mma a b c d e) := fun h => nomatch h
theorem mslide a b c d e : Statement (.mslide a b c d e) := fun h => nomatch h
theorem mew a b c d : Statement (.mew a b c d) := fun h => nomatch h
theorem mpwl a b c : Statement (.mpwl a b c) := fun h => nomatch h
theorem mrnorm a : Statement (.mrnorm a) := fun h => nomatch h
theorem mzero a : Statement (.mzero a) := fun h => nomatch h
theorem mclr a b : Statement (.mclr a b) := fun h => nomatch h
theorem mshape a b : Statement (.mshape a b) := fun h => nomatch h
theorem mclaim a : Statement (.mclaim a) := fun h => nomatch h
theorem mrel a : Statement (.mrel a) := fun h => nomatch h
theorem mlds a b c d : Statement (.mlds a b c d) := fun h => nomatch h
theorem mlda a b c d : Statement (.mlda a b c d) := fun h => nomatch h
theorem msta a b c d : Statement (.msta a b c d) := fun h => nomatch h
theorem macs a b c d : Statement (.macs a b c d) := fun h => nomatch h
theorem mrowvToVector a b c : Statement (.mrowvToVector a b c) := fun h => nomatch h
theorem mrowvToAccumulator a b c : Statement (.mrowvToAccumulator a b c) := fun h => nomatch h
theorem mcurv a b : Statement (.mcurv a b) := fun h => nomatch h
theorem mwait a : Statement (.mwait a) := fun h => nomatch h
theorem nonInstructionWord a : Statement (.nonInstructionWord a) := fun _ => rfl
theorem heldTrapTaken : Statement (.heldTrapTaken) := fun _ => rfl
theorem asyncEventTaken : Statement (.asyncEventTaken) := fun _ => rfl
theorem coreStorageError a : Statement (.coreStorageError a) := fun _ => rfl
theorem cplaunch a b c : Statement (.cplaunch a b c) := fun _ => rfl
theorem registerWrite a b c : Statement (.registerWrite a b c) := fun _ => rfl
theorem gwbqcfgWrite a b c : Statement (.gwbqcfgWrite a b c) := fun _ => rfl
theorem worldSwitchOut a b : Statement (.worldSwitchOut a b) := fun _ => rfl
theorem worldSwitchIn : Statement (.worldSwitchIn) := fun _ => rfl
theorem worldSwitchComplete : Statement (.worldSwitchComplete) := fun _ => rfl
theorem cpunfrz a b : Statement (.cpunfrz a b) := fun _ => rfl
theorem mbcmdCommit a : Statement (.mbcmdCommit a) := fun _ => rfl
theorem attestNonceWrite a : Statement (.attestNonceWrite a) := fun _ => rfl
theorem atcmd a : Statement (.atcmd a) := fun _ => rfl
theorem attestReportReady : Statement (.attestReportReady) := fun _ => rfl
theorem vlWrite a : Statement (.vlWrite a) := fun _ => rfl
theorem vtypeWrite a : Statement (.vtypeWrite a) := fun _ => rfl
theorem mglogw a : Statement (.mglogw a) := fun _ => rfl
theorem mgthrWrite a : Statement (.mgthrWrite a) := fun _ => rfl
theorem mgalrtWrite a : Statement (.mgalrtWrite a) := fun _ => rfl
theorem schedulingPass : Statement (.schedulingPass) := fun _ => rfl
theorem quantumExpiry a b : Statement (.quantumExpiry a b) := fun _ => rfl
theorem preemptStop a : Statement (.preemptStop a) := fun _ => rfl
theorem preemptHeadTimeout a : Statement (.preemptHeadTimeout a) := fun _ => rfl
theorem saveComplete a : Statement (.saveComplete a) := fun _ => rfl
theorem ringReclaimDone a : Statement (.ringReclaimDone a) := fun _ => rfl
theorem snapshotArrival a : Statement (.snapshotArrival a) := fun _ => rfl
theorem chunkStart : Statement (.chunkStart) := fun _ => rfl
theorem chainValueArrival a : Statement (.chainValueArrival a) := fun _ => rfl
theorem chainConfirmation a : Statement (.chainConfirmation a) := fun _ => rfl
theorem storeAnnouncement : Statement (.storeAnnouncement) := fun _ => rfl
theorem headPass : Statement (.headPass) := fun _ => rfl
theorem mergeCombine : Statement (.mergeCombine) := fun _ => rfl
theorem packetArrival a b c : Statement (.packetArrival a b c) := fun _ => rfl
theorem heldPacketReady a b : Statement (.heldPacketReady a b) := fun _ => rfl
theorem heldPacketTimeout a b : Statement (.heldPacketTimeout a b) := fun _ => rfl
theorem baseline : Statement (.baseline) := fun _ => rfl
theorem dieRetire a : Statement (.dieRetire a) := fun _ => rfl
theorem hubDieError : Statement (.hubDieError) := fun _ => rfl
theorem directoryRequest a b c : Statement (.directoryRequest a b c) := fun _ => rfl
theorem regionMerge a : Statement (.regionMerge a) := fun _ => rfl
theorem dirtyEviction a b : Statement (.dirtyEviction a b) := fun _ => rfl
theorem writebackAck a b : Statement (.writebackAck a b) := fun _ => rfl
theorem probeArrival a b c d : Statement (.probeArrival a b c d) := fun _ => rfl
theorem fillReply a b : Statement (.fillReply a b) := fun _ => rfl
theorem farAtomicAtBank a b c d e : Statement (.farAtomicAtBank a b c d e) := fun _ => rfl
theorem scatterAddApply a : Statement (.scatterAddApply a) := fun _ => rfl
theorem vcacheDrainStep a : Statement (.vcacheDrainStep a) := fun _ => rfl
theorem drainComplete a : Statement (.drainComplete a) := fun _ => rfl
theorem parcelError a : Statement (.parcelError a) := fun _ => rfl
theorem messageDelivery a : Statement (.messageDelivery a) := fun _ => rfl
theorem retryDelayExpiry a : Statement (.retryDelayExpiry a) := fun _ => rfl
theorem hubMessageDelivery : Statement (.hubMessageDelivery) := fun _ => rfl
theorem remoteMessageArrival a b c d : Statement (.remoteMessageArrival a b c d) := fun _ => rfl
theorem waitwWake a : Statement (.waitwWake a) := fun _ => rfl
theorem tokenPush a : Statement (.tokenPush a) := fun _ => rfl
theorem tokenPop a : Statement (.tokenPop a) := fun _ => rfl
theorem tokenDeadlock : Statement (.tokenDeadlock) := fun _ => rfl
theorem engineAccept : Statement (.engineAccept) := fun _ => rfl
theorem engineCopy a : Statement (.engineCopy a) := fun _ => rfl
theorem engineFill a : Statement (.engineFill a) := fun _ => rfl
theorem engineTranspose a : Statement (.engineTranspose a) := fun _ => rfl
theorem engineQuantisingCopy a : Statement (.engineQuantisingCopy a) := fun _ => rfl
theorem engineCompletion a : Statement (.engineCompletion a) := fun _ => rfl
theorem engineStorageError a : Statement (.engineStorageError a) := fun _ => rfl
theorem blockQueueWrite a b c d : Statement (.blockQueueWrite a b c d) := fun _ => rfl
theorem fabricWindowRequest a b c d e : Statement (.fabricWindowRequest a b c d e) := fun _ => rfl
theorem vectorRequest a b c : Statement (.vectorRequest a b c) := fun _ => rfl
theorem vectorRequestCompletion a b : Statement (.vectorRequestCompletion a b) := fun _ => rfl
theorem fabricResponse a b : Statement (.fabricResponse a b) := fun _ => rfl
theorem fabricRequestTimeout a : Statement (.fabricRequestTimeout a) := fun _ => rfl
theorem portLaneLoss a b : Statement (.portLaneLoss a b) := fun _ => rfl
theorem groupStoreArrival a b c d e f : Statement (.groupStoreArrival a b c d e f) := fun _ => rfl
theorem groupStoreAck a b c d : Statement (.groupStoreAck a b c d) := fun _ => rfl
theorem prepare a b c d e : Statement (.prepare a b c d e) := fun _ => rfl
theorem voteArrival a b c : Statement (.voteArrival a b c) := fun _ => rfl
theorem voteTimeout a : Statement (.voteTimeout a) := fun _ => rfl
theorem publish a b c : Statement (.publish a b c) := fun _ => rfl
theorem abort a b c d : Statement (.abort a b c d) := fun _ => rfl
theorem decisionAck a b c : Statement (.decisionAck a b c) := fun _ => rfl
theorem doubtTimerExpiry a : Statement (.doubtTimerExpiry a) := fun _ => rfl
theorem terminationQuery a b c : Statement (.terminationQuery a b c) := fun _ => rfl
theorem stagingIdleCheck a : Statement (.stagingIdleCheck a) := fun _ => rfl
theorem hostMemWrite a b : Statement (.hostMemWrite a b) := fun _ => rfl
theorem hostMemRead a b : Statement (.hostMemRead a b) := fun _ => rfl
theorem backInvalidationResponse a b : Statement (.backInvalidationResponse a b) := fun _ => rfl
theorem hostSnoop a b c : Statement (.hostSnoop a b c) := fun _ => rfl
theorem shelfBackInvalidation a : Statement (.shelfBackInvalidation a) := fun _ => rfl
theorem shelfLost a : Statement (.shelfLost a) := fun _ => rfl
theorem shelfResponseTimeout a : Statement (.shelfResponseTimeout a) := fun _ => rfl
theorem linkTrainingFailure a : Statement (.linkTrainingFailure a) := fun _ => rfl
theorem counterWrap a : Statement (.counterWrap a) := fun _ => rfl
theorem bankCounterWrap a b : Statement (.bankCounterWrap a b) := fun _ => rfl
theorem sensorReading a b : Statement (.sensorReading a b) := fun _ => rfl
theorem alertRepeat a : Statement (.alertRepeat a) := fun _ => rfl
theorem managementInterrupt : Statement (.managementInterrupt) := fun _ => rfl
theorem moduleReset a b c d e : Statement (.moduleReset a b c d e) := fun _ => rfl
theorem recoveryImage a b : Statement (.recoveryImage a b) := fun _ => rfl
theorem poolBringUp a : Statement (.poolBringUp a) := fun _ => rfl
theorem tagPostArrival a : Statement (.tagPostArrival a) := fun _ => rfl
theorem terminationAnswer a b c : Statement (.terminationAnswer a b c) := fun _ => rfl
theorem shelfReturn a b c : Statement (.shelfReturn a b c) := fun _ => rfl
theorem endpointUnreachableReport a : Statement (.endpointUnreachableReport a) := fun _ => rfl
theorem ualinkPortTrained a : Statement (.ualinkPortTrained a) := fun _ => rfl

end Sys2Proof.Laws.EventsHaveNoWord
end

