-- ==== Sys2Proof/Laws/Shared.lean ====
section
/-! SUPPORT. What each shared operation can do: ends of a meaning, checks, traps, and every operation that performs a write keeps
memory in its canonical form. -/

namespace Sys2Proof.Machine

/-! ## Runs -/

@[simp] theorem finish_ok (s : State) : finish (.ok s) = .next s := rfl
@[simp] theorem finish_error (s : State) : finish (.error s) = .next s := rfl
@[simp] theorem check_true (s : State) : check true s = .ok () := rfl
@[simp] theorem check_false (s : State) : check false s = .error s := rfl

theorem headWait_head (s : State) (h : s.spec = false) : headWait s = .ok () := by simp [headWait, h]
theorem headWait_spec (s : State) (h : s.spec = true) : headWait s = .error s := by simp [headWait, h]

/-- A meaning always answers a next state. -/
theorem finish_next (r : Run State) : ∃ t, finish r = .next t := by
  cases r with
  | ok t => exact ⟨t, rfl⟩
  | error t => exact ⟨t, rfl⟩

/-- The gate lets the instruction pass, or traps with one of the three causes of R48, tval holding the word. -/
theorem gate_cases (i : Instr) (n : Need) (s : State) :
    gate i n s = .ok () ∨ ∃ c : BitVec 8, (c = 0x03 ∨ c = 0xE1 ∨ c = 0x01) ∧ gate i n s = .error (s.trapS c (wordOf i)) := by
  unfold gate
  cases n.feat with
  | none => by_cases hl : s.lvl < n.lvl <;> cases hp : n.runsOn s.st.place <;> simp [hl]
  | some f =>
    cases hf : s.feature f <;> by_cases hl : s.lvl < n.lvl <;> cases hp : n.runsOn s.st.place <;> simp [hf, hl]

/-! ## Traps -/

/-- An access whose walk must wait for an earlier one changes nothing (R281). -/
theorem raise_wait (s : State) (r : TrapRec) (w : r.cause = mustWait) : s.raise r = s := if_pos w

/-- A speculative chunk holds its trap and changes nothing else (R118). -/
theorem raise_spec (s : State) (r : TrapRec) (w : r.cause ≠ mustWait) (h : s.spec = true) :
    s.raise r = { s with x := { s.x with held := some r, replies := [], pipe := none } } := (if_neg w).trans (if_pos h)

theorem raise_head (s : State) (r : TrapRec) (w : r.cause ≠ mustWait) (h : s.spec = false) : s.raise r = s.take r false :=
  (if_neg w).trans (if_neg (by simp [h]))

/-- The three ways a trap of the head goes: containment, a freeze, the handler (R393). -/
theorem take_contained (s : State) (r : TrapRec) (b : Bool) (h : r.cause = 0xA0 ∨ r.cause = 0xC0 ∨ r.cause = 0xC1) :
    s.take r b = s.contain r := if_pos h

theorem take_double (s : State) (r : TrapRec) (b : Bool) (h : ¬ (r.cause = 0xA0 ∨ r.cause = 0xC0 ∨ r.cause = 0xC1))
    (d : bit s.st.trap.status 5 = true) : s.take r b = s.freeze r := (if_neg h).trans (if_pos d)

theorem take_handler (s : State) (r : TrapRec) (b : Bool) (h : ¬ (r.cause = 0xA0 ∨ r.cause = 0xC0 ∨ r.cause = 0xC1))
    (d : bit s.st.trap.status 5 = false) : s.take r b = s.enter r b false :=
  (if_neg h).trans (if_neg (by simp [d]))

/-- Trap entry touches no memory and no register but pc and the trap registers; the counters may count it. -/
theorem enter_frame (s : State) (r : TrapRec) (a b : Bool) :
    (s.enter r a b).mem = s.mem ∧ (s.enter r a b).parked = s.parked ∧ (s.enter r a b).x.sreg = s.x.sreg ∧
      (s.enter r a b).x.vreg = s.x.vreg ∧ (s.enter r a b).x.kreg = s.x.kreg := ⟨rfl, rfl, rfl, rfl, rfl⟩

/-! ## Writes -/

theorem mem_writeSeen (s : State) (own : Bool) (l : Nat) : (s.writeSeen own l).mem = s.mem := by
  unfold State.writeSeen
  cases own <;> rfl

theorem mem_mapStrand (s : State) (id : StrandId) (f : Strand → Strand) : (s.mapStrand id f).mem = s.mem := by
  unfold State.mapStrand
  by_cases h : s.st.id = id ∧ s.st.place ≠ .management
  · rw [if_pos h]
  · rw [if_neg h]

/-- A fold of steps that each keep the canonical form keeps it. -/
theorem wf_foldl {α : Type} (f : State → α → State) (hf : ∀ s a, s.memWf = true → (f s a).memWf = true) (l : List α) (s : State)
    (h : s.memWf = true) : (l.foldl f s).memWf = true := by
  induction l generalizing s with
  | nil => exact h
  | cons a l ih => exact ih _ (hf _ _ h)

theorem wf_of_mem {s t : State} (e : t.mem = s.mem) (h : s.memWf = true) : t.memWf = true := by
  unfold State.memWf at h ⊢; rw [e]; exact h

theorem mem_releaseAt (s : State) (pa : Nat) (sel : Waiter → Bool) (c : BitVec 8) (p : BitVec 32) :
    (s.releaseAt pa sel c p).mem = s.mem := by
  unfold State.releaseAt
  exact mem_foldl _ (fun s w => mem_mapStrand s _ _) _ _

theorem mem_disturb (s : State) (l : Nat) : (s.disturb l).mem = s.mem := by
  unfold State.disturb
  by_cases h : (s.waiters.any (fun w => w.pa == l * 64)) = true
  · rw [if_pos h]; exact mem_releaseAt _ _ _ _ _
  · rw [if_neg h]

/-- A performed store changes memory as its bytes say, whatever else it disturbs (R112, R303). -/
theorem mem_perform (s : State) (own : Bool) (pa : Nat) (bs : List Byte) :
    (s.perform own pa bs).mem = Memory.writeBytes s.mem unlisted pa bs := by
  unfold State.perform
  exact mem_foldl _ (fun s l => by rw [mem_disturb, mem_writeSeen]) _ _

theorem memWf_perform (s : State) (own : Bool) (pa : Nat) (bs : List Byte) (h : s.memWf = true) :
    (s.perform own pa bs).memWf = true := by
  unfold State.memWf at h ⊢
  rw [mem_perform]
  exact Memory.wf_writeBytes bs pa h

theorem memByte_perform_out (s : State) (own : Bool) (pa q : Nat) (bs : List Byte) (h : q < pa ∨ pa + bs.length ≤ q) :
    (s.perform own pa bs).memByte q = s.memByte q := by
  unfold State.memByte
  rw [mem_perform]
  exact Memory.read_writeBytes_out bs pa q h

theorem memByte_perform_in (s : State) (own : Bool) (pa i : Nat) (bs : List Byte) (w : s.memWf = true) (h : i < bs.length) :
    (s.perform own pa bs).memByte (pa + i) = bs[i] := by
  unfold State.memByte
  rw [mem_perform]
  exact Memory.read_writeBytes_in bs pa i w h

theorem mem_clearPoison (s : State) (l : Nat) : (s.clearPoison l).mem = s.mem := by
  unfold State.clearPoison
  dsimp only
  split <;> rfl

theorem mem_performWhole (s : State) (pa : Nat) (bs : List Byte) :
    (s.performWhole pa bs).mem = Memory.writeBytes s.mem unlisted pa bs := by
  unfold State.performWhole
  rw [mem_perform, mem_foldl _ mem_clearPoison]

theorem memWf_performWhole (s : State) (pa : Nat) (bs : List Byte) (h : s.memWf = true) :
    (s.performWhole pa bs).memWf = true := by
  unfold State.memWf at h ⊢
  rw [mem_performWhole]
  exact Memory.wf_writeBytes bs pa h

theorem mem_drainOne (s : State) (b : BufStore) :
    (s.drainOne b).mem = Memory.writeBytes s.mem unlisted b.pa b.data := by
  unfold State.drainOne
  rw [mem_perform, mem_storePackets]

theorem memWf_drainOne (s : State) (b : BufStore) (h : s.memWf = true) : (s.drainOne b).memWf = true :=
  memWf_perform _ _ _ _ (wf_of_mem (mem_storePackets s _ _ _) h)

theorem memWf_bankApply (s : State) (own : Bool) (vc pa n op x : Nat) (h : s.memWf = true) :
    (s.bankApply own vc pa n op x).memWf = true := by
  unfold State.bankApply
  cases atomicNew op (8 * n) (leNat (s.memBytes pa n)) x 0 with
  | none => exact h
  | some v => exact memWf_perform _ _ _ _ (wf_of_mem (mem_atBank s _ _ _) h)

theorem memWf_applyScatter (s : State) (pa : Nat) (h : s.memWf = true) : (s.applyScatter pa).memWf = true := by
  unfold State.applyScatter
  cases s.scatter.filter (fun c => c.pa == pa) with
  | nil => exact h
  | cons c l => exact memWf_perform _ _ _ _ (wf_of_mem (s := s) ((mem_recallFrom _ _ _).trans (mem_countBank _ _ _ _)) h)

theorem memWf_flushScatter (s : State) (id : StrandId) (h : s.memWf = true) : (s.flushScatter id).memWf = true := by
  unfold State.flushScatter
  exact wf_foldl _ (fun s (c : Scatter) => memWf_applyScatter s c.pa) _ _ h

theorem memWf_settleScatter (s : State) (pa n : Nat) (h : s.memWf = true) : (s.settleScatter pa n).memWf = true := by
  unfold State.settleScatter
  exact wf_foldl _ (fun s (c : Scatter) => memWf_applyScatter s c.pa) _ _ h

theorem mem_setBuffer (s : State) (v : Bool) (b : List BufStore) : (s.setBuffer v b).mem = s.mem := by cases v <;> rfl

theorem mem_joinStores (s : State) (v : Bool) (f : BufStore → Bool) : (s.joinStores v f).mem = s.mem := mem_setBuffer s v _

theorem memWf_drainCount (s : State) (v : Bool) (k : Nat) (h : s.memWf = true) : (s.drainCount v k).memWf = true := by
  unfold State.drainCount
  exact wf_foldl _ memWf_drainOne _ _ (wf_of_mem (mem_setBuffer s v _) h)

theorem memWf_drainOldest (s : State) (v : Bool) (h : s.memWf = true) : (s.drainOldest v).memWf = true := by
  unfold State.drainOldest
  cases s.buffer v with
  | nil => exact h
  | cons b l =>
    refine memWf_drainCount _ _ _ (memWf_drainCount _ _ _ ?_)
    split
    · exact memWf_flushScatter _ _ h
    · exact h

theorem memWf_drainBuffer (s : State) (v : Bool) (h : s.memWf = true) : (s.drainBuffer v).memWf = true :=
  wf_foldl _ (fun s _ => memWf_drainOldest s v) _ _ h

theorem memWf_drainTo (s : State) (v : Bool) (f : BufStore → Bool) (h : s.memWf = true) : (s.drainTo v f).memWf = true :=
  wf_foldl _ (fun s _ => memWf_drainOldest s v) _ _ h

theorem memWf_drainAll (s : State) (h : s.memWf = true) : s.drainAll.memWf = true :=
  memWf_drainBuffer _ true (memWf_drainBuffer _ false h)

theorem memWf_scalarDone (s : State) (pa n : Nat) (h : s.memWf = true) : (s.scalarDone pa n).memWf = true :=
  memWf_drainTo _ true _ (memWf_drainBuffer _ false h)

theorem memWf_joinAll (s : State) (h : s.memWf = true) : s.joinAll.memWf = true :=
  memWf_flushScatter _ _ (wf_of_mem ((mem_joinStores _ _ _).trans (mem_joinStores _ _ _)) h)

theorem memWf_combineAt (s : State) (vc pa n op x : Nat) (h : s.memWf = true) : (s.combineAt vc pa n op x).memWf = true :=
  memWf_bankApply _ _ _ _ _ _ _ (wf_of_mem (mem_countBank _ _ _ _) (memWf_settleScatter _ _ _ (memWf_drainTo _ _ _ (memWf_drainTo _ _ _ h))))

theorem memWf_release (s : State) (h : s.memWf = true) : s.release.memWf = true := by
  unfold State.release
  split
  · exact h
  · exact memWf_flushScatter _ _ (memWf_drainAll _ h)

theorem memWf_orEntry (s : State) (a : Nat) (m : Word) (h : s.memWf = true) : (s.orEntry a m).memWf = true := by
  unfold State.orEntry
  exact wf_of_mem (s := s.drainAll.pokeBytes a (leBytes 8 (s.drainAll.mem64 a ||| m).toNat)) (by simp [mem_writeSeen])
    (wf_pokeBytes _ _ _ (memWf_drainAll s h))

theorem memWf_writeSlot (s : State) (h : s.memWf = true) : s.writeSlot.memWf = true := by
  unfold State.writeSlot
  cases s.st.saveSlot with
  | none => exact h
  | some j => exact wf_foldl _ (fun s p w => wf_pokeBytes s _ _ w) _ _ h

end Sys2Proof.Machine
end

