-- ==== Sys2Proof/Laws/Traps.lean ====
section
/-! SUPPORT. Translation, ordering, the end of a strand and every way of taking a trap keep memory in its canonical form. -/

namespace Sys2Proof.Machine

/-! ## Operations that leave memory alone -/

theorem mem_sendEvent (s : State) (v r : Nat) : (s.sendEvent v r).mem = s.mem := by
  unfold State.sendEvent
  rw [mem_mailEvent, mem_tellSupervisor]

theorem mem_settleGroup (s : State) (g : Group) : (s.settleGroup g).mem = s.mem := by
  unfold State.settleGroup
  split <;> rfl

theorem mem_leaveGroups (s : State) (id : StrandId) (m : Option Nat) : (s.leaveGroups id m).mem = s.mem := by
  unfold State.leaveGroups
  exact mem_foldl _ (fun s g => mem_settleGroup s _) _ _

theorem mem_closureSend (s : State) (ds : List Dest) (p : List Byte) : (s.closureSend ds p).mem = s.mem := by
  unfold State.closureSend
  exact mem_foldl _ (fun s d => mem_fabOut s _ _ _) _ _

theorem mem_abortGroup (s : State) (g : Group1) (r : BitVec 8) : (s.abortGroup g r).mem = s.mem := by
  unfold State.abortGroup
  rw [mem_closureSend]
  rfl

theorem mem_abortGroupsOf (s : State) (id : StrandId) : (s.abortGroupsOf id).mem = s.mem := by
  unfold State.abortGroupsOf
  exact mem_foldl _ (fun s g => mem_abortGroup s g 6) _ _

theorem mem_dropFocus (s : State) : s.dropFocus.mem = s.mem := by
  unfold State.dropFocus
  split <;> rfl

/-! ## Translation (R280, R288) -/

theorem memWf_xlateWalk (s : State) (rd : Nat → Option Word) (sp : Space) (k : Acc) (va : Nat) (h : s.memWf = true) :
    (s.xlateWalk rd sp k va).1.memWf = true := by
  unfold State.xlateWalk
  extract_lets t
  have ht : t.memWf = true := by
    show (match sp.master with
      | some m => (if s.spec then s else s.joinAll).tlbDrop m sp.asid va
      | none => s : State).memWf = true
    cases sp.master with
    | none => exact h
    | some m =>
      refine wf_of_mem (s := if s.spec then s else s.joinAll) rfl ?_
      split
      · exact h
      · exact memWf_joinAll _ h
  clear_value t
  cases t.walk rd sp.ptroot sp.vf va with
  | error c => exact ht
  | ok l =>
    dsimp only
    by_cases hc : (!checkPte l.entry k sp.user) = true
    · rw [if_pos hc]; exact ht
    · rw [if_neg hc]
      have h1 : (if adMask k l.entry = 0 then t else t.orEntry l.at_ (adMask k l.entry)).memWf = true := by
        by_cases h0 : adMask k l.entry = 0
        · rw [if_pos h0]; exact ht
        · rw [if_neg h0]; exact memWf_orEntry _ _ _ ht
      generalize (if adMask k l.entry = 0 then t else t.orEntry l.at_ (adMask k l.entry)) = u at h1 ⊢
      cases sp.master with
      | none =>
        dsimp only
        cases u.checkVcache sp.vf (leafXl l.entry l.large va).vc <;> exact h1
      | some q =>
        dsimp only
        cases (u.tlbFill q sp.asid va { l with entry := l.entry ||| adMask k l.entry }).checkVcache sp.vf
          (leafXl l.entry l.large va).vc <;> exact wf_of_mem (s := u) rfl h1

/-- A translation of any kind keeps memory canonical: it changes memory only by the a and d bits of a leaf (R281). -/
theorem memWf_xlate (s : State) (rd : Nat → Option Word) (sp : Space) (k : Acc) (va : Nat) (h : s.memWf = true) :
    (s.xlate rd sp k va).1.memWf = true := by
  unfold State.xlate
  by_cases hv : va ≥ 2 ^ 54
  · rw [if_pos hv]; exact h
  · rw [if_neg hv]
    cases sp.master.bind (fun m => s.tlbFind m sp.asid va) with
    | none => exact memWf_xlateWalk _ _ _ _ _ h
    | some t =>
      dsimp only
      by_cases hc : checkPte t.entry k sp.user = true
      · rw [if_pos hc]
        cases s.checkVcache sp.vf (leafXl t.entry t.large va).vc <;> exact h
      · rw [if_neg hc]; exact memWf_xlateWalk _ _ _ _ _ h

theorem memWf_xlateHub (s : State) (sp : Space) (k : Acc) (va : Nat) (h : s.memWf = true) :
    (s.xlateHub sp k va).1.memWf = true := memWf_xlate _ _ _ _ _ h

theorem memWf_applyLog (s : State) (d : Nat) (h : s.memWf = true) : (s.applyLog d).memWf = true := by
  unfold State.applyLog
  by_cases hd : d > 8
  · rw [if_pos hd]; exact h
  · rw [if_neg hd]
    dsimp only
    split
    · exact wf_of_mem (s := s) rfl h
    · refine wf_of_mem (mem_writeSeen _ _ _) ?_
      exact wf_pokeBytes _ _ _ (wf_pokeBytes _ _ _ (wf_of_mem (s := s) rfl h))

theorem memWf_acquire (s : State) (h : s.memWf = true) : s.acquire.memWf = true := by
  unfold State.acquire
  split
  · exact h
  · exact memWf_applyLog _ _ h

/-! ## The end of a strand (R72, R76, R77, R404) -/

theorem memWf_completeLaunch (s : State) (l : Launch) (h : s.memWf = true) : (s.completeLaunch l).memWf = true := by
  unfold State.completeLaunch
  extract_lets w sp t u
  have ht : t.memWf = true := by
    show (match s.xlateHub sp .write l.done.toNat with
      | (s, .ok x) => if x.fabric then s.log 0 0x23 else ((s.touch none x.pa).agentLines 0 x.vc x.pa 8 true).performWhole x.pa (leBytes 8 w.toNat)
      | (s, .error c) => s.log 0 c.toNat : State).memWf = true
    have hx := memWf_xlateHub s sp .write l.done.toNat h
    cases e : s.xlateHub sp .write l.done.toNat with
    | mk a r =>
      rw [e] at hx
      cases r with
      | error c => exact wf_of_mem (mem_log _ _ _) hx
      | ok x =>
        dsimp only
        by_cases hf : x.fabric = true
        · rw [if_pos hf]; exact wf_of_mem (mem_log _ _ _) hx
        · rw [if_neg hf]; exact memWf_performWhole _ _ _ (wf_of_mem ((mem_agentLines _ _ _ _ _ _).trans (mem_touch _ _ _)) hx)
  clear_value t
  refine wf_of_mem (s := u) rfl ?_
  show (if l.notify = true then _ else t : State).memWf = true
  by_cases hn : l.notify = true
  · rw [if_pos hn]; exact wf_of_mem (mem_hubSend _ _ _) ht
  · rw [if_neg hn]; exact ht

theorem memWf_settleLaunches (s : State) (h : s.memWf = true) : s.settleLaunches.memWf = true :=
  wf_foldl _ memWf_completeLaunch _ _ h

theorem memWf_countEnded (s : State) (id : StrandId) (b : Bool) (h : s.memWf = true) : (s.countEnded id b).memWf = true := by
  unfold State.countEnded
  cases s.launch? (idHandle id) with
  | none => exact h
  | some l => exact memWf_settleLaunches _ (wf_of_mem (s := s) rfl h)

theorem mem_leaveMaster (s : State) (m : Option Nat) : (s.leaveMaster m).mem = s.mem := by
  cases m with
  | none => rfl
  | some k => exact mem_evictAll s _

theorem memWf_endStrand (s : State) (a b : Bool) (h : s.memWf = true) : (s.endStrand a b).memWf = true := by
  unfold State.endStrand
  extract_lets id t m u v w
  have ht : t.memWf = true := memWf_flushScatter _ _ (memWf_drainAll _ h)
  have hv : v.memWf = true := wf_of_mem ((mem_leaveGroups _ _ _).trans rfl) ht
  have hw : w.memWf = true := wf_of_mem ((mem_leaveMaster _ _).trans rfl) hv
  exact memWf_countEnded _ _ _ (wf_of_mem ((mem_dropFocus _).trans rfl) hw)

theorem memWf_fence (s : State) (r : TrapRec) (k e w : Nat) (b : Bool) (h : s.memWf = true) : (s.fence r k e w b).memWf = true := by
  unfold State.fence
  extract_lets ev v t u
  refine wf_of_mem (mem_sendEvent _ _ _) (memWf_endStrand _ _ _ ?_)
  exact wf_of_mem (s := s) (mem_abortGroupsOf s _) h

theorem memWf_contain (s : State) (r : TrapRec) (h : s.memWf = true) : (s.contain r).memWf = true := by
  unfold State.contain
  by_cases hm : s.st.place = .management
  · rw [if_pos hm]; exact h
  · rw [if_neg hm]
    by_cases hc : r.cause = 0xA0
    · rw [if_pos hc]; exact memWf_fence _ _ _ _ _ _ h
    · rw [if_neg hc]; exact memWf_fence _ _ _ _ _ _ h

theorem memWf_freeze (s : State) (r : TrapRec) (h : s.memWf = true) : (s.freeze r).memWf = true := by
  unfold State.freeze
  by_cases hm : s.st.place = .management
  · rw [if_pos hm]; exact h
  · rw [if_neg hm]; 
    refine wf_of_mem (mem_sendEvent _ _ _) (wf_of_mem (s := s) ?_ h)
    show (match s.st.place.master? with
      | some m => s.joinGroups (idHandle s.st.id) (idIndex s.st.id) m
      | none => s : State).mem = s.mem
    split <;> rfl

/-- Taking a trap, whichever way it goes (R393), keeps memory canonical. -/
theorem memWf_take (s : State) (r : TrapRec) (b : Bool) (h : s.memWf = true) : (s.take r b).memWf = true := by
  by_cases hc : r.cause = 0xA0 ∨ r.cause = 0xC0 ∨ r.cause = 0xC1
  · rw [take_contained _ _ _ hc]; exact memWf_contain _ _ h
  · cases hd : bit s.st.trap.status 5 with
    | true => rw [take_double _ _ _ hc hd]; exact memWf_freeze _ _ h
    | false => rw [take_handler _ _ _ hc hd]; exact wf_of_mem (enter_frame s r b false).1 h

theorem memWf_raise (s : State) (r : TrapRec) (h : s.memWf = true) : (s.raise r).memWf = true := by
  by_cases w : r.cause = mustWait
  · rw [raise_wait _ _ w]; exact h
  · cases hs : s.spec with
    | true => rw [raise_spec _ _ w hs]; exact wf_of_mem (s := s) rfl h
    | false => rw [raise_head _ _ w hs]; exact memWf_take _ _ _ h

theorem memWf_trapS (s : State) (c : BitVec 8) (v : Word) (h : s.memWf = true) : (s.trapS c v).memWf = true := memWf_raise _ _ h

theorem memWf_trapA (s : State) (c : BitVec 8) (k : BitVec 2) (v : Word) (h : s.memWf = true) : (s.trapA c k v).memWf = true :=
  memWf_raise _ _ h

end Sys2Proof.Machine
end

