-- ==== Sys2Proof/Laws/Runs.lean ====
section
/-! SUPPORT. Reasoning about a meaning as a computation: what it ends in, early or not, piece by piece; and that every access of
the focus keeps memory in its canonical form. -/

namespace Sys2Proof.Machine

/-- `r` ends early in a state with P, or yields a value with Q. -/
def Ends {α : Type} (P : State → Prop) (Q : α → Prop) (r : Run α) : Prop :=
  match r with
  | .ok a => Q a
  | .error t => P t

@[simp] theorem ends_ok {α : Type} (P : State → Prop) (Q : α → Prop) (a : α) : Ends P Q (.ok a : Run α) = Q a := rfl
@[simp] theorem ends_error {α : Type} (P : State → Prop) (Q : α → Prop) (t : State) : Ends P Q (.error t : Run α) = P t := rfl

theorem ends_bind {α β : Type} {P : State → Prop} {Q : α → Prop} {R : β → Prop} {m : Run α} {f : α → Run β}
    (hm : Ends P Q m) (hf : ∀ a, Q a → Ends P R (f a)) : Ends P R (m >>= f) := by
  cases m with
  | ok a => exact hf a hm
  | error t => exact hm

theorem ends_mono {α : Type} {P : State → Prop} {Q R : α → Prop} {m : Run α} (hm : Ends P Q m) (h : ∀ a, Q a → R a) :
    Ends P R m := by
  cases m with
  | ok a => exact h a hm
  | error t => exact hm

/-- What a meaning's computation ends in is what the instruction answers. -/
theorem finish_ends {P : State → Prop} {r : Run State} (h : Ends P P r) : ∃ t, finish r = .next t ∧ P t := by
  cases r with
  | ok t => exact ⟨t, rfl, h⟩
  | error t => exact ⟨t, rfl, h⟩

theorem ends_check {P : State → Prop} (b : Bool) (t : State) (h : b = false → P t) : Ends P (fun _ => b = true) (check b t) := by
  cases b with
  | true => rfl
  | false => exact h rfl

theorem ends_headWait {P : State → Prop} (s : State) (h : P s) : Ends P (fun _ => s.spec = false) (headWait s) := by
  cases e : s.spec with
  | true => rw [headWait_spec s e]; exact h
  | false => rw [headWait_head s e]; rfl

theorem ends_gate {P : State → Prop} (i : Instr) (n : Need) (s : State) (h : ∀ c v, P (s.trapS c v)) :
    Ends P (fun _ => True) (gate i n s) := by
  obtain e | ⟨c, -, e⟩ := gate_cases i n s
  · rw [e]; trivial
  · rw [e]; exact h _ _

theorem ends_foldlM {α β : Type} {P : State → Prop} {Q : β → Prop} (f : β → α → Run β) (hf : ∀ b a, Q b → Ends P Q (f b a))
    (l : List α) (b : β) (h : Q b) : Ends P Q (l.foldlM f b) := by
  induction l generalizing b with
  | nil => exact h
  | cons a l ih =>
    rw [List.foldlM_cons]
    exact ends_bind (hf b a h) (fun c hc => ih c hc)

/-- Memory is canonical. -/
abbrev Wf (t : State) : Prop := t.memWf = true

/-- A computation that keeps memory canonical, its value a state, or a state and a value. -/
abbrev KeepsWf (r : Run State) : Prop := Ends Wf Wf r
abbrev KeepsWf₂ {α : Type} (r : Run (State × α)) : Prop := Ends Wf (fun p => Wf p.1) r

theorem ends_gate_wf (i : Instr) (n : Need) (s : State) (h : Wf s) : Ends Wf (fun _ => True) (gate i n s) :=
  ends_gate i n s (fun c v => memWf_trapS s c v h)

/-! ## Accesses of the focus -/

theorem wf_locate (s : State) (k : Acc) (va : Nat) (h : Wf s) : Wf (s.locate k va).1 := by
  unfold State.locate
  by_cases hm : s.st.place = .management
  · rw [if_pos hm]; exact h
  · rw [if_neg hm]
    have hx := memWf_xlate s s.walkRead s.space k va h
    cases e : s.xlate s.walkRead s.space k va with
    | mk t r =>
      rw [e] at hx
      cases r <;> exact hx

theorem wf_reach (s : State) (k : Acc) (va : Nat) (h : Wf s) : KeepsWf₂ (s.reach k va) := by
  unfold State.reach
  cases s.keptXl va with
  | some x => exact h
  | none =>
    have hx := wf_locate s k va h
    cases e : s.locate k va with
    | mk t r =>
      rw [e] at hx
      cases r with
      | ok l => exact hx
      | error c => exact memWf_trapA _ _ _ _ hx

/-- A wait that keeps a translation keeps memory as it was. -/
theorem ends_keeping {α : Type} {Q : α → Prop} (va : Nat) (x : Xl) (r : Run α) (h : Ends Wf Q r) : Ends Wf Q (r.keeping va x) := by
  cases r with
  | ok a => exact h
  | error t => exact wf_of_mem (s := t) rfl h

theorem wf_settled (s : State) (w : Bool) (pa n : Nat) (h : Wf s) : Ends Wf (fun _ => True) (s.settled w pa n) := by
  unfold State.settled
  exact ends_mono (ends_check _ _ (fun _ => wf_of_mem (s := s) rfl h)) (fun _ _ => trivial)

theorem mem_squash (s : State) (k : Nat) : (s.squash k).mem = s.mem := rfl

theorem wf_allocLine (s : State) (l : Nat) (h : Wf s) : KeepsWf (s.allocLine l) := by
  unfold State.allocLine
  by_cases hf : (!s.l1Full l) = true
  · rw [if_pos hf]; exact h
  · rw [if_neg hf]
    by_cases hs : s.spec = true
    · rw [if_pos hs]; exact h
    · rw [if_neg hs]; exact wf_of_mem (mem_squash s _) h

theorem mem_hostDone (s : State) (pa n : Nat) : (s.hostDone pa n).mem = s.mem := rfl

theorem mem_verRead (s : State) (w : Nat) : (s.verRead w).1.mem = s.mem := by
  unfold State.verRead
  cases findVer s.x.vers w with
  | none => rfl
  | some v => cases hv : v.written <;> simp [hv]

theorem mem_announce (s : State) (w : Nat) : (s.announce w).mem = s.mem := by
  unfold State.announce
  cases s.st.fork with
  | none => rfl
  | some f =>
    dsimp only
    split <;> rfl

theorem mem_verWrite (s : State) (w lo : Nat) (bs : List Byte) : (s.verWrite w lo bs).mem = s.mem := by
  unfold State.verWrite
  dsimp only
  rw [mem_announce]
  split
  · rfl
  · exact mem_verRead s w

theorem mem_verReadBytes (s : State) (pa n : Nat) : (s.verReadBytes pa n).1.mem = s.mem := by
  unfold State.verReadBytes
  have key (l : List (Nat × Nat × Nat)) (acc : State × List Byte) :
      (l.foldl (fun acc p => ((acc.1.verRead p.1).1,
        acc.2 ++ ((leBytes 8 (acc.1.verRead p.1).2.toNat).drop p.2.1).take p.2.2)) acc).1.mem = acc.1.mem := by
    induction l generalizing acc with
    | nil => rfl
    | cons p l ih => rw [List.foldl_cons, ih]; exact mem_verRead _ _
  exact key _ _

theorem mem_verWriteBytes (s : State) (pa : Nat) (bs : List Byte) : (s.verWriteBytes pa bs).mem = s.mem := by
  unfold State.verWriteBytes
  exact mem_foldl _ (fun s p => mem_verWrite s _ _ _) _ _

theorem mem_bufferStore (s : State) (v : Bool) (pa vc : Nat) (bs : List Byte) : (s.bufferStore v pa vc bs).mem = s.mem := by
  unfold State.bufferStore
  dsimp only
  split
  · exact (mem_joinStores _ _ _).trans (mem_setBuffer s v _)
  · exact mem_setBuffer s v _

theorem wf_allocLines (s : State) (ls : List Nat) (h : Wf s) : KeepsWf (ls.foldlM (fun s l => s.allocLine l) s) :=
  ends_foldlM _ (fun s l hs => wf_allocLine s l hs) _ _ h

/-- A load of the focus from local memory changes no byte of memory, and keeps it canonical. -/
theorem wf_loadLocal (s : State) (v : Bool) (x : Xl) (n : Nat) (h : Wf s) : KeepsWf₂ (s.loadLocal v x n) := by
  unfold State.loadLocal
  refine ends_bind (wf_settled s false x.pa n h) (fun _ _ => ?_)
  refine ends_bind (ends_check _ _ (fun _ => h)) (fun _ _ => ?_)
  have ht : Wf (((s.touch s.ring? x.pa).loadPackets x.vc x.pa n).hostDone x.pa n) :=
    wf_of_mem (s := s) (by rw [mem_hostDone, mem_loadPackets, mem_touch]) h
  extract_lets t jp
  change Wf t at ht
  by_cases hs : t.spec = true
  · rw [if_pos hs]
    exact ends_bind (wf_allocLines t _ ht) (fun u hu => wf_of_mem (mem_verReadBytes u _ _) hu)
  · rw [if_neg hs]
    have hj : ∀ u, Wf u → KeepsWf₂ (jp u) := fun u hu => by
      dsimp only [jp]
      split <;> exact hu
    clear_value jp
    by_cases hf : t.st.fork.isSome = true
    · rw [if_pos hf]; exact ends_bind (wf_allocLines t _ ht) hj
    · rw [if_neg hf]; exact hj t ht

/-- A store of the focus to local memory keeps it canonical. -/
theorem wf_storeLocal (s : State) (v : Bool) (x : Xl) (bs : List Byte) (h : Wf s) : KeepsWf (s.storeLocal v x bs) := by
  unfold State.storeLocal
  refine ends_bind (wf_settled s true x.pa bs.length h) (fun _ _ => ?_)
  refine ends_bind (ends_check _ _ (fun _ => h)) (fun _ _ => ?_)
  have ht : Wf (s.touch s.ring? x.pa) := wf_of_mem (mem_touch _ _ _) h
  extract_lets t jp
  change Wf t at ht
  by_cases hs : t.spec = true
  · rw [if_pos hs]
    exact ends_bind (wf_allocLines t _ ht) (fun u hu => wf_of_mem (mem_verWriteBytes u _ _) hu)
  · rw [if_neg hs]
    have hj : ∀ u, Wf u → KeepsWf (jp u) := fun u hu => by
      have hb : Wf (((pieces x.pa bs.length).foldl (fun s p => s.announce p.1) u).bufferStore v x.pa x.vc bs) :=
        wf_of_mem (s := u) (by rw [mem_bufferStore, mem_foldl _ (fun s p => mem_announce s _)]) hu
      dsimp only [jp]
      generalize ((pieces x.pa bs.length).foldl (fun s p => s.announce p.1) u).bufferStore v x.pa x.vc bs = z at hb ⊢
      by_cases hh : z.hostWaits x.pa bs.length = true
      · rw [if_pos hh]; exact wf_of_mem (mem_hostDone _ _ _) (memWf_drainAll _ hb)
      · rw [if_neg hh]; exact hb
    clear_value jp
    by_cases hf : t.st.fork.isSome = true
    · rw [if_pos hf]; exact ends_bind (wf_allocLines t _ ht) hj
    · rw [if_neg hf]; exact hj t ht

theorem mem_sendReq (s : State) (k : FabKind) (ep w o : Nat) (va a : Word) (sl : Option Nat) (p : List Byte) :
    (s.sendReq k ep w o va a sl p).1.mem = s.mem := by
  unfold State.sendReq
  exact mem_fabOut _ _ _ _

theorem wf_remote (s : State) (n : Nat) (k : FabKind) (ak : BitVec 2) (x : Xl) (va : Word) (p : List Byte) (h : Wf s) :
    KeepsWf₂ (s.remote n k ak x va p) := by
  unfold State.remote
  cases s.x.replies[n]? with
  | none => exact wf_of_mem (mem_sendReq s _ _ _ _ _ _ _ _) h
  | some r =>
    cases r with
    | waiting i => exact h
    | data bs => exact h
    | poison => exact memWf_trapA _ _ _ _ h
    | failed => exact memWf_trapA _ _ _ _ h

theorem wf_sysWait (s : State) (h : Wf s) : Ends Wf (fun _ => True) s.sysWait := by
  unfold State.sysWait
  split
  · exact h
  · split
    · exact memWf_trapA _ _ _ _ (wf_of_mem (s := s) rfl h)
    · trivial

theorem wf_regionCheck (s : State) (k : Acc) (va : Word) (n : Nat) (h : Wf s) : Ends Wf (fun _ => True) (s.regionCheck k va n) :=
  ends_mono (ends_check _ _ (fun _ => memWf_trapA _ _ _ _ h)) (fun _ _ => trivial)

theorem wf_scalarCheck (s : State) (k : Acc) (ea : Word) (n : Nat) (h : Wf s) : Ends Wf (fun _ => True) (s.scalarCheck k ea n) := by
  unfold State.scalarCheck State.fabricFirst
  refine ends_bind (ends_check _ _ (fun _ => h)) (fun _ _ => ?_)
  exact ends_bind (ends_check _ _ (fun _ => memWf_trapA _ _ _ _ h)) (fun _ _ =>
    ends_mono (ends_check _ _ (fun _ => memWf_trapA _ _ _ _ h)) (fun _ _ => trivial))

/-- A scalar read, whatever it meets, keeps memory canonical. -/
theorem wf_memRead (s : State) (va : Word) (n : Nat) (h : Wf s) : KeepsWf₂ (s.memRead va n) := by
  unfold State.memRead
  refine ends_bind (wf_regionCheck s .read va n h) (fun _ _ => ?_)
  refine ends_bind (wf_reach s .read va.toNat h) (fun p hp => ?_)
  obtain ⟨t, l⟩ := p
  cases l with
  | sram a => exact hp
  | mem x =>
    dsimp only
    by_cases hf : x.fabric = true
    · rw [if_pos hf]
      exact ends_bind (ends_headWait t hp) (fun _ _ => wf_remote t _ _ _ _ _ _ hp)
    · rw [if_neg hf]
      refine ends_bind (ends_keeping _ x _ (wf_loadLocal t false x n hp)) (fun q hq => ?_)
      obtain ⟨u, bs⟩ := q
      exact ends_bind (ends_check _ _ (fun _ => memWf_trapA _ _ _ _ hq)) (fun _ _ => hq)

/-- A scalar write, whatever it meets, keeps memory canonical. -/
theorem wf_memWrite (s : State) (va : Word) (bs : List Byte) (h : Wf s) : KeepsWf (s.memWrite va bs) := by
  unfold State.memWrite
  refine ends_bind (wf_regionCheck s .write va bs.length h) (fun _ _ => ?_)
  refine ends_bind (wf_reach s .write va.toNat h) (fun p hp => ?_)
  obtain ⟨t, l⟩ := p
  cases l with
  | sram a => exact wf_of_mem (s := t) rfl hp
  | mem x =>
    dsimp only
    by_cases hf : x.fabric = true
    · rw [if_pos hf]
      exact ends_bind (ends_headWait t hp) (fun _ _ => wf_of_mem (mem_sendReq t _ _ _ _ _ _ _ _) hp)
    · rw [if_neg hf]
      exact ends_bind (ends_check _ _ (fun _ => memWf_trapA _ _ _ _ hp)) (fun _ _ => ends_keeping _ x _ (wf_storeLocal t false x bs hp))

theorem wf_loadW (s : State) (ea : Word) (w : Nat) (h : Wf s) : KeepsWf₂ (s.loadW ea w) := by
  unfold State.loadW
  refine ends_bind (wf_scalarCheck s _ _ _ h) (fun _ _ => ?_)
  exact ends_bind (wf_memRead s ea _ h) (fun p hp => hp)

theorem wf_storeW (s : State) (ea : Word) (w : Nat) (v : Word) (h : Wf s) : KeepsWf (s.storeW ea w v) := by
  unfold State.storeW
  exact ends_bind (wf_scalarCheck s _ _ _ h) (fun _ _ => wf_memWrite s ea _ h)

theorem wf_releaseSys (s : State) (h : Wf s) : KeepsWf s.releaseSys := by
  unfold State.releaseSys
  exact ends_bind (wf_sysWait _ (memWf_release s h)) (fun _ _ => memWf_release s h)

theorem wf_result (s : State) (d : BitVec 5) (v : Word) (h : Wf s) : Wf (s.result d v) := by
  refine wf_of_mem (s := s) ?_ h
  unfold State.result State.setS
  split <;> rfl

end Sys2Proof.Machine
end

