-- ==== Sys2Proof/Laws/State.lean ====
section
/-! SUPPORT. What each plain update of the state leaves, field by field. -/

namespace Sys2Proof.Machine

/-! ## State.goto -/

@[simp] theorem goto_x_phase (s : State) (pc : BitVec 54) : (s.goto pc).x.phase = s.x.phase := rfl
@[simp] theorem goto_x_sreg (s : State) (pc : BitVec 54) : (s.goto pc).x.sreg = s.x.sreg := rfl
@[simp] theorem goto_x_vreg (s : State) (pc : BitVec 54) : (s.goto pc).x.vreg = s.x.vreg := rfl
@[simp] theorem goto_x_kreg (s : State) (pc : BitVec 54) : (s.goto pc).x.kreg = s.x.kreg := rfl
@[simp] theorem goto_x_vl (s : State) (pc : BitVec 54) : (s.goto pc).x.vl = s.x.vl := rfl
@[simp] theorem goto_x_vtype (s : State) (pc : BitVec 54) : (s.goto pc).x.vtype = s.x.vtype := rfl
@[simp] theorem goto_x_vbeg (s : State) (pc : BitVec 54) : (s.goto pc).x.vbeg = s.x.vbeg := rfl
@[simp] theorem goto_x_rngkey (s : State) (pc : BitVec 54) : (s.goto pc).x.rngkey = s.x.rngkey := rfl
@[simp] theorem goto_x_rngctr (s : State) (pc : BitVec 54) : (s.goto pc).x.rngctr = s.x.rngctr := rfl
@[simp] theorem goto_x_cnum (s : State) (pc : BitVec 54) : (s.goto pc).x.cnum = s.x.cnum := rfl
@[simp] theorem goto_x_citer (s : State) (pc : BitVec 54) : (s.goto pc).x.citer = s.x.citer := rfl
@[simp] theorem goto_x_pos (s : State) (pc : BitVec 54) : (s.goto pc).x.pos = s.x.pos := rfl
@[simp] theorem goto_x_inline (s : State) (pc : BitVec 54) : (s.goto pc).x.inline = s.x.inline := rfl
@[simp] theorem goto_x_joinDue (s : State) (pc : BitVec 54) : (s.goto pc).x.joinDue = s.x.joinDue := rfl
@[simp] theorem goto_x_broke (s : State) (pc : BitVec 54) : (s.goto pc).x.broke = s.x.broke := rfl
@[simp] theorem goto_x_claim (s : State) (pc : BitVec 54) : (s.goto pc).x.claim = s.x.claim := rfl
@[simp] theorem goto_x_dirty (s : State) (pc : BitVec 54) : (s.goto pc).x.dirty = s.x.dirty := rfl
@[simp] theorem goto_x_shape (s : State) (pc : BitVec 54) : (s.goto pc).x.shape = s.x.shape := rfl
@[simp] theorem goto_x_acc (s : State) (pc : BitVec 54) : (s.goto pc).x.acc = s.x.acc := rfl
@[simp] theorem goto_x_slot (s : State) (pc : BitVec 54) : (s.goto pc).x.slot = s.x.slot := rfl
@[simp] theorem goto_x_accPoison (s : State) (pc : BitVec 54) : (s.goto pc).x.accPoison = s.x.accPoison := rfl
@[simp] theorem goto_x_slotPoison (s : State) (pc : BitVec 54) : (s.goto pc).x.slotPoison = s.x.slotPoison := rfl
@[simp] theorem goto_x_vers (s : State) (pc : BitVec 54) : (s.goto pc).x.vers = s.x.vers := rfl
@[simp] theorem goto_x_poisonLines (s : State) (pc : BitVec 54) : (s.goto pc).x.poisonLines = s.x.poisonLines := rfl
@[simp] theorem goto_x_cleanLines (s : State) (pc : BitVec 54) : (s.goto pc).x.cleanLines = s.x.cleanLines := rfl
@[simp] theorem goto_x_partials (s : State) (pc : BitVec 54) : (s.goto pc).x.partials = s.x.partials := rfl
@[simp] theorem goto_x_held (s : State) (pc : BitVec 54) : (s.goto pc).x.held = s.x.held := rfl
@[simp] theorem goto_x_await (s : State) (pc : BitVec 54) : (s.goto pc).x.await = s.x.await := rfl
@[simp] theorem goto_x_starts (s : State) (pc : BitVec 54) : (s.goto pc).x.starts = s.x.starts := rfl
@[simp] theorem goto_x_confirmed (s : State) (pc : BitVec 54) : (s.goto pc).x.confirmed = s.x.confirmed := rfl
@[simp] theorem goto_x_posts (s : State) (pc : BitVec 54) : (s.goto pc).x.posts = s.x.posts := rfl
@[simp] theorem goto_x_seen (s : State) (pc : BitVec 54) : (s.goto pc).x.seen = s.x.seen := rfl
@[simp] theorem goto_x_sprio (s : State) (pc : BitVec 54) : (s.goto pc).x.sprio = s.x.sprio := rfl
@[simp] theorem goto_x_seq (s : State) (pc : BitVec 54) : (s.goto pc).x.seq = s.x.seq := rfl
@[simp] theorem goto_x_owed (s : State) (pc : BitVec 54) : (s.goto pc).x.owed = s.x.owed := rfl
@[simp] theorem goto_st (s : State) (pc : BitVec 54) : (s.goto pc).st = s.st := rfl
@[simp] theorem goto_parked (s : State) (pc : BitVec 54) : (s.goto pc).parked = s.parked := rfl
@[simp] theorem goto_mem (s : State) (pc : BitVec 54) : (s.goto pc).mem = s.mem := rfl
@[simp] theorem goto_poison (s : State) (pc : BitVec 54) : (s.goto pc).poison = s.poison := rfl
@[simp] theorem goto_lostRanges (s : State) (pc : BitVec 54) : (s.goto pc).lostRanges = s.lostRanges := rfl
@[simp] theorem goto_rewritten (s : State) (pc : BitVec 54) : (s.goto pc).rewritten = s.rewritten := rfl
@[simp] theorem goto_sram (s : State) (pc : BitVec 54) : (s.goto pc).sram = s.sram := rfl
@[simp] theorem goto_tlb (s : State) (pc : BitVec 54) : (s.goto pc).tlb = s.tlb := rfl
@[simp] theorem goto_classes (s : State) (pc : BitVec 54) : (s.goto pc).classes = s.classes := rfl
@[simp] theorem goto_contention (s : State) (pc : BitVec 54) : (s.goto pc).contention = s.contention := rfl
@[simp] theorem goto_lastFar (s : State) (pc : BitVec 54) : (s.goto pc).lastFar = s.lastFar := rfl
@[simp] theorem goto_waiters (s : State) (pc : BitVec 54) : (s.goto pc).waiters = s.waiters := rfl
@[simp] theorem goto_scatter (s : State) (pc : BitVec 54) : (s.goto pc).scatter = s.scatter := rfl
@[simp] theorem goto_roCopies (s : State) (pc : BitVec 54) : (s.goto pc).roCopies = s.roCopies := rfl
@[simp] theorem goto_cp (s : State) (pc : BitVec 54) : (s.goto pc).cp = s.cp := rfl
@[simp] theorem goto_fab (s : State) (pc : BitVec 54) : (s.goto pc).fab = s.fab := rfl
@[simp] theorem goto_clo (s : State) (pc : BitVec 54) : (s.goto pc).clo = s.clo := rfl
@[simp] theorem goto_net (s : State) (pc : BitVec 54) : (s.goto pc).net = s.net := rfl
@[simp] theorem goto_cache (s : State) (pc : BitVec 54) : (s.goto pc).cache = s.cache := rfl
@[simp] theorem goto_eng (s : State) (pc : BitVec 54) : (s.goto pc).eng = s.eng := rfl
@[simp] theorem goto_gwq (s : State) (pc : BitVec 54) : (s.goto pc).gwq = s.gwq := rfl
@[simp] theorem goto_mbx (s : State) (pc : BitVec 54) : (s.goto pc).mbx = s.mbx := rfl
@[simp] theorem goto_mg (s : State) (pc : BitVec 54) : (s.goto pc).mg = s.mg := rfl
@[simp] theorem goto_boot (s : State) (pc : BitVec 54) : (s.goto pc).boot = s.boot := rfl
@[simp] theorem goto_flash (s : State) (pc : BitVec 54) : (s.goto pc).flash = s.flash := rfl
@[simp] theorem goto_shelves (s : State) (pc : BitVec 54) : (s.goto pc).shelves = s.shelves := rfl
@[simp] theorem goto_poolUp (s : State) (pc : BitVec 54) : (s.goto pc).poolUp = s.poolUp := rfl
@[simp] theorem goto_time (s : State) (pc : BitVec 54) : (s.goto pc).time = s.time := rfl
@[simp] theorem goto_undef (s : State) (pc : BitVec 54) : (s.goto pc).undef = s.undef := rfl
@[simp] theorem goto_inputs (s : State) (pc : BitVec 54) : (s.goto pc).inputs = s.inputs := rfl
@[simp] theorem goto_stopped (s : State) (pc : BitVec 54) : (s.goto pc).stopped = s.stopped := rfl

/-! ## State.advance -/

@[simp] theorem advance_x_phase (s : State) : (s.advance).x.phase = s.x.phase := rfl
@[simp] theorem advance_x_sreg (s : State) : (s.advance).x.sreg = s.x.sreg := rfl
@[simp] theorem advance_x_vreg (s : State) : (s.advance).x.vreg = s.x.vreg := rfl
@[simp] theorem advance_x_kreg (s : State) : (s.advance).x.kreg = s.x.kreg := rfl
@[simp] theorem advance_x_vl (s : State) : (s.advance).x.vl = s.x.vl := rfl
@[simp] theorem advance_x_vtype (s : State) : (s.advance).x.vtype = s.x.vtype := rfl
@[simp] theorem advance_x_vbeg (s : State) : (s.advance).x.vbeg = s.x.vbeg := rfl
@[simp] theorem advance_x_rngkey (s : State) : (s.advance).x.rngkey = s.x.rngkey := rfl
@[simp] theorem advance_x_rngctr (s : State) : (s.advance).x.rngctr = s.x.rngctr := rfl
@[simp] theorem advance_x_cnum (s : State) : (s.advance).x.cnum = s.x.cnum := rfl
@[simp] theorem advance_x_citer (s : State) : (s.advance).x.citer = s.x.citer := rfl
@[simp] theorem advance_x_pos (s : State) : (s.advance).x.pos = s.x.pos := rfl
@[simp] theorem advance_x_inline (s : State) : (s.advance).x.inline = s.x.inline := rfl
@[simp] theorem advance_x_joinDue (s : State) : (s.advance).x.joinDue = s.x.joinDue := rfl
@[simp] theorem advance_x_broke (s : State) : (s.advance).x.broke = s.x.broke := rfl
@[simp] theorem advance_x_claim (s : State) : (s.advance).x.claim = s.x.claim := rfl
@[simp] theorem advance_x_dirty (s : State) : (s.advance).x.dirty = s.x.dirty := rfl
@[simp] theorem advance_x_shape (s : State) : (s.advance).x.shape = s.x.shape := rfl
@[simp] theorem advance_x_acc (s : State) : (s.advance).x.acc = s.x.acc := rfl
@[simp] theorem advance_x_slot (s : State) : (s.advance).x.slot = s.x.slot := rfl
@[simp] theorem advance_x_accPoison (s : State) : (s.advance).x.accPoison = s.x.accPoison := rfl
@[simp] theorem advance_x_slotPoison (s : State) : (s.advance).x.slotPoison = s.x.slotPoison := rfl
@[simp] theorem advance_x_vers (s : State) : (s.advance).x.vers = s.x.vers := rfl
@[simp] theorem advance_x_poisonLines (s : State) : (s.advance).x.poisonLines = s.x.poisonLines := rfl
@[simp] theorem advance_x_cleanLines (s : State) : (s.advance).x.cleanLines = s.x.cleanLines := rfl
@[simp] theorem advance_x_partials (s : State) : (s.advance).x.partials = s.x.partials := rfl
@[simp] theorem advance_x_held (s : State) : (s.advance).x.held = s.x.held := rfl
@[simp] theorem advance_x_await (s : State) : (s.advance).x.await = s.x.await := rfl
@[simp] theorem advance_x_starts (s : State) : (s.advance).x.starts = s.x.starts := rfl
@[simp] theorem advance_x_confirmed (s : State) : (s.advance).x.confirmed = s.x.confirmed := rfl
@[simp] theorem advance_x_posts (s : State) : (s.advance).x.posts = s.x.posts := rfl
@[simp] theorem advance_x_seen (s : State) : (s.advance).x.seen = s.x.seen := rfl
@[simp] theorem advance_x_sprio (s : State) : (s.advance).x.sprio = s.x.sprio := rfl
@[simp] theorem advance_x_seq (s : State) : (s.advance).x.seq = s.x.seq := rfl
@[simp] theorem advance_x_owed (s : State) : (s.advance).x.owed = s.x.owed := rfl
@[simp] theorem advance_st (s : State) : (s.advance).st = s.st := rfl
@[simp] theorem advance_parked (s : State) : (s.advance).parked = s.parked := rfl
@[simp] theorem advance_mem (s : State) : (s.advance).mem = s.mem := rfl
@[simp] theorem advance_poison (s : State) : (s.advance).poison = s.poison := rfl
@[simp] theorem advance_lostRanges (s : State) : (s.advance).lostRanges = s.lostRanges := rfl
@[simp] theorem advance_rewritten (s : State) : (s.advance).rewritten = s.rewritten := rfl
@[simp] theorem advance_sram (s : State) : (s.advance).sram = s.sram := rfl
@[simp] theorem advance_tlb (s : State) : (s.advance).tlb = s.tlb := rfl
@[simp] theorem advance_classes (s : State) : (s.advance).classes = s.classes := rfl
@[simp] theorem advance_contention (s : State) : (s.advance).contention = s.contention := rfl
@[simp] theorem advance_lastFar (s : State) : (s.advance).lastFar = s.lastFar := rfl
@[simp] theorem advance_waiters (s : State) : (s.advance).waiters = s.waiters := rfl
@[simp] theorem advance_scatter (s : State) : (s.advance).scatter = s.scatter := rfl
@[simp] theorem advance_roCopies (s : State) : (s.advance).roCopies = s.roCopies := rfl
@[simp] theorem advance_cp (s : State) : (s.advance).cp = s.cp := rfl
@[simp] theorem advance_fab (s : State) : (s.advance).fab = s.fab := rfl
@[simp] theorem advance_clo (s : State) : (s.advance).clo = s.clo := rfl
@[simp] theorem advance_net (s : State) : (s.advance).net = s.net := rfl
@[simp] theorem advance_cache (s : State) : (s.advance).cache = s.cache := rfl
@[simp] theorem advance_eng (s : State) : (s.advance).eng = s.eng := rfl
@[simp] theorem advance_gwq (s : State) : (s.advance).gwq = s.gwq := rfl
@[simp] theorem advance_mbx (s : State) : (s.advance).mbx = s.mbx := rfl
@[simp] theorem advance_mg (s : State) : (s.advance).mg = s.mg := rfl
@[simp] theorem advance_boot (s : State) : (s.advance).boot = s.boot := rfl
@[simp] theorem advance_flash (s : State) : (s.advance).flash = s.flash := rfl
@[simp] theorem advance_shelves (s : State) : (s.advance).shelves = s.shelves := rfl
@[simp] theorem advance_poolUp (s : State) : (s.advance).poolUp = s.poolUp := rfl
@[simp] theorem advance_time (s : State) : (s.advance).time = s.time := rfl
@[simp] theorem advance_undef (s : State) : (s.advance).undef = s.undef := rfl
@[simp] theorem advance_inputs (s : State) : (s.advance).inputs = s.inputs := rfl
@[simp] theorem advance_stopped (s : State) : (s.advance).stopped = s.stopped := rfl

/-! ## State.vbegZero -/

@[simp] theorem vbegZero_x_phase (s : State) : (s.vbegZero).x.phase = s.x.phase := rfl
@[simp] theorem vbegZero_x_pc (s : State) : (s.vbegZero).x.pc = s.x.pc := rfl
@[simp] theorem vbegZero_x_sreg (s : State) : (s.vbegZero).x.sreg = s.x.sreg := rfl
@[simp] theorem vbegZero_x_vreg (s : State) : (s.vbegZero).x.vreg = s.x.vreg := rfl
@[simp] theorem vbegZero_x_kreg (s : State) : (s.vbegZero).x.kreg = s.x.kreg := rfl
@[simp] theorem vbegZero_x_vl (s : State) : (s.vbegZero).x.vl = s.x.vl := rfl
@[simp] theorem vbegZero_x_vtype (s : State) : (s.vbegZero).x.vtype = s.x.vtype := rfl
@[simp] theorem vbegZero_x_rngkey (s : State) : (s.vbegZero).x.rngkey = s.x.rngkey := rfl
@[simp] theorem vbegZero_x_rngctr (s : State) : (s.vbegZero).x.rngctr = s.x.rngctr := rfl
@[simp] theorem vbegZero_x_cnum (s : State) : (s.vbegZero).x.cnum = s.x.cnum := rfl
@[simp] theorem vbegZero_x_citer (s : State) : (s.vbegZero).x.citer = s.x.citer := rfl
@[simp] theorem vbegZero_x_pos (s : State) : (s.vbegZero).x.pos = s.x.pos := rfl
@[simp] theorem vbegZero_x_inline (s : State) : (s.vbegZero).x.inline = s.x.inline := rfl
@[simp] theorem vbegZero_x_joinDue (s : State) : (s.vbegZero).x.joinDue = s.x.joinDue := rfl
@[simp] theorem vbegZero_x_broke (s : State) : (s.vbegZero).x.broke = s.x.broke := rfl
@[simp] theorem vbegZero_x_claim (s : State) : (s.vbegZero).x.claim = s.x.claim := rfl
@[simp] theorem vbegZero_x_dirty (s : State) : (s.vbegZero).x.dirty = s.x.dirty := rfl
@[simp] theorem vbegZero_x_shape (s : State) : (s.vbegZero).x.shape = s.x.shape := rfl
@[simp] theorem vbegZero_x_acc (s : State) : (s.vbegZero).x.acc = s.x.acc := rfl
@[simp] theorem vbegZero_x_slot (s : State) : (s.vbegZero).x.slot = s.x.slot := rfl
@[simp] theorem vbegZero_x_accPoison (s : State) : (s.vbegZero).x.accPoison = s.x.accPoison := rfl
@[simp] theorem vbegZero_x_slotPoison (s : State) : (s.vbegZero).x.slotPoison = s.x.slotPoison := rfl
@[simp] theorem vbegZero_x_vers (s : State) : (s.vbegZero).x.vers = s.x.vers := rfl
@[simp] theorem vbegZero_x_poisonLines (s : State) : (s.vbegZero).x.poisonLines = s.x.poisonLines := rfl
@[simp] theorem vbegZero_x_cleanLines (s : State) : (s.vbegZero).x.cleanLines = s.x.cleanLines := rfl
@[simp] theorem vbegZero_x_partials (s : State) : (s.vbegZero).x.partials = s.x.partials := rfl
@[simp] theorem vbegZero_x_held (s : State) : (s.vbegZero).x.held = s.x.held := rfl
@[simp] theorem vbegZero_x_await (s : State) : (s.vbegZero).x.await = s.x.await := rfl
@[simp] theorem vbegZero_x_starts (s : State) : (s.vbegZero).x.starts = s.x.starts := rfl
@[simp] theorem vbegZero_x_confirmed (s : State) : (s.vbegZero).x.confirmed = s.x.confirmed := rfl
@[simp] theorem vbegZero_x_posts (s : State) : (s.vbegZero).x.posts = s.x.posts := rfl
@[simp] theorem vbegZero_x_seen (s : State) : (s.vbegZero).x.seen = s.x.seen := rfl
@[simp] theorem vbegZero_x_sprio (s : State) : (s.vbegZero).x.sprio = s.x.sprio := rfl
@[simp] theorem vbegZero_x_seq (s : State) : (s.vbegZero).x.seq = s.x.seq := rfl
@[simp] theorem vbegZero_x_replies (s : State) : (s.vbegZero).x.replies = s.x.replies := rfl
@[simp] theorem vbegZero_x_pipe (s : State) : (s.vbegZero).x.pipe = s.x.pipe := rfl
@[simp] theorem vbegZero_x_owed (s : State) : (s.vbegZero).x.owed = s.x.owed := rfl
@[simp] theorem vbegZero_st (s : State) : (s.vbegZero).st = s.st := rfl
@[simp] theorem vbegZero_parked (s : State) : (s.vbegZero).parked = s.parked := rfl
@[simp] theorem vbegZero_mem (s : State) : (s.vbegZero).mem = s.mem := rfl
@[simp] theorem vbegZero_poison (s : State) : (s.vbegZero).poison = s.poison := rfl
@[simp] theorem vbegZero_lostRanges (s : State) : (s.vbegZero).lostRanges = s.lostRanges := rfl
@[simp] theorem vbegZero_rewritten (s : State) : (s.vbegZero).rewritten = s.rewritten := rfl
@[simp] theorem vbegZero_sram (s : State) : (s.vbegZero).sram = s.sram := rfl
@[simp] theorem vbegZero_tlb (s : State) : (s.vbegZero).tlb = s.tlb := rfl
@[simp] theorem vbegZero_classes (s : State) : (s.vbegZero).classes = s.classes := rfl
@[simp] theorem vbegZero_contention (s : State) : (s.vbegZero).contention = s.contention := rfl
@[simp] theorem vbegZero_lastFar (s : State) : (s.vbegZero).lastFar = s.lastFar := rfl
@[simp] theorem vbegZero_waiters (s : State) : (s.vbegZero).waiters = s.waiters := rfl
@[simp] theorem vbegZero_scatter (s : State) : (s.vbegZero).scatter = s.scatter := rfl
@[simp] theorem vbegZero_roCopies (s : State) : (s.vbegZero).roCopies = s.roCopies := rfl
@[simp] theorem vbegZero_cp (s : State) : (s.vbegZero).cp = s.cp := rfl
@[simp] theorem vbegZero_fab (s : State) : (s.vbegZero).fab = s.fab := rfl
@[simp] theorem vbegZero_clo (s : State) : (s.vbegZero).clo = s.clo := rfl
@[simp] theorem vbegZero_net (s : State) : (s.vbegZero).net = s.net := rfl
@[simp] theorem vbegZero_cache (s : State) : (s.vbegZero).cache = s.cache := rfl
@[simp] theorem vbegZero_eng (s : State) : (s.vbegZero).eng = s.eng := rfl
@[simp] theorem vbegZero_gwq (s : State) : (s.vbegZero).gwq = s.gwq := rfl
@[simp] theorem vbegZero_mbx (s : State) : (s.vbegZero).mbx = s.mbx := rfl
@[simp] theorem vbegZero_mg (s : State) : (s.vbegZero).mg = s.mg := rfl
@[simp] theorem vbegZero_boot (s : State) : (s.vbegZero).boot = s.boot := rfl
@[simp] theorem vbegZero_flash (s : State) : (s.vbegZero).flash = s.flash := rfl
@[simp] theorem vbegZero_shelves (s : State) : (s.vbegZero).shelves = s.shelves := rfl
@[simp] theorem vbegZero_poolUp (s : State) : (s.vbegZero).poolUp = s.poolUp := rfl
@[simp] theorem vbegZero_time (s : State) : (s.vbegZero).time = s.time := rfl
@[simp] theorem vbegZero_undef (s : State) : (s.vbegZero).undef = s.undef := rfl
@[simp] theorem vbegZero_inputs (s : State) : (s.vbegZero).inputs = s.inputs := rfl
@[simp] theorem vbegZero_retired (s : State) : (s.vbegZero).retired = s.retired := rfl
@[simp] theorem vbegZero_stopped (s : State) : (s.vbegZero).stopped = s.stopped := rfl

/-! ## State.setVgroup -/

@[simp] theorem setVgroup_x_phase (s : State) (b n g : Nat) : (s.setVgroup b n g).x.phase = s.x.phase := rfl
@[simp] theorem setVgroup_x_pc (s : State) (b n g : Nat) : (s.setVgroup b n g).x.pc = s.x.pc := rfl
@[simp] theorem setVgroup_x_sreg (s : State) (b n g : Nat) : (s.setVgroup b n g).x.sreg = s.x.sreg := rfl
@[simp] theorem setVgroup_x_kreg (s : State) (b n g : Nat) : (s.setVgroup b n g).x.kreg = s.x.kreg := rfl
@[simp] theorem setVgroup_x_vl (s : State) (b n g : Nat) : (s.setVgroup b n g).x.vl = s.x.vl := rfl
@[simp] theorem setVgroup_x_vtype (s : State) (b n g : Nat) : (s.setVgroup b n g).x.vtype = s.x.vtype := rfl
@[simp] theorem setVgroup_x_vbeg (s : State) (b n g : Nat) : (s.setVgroup b n g).x.vbeg = s.x.vbeg := rfl
@[simp] theorem setVgroup_x_rngkey (s : State) (b n g : Nat) : (s.setVgroup b n g).x.rngkey = s.x.rngkey := rfl
@[simp] theorem setVgroup_x_rngctr (s : State) (b n g : Nat) : (s.setVgroup b n g).x.rngctr = s.x.rngctr := rfl
@[simp] theorem setVgroup_x_cnum (s : State) (b n g : Nat) : (s.setVgroup b n g).x.cnum = s.x.cnum := rfl
@[simp] theorem setVgroup_x_citer (s : State) (b n g : Nat) : (s.setVgroup b n g).x.citer = s.x.citer := rfl
@[simp] theorem setVgroup_x_pos (s : State) (b n g : Nat) : (s.setVgroup b n g).x.pos = s.x.pos := rfl
@[simp] theorem setVgroup_x_inline (s : State) (b n g : Nat) : (s.setVgroup b n g).x.inline = s.x.inline := rfl
@[simp] theorem setVgroup_x_joinDue (s : State) (b n g : Nat) : (s.setVgroup b n g).x.joinDue = s.x.joinDue := rfl
@[simp] theorem setVgroup_x_broke (s : State) (b n g : Nat) : (s.setVgroup b n g).x.broke = s.x.broke := rfl
@[simp] theorem setVgroup_x_claim (s : State) (b n g : Nat) : (s.setVgroup b n g).x.claim = s.x.claim := rfl
@[simp] theorem setVgroup_x_dirty (s : State) (b n g : Nat) : (s.setVgroup b n g).x.dirty = s.x.dirty := rfl
@[simp] theorem setVgroup_x_shape (s : State) (b n g : Nat) : (s.setVgroup b n g).x.shape = s.x.shape := rfl
@[simp] theorem setVgroup_x_acc (s : State) (b n g : Nat) : (s.setVgroup b n g).x.acc = s.x.acc := rfl
@[simp] theorem setVgroup_x_slot (s : State) (b n g : Nat) : (s.setVgroup b n g).x.slot = s.x.slot := rfl
@[simp] theorem setVgroup_x_accPoison (s : State) (b n g : Nat) : (s.setVgroup b n g).x.accPoison = s.x.accPoison := rfl
@[simp] theorem setVgroup_x_slotPoison (s : State) (b n g : Nat) : (s.setVgroup b n g).x.slotPoison = s.x.slotPoison := rfl
@[simp] theorem setVgroup_x_vers (s : State) (b n g : Nat) : (s.setVgroup b n g).x.vers = s.x.vers := rfl
@[simp] theorem setVgroup_x_poisonLines (s : State) (b n g : Nat) : (s.setVgroup b n g).x.poisonLines = s.x.poisonLines := rfl
@[simp] theorem setVgroup_x_cleanLines (s : State) (b n g : Nat) : (s.setVgroup b n g).x.cleanLines = s.x.cleanLines := rfl
@[simp] theorem setVgroup_x_partials (s : State) (b n g : Nat) : (s.setVgroup b n g).x.partials = s.x.partials := rfl
@[simp] theorem setVgroup_x_held (s : State) (b n g : Nat) : (s.setVgroup b n g).x.held = s.x.held := rfl
@[simp] theorem setVgroup_x_await (s : State) (b n g : Nat) : (s.setVgroup b n g).x.await = s.x.await := rfl
@[simp] theorem setVgroup_x_starts (s : State) (b n g : Nat) : (s.setVgroup b n g).x.starts = s.x.starts := rfl
@[simp] theorem setVgroup_x_confirmed (s : State) (b n g : Nat) : (s.setVgroup b n g).x.confirmed = s.x.confirmed := rfl
@[simp] theorem setVgroup_x_posts (s : State) (b n g : Nat) : (s.setVgroup b n g).x.posts = s.x.posts := rfl
@[simp] theorem setVgroup_x_seen (s : State) (b n g : Nat) : (s.setVgroup b n g).x.seen = s.x.seen := rfl
@[simp] theorem setVgroup_x_sprio (s : State) (b n g : Nat) : (s.setVgroup b n g).x.sprio = s.x.sprio := rfl
@[simp] theorem setVgroup_x_seq (s : State) (b n g : Nat) : (s.setVgroup b n g).x.seq = s.x.seq := rfl
@[simp] theorem setVgroup_x_replies (s : State) (b n g : Nat) : (s.setVgroup b n g).x.replies = s.x.replies := rfl
@[simp] theorem setVgroup_x_pipe (s : State) (b n g : Nat) : (s.setVgroup b n g).x.pipe = s.x.pipe := rfl
@[simp] theorem setVgroup_x_owed (s : State) (b n g : Nat) : (s.setVgroup b n g).x.owed = s.x.owed := rfl
@[simp] theorem setVgroup_st (s : State) (b n g : Nat) : (s.setVgroup b n g).st = s.st := rfl
@[simp] theorem setVgroup_parked (s : State) (b n g : Nat) : (s.setVgroup b n g).parked = s.parked := rfl
@[simp] theorem setVgroup_mem (s : State) (b n g : Nat) : (s.setVgroup b n g).mem = s.mem := rfl
@[simp] theorem setVgroup_poison (s : State) (b n g : Nat) : (s.setVgroup b n g).poison = s.poison := rfl
@[simp] theorem setVgroup_lostRanges (s : State) (b n g : Nat) : (s.setVgroup b n g).lostRanges = s.lostRanges := rfl
@[simp] theorem setVgroup_rewritten (s : State) (b n g : Nat) : (s.setVgroup b n g).rewritten = s.rewritten := rfl
@[simp] theorem setVgroup_sram (s : State) (b n g : Nat) : (s.setVgroup b n g).sram = s.sram := rfl
@[simp] theorem setVgroup_tlb (s : State) (b n g : Nat) : (s.setVgroup b n g).tlb = s.tlb := rfl
@[simp] theorem setVgroup_classes (s : State) (b n g : Nat) : (s.setVgroup b n g).classes = s.classes := rfl
@[simp] theorem setVgroup_contention (s : State) (b n g : Nat) : (s.setVgroup b n g).contention = s.contention := rfl
@[simp] theorem setVgroup_lastFar (s : State) (b n g : Nat) : (s.setVgroup b n g).lastFar = s.lastFar := rfl
@[simp] theorem setVgroup_waiters (s : State) (b n g : Nat) : (s.setVgroup b n g).waiters = s.waiters := rfl
@[simp] theorem setVgroup_scatter (s : State) (b n g : Nat) : (s.setVgroup b n g).scatter = s.scatter := rfl
@[simp] theorem setVgroup_roCopies (s : State) (b n g : Nat) : (s.setVgroup b n g).roCopies = s.roCopies := rfl
@[simp] theorem setVgroup_cp (s : State) (b n g : Nat) : (s.setVgroup b n g).cp = s.cp := rfl
@[simp] theorem setVgroup_fab (s : State) (b n g : Nat) : (s.setVgroup b n g).fab = s.fab := rfl
@[simp] theorem setVgroup_clo (s : State) (b n g : Nat) : (s.setVgroup b n g).clo = s.clo := rfl
@[simp] theorem setVgroup_net (s : State) (b n g : Nat) : (s.setVgroup b n g).net = s.net := rfl
@[simp] theorem setVgroup_cache (s : State) (b n g : Nat) : (s.setVgroup b n g).cache = s.cache := rfl
@[simp] theorem setVgroup_eng (s : State) (b n g : Nat) : (s.setVgroup b n g).eng = s.eng := rfl
@[simp] theorem setVgroup_gwq (s : State) (b n g : Nat) : (s.setVgroup b n g).gwq = s.gwq := rfl
@[simp] theorem setVgroup_mbx (s : State) (b n g : Nat) : (s.setVgroup b n g).mbx = s.mbx := rfl
@[simp] theorem setVgroup_mg (s : State) (b n g : Nat) : (s.setVgroup b n g).mg = s.mg := rfl
@[simp] theorem setVgroup_boot (s : State) (b n g : Nat) : (s.setVgroup b n g).boot = s.boot := rfl
@[simp] theorem setVgroup_flash (s : State) (b n g : Nat) : (s.setVgroup b n g).flash = s.flash := rfl
@[simp] theorem setVgroup_shelves (s : State) (b n g : Nat) : (s.setVgroup b n g).shelves = s.shelves := rfl
@[simp] theorem setVgroup_poolUp (s : State) (b n g : Nat) : (s.setVgroup b n g).poolUp = s.poolUp := rfl
@[simp] theorem setVgroup_time (s : State) (b n g : Nat) : (s.setVgroup b n g).time = s.time := rfl
@[simp] theorem setVgroup_undef (s : State) (b n g : Nat) : (s.setVgroup b n g).undef = s.undef := rfl
@[simp] theorem setVgroup_inputs (s : State) (b n g : Nat) : (s.setVgroup b n g).inputs = s.inputs := rfl
@[simp] theorem setVgroup_retired (s : State) (b n g : Nat) : (s.setVgroup b n g).retired = s.retired := rfl
@[simp] theorem setVgroup_stopped (s : State) (b n g : Nat) : (s.setVgroup b n g).stopped = s.stopped := rfl

/-! ## State.setTrap -/

@[simp] theorem setTrap_x (s : State) (k : TrapRegs) : (s.setTrap k).x = s.x := rfl
@[simp] theorem setTrap_st_place (s : State) (k : TrapRegs) : (s.setTrap k).st.place = s.st.place := rfl
@[simp] theorem setTrap_st_phase (s : State) (k : TrapRegs) : (s.setTrap k).st.phase = s.st.phase := rfl
@[simp] theorem setTrap_st_id (s : State) (k : TrapRegs) : (s.setTrap k).st.id = s.st.id := rfl
@[simp] theorem setTrap_st_n (s : State) (k : TrapRegs) : (s.setTrap k).st.n = s.st.n := rfl
@[simp] theorem setTrap_st_vf (s : State) (k : TrapRegs) : (s.setTrap k).st.vf = s.st.vf := rfl
@[simp] theorem setTrap_st_prio (s : State) (k : TrapRegs) : (s.setTrap k).st.prio = s.st.prio := rfl
@[simp] theorem setTrap_st_runPrio (s : State) (k : TrapRegs) : (s.setTrap k).st.runPrio = s.st.runPrio := rfl
@[simp] theorem setTrap_st_ptroot (s : State) (k : TrapRegs) : (s.setTrap k).st.ptroot = s.st.ptroot := rfl
@[simp] theorem setTrap_st_asid (s : State) (k : TrapRegs) : (s.setTrap k).st.asid = s.st.asid := rfl
@[simp] theorem setTrap_st_pmcfg (s : State) (k : TrapRegs) : (s.setTrap k).st.pmcfg = s.st.pmcfg := rfl
@[simp] theorem setTrap_st_ovfPend (s : State) (k : TrapRegs) : (s.setTrap k).st.ovfPend = s.st.ovfPend := rfl
@[simp] theorem setTrap_st_ccount (s : State) (k : TrapRegs) : (s.setTrap k).st.ccount = s.st.ccount := rfl
@[simp] theorem setTrap_st_fsite (s : State) (k : TrapRegs) : (s.setTrap k).st.fsite = s.st.fsite := rfl
@[simp] theorem setTrap_st_fsquash (s : State) (k : TrapRegs) : (s.setTrap k).st.fsquash = s.st.fsquash := rfl
@[simp] theorem setTrap_st_active (s : State) (k : TrapRegs) : (s.setTrap k).st.active = s.st.active := rfl
@[simp] theorem setTrap_st_serial (s : State) (k : TrapRegs) : (s.setTrap k).st.serial = s.st.serial := rfl
@[simp] theorem setTrap_st_nopred (s : State) (k : TrapRegs) : (s.setTrap k).st.nopred = s.st.nopred := rfl
@[simp] theorem setTrap_st_broke (s : State) (k : TrapRegs) : (s.setTrap k).st.broke = s.st.broke := rfl
@[simp] theorem setTrap_st_regions (s : State) (k : TrapRegs) : (s.setTrap k).st.regions = s.st.regions := rfl
@[simp] theorem setTrap_st_fork (s : State) (k : TrapRegs) : (s.setTrap k).st.fork = s.st.fork := rfl
@[simp] theorem setTrap_st_pred (s : State) (k : TrapRegs) : (s.setTrap k).st.pred = s.st.pred := rfl
@[simp] theorem setTrap_st_tables (s : State) (k : TrapRegs) : (s.setTrap k).st.tables = s.st.tables := rfl
@[simp] theorem setTrap_st_inbox (s : State) (k : TrapRegs) : (s.setTrap k).st.inbox = s.st.inbox := rfl
@[simp] theorem setTrap_st_overflow (s : State) (k : TrapRegs) : (s.setTrap k).st.overflow = s.st.overflow := rfl
@[simp] theorem setTrap_st_lost (s : State) (k : TrapRegs) : (s.setTrap k).st.lost = s.st.lost := rfl
@[simp] theorem setTrap_st_retry (s : State) (k : TrapRegs) : (s.setTrap k).st.retry = s.st.retry := rfl
@[simp] theorem setTrap_st_tokens (s : State) (k : TrapRegs) : (s.setTrap k).st.tokens = s.st.tokens := rfl
@[simp] theorem setTrap_st_vqueue (s : State) (k : TrapRegs) : (s.setTrap k).st.vqueue = s.st.vqueue := rfl
@[simp] theorem setTrap_st_mqueue (s : State) (k : TrapRegs) : (s.setTrap k).st.mqueue = s.st.mqueue := rfl
@[simp] theorem setTrap_st_equeue (s : State) (k : TrapRegs) : (s.setTrap k).st.equeue = s.st.equeue := rfl
@[simp] theorem setTrap_st_qcount (s : State) (k : TrapRegs) : (s.setTrap k).st.qcount = s.st.qcount := rfl
@[simp] theorem setTrap_st_sbuf (s : State) (k : TrapRegs) : (s.setTrap k).st.sbuf = s.st.sbuf := rfl
@[simp] theorem setTrap_st_vbuf (s : State) (k : TrapRegs) : (s.setTrap k).st.vbuf = s.st.vbuf := rfl
@[simp] theorem setTrap_st_failedStores (s : State) (k : TrapRegs) : (s.setTrap k).st.failedStores = s.st.failedStores := rfl
@[simp] theorem setTrap_st_fatal (s : State) (k : TrapRegs) : (s.setTrap k).st.fatal = s.st.fatal := rfl
@[simp] theorem setTrap_st_fatalEp (s : State) (k : TrapRegs) : (s.setTrap k).st.fatalEp = s.st.fatalEp := rfl
@[simp] theorem setTrap_st_fatalWin (s : State) (k : TrapRegs) : (s.setTrap k).st.fatalWin = s.st.fatalWin := rfl
@[simp] theorem setTrap_st_wait (s : State) (k : TrapRegs) : (s.setTrap k).st.wait = s.st.wait := rfl
@[simp] theorem setTrap_st_saveSlot (s : State) (k : TrapRegs) : (s.setTrap k).st.saveSlot = s.st.saveSlot := rfl
@[simp] theorem setTrap_st_startedAt (s : State) (k : TrapRegs) : (s.setTrap k).st.startedAt = s.st.startedAt := rfl
@[simp] theorem setTrap_st_resumeNext (s : State) (k : TrapRegs) : (s.setTrap k).st.resumeNext = s.st.resumeNext := rfl
@[simp] theorem setTrap_parked (s : State) (k : TrapRegs) : (s.setTrap k).parked = s.parked := rfl
@[simp] theorem setTrap_mem (s : State) (k : TrapRegs) : (s.setTrap k).mem = s.mem := rfl
@[simp] theorem setTrap_poison (s : State) (k : TrapRegs) : (s.setTrap k).poison = s.poison := rfl
@[simp] theorem setTrap_lostRanges (s : State) (k : TrapRegs) : (s.setTrap k).lostRanges = s.lostRanges := rfl
@[simp] theorem setTrap_rewritten (s : State) (k : TrapRegs) : (s.setTrap k).rewritten = s.rewritten := rfl
@[simp] theorem setTrap_sram (s : State) (k : TrapRegs) : (s.setTrap k).sram = s.sram := rfl
@[simp] theorem setTrap_tlb (s : State) (k : TrapRegs) : (s.setTrap k).tlb = s.tlb := rfl
@[simp] theorem setTrap_classes (s : State) (k : TrapRegs) : (s.setTrap k).classes = s.classes := rfl
@[simp] theorem setTrap_contention (s : State) (k : TrapRegs) : (s.setTrap k).contention = s.contention := rfl
@[simp] theorem setTrap_lastFar (s : State) (k : TrapRegs) : (s.setTrap k).lastFar = s.lastFar := rfl
@[simp] theorem setTrap_waiters (s : State) (k : TrapRegs) : (s.setTrap k).waiters = s.waiters := rfl
@[simp] theorem setTrap_scatter (s : State) (k : TrapRegs) : (s.setTrap k).scatter = s.scatter := rfl
@[simp] theorem setTrap_roCopies (s : State) (k : TrapRegs) : (s.setTrap k).roCopies = s.roCopies := rfl
@[simp] theorem setTrap_cp (s : State) (k : TrapRegs) : (s.setTrap k).cp = s.cp := rfl
@[simp] theorem setTrap_fab (s : State) (k : TrapRegs) : (s.setTrap k).fab = s.fab := rfl
@[simp] theorem setTrap_clo (s : State) (k : TrapRegs) : (s.setTrap k).clo = s.clo := rfl
@[simp] theorem setTrap_net (s : State) (k : TrapRegs) : (s.setTrap k).net = s.net := rfl
@[simp] theorem setTrap_cache (s : State) (k : TrapRegs) : (s.setTrap k).cache = s.cache := rfl
@[simp] theorem setTrap_eng (s : State) (k : TrapRegs) : (s.setTrap k).eng = s.eng := rfl
@[simp] theorem setTrap_gwq (s : State) (k : TrapRegs) : (s.setTrap k).gwq = s.gwq := rfl
@[simp] theorem setTrap_mbx (s : State) (k : TrapRegs) : (s.setTrap k).mbx = s.mbx := rfl
@[simp] theorem setTrap_mg (s : State) (k : TrapRegs) : (s.setTrap k).mg = s.mg := rfl
@[simp] theorem setTrap_boot (s : State) (k : TrapRegs) : (s.setTrap k).boot = s.boot := rfl
@[simp] theorem setTrap_flash (s : State) (k : TrapRegs) : (s.setTrap k).flash = s.flash := rfl
@[simp] theorem setTrap_shelves (s : State) (k : TrapRegs) : (s.setTrap k).shelves = s.shelves := rfl
@[simp] theorem setTrap_poolUp (s : State) (k : TrapRegs) : (s.setTrap k).poolUp = s.poolUp := rfl
@[simp] theorem setTrap_time (s : State) (k : TrapRegs) : (s.setTrap k).time = s.time := rfl
@[simp] theorem setTrap_undef (s : State) (k : TrapRegs) : (s.setTrap k).undef = s.undef := rfl
@[simp] theorem setTrap_inputs (s : State) (k : TrapRegs) : (s.setTrap k).inputs = s.inputs := rfl
@[simp] theorem setTrap_retired (s : State) (k : TrapRegs) : (s.setTrap k).retired = s.retired := rfl
@[simp] theorem setTrap_stopped (s : State) (k : TrapRegs) : (s.setTrap k).stopped = s.stopped := rfl

/-! ## State.setPmcfg -/

@[simp] theorem setPmcfg_x (s : State) (j : Nat) (v : Word) : (s.setPmcfg j v).x = s.x := rfl
@[simp] theorem setPmcfg_st_place (s : State) (j : Nat) (v : Word) : (s.setPmcfg j v).st.place = s.st.place := rfl
@[simp] theorem setPmcfg_st_phase (s : State) (j : Nat) (v : Word) : (s.setPmcfg j v).st.phase = s.st.phase := rfl
@[simp] theorem setPmcfg_st_id (s : State) (j : Nat) (v : Word) : (s.setPmcfg j v).st.id = s.st.id := rfl
@[simp] theorem setPmcfg_st_n (s : State) (j : Nat) (v : Word) : (s.setPmcfg j v).st.n = s.st.n := rfl
@[simp] theorem setPmcfg_st_vf (s : State) (j : Nat) (v : Word) : (s.setPmcfg j v).st.vf = s.st.vf := rfl
@[simp] theorem setPmcfg_st_prio (s : State) (j : Nat) (v : Word) : (s.setPmcfg j v).st.prio = s.st.prio := rfl
@[simp] theorem setPmcfg_st_runPrio (s : State) (j : Nat) (v : Word) : (s.setPmcfg j v).st.runPrio = s.st.runPrio := rfl
@[simp] theorem setPmcfg_st_trap (s : State) (j : Nat) (v : Word) : (s.setPmcfg j v).st.trap = s.st.trap := rfl
@[simp] theorem setPmcfg_st_ptroot (s : State) (j : Nat) (v : Word) : (s.setPmcfg j v).st.ptroot = s.st.ptroot := rfl
@[simp] theorem setPmcfg_st_asid (s : State) (j : Nat) (v : Word) : (s.setPmcfg j v).st.asid = s.st.asid := rfl
@[simp] theorem setPmcfg_st_ovfPend (s : State) (j : Nat) (v : Word) : (s.setPmcfg j v).st.ovfPend = s.st.ovfPend := rfl
@[simp] theorem setPmcfg_st_ccount (s : State) (j : Nat) (v : Word) : (s.setPmcfg j v).st.ccount = s.st.ccount := rfl
@[simp] theorem setPmcfg_st_fsite (s : State) (j : Nat) (v : Word) : (s.setPmcfg j v).st.fsite = s.st.fsite := rfl
@[simp] theorem setPmcfg_st_fsquash (s : State) (j : Nat) (v : Word) : (s.setPmcfg j v).st.fsquash = s.st.fsquash := rfl
@[simp] theorem setPmcfg_st_active (s : State) (j : Nat) (v : Word) : (s.setPmcfg j v).st.active = s.st.active := rfl
@[simp] theorem setPmcfg_st_serial (s : State) (j : Nat) (v : Word) : (s.setPmcfg j v).st.serial = s.st.serial := rfl
@[simp] theorem setPmcfg_st_nopred (s : State) (j : Nat) (v : Word) : (s.setPmcfg j v).st.nopred = s.st.nopred := rfl
@[simp] theorem setPmcfg_st_broke (s : State) (j : Nat) (v : Word) : (s.setPmcfg j v).st.broke = s.st.broke := rfl
@[simp] theorem setPmcfg_st_regions (s : State) (j : Nat) (v : Word) : (s.setPmcfg j v).st.regions = s.st.regions := rfl
@[simp] theorem setPmcfg_st_fork (s : State) (j : Nat) (v : Word) : (s.setPmcfg j v).st.fork = s.st.fork := rfl
@[simp] theorem setPmcfg_st_pred (s : State) (j : Nat) (v : Word) : (s.setPmcfg j v).st.pred = s.st.pred := rfl
@[simp] theorem setPmcfg_st_tables (s : State) (j : Nat) (v : Word) : (s.setPmcfg j v).st.tables = s.st.tables := rfl
@[simp] theorem setPmcfg_st_inbox (s : State) (j : Nat) (v : Word) : (s.setPmcfg j v).st.inbox = s.st.inbox := rfl
@[simp] theorem setPmcfg_st_overflow (s : State) (j : Nat) (v : Word) : (s.setPmcfg j v).st.overflow = s.st.overflow := rfl
@[simp] theorem setPmcfg_st_lost (s : State) (j : Nat) (v : Word) : (s.setPmcfg j v).st.lost = s.st.lost := rfl
@[simp] theorem setPmcfg_st_retry (s : State) (j : Nat) (v : Word) : (s.setPmcfg j v).st.retry = s.st.retry := rfl
@[simp] theorem setPmcfg_st_tokens (s : State) (j : Nat) (v : Word) : (s.setPmcfg j v).st.tokens = s.st.tokens := rfl
@[simp] theorem setPmcfg_st_vqueue (s : State) (j : Nat) (v : Word) : (s.setPmcfg j v).st.vqueue = s.st.vqueue := rfl
@[simp] theorem setPmcfg_st_mqueue (s : State) (j : Nat) (v : Word) : (s.setPmcfg j v).st.mqueue = s.st.mqueue := rfl
@[simp] theorem setPmcfg_st_equeue (s : State) (j : Nat) (v : Word) : (s.setPmcfg j v).st.equeue = s.st.equeue := rfl
@[simp] theorem setPmcfg_st_qcount (s : State) (j : Nat) (v : Word) : (s.setPmcfg j v).st.qcount = s.st.qcount := rfl
@[simp] theorem setPmcfg_st_sbuf (s : State) (j : Nat) (v : Word) : (s.setPmcfg j v).st.sbuf = s.st.sbuf := rfl
@[simp] theorem setPmcfg_st_vbuf (s : State) (j : Nat) (v : Word) : (s.setPmcfg j v).st.vbuf = s.st.vbuf := rfl
@[simp] theorem setPmcfg_st_failedStores (s : State) (j : Nat) (v : Word) : (s.setPmcfg j v).st.failedStores = s.st.failedStores := rfl
@[simp] theorem setPmcfg_st_fatal (s : State) (j : Nat) (v : Word) : (s.setPmcfg j v).st.fatal = s.st.fatal := rfl
@[simp] theorem setPmcfg_st_fatalEp (s : State) (j : Nat) (v : Word) : (s.setPmcfg j v).st.fatalEp = s.st.fatalEp := rfl
@[simp] theorem setPmcfg_st_fatalWin (s : State) (j : Nat) (v : Word) : (s.setPmcfg j v).st.fatalWin = s.st.fatalWin := rfl
@[simp] theorem setPmcfg_st_wait (s : State) (j : Nat) (v : Word) : (s.setPmcfg j v).st.wait = s.st.wait := rfl
@[simp] theorem setPmcfg_st_saveSlot (s : State) (j : Nat) (v : Word) : (s.setPmcfg j v).st.saveSlot = s.st.saveSlot := rfl
@[simp] theorem setPmcfg_st_startedAt (s : State) (j : Nat) (v : Word) : (s.setPmcfg j v).st.startedAt = s.st.startedAt := rfl
@[simp] theorem setPmcfg_st_resumeNext (s : State) (j : Nat) (v : Word) : (s.setPmcfg j v).st.resumeNext = s.st.resumeNext := rfl
@[simp] theorem setPmcfg_parked (s : State) (j : Nat) (v : Word) : (s.setPmcfg j v).parked = s.parked := rfl
@[simp] theorem setPmcfg_mem (s : State) (j : Nat) (v : Word) : (s.setPmcfg j v).mem = s.mem := rfl
@[simp] theorem setPmcfg_poison (s : State) (j : Nat) (v : Word) : (s.setPmcfg j v).poison = s.poison := rfl
@[simp] theorem setPmcfg_lostRanges (s : State) (j : Nat) (v : Word) : (s.setPmcfg j v).lostRanges = s.lostRanges := rfl
@[simp] theorem setPmcfg_rewritten (s : State) (j : Nat) (v : Word) : (s.setPmcfg j v).rewritten = s.rewritten := rfl
@[simp] theorem setPmcfg_sram (s : State) (j : Nat) (v : Word) : (s.setPmcfg j v).sram = s.sram := rfl
@[simp] theorem setPmcfg_tlb (s : State) (j : Nat) (v : Word) : (s.setPmcfg j v).tlb = s.tlb := rfl
@[simp] theorem setPmcfg_classes (s : State) (j : Nat) (v : Word) : (s.setPmcfg j v).classes = s.classes := rfl
@[simp] theorem setPmcfg_contention (s : State) (j : Nat) (v : Word) : (s.setPmcfg j v).contention = s.contention := rfl
@[simp] theorem setPmcfg_lastFar (s : State) (j : Nat) (v : Word) : (s.setPmcfg j v).lastFar = s.lastFar := rfl
@[simp] theorem setPmcfg_waiters (s : State) (j : Nat) (v : Word) : (s.setPmcfg j v).waiters = s.waiters := rfl
@[simp] theorem setPmcfg_scatter (s : State) (j : Nat) (v : Word) : (s.setPmcfg j v).scatter = s.scatter := rfl
@[simp] theorem setPmcfg_roCopies (s : State) (j : Nat) (v : Word) : (s.setPmcfg j v).roCopies = s.roCopies := rfl
@[simp] theorem setPmcfg_cp (s : State) (j : Nat) (v : Word) : (s.setPmcfg j v).cp = s.cp := rfl
@[simp] theorem setPmcfg_fab (s : State) (j : Nat) (v : Word) : (s.setPmcfg j v).fab = s.fab := rfl
@[simp] theorem setPmcfg_clo (s : State) (j : Nat) (v : Word) : (s.setPmcfg j v).clo = s.clo := rfl
@[simp] theorem setPmcfg_net (s : State) (j : Nat) (v : Word) : (s.setPmcfg j v).net = s.net := rfl
@[simp] theorem setPmcfg_cache (s : State) (j : Nat) (v : Word) : (s.setPmcfg j v).cache = s.cache := rfl
@[simp] theorem setPmcfg_eng (s : State) (j : Nat) (v : Word) : (s.setPmcfg j v).eng = s.eng := rfl
@[simp] theorem setPmcfg_gwq (s : State) (j : Nat) (v : Word) : (s.setPmcfg j v).gwq = s.gwq := rfl
@[simp] theorem setPmcfg_mbx (s : State) (j : Nat) (v : Word) : (s.setPmcfg j v).mbx = s.mbx := rfl
@[simp] theorem setPmcfg_mg (s : State) (j : Nat) (v : Word) : (s.setPmcfg j v).mg = s.mg := rfl
@[simp] theorem setPmcfg_boot (s : State) (j : Nat) (v : Word) : (s.setPmcfg j v).boot = s.boot := rfl
@[simp] theorem setPmcfg_flash (s : State) (j : Nat) (v : Word) : (s.setPmcfg j v).flash = s.flash := rfl
@[simp] theorem setPmcfg_shelves (s : State) (j : Nat) (v : Word) : (s.setPmcfg j v).shelves = s.shelves := rfl
@[simp] theorem setPmcfg_poolUp (s : State) (j : Nat) (v : Word) : (s.setPmcfg j v).poolUp = s.poolUp := rfl
@[simp] theorem setPmcfg_time (s : State) (j : Nat) (v : Word) : (s.setPmcfg j v).time = s.time := rfl
@[simp] theorem setPmcfg_undef (s : State) (j : Nat) (v : Word) : (s.setPmcfg j v).undef = s.undef := rfl
@[simp] theorem setPmcfg_inputs (s : State) (j : Nat) (v : Word) : (s.setPmcfg j v).inputs = s.inputs := rfl
@[simp] theorem setPmcfg_retired (s : State) (j : Nat) (v : Word) : (s.setPmcfg j v).retired = s.retired := rfl
@[simp] theorem setPmcfg_stopped (s : State) (j : Nat) (v : Word) : (s.setPmcfg j v).stopped = s.stopped := rfl

/-! ## State.pokeBytes -/

@[simp] theorem pokeBytes_x (s : State) (pa : Nat) (bs : List Byte) : (s.pokeBytes pa bs).x = s.x := rfl
@[simp] theorem pokeBytes_st (s : State) (pa : Nat) (bs : List Byte) : (s.pokeBytes pa bs).st = s.st := rfl
@[simp] theorem pokeBytes_parked (s : State) (pa : Nat) (bs : List Byte) : (s.pokeBytes pa bs).parked = s.parked := rfl
@[simp] theorem pokeBytes_poison (s : State) (pa : Nat) (bs : List Byte) : (s.pokeBytes pa bs).poison = s.poison := rfl
@[simp] theorem pokeBytes_lostRanges (s : State) (pa : Nat) (bs : List Byte) : (s.pokeBytes pa bs).lostRanges = s.lostRanges := rfl
@[simp] theorem pokeBytes_rewritten (s : State) (pa : Nat) (bs : List Byte) : (s.pokeBytes pa bs).rewritten = s.rewritten := rfl
@[simp] theorem pokeBytes_sram (s : State) (pa : Nat) (bs : List Byte) : (s.pokeBytes pa bs).sram = s.sram := rfl
@[simp] theorem pokeBytes_tlb (s : State) (pa : Nat) (bs : List Byte) : (s.pokeBytes pa bs).tlb = s.tlb := rfl
@[simp] theorem pokeBytes_classes (s : State) (pa : Nat) (bs : List Byte) : (s.pokeBytes pa bs).classes = s.classes := rfl
@[simp] theorem pokeBytes_contention (s : State) (pa : Nat) (bs : List Byte) : (s.pokeBytes pa bs).contention = s.contention := rfl
@[simp] theorem pokeBytes_lastFar (s : State) (pa : Nat) (bs : List Byte) : (s.pokeBytes pa bs).lastFar = s.lastFar := rfl
@[simp] theorem pokeBytes_waiters (s : State) (pa : Nat) (bs : List Byte) : (s.pokeBytes pa bs).waiters = s.waiters := rfl
@[simp] theorem pokeBytes_scatter (s : State) (pa : Nat) (bs : List Byte) : (s.pokeBytes pa bs).scatter = s.scatter := rfl
@[simp] theorem pokeBytes_roCopies (s : State) (pa : Nat) (bs : List Byte) : (s.pokeBytes pa bs).roCopies = s.roCopies := rfl
@[simp] theorem pokeBytes_cp (s : State) (pa : Nat) (bs : List Byte) : (s.pokeBytes pa bs).cp = s.cp := rfl
@[simp] theorem pokeBytes_fab (s : State) (pa : Nat) (bs : List Byte) : (s.pokeBytes pa bs).fab = s.fab := rfl
@[simp] theorem pokeBytes_clo (s : State) (pa : Nat) (bs : List Byte) : (s.pokeBytes pa bs).clo = s.clo := rfl
@[simp] theorem pokeBytes_net (s : State) (pa : Nat) (bs : List Byte) : (s.pokeBytes pa bs).net = s.net := rfl
@[simp] theorem pokeBytes_cache (s : State) (pa : Nat) (bs : List Byte) : (s.pokeBytes pa bs).cache = s.cache := rfl
@[simp] theorem pokeBytes_eng (s : State) (pa : Nat) (bs : List Byte) : (s.pokeBytes pa bs).eng = s.eng := rfl
@[simp] theorem pokeBytes_gwq (s : State) (pa : Nat) (bs : List Byte) : (s.pokeBytes pa bs).gwq = s.gwq := rfl
@[simp] theorem pokeBytes_mbx (s : State) (pa : Nat) (bs : List Byte) : (s.pokeBytes pa bs).mbx = s.mbx := rfl
@[simp] theorem pokeBytes_mg (s : State) (pa : Nat) (bs : List Byte) : (s.pokeBytes pa bs).mg = s.mg := rfl
@[simp] theorem pokeBytes_boot (s : State) (pa : Nat) (bs : List Byte) : (s.pokeBytes pa bs).boot = s.boot := rfl
@[simp] theorem pokeBytes_flash (s : State) (pa : Nat) (bs : List Byte) : (s.pokeBytes pa bs).flash = s.flash := rfl
@[simp] theorem pokeBytes_shelves (s : State) (pa : Nat) (bs : List Byte) : (s.pokeBytes pa bs).shelves = s.shelves := rfl
@[simp] theorem pokeBytes_poolUp (s : State) (pa : Nat) (bs : List Byte) : (s.pokeBytes pa bs).poolUp = s.poolUp := rfl
@[simp] theorem pokeBytes_time (s : State) (pa : Nat) (bs : List Byte) : (s.pokeBytes pa bs).time = s.time := rfl
@[simp] theorem pokeBytes_undef (s : State) (pa : Nat) (bs : List Byte) : (s.pokeBytes pa bs).undef = s.undef := rfl
@[simp] theorem pokeBytes_inputs (s : State) (pa : Nat) (bs : List Byte) : (s.pokeBytes pa bs).inputs = s.inputs := rfl
@[simp] theorem pokeBytes_retired (s : State) (pa : Nat) (bs : List Byte) : (s.pokeBytes pa bs).retired = s.retired := rfl
@[simp] theorem pokeBytes_stopped (s : State) (pa : Nat) (bs : List Byte) : (s.pokeBytes pa bs).stopped = s.stopped := rfl

/-! ## State.markPoison -/

@[simp] theorem markPoison_x (s : State) (l : Nat) : (s.markPoison l).x = s.x := rfl
@[simp] theorem markPoison_st (s : State) (l : Nat) : (s.markPoison l).st = s.st := rfl
@[simp] theorem markPoison_parked (s : State) (l : Nat) : (s.markPoison l).parked = s.parked := rfl
@[simp] theorem markPoison_mem (s : State) (l : Nat) : (s.markPoison l).mem = s.mem := rfl
@[simp] theorem markPoison_lostRanges (s : State) (l : Nat) : (s.markPoison l).lostRanges = s.lostRanges := rfl
@[simp] theorem markPoison_rewritten (s : State) (l : Nat) : (s.markPoison l).rewritten = s.rewritten := rfl
@[simp] theorem markPoison_sram (s : State) (l : Nat) : (s.markPoison l).sram = s.sram := rfl
@[simp] theorem markPoison_tlb (s : State) (l : Nat) : (s.markPoison l).tlb = s.tlb := rfl
@[simp] theorem markPoison_classes (s : State) (l : Nat) : (s.markPoison l).classes = s.classes := rfl
@[simp] theorem markPoison_contention (s : State) (l : Nat) : (s.markPoison l).contention = s.contention := rfl
@[simp] theorem markPoison_lastFar (s : State) (l : Nat) : (s.markPoison l).lastFar = s.lastFar := rfl
@[simp] theorem markPoison_waiters (s : State) (l : Nat) : (s.markPoison l).waiters = s.waiters := rfl
@[simp] theorem markPoison_scatter (s : State) (l : Nat) : (s.markPoison l).scatter = s.scatter := rfl
@[simp] theorem markPoison_roCopies (s : State) (l : Nat) : (s.markPoison l).roCopies = s.roCopies := rfl
@[simp] theorem markPoison_cp (s : State) (l : Nat) : (s.markPoison l).cp = s.cp := rfl
@[simp] theorem markPoison_fab (s : State) (l : Nat) : (s.markPoison l).fab = s.fab := rfl
@[simp] theorem markPoison_clo (s : State) (l : Nat) : (s.markPoison l).clo = s.clo := rfl
@[simp] theorem markPoison_net (s : State) (l : Nat) : (s.markPoison l).net = s.net := rfl
@[simp] theorem markPoison_cache (s : State) (l : Nat) : (s.markPoison l).cache = s.cache := rfl
@[simp] theorem markPoison_eng (s : State) (l : Nat) : (s.markPoison l).eng = s.eng := rfl
@[simp] theorem markPoison_gwq (s : State) (l : Nat) : (s.markPoison l).gwq = s.gwq := rfl
@[simp] theorem markPoison_mbx (s : State) (l : Nat) : (s.markPoison l).mbx = s.mbx := rfl
@[simp] theorem markPoison_mg (s : State) (l : Nat) : (s.markPoison l).mg = s.mg := rfl
@[simp] theorem markPoison_boot (s : State) (l : Nat) : (s.markPoison l).boot = s.boot := rfl
@[simp] theorem markPoison_flash (s : State) (l : Nat) : (s.markPoison l).flash = s.flash := rfl
@[simp] theorem markPoison_shelves (s : State) (l : Nat) : (s.markPoison l).shelves = s.shelves := rfl
@[simp] theorem markPoison_poolUp (s : State) (l : Nat) : (s.markPoison l).poolUp = s.poolUp := rfl
@[simp] theorem markPoison_time (s : State) (l : Nat) : (s.markPoison l).time = s.time := rfl
@[simp] theorem markPoison_undef (s : State) (l : Nat) : (s.markPoison l).undef = s.undef := rfl
@[simp] theorem markPoison_inputs (s : State) (l : Nat) : (s.markPoison l).inputs = s.inputs := rfl
@[simp] theorem markPoison_retired (s : State) (l : Nat) : (s.markPoison l).retired = s.retired := rfl
@[simp] theorem markPoison_stopped (s : State) (l : Nat) : (s.markPoison l).stopped = s.stopped := rfl

/-! ## State.hostDone -/

@[simp] theorem hostDone_x (s : State) (pa n : Nat) : (s.hostDone pa n).x = s.x := rfl
@[simp] theorem hostDone_st (s : State) (pa n : Nat) : (s.hostDone pa n).st = s.st := rfl
@[simp] theorem hostDone_parked (s : State) (pa n : Nat) : (s.hostDone pa n).parked = s.parked := rfl
@[simp] theorem hostDone_mem (s : State) (pa n : Nat) : (s.hostDone pa n).mem = s.mem := rfl
@[simp] theorem hostDone_poison (s : State) (pa n : Nat) : (s.hostDone pa n).poison = s.poison := rfl
@[simp] theorem hostDone_lostRanges (s : State) (pa n : Nat) : (s.hostDone pa n).lostRanges = s.lostRanges := rfl
@[simp] theorem hostDone_rewritten (s : State) (pa n : Nat) : (s.hostDone pa n).rewritten = s.rewritten := rfl
@[simp] theorem hostDone_sram (s : State) (pa n : Nat) : (s.hostDone pa n).sram = s.sram := rfl
@[simp] theorem hostDone_tlb (s : State) (pa n : Nat) : (s.hostDone pa n).tlb = s.tlb := rfl
@[simp] theorem hostDone_classes (s : State) (pa n : Nat) : (s.hostDone pa n).classes = s.classes := rfl
@[simp] theorem hostDone_contention (s : State) (pa n : Nat) : (s.hostDone pa n).contention = s.contention := rfl
@[simp] theorem hostDone_lastFar (s : State) (pa n : Nat) : (s.hostDone pa n).lastFar = s.lastFar := rfl
@[simp] theorem hostDone_waiters (s : State) (pa n : Nat) : (s.hostDone pa n).waiters = s.waiters := rfl
@[simp] theorem hostDone_scatter (s : State) (pa n : Nat) : (s.hostDone pa n).scatter = s.scatter := rfl
@[simp] theorem hostDone_roCopies (s : State) (pa n : Nat) : (s.hostDone pa n).roCopies = s.roCopies := rfl
@[simp] theorem hostDone_cp (s : State) (pa n : Nat) : (s.hostDone pa n).cp = s.cp := rfl
@[simp] theorem hostDone_fab (s : State) (pa n : Nat) : (s.hostDone pa n).fab = s.fab := rfl
@[simp] theorem hostDone_clo (s : State) (pa n : Nat) : (s.hostDone pa n).clo = s.clo := rfl
@[simp] theorem hostDone_net (s : State) (pa n : Nat) : (s.hostDone pa n).net = s.net := rfl
@[simp] theorem hostDone_eng (s : State) (pa n : Nat) : (s.hostDone pa n).eng = s.eng := rfl
@[simp] theorem hostDone_gwq (s : State) (pa n : Nat) : (s.hostDone pa n).gwq = s.gwq := rfl
@[simp] theorem hostDone_mbx (s : State) (pa n : Nat) : (s.hostDone pa n).mbx = s.mbx := rfl
@[simp] theorem hostDone_mg (s : State) (pa n : Nat) : (s.hostDone pa n).mg = s.mg := rfl
@[simp] theorem hostDone_boot (s : State) (pa n : Nat) : (s.hostDone pa n).boot = s.boot := rfl
@[simp] theorem hostDone_flash (s : State) (pa n : Nat) : (s.hostDone pa n).flash = s.flash := rfl
@[simp] theorem hostDone_shelves (s : State) (pa n : Nat) : (s.hostDone pa n).shelves = s.shelves := rfl
@[simp] theorem hostDone_poolUp (s : State) (pa n : Nat) : (s.hostDone pa n).poolUp = s.poolUp := rfl
@[simp] theorem hostDone_time (s : State) (pa n : Nat) : (s.hostDone pa n).time = s.time := rfl
@[simp] theorem hostDone_undef (s : State) (pa n : Nat) : (s.hostDone pa n).undef = s.undef := rfl
@[simp] theorem hostDone_inputs (s : State) (pa n : Nat) : (s.hostDone pa n).inputs = s.inputs := rfl
@[simp] theorem hostDone_retired (s : State) (pa n : Nat) : (s.hostDone pa n).retired = s.retired := rfl
@[simp] theorem hostDone_stopped (s : State) (pa n : Nat) : (s.hostDone pa n).stopped = s.stopped := rfl

@[simp] theorem goto_retired (s : State) (pc : BitVec 54) : (s.goto pc).retired = true := rfl
@[simp] theorem goto_x_pc (s : State) (pc : BitVec 54) : (s.goto pc).x.pc = pc := rfl
@[simp] theorem goto_x_replies (s : State) (pc : BitVec 54) : (s.goto pc).x.replies = [] := rfl
@[simp] theorem goto_x_pipe (s : State) (pc : BitVec 54) : (s.goto pc).x.pipe = none := rfl
@[simp] theorem advance_retired (s : State) : s.advance.retired = true := rfl
@[simp] theorem advance_x_pc (s : State) : s.advance.x.pc = s.x.pc + 4 := rfl
@[simp] theorem vbegZero_x_vbeg (s : State) : s.vbegZero.x.vbeg = 0 := rfl
@[simp] theorem setTrap_st_trap (s : State) (k : TrapRegs) : (s.setTrap k).st.trap = k := rfl

/-! ## State.setS -/

@[simp] theorem setS_st (s : State) (r : BitVec 5) (v : Word) : (s.setS r v).st = s.st := by
  unfold State.setS; split <;> rfl
@[simp] theorem setS_parked (s : State) (r : BitVec 5) (v : Word) : (s.setS r v).parked = s.parked := by
  unfold State.setS; split <;> rfl
@[simp] theorem setS_mem (s : State) (r : BitVec 5) (v : Word) : (s.setS r v).mem = s.mem := by
  unfold State.setS; split <;> rfl
@[simp] theorem setS_poison (s : State) (r : BitVec 5) (v : Word) : (s.setS r v).poison = s.poison := by
  unfold State.setS; split <;> rfl
@[simp] theorem setS_lostRanges (s : State) (r : BitVec 5) (v : Word) : (s.setS r v).lostRanges = s.lostRanges := by
  unfold State.setS; split <;> rfl
@[simp] theorem setS_rewritten (s : State) (r : BitVec 5) (v : Word) : (s.setS r v).rewritten = s.rewritten := by
  unfold State.setS; split <;> rfl
@[simp] theorem setS_sram (s : State) (r : BitVec 5) (v : Word) : (s.setS r v).sram = s.sram := by
  unfold State.setS; split <;> rfl
@[simp] theorem setS_tlb (s : State) (r : BitVec 5) (v : Word) : (s.setS r v).tlb = s.tlb := by
  unfold State.setS; split <;> rfl
@[simp] theorem setS_classes (s : State) (r : BitVec 5) (v : Word) : (s.setS r v).classes = s.classes := by
  unfold State.setS; split <;> rfl
@[simp] theorem setS_contention (s : State) (r : BitVec 5) (v : Word) : (s.setS r v).contention = s.contention := by
  unfold State.setS; split <;> rfl
@[simp] theorem setS_lastFar (s : State) (r : BitVec 5) (v : Word) : (s.setS r v).lastFar = s.lastFar := by
  unfold State.setS; split <;> rfl
@[simp] theorem setS_waiters (s : State) (r : BitVec 5) (v : Word) : (s.setS r v).waiters = s.waiters := by
  unfold State.setS; split <;> rfl
@[simp] theorem setS_scatter (s : State) (r : BitVec 5) (v : Word) : (s.setS r v).scatter = s.scatter := by
  unfold State.setS; split <;> rfl
@[simp] theorem setS_roCopies (s : State) (r : BitVec 5) (v : Word) : (s.setS r v).roCopies = s.roCopies := by
  unfold State.setS; split <;> rfl
@[simp] theorem setS_cp (s : State) (r : BitVec 5) (v : Word) : (s.setS r v).cp = s.cp := by
  unfold State.setS; split <;> rfl
@[simp] theorem setS_fab (s : State) (r : BitVec 5) (v : Word) : (s.setS r v).fab = s.fab := by
  unfold State.setS; split <;> rfl
@[simp] theorem setS_clo (s : State) (r : BitVec 5) (v : Word) : (s.setS r v).clo = s.clo := by
  unfold State.setS; split <;> rfl
@[simp] theorem setS_net (s : State) (r : BitVec 5) (v : Word) : (s.setS r v).net = s.net := by
  unfold State.setS; split <;> rfl
@[simp] theorem setS_cache (s : State) (r : BitVec 5) (v : Word) : (s.setS r v).cache = s.cache := by
  unfold State.setS; split <;> rfl
@[simp] theorem setS_eng (s : State) (r : BitVec 5) (v : Word) : (s.setS r v).eng = s.eng := by
  unfold State.setS; split <;> rfl
@[simp] theorem setS_gwq (s : State) (r : BitVec 5) (v : Word) : (s.setS r v).gwq = s.gwq := by
  unfold State.setS; split <;> rfl
@[simp] theorem setS_mbx (s : State) (r : BitVec 5) (v : Word) : (s.setS r v).mbx = s.mbx := by
  unfold State.setS; split <;> rfl
@[simp] theorem setS_mg (s : State) (r : BitVec 5) (v : Word) : (s.setS r v).mg = s.mg := by
  unfold State.setS; split <;> rfl
@[simp] theorem setS_boot (s : State) (r : BitVec 5) (v : Word) : (s.setS r v).boot = s.boot := by
  unfold State.setS; split <;> rfl
@[simp] theorem setS_flash (s : State) (r : BitVec 5) (v : Word) : (s.setS r v).flash = s.flash := by
  unfold State.setS; split <;> rfl
@[simp] theorem setS_shelves (s : State) (r : BitVec 5) (v : Word) : (s.setS r v).shelves = s.shelves := by
  unfold State.setS; split <;> rfl
@[simp] theorem setS_poolUp (s : State) (r : BitVec 5) (v : Word) : (s.setS r v).poolUp = s.poolUp := by
  unfold State.setS; split <;> rfl
@[simp] theorem setS_time (s : State) (r : BitVec 5) (v : Word) : (s.setS r v).time = s.time := by
  unfold State.setS; split <;> rfl
@[simp] theorem setS_undef (s : State) (r : BitVec 5) (v : Word) : (s.setS r v).undef = s.undef := by
  unfold State.setS; split <;> rfl
@[simp] theorem setS_inputs (s : State) (r : BitVec 5) (v : Word) : (s.setS r v).inputs = s.inputs := by
  unfold State.setS; split <;> rfl
@[simp] theorem setS_retired (s : State) (r : BitVec 5) (v : Word) : (s.setS r v).retired = s.retired := by
  unfold State.setS; split <;> rfl
@[simp] theorem setS_stopped (s : State) (r : BitVec 5) (v : Word) : (s.setS r v).stopped = s.stopped := by
  unfold State.setS; split <;> rfl
@[simp] theorem setS_x_phase (s : State) (r : BitVec 5) (v : Word) : (s.setS r v).x.phase = s.x.phase := by
  unfold State.setS; split <;> rfl
@[simp] theorem setS_x_pc (s : State) (r : BitVec 5) (v : Word) : (s.setS r v).x.pc = s.x.pc := by
  unfold State.setS; split <;> rfl
@[simp] theorem setS_x_vreg (s : State) (r : BitVec 5) (v : Word) : (s.setS r v).x.vreg = s.x.vreg := by
  unfold State.setS; split <;> rfl
@[simp] theorem setS_x_kreg (s : State) (r : BitVec 5) (v : Word) : (s.setS r v).x.kreg = s.x.kreg := by
  unfold State.setS; split <;> rfl
@[simp] theorem setS_x_vl (s : State) (r : BitVec 5) (v : Word) : (s.setS r v).x.vl = s.x.vl := by
  unfold State.setS; split <;> rfl
@[simp] theorem setS_x_vtype (s : State) (r : BitVec 5) (v : Word) : (s.setS r v).x.vtype = s.x.vtype := by
  unfold State.setS; split <;> rfl
@[simp] theorem setS_x_vbeg (s : State) (r : BitVec 5) (v : Word) : (s.setS r v).x.vbeg = s.x.vbeg := by
  unfold State.setS; split <;> rfl
@[simp] theorem setS_x_rngkey (s : State) (r : BitVec 5) (v : Word) : (s.setS r v).x.rngkey = s.x.rngkey := by
  unfold State.setS; split <;> rfl
@[simp] theorem setS_x_rngctr (s : State) (r : BitVec 5) (v : Word) : (s.setS r v).x.rngctr = s.x.rngctr := by
  unfold State.setS; split <;> rfl
@[simp] theorem setS_x_cnum (s : State) (r : BitVec 5) (v : Word) : (s.setS r v).x.cnum = s.x.cnum := by
  unfold State.setS; split <;> rfl
@[simp] theorem setS_x_citer (s : State) (r : BitVec 5) (v : Word) : (s.setS r v).x.citer = s.x.citer := by
  unfold State.setS; split <;> rfl
@[simp] theorem setS_x_pos (s : State) (r : BitVec 5) (v : Word) : (s.setS r v).x.pos = s.x.pos := by
  unfold State.setS; split <;> rfl
@[simp] theorem setS_x_inline (s : State) (r : BitVec 5) (v : Word) : (s.setS r v).x.inline = s.x.inline := by
  unfold State.setS; split <;> rfl
@[simp] theorem setS_x_joinDue (s : State) (r : BitVec 5) (v : Word) : (s.setS r v).x.joinDue = s.x.joinDue := by
  unfold State.setS; split <;> rfl
@[simp] theorem setS_x_broke (s : State) (r : BitVec 5) (v : Word) : (s.setS r v).x.broke = s.x.broke := by
  unfold State.setS; split <;> rfl
@[simp] theorem setS_x_claim (s : State) (r : BitVec 5) (v : Word) : (s.setS r v).x.claim = s.x.claim := by
  unfold State.setS; split <;> rfl
@[simp] theorem setS_x_dirty (s : State) (r : BitVec 5) (v : Word) : (s.setS r v).x.dirty = s.x.dirty := by
  unfold State.setS; split <;> rfl
@[simp] theorem setS_x_shape (s : State) (r : BitVec 5) (v : Word) : (s.setS r v).x.shape = s.x.shape := by
  unfold State.setS; split <;> rfl
@[simp] theorem setS_x_acc (s : State) (r : BitVec 5) (v : Word) : (s.setS r v).x.acc = s.x.acc := by
  unfold State.setS; split <;> rfl
@[simp] theorem setS_x_slot (s : State) (r : BitVec 5) (v : Word) : (s.setS r v).x.slot = s.x.slot := by
  unfold State.setS; split <;> rfl
@[simp] theorem setS_x_accPoison (s : State) (r : BitVec 5) (v : Word) : (s.setS r v).x.accPoison = s.x.accPoison := by
  unfold State.setS; split <;> rfl
@[simp] theorem setS_x_slotPoison (s : State) (r : BitVec 5) (v : Word) : (s.setS r v).x.slotPoison = s.x.slotPoison := by
  unfold State.setS; split <;> rfl
@[simp] theorem setS_x_vers (s : State) (r : BitVec 5) (v : Word) : (s.setS r v).x.vers = s.x.vers := by
  unfold State.setS; split <;> rfl
@[simp] theorem setS_x_poisonLines (s : State) (r : BitVec 5) (v : Word) : (s.setS r v).x.poisonLines = s.x.poisonLines := by
  unfold State.setS; split <;> rfl
@[simp] theorem setS_x_cleanLines (s : State) (r : BitVec 5) (v : Word) : (s.setS r v).x.cleanLines = s.x.cleanLines := by
  unfold State.setS; split <;> rfl
@[simp] theorem setS_x_partials (s : State) (r : BitVec 5) (v : Word) : (s.setS r v).x.partials = s.x.partials := by
  unfold State.setS; split <;> rfl
@[simp] theorem setS_x_held (s : State) (r : BitVec 5) (v : Word) : (s.setS r v).x.held = s.x.held := by
  unfold State.setS; split <;> rfl
@[simp] theorem setS_x_starts (s : State) (r : BitVec 5) (v : Word) : (s.setS r v).x.starts = s.x.starts := by
  unfold State.setS; split <;> rfl
@[simp] theorem setS_x_confirmed (s : State) (r : BitVec 5) (v : Word) : (s.setS r v).x.confirmed = s.x.confirmed := by
  unfold State.setS; split <;> rfl
@[simp] theorem setS_x_posts (s : State) (r : BitVec 5) (v : Word) : (s.setS r v).x.posts = s.x.posts := by
  unfold State.setS; split <;> rfl
@[simp] theorem setS_x_seen (s : State) (r : BitVec 5) (v : Word) : (s.setS r v).x.seen = s.x.seen := by
  unfold State.setS; split <;> rfl
@[simp] theorem setS_x_sprio (s : State) (r : BitVec 5) (v : Word) : (s.setS r v).x.sprio = s.x.sprio := by
  unfold State.setS; split <;> rfl
@[simp] theorem setS_x_seq (s : State) (r : BitVec 5) (v : Word) : (s.setS r v).x.seq = s.x.seq := by
  unfold State.setS; split <;> rfl
@[simp] theorem setS_x_replies (s : State) (r : BitVec 5) (v : Word) : (s.setS r v).x.replies = s.x.replies := by
  unfold State.setS; split <;> rfl
@[simp] theorem setS_x_pipe (s : State) (r : BitVec 5) (v : Word) : (s.setS r v).x.pipe = s.x.pipe := by
  unfold State.setS; split <;> rfl
@[simp] theorem setS_x_owed (s : State) (r : BitVec 5) (v : Word) : (s.setS r v).x.owed = s.x.owed := by
  unfold State.setS; split <;> rfl

end Sys2Proof.Machine
end

