-- ==== Sys2Proof/Tests/Slice0.lean ====
section
/-! SUPPORT. Tests: ill-formed terms, words of spec/ decoded, small steps, and for each statement with hypotheses states that meet
them (`wit_<statement>`), clause by clause. -/

namespace Sys2Proof.Tests
open Sys2Proof Sys2Proof.Machine

set_option Elab.async false

/-! ## The small states of the tests -/

/-- A strand at user level on ring core 0 of die 0, in a page at 0x1000000 that its translation buffer holds, with a handler. -/
def wUser : State :=
  let s := State.reset.withStrand
  { s with
    time := 77
    tlb := [{ master := 0, asid := 0, vpage := 0x100, large := false, entry := 0x18DF }]
    st := { s.st with trap := { s.st.trap with tvec := 0x1008000, tscratch := 9 } } }

/-- The same strand at another level. -/
def atLvl (s : State) (l : Nat) : State :=
  { s with st := { s.st with trap := { s.st.trap with
    status := BitVec.ofNat 64 (s.st.trap.status.toNat / 4 * 4 + l) } } }

def wSup : State := atLvl wUser 1

/-- A page of the strand at 0x1000000 read and written by its translation buffer. -/
def page (a : Nat) : Xl := { pa := a, vc := 1, kind := 0 }

theorem plain_of {s : State} {k : Acc} {va : Word} {n : Nat} {x : Xl} (m : s.hits k va.toNat x = true)
    (h : s.memWf = true ∧ s.st.place.master? ≠ none ∧ (s.st.fork = none ∧ s.st.active = false) ∧
      (va.toNat < 2 ^ 54 ∧ va.toNat % n = 0) ∧ x.kind ≠ 1 ∧
      (s.poisoned x.pa = false ∧ ∀ l ∈ linesOf x.pa n, s.poisonedFor (l * 64) = false) ∧
      (s.inDoubt x.pa n = false ∧ s.hostLines (k != .read) x.pa n = [] ∧ s.hostWaits x.pa n = false) ∧
      (s.windowOpen x.vc x.pa n = true ∧ s.lostRead x.vc x.pa n = false) ∧ s.keptXl va.toNat = none) : s.Plain k va n x :=
  ⟨h.1, h.2.1, h.2.2.1, h.2.2.2.1, ⟨h.2.2.2.2.2.2.2.2, xlate_of_hits s _ k _ x m⟩, h.2.2.2.2.1, h.2.2.2.2.2.1, h.2.2.2.2.2.2.1, h.2.2.2.2.2.2.2.1⟩

theorem local_of {s : State} {k : Acc} {va : Word} {n : Nat} {x : Xl} (m : s.hits k va.toNat x = true)
    (h : s.memWf = true ∧ va.toNat < 2 ^ 54 ∧ x.kind ≠ 1 ∧
      (s.poisoned x.pa = false ∧ ∀ l ∈ linesOf x.pa n, s.poisonedFor (l * 64) = false) ∧
      (s.inDoubt x.pa n = false ∧ s.hostLines (k != .read) x.pa n = [] ∧ s.hostWaits x.pa n = false) ∧
      ((∀ l ∈ linesOf x.pa n, s.uncached x.vc (l * 64) = false) ∧ s.policy x.vc ≠ 3)) : s.Local k va n x :=
  ⟨h.1, h.2.1, xlate_of_hits s _ k _ x m, h.2.2.1, h.2.2.2.1, h.2.2.2.2.1, h.2.2.2.2.2⟩

/-- The state after a step that goes on. -/
def after (r : Host.Outcome State Fault Refusal) : State := match r with | .next t => t | _ => State.reset

/-- The head of a fork of n iterations, whose descriptor lies in s12 and s13. -/
def forked (s : State) (n : Nat) (even odd : Word) : State :=
  after (exec (.fork 10 12) (((s.setS 10 (BitVec.ofNat 64 n)).setS 12 even).setS 13 odd))

/-- A fork of 9 iterations in chunks of 2, s4 to s6 live and s4 and s5 predicted: the head runs, two speculative chunks have
received their snapshots and started. -/
def begun (l : Nat) : State :=
  after (execChunkStart (after (execChunkStart (after (execSnapshotArrival 2 (after (execSnapshotArrival 1
    (forked (atLvl wUser l) 9 0x0000000700000002 0x0000003000000070))))))))

/-- The same with the speculative chunk 1 in the focus. -/
def wSpec (l : Nat) : State :=
  let s := begun l
  match s.st.fork with
  | some f => match f.chunks with
    | c :: r => { s with x := { c with await := 0 }, st := { s.st with fork := some { f with chunks := s.x :: r } } }
    | [] => s
  | none => s

/-- There is a value, and it meets p. -/
def meets {α : Type} (o : Option α) (p : α → Prop) [DecidablePred p] : Bool := match o with | some f => decide (p f) | none => false

theorem some_of {α : Type} {o : Option α} {p : α → Prop} [DecidablePred p] (h : meets o p = true) : ∃ f, o = some f ∧ p f := by
  unfold meets at h
  split at h
  · next f => exact ⟨f, rfl, of_decide_eq_true h⟩
  · cases h

def forkMeets (s : State) (p : Fork → Prop) [DecidablePred p] : Bool := meets s.st.fork p

/-- s with its fork changed. -/
def forkWith (s : State) (g : Fork → Fork) : State := { s with st := { s.st with fork := s.st.fork.map g } }

/-- The fabric is enabled, and the page at 0x1010000 leads to window 2 of package 3. -/
def onFabricPage : State :=
  let t : TlbEntry := { master := 0, asid := 0, vpage := 0x101, large := false, entry := 0x80300AD7 }
  { wUser with tlb := wUser.tlb ++ [t], fab := { wUser.fab with fxep := 0x10005 } }

/-! ## Witnesses: scalar instructions and status registers -/

theorem wit_ScalarLogicAndShift : wUser.st.place ≠ .saved ∧ State.reset.st.place ≠ .saved := by decide +kernel

theorem wit_CallAndJump :
    ((wUser.setS 4 0x3FFFFFFFFFFFFC).getS 4).toNat % 4 = 0 ∧ ((wUser.setS 4 0x3FFFFFFFFFFFFC).getS 4).toNat < 2 ^ 54 ∧
    ¬ (((wUser.setS 4 0x40000000000000).getS 4).toNat % 4 = 0 ∧ ((wUser.setS 4 0x40000000000000).getS 4).toNat < 2 ^ 54) ∧
    ¬ (((wUser.setS 4 2).getS 4).toNat % 4 = 0) := by decide +kernel

theorem wit_StatusRead : wUser.lvl = 0 ∧ (1 ≤ wSup.lvl ∧ wSup.st.place ≠ .saved) ∧
    State.reset.lvl = 3 ∧ State.reset.st.place ≠ .saved := by decide +kernel

theorem wit_StatusWrite : (1 ≤ wSup.lvl ∧ wSup.spec = false ∧ wSup.st.place ≠ .saved) ∧
    State.reset.lvl = 3 ∧ State.reset.spec = false := by decide +kernel

theorem wit_StatusRegisterFields : wSup.st.place.master? ≠ none ∧ 1 ≤ wSup.lvl ∧ wSup.spec = false := by decide +kernel

theorem wit_TrapInstructionsEnterHandler :
    wUser.st.place.master? ≠ none ∧ wUser.spec = false ∧ bit wUser.st.trap.status 5 = false := by decide +kernel

theorem wit_StatusAccessChecks : wUser.st.place ≠ .saved ∧ wUser.lvl = 0 ∧ State.reset.lvl = 3 ∧ wSup.lvl ≠ 3 := by
  decide +kernel

theorem wit_TrapsHeldAndDouble :
    (wSpec 0).st.place ≠ .saved ∧ (wSpec 0).spec = true ∧
    (let s : State := { wUser with st := { wUser.st with trap := { wUser.st.trap with status := 0x20 } } }
     s.spec = false ∧ bit s.st.trap.status 5 = true ∧ s.st.place ≠ .saved) := by decide +kernel

/-- In a handler at supervisor level, with this tpc. -/
def inHandler (tpc : Word) : State :=
  { wUser with st := { wUser.st with trap := { wUser.st.trap with status := 0xA1, tpc := tpc } } }

theorem wit_TrapReturn :
    (let s := inHandler 0x1000008
     s.st.place.master? ≠ none ∧ 1 ≤ s.lvl ∧ s.spec = false ∧ bit s.st.trap.status 5 = true ∧ s.st.trap.tpc.toNat % 4 = 0 ∧
       s.st.trap.tpc.toNat < 2 ^ 54) ∧
    wUser.lvl = 0 ∧ wUser.st.place.master? ≠ none ∧
    (1 ≤ wSup.lvl ∧ bit wSup.st.trap.status 5 = false) ∧ (1 ≤ (wSpec 1).lvl ∧ (wSpec 1).spec = true) ∧
    (let s := inHandler 2
     1 ≤ s.lvl ∧ s.spec = false ∧ bit s.st.trap.status 5 = true ∧ ¬ (s.st.trap.tpc.toNat % 4 = 0)) := by decide +kernel

theorem wit_HaltAndIdle :
    (wUser.st.place.master? ≠ none ∧ wUser.lvl < 3) ∧ (State.reset.st.place = .management ∧ State.reset.lvl = 3) ∧
    (wSup.st.place ≠ .saved ∧ 1 ≤ wSup.lvl ∧ wSup.spec = false ∧ wSup.st.inbox = [] ∧ bit wSup.st.trap.status 11 = false ∧
      wSup.st.phase = .running) ∧
    (let s : State := { wSup with st := { wSup.st with trap := { wSup.st.trap with status := 0x801 } } }
     1 ≤ s.lvl ∧ s.spec = false ∧ bit s.st.trap.status 11 = true) ∧
    (let s : State := { wSup with st := { wSup.st with phase := .stopping 3 true } }
     1 ≤ s.lvl ∧ s.spec = false ∧ s.st.phase = .stopping 3 true) := by decide +kernel

/-! ## Witnesses: scalar memory, atomics, fences and barriers -/

/-- s4 holds the address of the page at 0x1000100, of which some bytes are set; stores wait in both buffers. -/
def wMem : State :=
  let s := (wUser.setS 4 0x1000100).setS 5 0x80000000000000FF
  { s with
    mem := [(0x100, 5), (0x104, 9)]
    st := { s.st with
      sbuf := [{ pa := 0x104, data := [1, 2, 3, 4], vcache := 1, seq := 1 }], vbuf := [{ pa := 0x102, data := [7], vcache := 1 }]
      stores := 2 } }

/-- The wait is over. -/
def isOk (r : Run Unit) : Bool := match r with | .ok _ => true | .error _ => false

theorem ok_of {r : Run Unit} (h : isOk r = true) : r = .ok () := by
  cases r with
  | ok u => cases u; rfl
  | error e => cases h

theorem wMem_apart : wMem.Apart ∧ wMem.Parted := by
  unfold State.Apart State.Parted
  decide +kernel

theorem wit_ScalarLoad :
    (wMem.Plain .read (wMem.getS 4 + (4 : BitVec 13).signExtend 64) 4 (page 0x104) ∧
      wMem.Plain .read (wMem.getS 4 + (0x1FFC : BitVec 13).signExtend 64) 4 (page 0xFC) ∧
      wMem.Plain .read (wMem.getS 4) 8 (page 0x100)) ∧ wMem.policy 1 ≠ 3 :=
  ⟨⟨plain_of (by decide +kernel) (by decide +kernel), plain_of (by decide +kernel) (by decide +kernel), plain_of (by decide +kernel) (by decide +kernel)⟩,
   by decide +kernel⟩

theorem wit_ScalarStore : wMem.Plain .write (wMem.getS 4 + (8 : BitVec 13).signExtend 64) 8 (page 0x108) ∧ wMem.Apart :=
  ⟨plain_of (by decide +kernel) (by decide +kernel), wMem_apart.1⟩

theorem wit_DrainPerformsBufferedStores :
    wMem.memWf = true ∧ (∀ e ∈ wMem.st.sbuf ++ wMem.st.vbuf, e.joined = false) ∧ (∀ c ∈ wMem.scatter, c.owner ≠ wMem.st.id) ∧
    ((wMem.st.sbuf ++ wMem.st.vbuf).map (·.seq)).Nodup ∧ (wMem.st.sbuf.map (·.seq)).Pairwise (· < ·) ∧
    (wMem.st.vbuf.map (·.seq)).Pairwise (· < ·) := by decide +kernel

theorem wit_StoreRelease :
    (wMem.noneHeld = true ∧ (wMem.drainAll.flushScatter wMem.st.id).sysWait = .ok ()) ∧
    wMem.joinAll.Plain .write (wMem.joinAll.getS 4) 8 (page 0x100) ∧
    (wMem.drainAll.flushScatter wMem.st.id).Plain .write ((wMem.drainAll.flushScatter wMem.st.id).getS 4) 8 (page 0x100) :=
  ⟨⟨by decide +kernel, ok_of (by decide +kernel)⟩, plain_of (by decide +kernel) (by decide +kernel), plain_of (by decide +kernel) (by decide +kernel)⟩

theorem wit_ScalarAddressChecks :
    (let s := wUser.setS 4 0x40000000000000
     s.st.place ≠ .saved ∧ s.spec = false ∧ 2 ^ 54 ≤ (s.getS 4 + (0 : BitVec 13).signExtend 64).toNat ∧ 2 ^ 54 ≤ (s.getS 4).toNat ∧
     2 ^ 54 ≤ (State.getS wUser 0 + (0x1FFF : BitVec 13).signExtend 64).toNat) ∧
    (let s := wUser.setS 4 0x3FFFFFFFFFFFFC
     (s.getS 4).toNat < 2 ^ 54 ∧ (s.getS 4).toNat % 2 ^ (7 % 4) ≠ 0 ∧ (s.getS 4).toNat % 8 ≠ 0) ∧
    (let s := wUser.setS 4 0x1000101
     (s.getS 4).toNat < 2 ^ 54 ∧ (s.getS 4).toNat % 4 ≠ 0) ∧
    (let s : State := { (wSpec 0).setS 4 0x1010001 with tlb := onFabricPage.tlb }
     s.st.place ≠ .saved ∧ s.spec = true ∧ s.fabricPage s.space (s.getS 4).toNat = true) ∧
    (let s : State := (wSpec 0).setS 4 0x1000001
     s.spec = true ∧ s.fabricPage s.space (s.getS 4).toNat = false) := by decide +kernel

/-- The head of a fork with a merge region of 16 bytes at 0x1000108. -/
def merging : State :=
  let s := begun 0
  { s.setS 4 0x1000110 with st := { s.st with regions := vset s.st.regions 0 (some { base := 0x1000108, len := 16, op := 0, fmt := 9 }) } }

theorem wit_MergeRegionBarsPlainAccess :
    merging.st.place ≠ .saved ∧ merging.st.active = true ∧ merging.spec = false ∧
    vget merging.st.regions none 0 = some { base := 0x1000108, len := 16, op := 0, fmt := 9 } ∧
    (let ea := merging.getS 4 + (0 : BitVec 13).signExtend 64
     ea.toNat < 2 ^ 54 ∧ ea.toNat % 8 = 0 ∧ ea.toNat < 0x1000108 + 16 ∧ 0x1000108 < ea.toNat + 8) ∧
    (let ea := merging.getS 4 + (0x1FF8 : BitVec 13).signExtend 64
     ea.toNat % 8 = 0 ∧ 0x1000108 < ea.toNat + 8) := by decide +kernel

/-- A step at the bank of an address. -/
theorem steps_of {s : State} {x : Xl} {n : Nat} (h : s.bankOpen x.vc x.pa n = true ∧ s.lostStep x.vc x.pa n = false) : s.Steps x n := h

theorem wit_ScalarAtomic : wMem.Plain .both (wMem.getS 4) 8 (page 0x100) ∧ wMem.Apart ∧
    (wMem.runsFar 2 (page 0x100) = true ∧ wMem.Steps (page 0x100) 8) ∧ wMem.runsFar 1 (page 0x100) = false :=
  ⟨plain_of (by decide +kernel) (by decide +kernel), wMem_apart.1, ⟨by decide +kernel, steps_of (by decide +kernel)⟩, by decide +kernel⟩

theorem wit_FloatAtomic : (wMem.setS 4 0x1000104).Plain .both ((wMem.setS 4 0x1000104).getS 4) 4 (page 0x104) ∧
    (wMem.setS 4 0x1000104).Steps (page 0x104) 4 :=
  ⟨plain_of (by decide +kernel) (by decide +kernel), steps_of (by decide +kernel)⟩

theorem wit_Fences : (wMem.st.place.master? ≠ none ∧ wMem.spec = false ∧ wMem.noneHeld = true) ∧ (wSpec 0).spec = true := by
  decide +kernel

theorem wit_SequentialFence :
    (let u := wMem.drainAll.flushScatter wMem.st.id
     wMem.st.place.master? ≠ none ∧ wMem.spec = false ∧ wMem.noneHeld = true ∧
     u.fab.reqs.any (fun q => q.owner == u.st.id && q.kind == .write) = false ∧ u.st.failedStores = [] ∧ u.x.replies = [] ∧
     u.sendBarriers.barriersDone = false) ∧
    (let s : State := { wMem with x := { wMem.x with replies := [.waiting 3] } }
     let u := s.drainAll.flushScatter s.st.id
     u.x.replies ≠ [] ∧ u.barriersDone = true) ∧
    (let s : State := { wMem with net := { wMem.net with retired := (List.range 13).map (fun d => (d, [])) } }
     let u := s.drainAll.flushScatter s.st.id
     u.x.replies = [] ∧ u.sendBarriers.barriersDone = true) := by decide +kernel

/-- A store to another package has not been acknowledged. -/
def storing : State :=
  { wMem with fab := { wMem.fab with reqs :=
    [{ id := 3, kind := .write, owner := wMem.st.id, va := 0x2000000, ep := 3, window := 2, off := 0, slot := none, sentAt := 5 }] } }

/-- One has failed. -/
def storeFailed : State := { wMem with st := { wMem.st with failedStores := [0x2000000, 0x2000040] } }

theorem wit_SystemFenceWaits :
    (let u := storing.drainAll.flushScatter storing.st.id
     storing.st.place.master? ≠ none ∧ storing.spec = false ∧ storing.noneHeld = true ∧
     u.fab.reqs.any (fun q => q.owner == u.st.id && q.kind == .write) = true) ∧
    (let u := storeFailed.drainAll.flushScatter storeFailed.st.id
     storeFailed.st.place.master? ≠ none ∧ storeFailed.spec = false ∧ storeFailed.noneHeld = true ∧
     u.fab.reqs.any (fun q => q.owner == u.st.id && q.kind == .write) = false ∧ u.st.failedStores = [0x2000000, 0x2000040]) ∧
    (let u := wMem.drainAll.flushScatter wMem.st.id
     u.fab.reqs.any (fun q => q.owner == u.st.id && q.kind == .write) = false ∧ u.st.failedStores = []) := by decide +kernel

theorem wit_LoadAcquire :
    (wMem.fab.reqs.any (fun q => q.owner == wMem.st.id && q.kind == .write) = false ∧ wMem.st.failedStores = [] ∧
      wMem.policy 1 ≠ 3) ∧ wMem.Plain .read (wMem.getS 4) 8 (page 0x100) ∧
    (let u := wMem.drainAll.flushScatter wMem.st.id
     u.fab.reqs.any (fun q => q.owner == u.st.id && q.kind == .write) = false ∧ u.st.failedStores = [] ∧ u.policy 1 ≠ 3) ∧
    (wMem.drainAll.flushScatter wMem.st.id).Plain .read ((wMem.drainAll.flushScatter wMem.st.id).getS 4) 4 (page 0x100) :=
  ⟨by decide +kernel, plain_of (by decide +kernel) (by decide +kernel), by decide +kernel, plain_of (by decide +kernel) (by decide +kernel)⟩

/-- A barrier record at 0x100 of three expected arrivals, with so many made, of this phase, valid or not; s5 holds `v`. -/
def barrier (arrived phase : Byte) (valid : Bool) (v : Word) : State :=
  let s := (wUser.setS 4 0x1000100).setS 5 v
  { s with mem := [(0x100, 3), (0x104, arrived), (0x108, phase)] ++ (if valid then [(0x10C, 1)] else []) }

theorem wit_BarrierInit :
    (let n := fun v : Word => ((barrier 1 7 true v).getS 5).toNat
     (0 < n 1 ∧ n 1 < 2 ^ 32) ∧ (0 < n 0xFFFFFFFF ∧ n 0xFFFFFFFF < 2 ^ 32) ∧ ¬ (0 < n 0 ∧ n 0 < 2 ^ 32) ∧
     ¬ (0 < n 0x100000000 ∧ n 0x100000000 < 2 ^ 32)) ∧
    ((page 0x100).kind = 0 ∧ (barrier 1 7 true 0).st.place.master? ≠ none ∧ (barrier 1 7 true 1).st.vbuf = []) ∧
    (barrier 1 7 true 1).Plain .both ((barrier 1 7 true 1).getS 4) 64 (page 0x100) ∧
    (barrier 1 7 true 1).Steps (page 0x100) 64 :=
  ⟨by decide +kernel, by decide +kernel, plain_of (by decide +kernel) (by decide +kernel), steps_of (by decide +kernel)⟩

theorem wit_BarrierArrival :
    (∀ scope ∈ [(0 : BitVec 3), 1, 2, 3, 4],
      let s := barrier 1 7 true 0
      let u := s.atArrival (page 0x100) scope
      s.noneHeld = true ∧ s.st.wait = none ∧ u.recInvalid 0x100 = false ∧
      (u.recField 0x100 4 + 1) % 2 ^ 32 < u.recField 0x100 0) ∧
    ((barrier 1 7 true 0).atRecord (page 0x100)).release.sysWait = .ok () ∧
    (barrier 1 7 true 0).Plain .both ((barrier 1 7 true 0).getS 4) 64 (page 0x100) ∧
    (barrier 1 7 true 0).Steps (page 0x100) 64 :=
  ⟨by decide +kernel, ok_of (by decide +kernel), plain_of (by decide +kernel) (by decide +kernel), steps_of (by decide +kernel)⟩

theorem wit_BarrierPhaseCompletes :
    (∀ scope ∈ [(0 : BitVec 3), 1, 2, 3, 4],
      let s := barrier 2 255 true 0
      let u := s.atArrival (page 0x100) scope
      s.noneHeld = true ∧ s.st.wait = none ∧ u.recInvalid 0x100 = false ∧
      u.recField 0x100 0 ≤ (u.recField 0x100 4 + 1) % 2 ^ 32) ∧
    ((barrier 2 255 true 0).atRecord (page 0x100)).release.sysWait = .ok () ∧
    (barrier 2 255 true 0).Plain .both ((barrier 2 255 true 0).getS 4) 64 (page 0x100) ∧
    (barrier 2 255 true 0).Steps (page 0x100) 64 :=
  ⟨by decide +kernel, ok_of (by decide +kernel), plain_of (by decide +kernel) (by decide +kernel), steps_of (by decide +kernel)⟩

/-- A wait of the strand that has been delivered. -/
def delivered (k : WaitKind) : State :=
  { wUser with st := { wUser.st with wait := some { kind := k, phase := 5, delivered := some (2, 6) } } }

theorem wit_BarrierWait :
    (let u := fun (valid : Bool) (v : Word) => ((barrier 1 7 valid v).atRecord (page 0x100)).scalarDone 0x100 64
     (u false 7).recInvalid 0x100 = true ∧ (u true 8).recInvalid 0x100 = false ∧
      (u true 8).recPhase 0x100 ≠ ((barrier 1 7 true 8).getS 5).setWidth 32 ∧ (u true 7).recInvalid 0x100 = false ∧
      (u true 7).recPhase 0x100 = ((barrier 1 7 true 7).getS 5).setWidth 32 ∧ (barrier 1 7 true 7).st.wait = none) ∧
    (∀ scope ∈ [(0 : BitVec 3), 1, 2, 3, 4],
      let s := barrier 1 7 false 7
      s.noneHeld = true ∧ (s.atArrival (page 0x100) scope).recInvalid 0x100 = true) ∧
    ((barrier 1 7 false 7).atRecord (page 0x100)).release.sysWait = .ok () ∧
    (∀ v ∈ [(7 : Word), 8], ∀ valid ∈ [true, false], (barrier 1 7 valid v).Plain .both ((barrier 1 7 valid v).getS 4) 64 (page 0x100) ∧
      (barrier 1 7 valid v).Steps (page 0x100) 64) ∧
    (∀ k ∈ [WaitKind.bwait 0x100, .barrw 0x100, .gbar 2], (delivered k).st.place.master? ≠ none ∧ (delivered k).spec = false ∧
      (delivered k).st.wait = some { kind := k, phase := 5, delivered := some (2, 6) }) := by
  refine ⟨by decide +kernel, by decide +kernel, ok_of (by decide +kernel), ?_, by decide +kernel⟩
  intro v hv valid hb
  simp only [List.mem_cons, List.not_mem_nil, or_false] at hv hb
  rcases hv with rfl | rfl <;> rcases hb with rfl | rfl <;>
    exact ⟨plain_of (by decide +kernel) (by decide +kernel), steps_of (by decide +kernel)⟩

/-- The strand is in group 2 of a gang launch; these of its three strands have arrived. -/
def ganged (arrived : List Nat) : State :=
  let s := wUser.setS 4 2
  { s with cp := { s.cp with
    groups := [{ handle := 1, index := 2, strands := 7, map := 5, phase := 0xFFFFFFFF, arrived := arrived, suspended := false }]
    launches := s.cp.launches.map (fun (l : Launch) => ({ l with gang := true } : Launch)) } }

theorem wit_LocalGroupBarrier :
    (let s := wUser.setS 4 2
     s.st.place.master? ≠ none ∧ s.spec = false ∧ s.noneHeld = true ∧ s.st.wait = none ∧ s.groupOf (s.getS 4) = none) ∧
    (∀ l ∈ [[1, 2], []], ∃ g, (ganged l).groupOf ((ganged l).getS 4) = some g ∧ g.arrived = l ∧
      (({ g with arrived := l ++ [idIndex (ganged l).st.id] } : Group).complete = decide (l = [1, 2]))) := by
  refine ⟨by decide +kernel, ?_⟩
  intro l h
  simp at h
  rcases h with rfl | rfl <;> exact ⟨{ handle := 1, index := 2, strands := 7, map := 5, phase := 0xFFFFFFFF, arrived := _, suspended := false }, by rfl, by rfl, by decide +kernel⟩

/-! ## Witnesses: forks -/

/-- s10 holds a count, s11 another, s12 and s13 a descriptor. -/
def described (rows cols even odd : Word) : State := (((wUser.setS 10 rows).setS 11 cols).setS 12 even).setS 13 odd

theorem wit_BadForkDescriptor :
    (wUser.st.place.master? ≠ none ∧ wUser.x.inline = none) ∧
    (∃ i, (i = 16 ∨ 19 ≤ i ∧ i < 32 ∨ 48 ≤ i ∧ i < 64) ∧ ((described 1 1 0x10000 0).getS 12).getLsbD i = true) ∧
    (∃ i, (i = 16 ∨ 19 ≤ i ∧ i < 32 ∨ 48 ≤ i ∧ i < 64) ∧ ((described 1 1 0x8000000000000000 0).getS 12).getLsbD i = true) ∧
    (((described 1 1 0 1).getS 13).setWidth 32).getLsbD 0 = true ∧
    (((described 1 1 0 0x100000000).getS 13 >>> 32).setWidth 32).getLsbD 0 = true ∧
    (let odd := (described 1 1 0 0x400000002).getS 13
     ∃ i : Nat, ((odd >>> 32).setWidth 32).getLsbD i = true ∧ (odd.setWidth 32).getLsbD i = false) ∧
    4 < (List.range 32).countP (fun i => (((described 1 1 0 0x3E0000003E).getS 13 >>> 32).setWidth 32).getLsbD i) ∧
    (let s := described 0x10000 0x10000 0 0
     2 ^ 32 ≤ (s.getS 10).toNat % 2 ^ 32 * ((s.getS 11).toNat % 2 ^ 32)) :=
  by refine ⟨?_, ⟨16, ?_⟩, ⟨63, ?_⟩, ?_, ?_, ⟨2, ?_⟩, ?_, ?_⟩ <;> decide +kernel

/-- A fork of no iterations: an ADDI, then the ENDI. -/
def emptyFork : State :=
  { described 0 0 2 0x30 with mem := [(4, 0xF0), (5, 0xFF), (6, 0xA4), (7, 0x08), (8, 0x03), (11, 0x48)] }

theorem wit_ForkBegins :
    (let s := described 7 3 2 0x3000000070
     s.st.place.master? ≠ none ∧ s.st.active = false ∧ s.st.vqueue ++ s.st.mqueue = [] ∧
     descriptorOk (s.getS 12) (s.getS 13) 7 1 = true ∧
     0 < (s.getS 10).toNat % 2 ^ 32) ∧
    (let s := described 7 3 0x202 0x3000000070
     descriptorOk (s.getS 12) (s.getS 13) 7 3 = true ∧ 0 < (s.getS 10).toNat % 2 ^ 32 ∧ 0 < (s.getS 11).toNat % 2 ^ 32) ∧
    (let s := emptyFork
     s.st.place.master? ≠ none ∧ s.st.active = false ∧ s.st.vqueue ++ s.st.mqueue = [] ∧
     descriptorOk (s.getS 12) (s.getS 13) 0 1 = true ∧ descriptorOk (s.getS 12) (s.getS 13) 0 0 = true ∧
     (s.getS 10).toNat % 2 ^ 32 = 0 ∧ meets (s.findEndi s.x.pc).toOption (fun p => p.2 = 0x1000008) = true) := by
  decide +kernel

theorem wit_InlineLoopBegins :
    (let s := begun 0
     s.st.place.master? ≠ none ∧ s.st.active = true ∧ s.x.inline = none ∧
     descriptorOk (s.getS 12) (s.getS 13) 9 1 = true ∧ 0 < (s.getS 10).toNat % 2 ^ 32) ∧
    (let s := (begun 0).setS 11 3
     descriptorOk (s.getS 12) (s.getS 13) 9 3 = true ∧ 0 < (s.getS 10).toNat % 2 ^ 32 * ((s.getS 11).toNat % 2 ^ 32)) ∧
    (after (exec (.fork 10 12) (begun 0))).x.inline ≠ none := by decide +kernel

theorem wit_LoopInstructionsOutsideAFork :
    wUser.st.place.master? ≠ none ∧ wUser.st.active = false ∧ wUser.joinHere = none := by decide +kernel

theorem wit_ForkQueries :
    (forkMeets (begun 0) (fun f => (begun 0).st.active = true ∧ (begun 0).x.inline = none ∧ f.tiled = false ∧ f.passing = false ∧
      (begun 0).spec = false) = true) ∧
    (let s := after (exec (.forkt 11 10 12) ((begun 0).setS 11 3))
     s.st.active = true ∧ meets s.x.inline (fun l => 0 < l.cols) = true) ∧
    (let s := after (exec (.forkt 11 10 12) (described 7 3 0x202 0))
     s.st.active = true ∧ s.x.inline = none ∧ forkMeets s (fun f => f.tiled = true) = true) ∧
    (forkMeets (wSpec 0) (fun f => (wSpec 0).st.active = true ∧ (wSpec 0).spec = true ∧ (wSpec 0).x.cnum ≠ 0 ∧
      f.odd.getLsbD 4 = true ∧ f.odd.getLsbD 9 = false ∧ (wSpec 0).x.confirmed = false) = true) := by decide +kernel

/-- Chunk 1, whose first iteration is 2, with these tags posted and seen. -/
def tagging (a : Word) (posts seen : List (Nat × Nat)) : State :=
  let s := (wSpec 0).setS 4 a
  { s with x := { s.x with posts := posts, seen := seen } }

theorem wit_IterationTags :
    (let s := tagging 1 [] []
     forkMeets s (fun f => s.st.active = true ∧ s.x.posts.contains (s.x.citer.toNat, 9) = false ∧
       (s.getS 4).toNat % 2 ^ 32 < s.x.citer.toNat ∧ (s.getS 4).toNat % 2 ^ 32 < f.chunkStart s.x.cnum.toNat ∧
       f.chunkStart f.committed ≤ (s.getS 4).toNat % 2 ^ 32 ∧ s.x.seen.contains (1, 9) = false) = true) ∧
    (let s := tagging 2 [(2, 9)] []
     s.x.posts.contains (s.x.citer.toNat, 9) = true ∧ s.x.citer.toNat ≤ (s.getS 4).toNat % 2 ^ 32) ∧
    (let s := tagging 1 [] [(1, 9)]
     (s.getS 4).toNat % 2 ^ 32 < s.x.citer.toNat ∧ s.x.seen.contains (1, 9) = true) ∧
    (let s : State := { tagging 2 [] [] with x := { (tagging 2 [] []).x with citer := 3 } }
     forkMeets s (fun f => (s.getS 4).toNat % 2 ^ 32 < s.x.citer.toNat ∧
       f.chunkStart s.x.cnum.toNat ≤ (s.getS 4).toNat % 2 ^ 32) = true) ∧
    (let s := forkWith (tagging 1 [] []) (fun f => { f with committed := 1 })
     forkMeets s (fun f => (s.getS 4).toNat % 2 ^ 32 < f.chunkStart f.committed) = true) := by decide +kernel

/-- The head in an inline loop of this many iterations, at the one given. -/
def looping (count index : Nat) (endi : Option (BitVec 54)) : State :=
  let l : Inline := { forkPc := 0x1000040, endiPc := endi, count := count, cols := 0, index := index }
  { begun 0 with x := { (begun 0).x with inline := some l } }

/-- The head chunk at its last iteration, of a fork of so many chunks. -/
def lastOf (n : Nat) : State :=
  let s := forkWith (begun 0) (fun f => { f with nchunks := n })
  { s with x := { s.x with citer := 1 } }

theorem wit_NextIteration :
    (let s := begun 0
     forkMeets s (fun f => s.st.active = true ∧ s.st.phase = .running ∧ s.x.inline = none ∧
       (f.endiPc = none ∨ f.endiPc = some s.x.pc) ∧ s.x.phase = .running ∧
       s.x.citer.toNat + 1 < f.chunkStart s.x.cnum.toNat + f.chunkLen s.x.cnum.toNat) = true) ∧
    (let s := forkWith (begun 0) (fun f => { f with endiPc := some 0x1000400 })
     forkMeets s (fun f => s.st.phase = .running ∧ s.x.inline = none ∧ f.endiPc = some 0x1000400 ∧ 0x1000400 ≠ s.x.pc) = true) ∧
    (let s := looping 6 4 none
     s.st.phase = .running ∧ s.st.active = true ∧ s.st.fork ≠ none ∧ meets s.x.inline (fun l => l.endiPc = none ∧ l.index + 1 < l.count) = true) ∧
    (let s := looping 6 5 (some (begun 0).x.pc)
     meets s.x.inline (fun l => l.endiPc = some s.x.pc ∧ l.count ≤ l.index + 1) = true) := by decide +kernel

theorem wit_CommitAndJoin :
    (∀ n ∈ [1, 5], forkMeets (lastOf n) (fun f => (lastOf n).st.active = true ∧ (lastOf n).st.phase = .running ∧ (lastOf n).x.inline = none ∧
      f.endiPc = none ∧ (lastOf n).x.phase = .running ∧
      f.chunkStart (lastOf n).x.cnum.toNat + f.chunkLen (lastOf n).x.cnum.toNat ≤ (lastOf n).x.citer.toNat + 1 ∧
      (lastOf n).drained = true ∧ (lastOf n).spec = false ∧ (lastOf n).x.owed = .nothing ∧ f.committed = (lastOf n).x.cnum.toNat ∧
      f.committed < f.nchunks ∧ (f.committed + 1 = f.nchunks ↔ n = 1)) = true) ∧
    (let s := after (exec .endi (lastOf 1))
     s.st.active = true ∧ s.joinHere = some .outer ∧ forkMeets s (fun f => f.combines = []) = true) ∧
    (let s := after (exec .endi (looping 6 5 none))
     s.st.active = true ∧ s.joinHere = some .inline) := by decide +kernel

theorem wit_ForkBreak :
    (let s := forkWith (begun 0) (fun f => { f with endiPc := some 0x1000400 })
     forkMeets s (fun f => s.st.active = true ∧ s.x.inline = none ∧ s.x.phase = .running ∧ s.drained = true ∧ s.spec = false ∧
       s.x.owed = .nothing ∧ f.endiPc = some 0x1000400 ∧ f.committed = s.x.cnum.toNat ∧ f.passing = false) = true) ∧
    (let s := looping 6 4 (some 0x1000080)
     s.st.active = true ∧ s.st.fork ≠ none ∧ meets s.x.inline (fun l => l.endiPc = some 0x1000080) = true) := by decide +kernel

/-- s4 holds the base and s5 the word of a declaration. -/
def declaring (base w : Word) : State := (wUser.setS 4 base).setS 5 w

theorem wit_MergeRegionDeclaration :
    (wUser.st.place.master? ≠ none ∧ wUser.st.active = false ∧ (3 : BitVec 5).toNat < 4) ∧
    ((declaring 0x1000000 0).getS 5).toNat % 2 ^ 40 = 0 ∧
    (let s := declaring 0x3FFFFFFFFFFFC0 0x290000000040  -- FP32 addition, 64 bytes, the last of the space
     let w := s.getS 5
     let base := (s.getS 4).toNat
     w.toNat % 2 ^ 40 ≠ 0 ∧ w.toNat < 2 ^ 48 ∧ base % 64 = 0 ∧ w.toNat % 2 ^ 40 % 64 = 0 ∧ base + w.toNat % 2 ^ 40 ≤ 2 ^ 54 ∧
       w.toNat / 2 ^ 45 % 8 = 1 ∧ w.toNat / 2 ^ 40 % 32 = 9 ∧ ∀ j, j < 4 → vget s.st.regions none j = none) ∧
    (begun 0).st.active = true ∧
    (let s := declaring 0x3FFFFFFFFFFFC0 0x290000000080
     (s.getS 5).toNat % 2 ^ 40 ≠ 0 ∧ ¬ ((s.getS 4).toNat + (s.getS 5).toNat % 2 ^ 40 ≤ 2 ^ 54)) := by decide +kernel

/-- A serial fork whose chunk 0 has committed. -/
def serialOn : State :=
  let s := forked wUser 9 0x20002 0
  after (execChainValueArrival 1 (after (execSnapshotArrival 1 (after (exec .endi { s with x := { s.x with citer := 1 } })))))

theorem wit_ChunkStarts :
    forkMeets serialOn (fun f => serialOn.oneAtATime = true ∧ serialOn.mayStart f = true) = true ∧
    ((begun 0).st.serial = false ∧ (begun 0).oneAtATime = false ∧ (begun 0).st.place = .ring 0) ∧
    (let s := begun 0
     s.st.nopred = false ∧ forkMeets s (fun f => s.mayStart f = false) = true) ∧
    (let s := after (execSnapshotArrival 3 (begun 0))
     forkMeets s (fun f => s.mayStart f = true ∧ (∀ m ∈ f.arrived, m.dst ≠ f.next)) = true) ∧
    (let s := after (execSnapshotArrival 1 (forked wUser 9 0x0000000700040002 0x70))
     s.st.nopred = true ∧ forkMeets s (fun f => s.mayStart f = true ∧ ∀ m ∈ f.arrived, m.dst ≠ f.next) = true) := by decide +kernel

/-- Chunk 1 awaits s4 to s6; the end values of chunk 0 are under way to it. -/
def chained (confirmed : Bool) : State :=
  let s := forkWith (wSpec 0) (fun f => { f with chain := [{ dst := 1, vals := [(4, 77), (5, 78)], confirmed := confirmed }] })
  { s with x := { s.x with await := 0x30 } }

theorem wit_ChainValueArrives :
    let s := chained false
    forkMeets s (fun f => f.chain.find? (fun m => m.dst == (1 : BitVec 32).toNat) = some { dst := 1, vals := [(4, 77), (5, 78)], confirmed := false } ∧
      1 = s.x.cnum.toNat ∧ s.x.phase ≠ .idle ∧ s.x.await.getLsbD 4 = true ∧ s.x.await.getLsbD 6 = false) = true := by decide +kernel

/-- The confirmation of chunk 1's start values is under way to it. -/
def confirming : State :=
  let m : ChainMsg := { dst := 1, vals := [(4, 77), (5, 78)], confirmed := true }
  let s := forkWith (wSpec 0) (fun f => { f with arrived := [m], confirms := [1], updated := 1 })
  { s with x := { s.x with starts := [(4, 77), (5, 78)] } }

theorem wit_ChainConfirmationArrives :
    let s := confirming
    forkMeets s (fun f => f.updated = s.x.cnum.toNat ∧ s.x.phase = .running ∧
      f.arrived.find? (fun m => m.dst == s.x.cnum.toNat) = some { dst := 1, vals := [(4, 77), (5, 78)], confirmed := true } ∧
      f.confirms.contains s.x.cnum.toNat = true ∧
      ((s.flight f).filter (fun c => c.cnum == s.x.cnum)).all (fun c => c.phase == .running && c.starts == [(4, 77), (5, 78)]) = true) = true := by
  decide +kernel

theorem wit_AnnouncementsAndPosts :
    (let s := forkWith (begun 0) (fun f => { f with anns := [{ cnum := 0, word := 0x20, seq := 3 }] })
     forkMeets s (fun f => f.anns = [{ cnum := 0, word := 0x20, seq := 3 }] ∧
       ((s.flight f).all (fun c => c.vers.all (fun v => !missed { cnum := 0, word := 0x20, seq := 3 } v))) = true) = true) ∧
    (let s := forkWith (wSpec 0) (fun f => { f with posts := [{ iter := 1, tag := 9, cnum := 0 }] })
     forkMeets s (fun f => s.x.phase ≠ .idle ∧ s.x.seen = [] ∧
       f.posts.find? (fun p => decide (p.cnum < s.x.cnum.toNat) && !s.x.seen.contains (p.iter, p.tag)) = some { iter := 1, tag := 9, cnum := 0 } ∧
       f.chunks.all (fun c => c.cnum != s.x.cnum) = true) = true) := by decide +kernel

/-- Chunk 1 in the focus, chunk 0 committed and head to pass; it has written one word. -/
def passingOn (now : Bool) : State :=
  let s := forkWith (wSpec 0) (fun f => { f with committed := 1, passing := now })
  let v : Version := { word := 0x20, data := 0x1234, exposed := false, src := none, written := true, wseq := 1 }
  { s with x := { s.x with confirmed := true, vers := [v] } }

theorem wit_HeadPasses : ∀ now ∈ [true, false], forkMeets (passingOn now) (fun f =>
    (passingOn now).memWf = true ∧ (passingOn now).st.sbuf = [] ∧ (passingOn now).st.vbuf = [] ∧ (passingOn now).x.phase ≠ .idle ∧
    (passingOn now).x.cnum.toNat = f.committed ∧ f.committed < f.nchunks ∧ f.passing = now ∧ (passingOn now).x.confirmed = true ∧
    f.anns = [] ∧ f.chain = [] ∧ ((passingOn now).x.vers.map (·.word)).Nodup) = true := by decide +kernel

/-- A combine under way to 0x200. -/
def combining : State :=
  { forkWith (begun 0) (fun f => { f with combines := [{ pa := 0x200, op := 0, fmt := 7, value := 5, vc := 1 }] }) with mem := [(0x200, 7)] }

theorem wit_MergeCombinePerformed :
    forkMeets combining (fun f => combining.memWf = true ∧ f.combines = [{ pa := 0x200, op := 0, fmt := 7, value := 5, vc := 1 }] ∧
      fmtWidth 7 / 8 = 8 ∧
      (∀ e ∈ combining.st.sbuf ++ combining.st.vbuf, e.overlaps 0x200 8 = false) ∧ combining.scatter = [] ∧
      atomicNew 0 64 (leNat (combining.memBytes 0x200 8)) 5 0 = some 12) = true := by decide +kernel

/-! ## Witnesses: strands, launches and pre-emption -/

/-- A launch of handle h. -/
def launchOf (h : Nat) (wait : Option Nat) (place : List Nat) : Launch :=
  { handle := BitVec.ofNat 32 h, vf := 0, entry := 0x1000000, args := 0x5000, nring := 3, ngate := 0, argsize := 16, prio := 0,
    gang := false, notify := false, maps := [], rngkey := 9, stack := 0x8000, stacksize := 256, target := 0, done := 0x1000008,
    ptroot := 0x100000, asid := 0, tvec := 0x2003, issuer := none, toPlace := place, toResume := [], endedOk := 0, endedFault := 0,
    waitFrom := wait }

/-- A user strand beside a launch that waits for ring 0, the one ring of the partition, since time 10; the time, and the strand's
priority. -/
def contended (now : Nat) (prio : BitVec 2) (since : Option Nat) : State :=
  { wUser with
    time := now
    parked := wUser.parked.take 1
    cp := { wUser.cp with launches := wUser.cp.launches ++ [launchOf 9 since [0]], parta := vset wUser.cp.parta 0 1, quant := 2000 }
    st := { wUser.st with runPrio := prio } }

theorem wit_StrandQueriesAndYield :
    (wUser.st.place.master? ≠ none ∧ wUser.st.place = .ring 0 ∧ wUser.spec = false ∧ wUser.yieldFor = false ∧ wUser.cp.groups = []) ∧
    (let s : State := { wUser with st := { wUser.st with place := .gateway 15 } }
     s.st.place.master? ≠ none ∧ s.st.place = .gateway 15) ∧
    (meets ((ganged []).cp.groups.find? (fun g => g.handle == idHandle (ganged []).st.id && g.index == ((ganged []).getS 4).toNat))
      (fun g => g.map = 5) = true) ∧
    (wSpec 0).spec = true ∧
    (let s := contended 5000 1 none
     s.st.fork = none ∧ s.yieldFor = true ∧ s.st.phase = .running ∧ meets (s.launch? (idHandle s.st.id)) (fun l => l.gang = false) = true) := by
  decide +kernel

/-- A launch record at 0x100: one strand at entry 0x1000000, its stack of 256 bytes at 0x9000. -/
def recorded : State :=
  { wUser.setS 4 0x1000100 with
    mem := [(0x103, 1), (0x109, 0x50), (0x110, 1), (0x116, 16), (0x11C, 7), (0x121, 0x90), (0x129, 1), (0x130, 8), (0x133, 1)] }

theorem wit_LaunchCompletes :
    ((wUser.setS 4 0x1000120).st.place.master? ≠ none ∧ (wUser.setS 4 0x1000120).spec = false ∧
      ((wUser.setS 4 0x1000120).getS 4).toNat % 64 ≠ 0 ∧ (wSpec 0).st.place.master? ≠ none ∧ (wSpec 0).spec = true) ∧
    (let u := recorded.release
     let r := u.touch u.ring? 0x100
     recorded.spec = false ∧ recorded.noneHeld = true ∧
      (({ r with net := r.net.send r.die 0 (Mail.ask [] r.die) } : State).submit u.submitter (u.memBytes 0x100 64)).2.1 = 0) ∧
    recorded.release.Plain .read (recorded.getS 4) 64 (page 0x100) :=
  ⟨by decide +kernel, by decide +kernel, plain_of (by decide +kernel) (by decide +kernel)⟩

/-- The bytes of a launch record of nr ring strands and ng gateway strands. -/
def recordOf (nr ng : Nat) (gang : Bool) : List Byte :=
  leBytes 8 0x1000000 ++ leBytes 8 0x5000 ++ leBytes 4 nr ++ leBytes 2 ng ++ leBytes 2 16 ++ leBytes 1 0 ++
    leBytes 1 (if gang then 1 else 0) ++ leBytes 2 0 ++ leBytes 4 7 ++ leBytes 8 0x9000 ++ leBytes 4 256 ++ leBytes 4 0 ++ leBytes 8 0x1000008 ++ leBytes 8 0

/-- The same with one group, whose map lies at this address. -/
def oneGroup (va : Nat) : List Byte := ((recordOf 1 0 true).take 26 ++ [1] ++ (recordOf 1 0 true).drop 27).take 56 ++ leBytes 8 va

/-- The map at 0x1000200 names strand 0, that at 0x1000208 strand 1. -/
def mapped : State := { wUser with mem := Memory.writeBytes wUser.mem unlisted 0x200 (leBytes 8 1 ++ leBytes 8 2) }

/-- What the hub reads of the group maps of this record. -/
def mapsOf (bs : List Byte) : Option (List Word) :=
  (mapped.readMaps (launchSpace mapped.submitter.ptroot mapped.submitter.asid mapped.submitter.vf) (readLaunch bs).groups.toNat
    (readLaunch bs).ngroups).2

theorem wit_SubmissionCodes_maps :
    mapped.enabled mapped.submitter.vf = true ∧
    (∀ va ∈ [0x1000200, 0x1000208, 0x8000000], (readLaunch (oneGroup va)).ok = true ∧ (readLaunch (oneGroup va)).ngroups = 1) ∧
    mapsOf (oneGroup 0x8000000) = none ∧
    (mapsOf (oneGroup 0x1000208) = some [2] ∧ (readLaunch (oneGroup 0x1000208)).mapOk 2 = false) ∧
    (mapsOf (oneGroup 0x1000200) = some [1] ∧ (readLaunch (oneGroup 0x1000200)).mapOk 1 = true) ∧
    mapped.handlesUsed.length < 2 ^ 31 := by decide +kernel

/-- The command processor with these launches and so many groups. -/
def queued (n groups : Nat) : State :=
  let g := fun i => ({ handle := 99, index := i, strands := 0, map := 0, phase := 0, arrived := [], suspended := false } : Group)
  { wUser with cp := { wUser.cp with
    launches := (List.range n).map (fun i => launchOf (i + 2) none [0]), groups := (List.range groups).map g } }

theorem wit_SubmissionCodes :
    (let s : State := { wUser with cp := { wUser.cp with vfcfg := vset wUser.cp.vfcfg 0 1 } }
     s.enabled s.submitter.vf = false) ∧
    (let q := wUser.submitter
     wUser.enabled q.vf = true ∧ (readLaunch (recordOf 0 0 false)).ok = false ∧
     (let r := readLaunch (recordOf 2 1 true)
      r.ok = true ∧ r.ngroups = 0 ∧ r.gang = true ∧ (wUser.partitionRings q.vf).length < r.nring) ∧
     (let r := readLaunch (recordOf 1 0 false)
      r.ok = true ∧ r.ngroups = 0 ∧ r.gang = false ∧ 64 ≤ (queued 64 0).waitingCount q.vf ∧
      (queued 63 257).waitingCount q.vf < 64 ∧ 256 < (queued 63 257).cp.groups.length ∧
      (queued 63 256).waitingCount q.vf < 64 ∧ (queued 63 256).cp.groups.length ≤ 256 ∧
      (queued 63 256).handlesUsed.length < 2 ^ 31 ∧ (queued 63 256).enabled q.vf = true)) := by decide +kernel

theorem wit_StrandDone :
    (wMem.st.place.master? = some 0 ∧ wMem.spec = false ∧ wMem.queuesEmpty = true ∧ wMem.st.retry = [] ∧
      wMem.fab.reqs = [] ∧ wMem.st.failedStores = []) ∧
    (storing.queuesEmpty = true ∧ storing.st.retry = [] ∧ ∃ q ∈ storing.fab.reqs, q.owner = storing.st.id ∧ q.kind = .write) ∧
    (storeFailed.queuesEmpty = true ∧ storeFailed.st.retry = [] ∧ storeFailed.fab.reqs = [] ∧
      storeFailed.st.failedStores = [0x2000000, 0x2000040]) ∧
    (wUser.enqueue .vector (.toks 1 3)).queuesEmpty = false := by decide +kernel

/-- Ring 2 is being reclaimed. -/
def reclaiming : State := { wUser with cp := { wUser.cp with masters := vset wUser.cp.masters 2 .reclaiming } }

theorem wit_SchedulingAndReclaim :
    reclaiming.masterState (2 : BitVec 6).toNat = .reclaiming ∧ reclaiming.masterState (3 : BitVec 6).toNat ≠ .reclaiming := by
  decide +kernel

/-- With no launch there is none to serve. -/
theorem wit_SchedulingAndReclaim_idle : ∀ level v,
    ({ wUser with cp := { wUser.cp with launches := [] } } : State).canServe level v = false := by
  intro level v; simp [State.canServe, State.head?, State.queueAt]

theorem wit_StrandPlaced :
    let l := launchOf 9 none [1, 2]
    let s : State := { wUser with cp := { wUser.cp with launches := wUser.cp.launches ++ [l], parta := vset wUser.cp.parta 0 0x800000000000 } }
    s.launch? l.handle = some l ∧ l.isGate 1 = false ∧ l.toResume = [] ∧ s.mayTake l 47 = true ∧ (∀ k, k < 47 → s.mayTake l k = false) := by decide +kernel

theorem wit_QuantumExpiry :
    wUser.head? 1 0 = none ∧
    meets ((contended 5000 1 none).head? 0 0) (fun l => l.waitFrom = none) = true ∧
    (let s := contended 2009 1 (some 10)
     meets (s.head? 0 0) (fun l => l.waitFrom = some 10 ∧ s.time < 10 + s.cp.quant.toNat) = true) ∧
    (let s := contended 2010 1 (some 10)
     meets (s.head? 0 0) (fun l => l.waitFrom = some 10 ∧ 10 + s.cp.quant.toNat ≤ s.time) = true) ∧
    (let s := (contended 2010 1 (some 10)).schedule
     meets (s.head? 0 0) (fun l => l.waitFrom = some 10 ∧ 10 + s.cp.quant.toNat ≤ s.time ∧ s.canPlace l = false ∧
       s.suspended 0 = false ∧ l.gang = false ∧ l.toResume = [] ∧ l.toPlace = [0] ∧ 0 < l.nring ∧ s.coming l false = 0 ∧
       s.st.place = .ring 0 ∧ (vget s.cp.parta 0 0).getLsbD 0 = true ∧ s.st.phase = .running ∧ s.st.fork = none ∧
       0 < s.st.runPrio.toNat ∧ s.st.startedAt ≤ s.time ∧
       meets (s.launch? (idHandle s.st.id)) (fun g => g.gang = false) = true ∧ ∀ r ∈ s.parked, r.st.place = .management) = true) := by
  decide +kernel

/-- The strand was asked to stop at this time, and has or has not reached its stop. -/
def stopping (since : Nat) (due : Bool) : State := { wMem with st := { wMem.st with phase := .stopping since due } }

theorem wit_PreemptionStops :
    (∀ due ∈ [true, false], (stopping 57 due).st.place.master? ≠ none ∧ (stopping 57 due).st.fork = none ∧
      (stopping 57 due).quiet = true ∧ (stopping 57 due).st.wait = none ∧ (stopping 57 due).st.retry = [] ∧
      (stopping 57 due).st.phase = .stopping 57 due ∧ 57 + 20 ≤ (stopping 57 due).time) ∧
    (stopping 58 false).quiet = true ∧ (stopping 58 false).time < 58 + 20 := by decide +kernel

theorem wit_SaveCompletes :
    let s : State := { wMem with st := { wMem.st with phase := .saving } }
    s.st.place.master? = some 0 ∧ s.st.phase = .saving ∧ ∃ r ∈ s.parked, r.st.place = .management := by decide +kernel

/-- A world switch in this phase from this word. -/
def switching (w : WorldSwitch) (v : Word) : State := { wUser with cp := { wUser.cp with switch := w, wsw := v } }

theorem wit_WorldSwitch :
    (wUser.cp.switch = .idle ∧ bit 0x2123 5 = true ∧ ∀ st ∈ wUser.strands, st.vf.toNat ≠ 0x2123 % 32) ∧
    (switching .out 0x2103).cp.switch ≠ .idle ∧ bit (switching .out 0x2103).cp.wsw 13 = true ∧ (switching .out 0x2103).outDone = true ∧
    (switching .out 0x2120).outDone = false ∧ (switching .inn 0x2103).cp.switch = .inn ∧
    (bit (switching .out 0x103).cp.wsw 13 = false ∧ (switching .out 0x103).outDone = true) := by decide +kernel

/-! ## Witnesses: messages, tokens, engines and block queues -/

/-- s4 holds the address of 64 bytes, s5 a target; so many messages wait in the retry buffer. -/
def sending (target : Word) (n : Nat) : State :=
  let s := (wUser.setS 4 0x1000100).setS 5 target
  let e : RetryMsg := { msg := { payload := 0, sender := 0 }, rcv := .strand 3, tries := 0, delay := 1, due := 0 }
  { s with
    st := { s.st with retry := List.replicate n e }
    cp := { s.cp with launches := s.cp.launches.map (fun (l : Launch) => ({ l with nring := 3 } : Launch)) } }

/-- The target names a strand of the sender's own launch. -/
def toOwn (s : State) : Bool :=
  decide ((s.getS 5).toNat / 2 ^ 24 = 0) && meets (s.launch? (idHandle s.st.id)) (fun l => (s.getS 5).toNat < l.nring + l.ngate)

/-- Beside the sender, a strand of function 1 runs on ring 2. -/
def sendingBeside (target : Word) : State :=
  let s := sending target 0
  { s with parked := s.parked ++ [{ x := Ctx.zero, st := { Strand.zero with id := 0x200000007, place := .ring 2, vf := 1 } }] }

theorem sending_plain (n : Nat) (h : n = 0 ∨ n = 15 ∨ n = 16) (target : Word) (ht : target = 0 ∨ target = 2 ∨ target = 0x40000000 ∨ target = 0xC0000000) :
    (sending target n).Plain .read ((sending target n).getS 4) 64 (page 0x100) := by
  rcases h with rfl | rfl | rfl <;> rcases ht with rfl | rfl | rfl | rfl <;>
    exact plain_of (by decide +kernel) (by decide +kernel)

theorem wit_MessageSend :
    ((wUser.setS 4 0x1000101).st.place.master? ≠ none ∧ (wUser.setS 4 0x1000101).spec = false ∧
      ((wUser.setS 4 0x1000101).getS 4).toNat % 64 ≠ 0) ∧
    (let u := fun (target : Word) => (sending target 0).atRead (page 0x100) 64
     let w := fun (target : Word) => (u target).release
     (sending 0 0).policy 1 ≠ 3 ∧ (sending 0 0).noneHeld = true ∧
     (toOwn (sending 0xC0000000 0) = false ∧ ¬ (0xC0000000 / 2 ^ 9 = 2 ^ 21) ∧ ¬ (0xC0000000 / 2 ^ 29 = 4)) ∧
     (toOwn (sending 0x100000000 0) = false ∧ ¬ (0x100000000 / 2 ^ 9 = 2 ^ 21) ∧ ¬ (0x100000000 / 2 ^ 29 = 4)) ∧
     (toOwn (sending 0 16) = true ∧ (sending 0 16).st.retry.length = 16 ∧ (sending 0 15).st.retry.length < 16) ∧
     (toOwn (sending 2 0) = true ∧ (w 2).strandById (mkId (idHandle (sending 2 0).st.id) 2) = none) ∧
     (toOwn (sending 0 0) = true ∧ ((w 0).strandById (mkId (idHandle (sending 0 0).st.id) 0)).isSome = true) ∧
     (0x40000008 / 2 ^ 9 = 2 ^ 21 ∧ 0x40000008 % 512 / 8 = 1 ∧ (w 0x40000008).occupant 1 = none) ∧
     (0x40000000 % 512 / 8 = 0 ∧ meets ((w 0x40000000).occupant 0) (fun q => meets ((w 0x40000000).strandById q.id) (fun st =>
       st.vf = (sending 0 0).st.vf) = true) = true) ∧
     (let v := ((sendingBeside 0x40000010).atRead (page 0x100) 64).release
      0x40000010 % 512 / 8 = 2 ∧ meets (v.occupant 2) (fun q => meets (v.strandById q.id) (fun st =>
        st.vf ≠ (sendingBeside 0x40000010).st.vf) = true) = true) ∧
     ((0x80000000 : Word).toNat / 2 ^ 29 = 4 ∧ isOk (w 0x80000000).sysWait = true ∧ bit (sending 0x80000000 0).fab.fxep 16 = false)) := by
  decide +kernel

/-- These messages wait in the inbox and the overflow inbox. -/
def receiving (inbox over_ : List Msg) : State := { wMem with st := { wMem.st with inbox := inbox, overflow := over_ } }

theorem wit_MessageReceive_poisoned :
    (receiving [{ payload := 5, sender := 7, bad := true }] []).Plain .write
      ((receiving [{ payload := 5, sender := 7, bad := true }] []).getS 4) 64 (page 0x100) ∧
    (receiving [] []).Apart :=
  ⟨plain_of (by decide +kernel) (by decide +kernel), wMem_apart.1⟩

theorem wit_MessageReceive :
    ((receiving [{ payload := 5, sender := 7 }] [{ payload := 6, sender := 8 }]).st.inbox = [{ payload := 5, sender := 7 }] ∧
      (receiving [] []).st.inbox = []) ∧
    (receiving [{ payload := 5, sender := 7 }] [{ payload := 6, sender := 8 }]).Plain .write
      ((receiving [{ payload := 5, sender := 7 }] [{ payload := 6, sender := 8 }]).getS 4) 64 (page 0x100) ∧
    (receiving [] []).Plain .write ((receiving [] []).getS 4) 64 (page 0x100) :=
  ⟨by decide +kernel, plain_of (by decide +kernel) (by decide +kernel), plain_of (by decide +kernel) (by decide +kernel)⟩

/-- s4 holds the address of a word on a page of pool kind. -/
def poolPage : State :=
  let t : TlbEntry := { master := 0, asid := 0, vpage := 0x100, large := false, entry := 0x80000000001CDF }
  { wUser.setS 4 0x1000100 with poolUp := true, tlb := [t] }

theorem wit_WaitWords :
    (wMem.noneHeld = true ∧ wMem.policy 1 ≠ 3 ∧
      BitVec.ofNat 64 (leNat ((List.range 8).map (fun i => wMem.viewByte false (0x100 + i)))) ≠ wMem.getS 5 ∧
      (let s := wMem.setS 5 0x0403020100000005
       BitVec.ofNat 64 (leNat ((List.range 8).map (fun i => s.viewByte false (0x100 + i)))) = s.getS 5)) ∧
    wMem.Plain .write (wMem.getS 4) 8 (page 0x100) ∧ wMem.release.Plain .write (wMem.getS 4) 8 (page 0x100) ∧
    wMem.Plain .read (wMem.getS 4) 8 (page 0x100) ∧
    poolPage.Plain .write (poolPage.getS 4) 8 { pa := 0x8000000000100, vc := 1, kind := 2 } ∧
    poolPage.release.Plain .write (poolPage.getS 4) 8 { pa := 0x8000000000100, vc := 1, kind := 2 } ∧
    poolPage.Plain .read (poolPage.getS 4) 8 { pa := 0x8000000000100, vc := 1, kind := 2 } :=
  ⟨by decide +kernel, plain_of (by decide +kernel) (by decide +kernel), plain_of (by decide +kernel) (by decide +kernel),
   plain_of (by decide +kernel) (by decide +kernel), plain_of (by decide +kernel) (by decide +kernel),
   plain_of (by decide +kernel) (by decide +kernel), plain_of (by decide +kernel) (by decide +kernel)⟩

/-- At pc stands WAITW s3, [s4], s5, and no other strand is there. -/
def atWaitw : State :=
  let s := wUser.setS 4 0x1000100
  { s with mem := [(0, 0x04), (1, 0x28), (2, 0x64), (3, 0x58)], parked := s.parked.take 1 }

theorem wit_WaitWake :
    atWaitw.st.place.master? ≠ none ∧ atWaitw.st.phase = .running ∧ (∀ r ∈ atWaitw.parked, r.st.place = .management) ∧
    atWaitw.fetchedWaitw = some (3, 4, 5) ∧
    (atWaitw.locate .read (atWaitw.getS 4).toNat).2.toOption = some (.mem (page 0x100)) ∧
    (page 0x100).pa = (0x100 : BitVec 52).toNat ∧ (page 0x100).pa ≠ (0x108 : BitVec 52).toNat ∧
    (let t := after (exec (.waitw 3 4 5) atWaitw)
     t.st.id = atWaitw.st.id ∧ t.st.place = atWaitw.st.place) := by decide +kernel

/-- FIFO 7 holds so many tokens. -/
def tokens (n : BitVec 4) : State := { wUser with st := { wUser.st with tokens := vset wUser.st.tokens 7 n } }

theorem wit_Tokens :
    (wUser.st.place.master? ≠ none ∧ wUser.spec = false ∧ wUser.queue (queueOfCode 3) = []) ∧
    (tokens 14).tokens 7 ≠ 15 ∧ (tokens 1).tokens 7 ≠ 0 ∧ (tokens 15).tokens 7 = 15 ∧ (tokens 0).tokens 7 = 0 ∧
    ((tokens 1).enqueue (queueOfCode 2) (.toks 2 7)).queue (queueOfCode 2) ≠ [] := by decide +kernel

theorem wit_Tokens_full : ∀ p ∈ [((1 : BitVec 2), 64), (2, 32), (3, 16)],
    let s : State := (List.range p.2).foldl (fun (s : State) _ => s.enqueue (queueOfCode p.1) (.toks p.1 7)) wUser
    p.2 ≤ (s.queue (queueOfCode p.1)).length ∧ s.st.place = .ring 0 ∧ s.spec = false := by decide +kernel

theorem wit_TokenEvents :
    (∀ n ∈ [(0 : BitVec 4), 15], ∀ i ∈ [Instr.toks 1 7, .tokw 1 7],
      ((tokens n).enqueue (queueOfCode 1) i).queue (queueOfCode 1) = [(tokens n).item i] ∧ ((tokens n).item i).instr = i ∧
      ((tokens n).enqueue (queueOfCode 1) i).tokens 7 = n) := by decide +kernel

/-- At pc stands TOKS of the scalar queue to FIFO 2, which is full. -/
def stuck : State :=
  { wUser with mem := [(0, 0x47), (3, 0x58)], st := { wUser.st with tokens := vset wUser.st.tokens 2 15 } }

/-- At pc stands TOKW of the scalar queue from FIFO 3, which is empty. -/
def starved : State := { wUser with mem := [(0, 0x68), (3, 0x58)] }

/-- At pc stands SDONE; the vector queue holds a TOKW from FIFO 3. -/
def ending : State := State.enqueue { wUser with mem := [(0, 1), (3, 0x4C)] } .vector (.tokw 1 3)

theorem wit_TokenDeadlock :
    (stuck.st.fork = none ∧ stuck.spec = false ∧ stuck.st.vqueue = [] ∧ stuck.st.mqueue = [] ∧ stuck.st.equeue = [] ∧
      (∀ b ∈ stuck.st.sbuf ++ stuck.st.vbuf, b.issue ≤ stuck.st.qcount) ∧ stuck.atPc = some (.toks 0 2) ∧ stuck.tokens 2 = 15) ∧
    (starved.atPc = some (.tokw 0 3) ∧ starved.tokens 3 = 0) ∧
    (ending.spec = false ∧ ending.st.vqueue.map (·.instr) = [.tokw 1 3] ∧ ending.tokens 3 = 0 ∧ ending.st.mqueue = [] ∧
      ending.st.equeue = [] ∧ ending.atPc = some .sdone ∧ ending.frontWaits .sdone = true ∧ ending.stalledScalar.isNone = true) ∧
    wUser.atPc = none ∧ (stuck.tokens 2 = 15 ∧ wUser.stuck .engine = true ∧ (wUser.enqueue .vector (.toks 1 3)).stuck .vector = false) := by decide +kernel

/-- A record of an engine command. -/
def engRec (op rows len : Nat) (src dst : Nat) (flags : Nat) : BitVec 512 :=
  BitVec.ofNat 512 (leNat (leBytes 8 src ++ leBytes 8 dst ++ leBytes 4 rows ++ leBytes 4 len ++ leBytes 8 0x40 ++ leBytes 8 0x80 ++
    leBytes 1 op ++ leBytes 1 0 ++ leBytes 1 9 ++ leBytes 1 0xA ++ leBytes 1 flags ++ leBytes 3 0 ++ leBytes 4 5 ++ leBytes 12 0))

/-- Engine 2 holds n commands and is frozen or not; an ECMD of this record to engine e is at the front of the queue. -/
def commanding (e : Word) (record : BitVec 512) (n : Nat) (frozen : Bool) : State :=
  let s := wUser.setS 4 e
  let c : EngCmd := { record := record, issuer := 3, vf := 0, pages := [], acceptedAt := 0, merged := 0, moves := 0, written := 0, bad := none, reads := [], result := none }
  let it : QItem := { s.item (.ecmd 3 4 5) with cmd := record }
  { s with
    eng := vset s.eng 2 { cmds := List.replicate n c, frozen := frozen, retired := false }
    st := { s.st with equeue := [it] } }

/-- s5 holds the address of a record; so many commands wait in the engine queue. -/
def ecmd (n : Nat) : State :=
  let s := wUser.setS 5 0x1000100
  { s with st := { s.st with equeue := List.replicate n (s.item (.ecmd 3 4 5)) } }

/-- A strand of ring 0 has given this very command at this time. -/
def twinned (record : BitVec 512) : State :=
  let s := commanding 2 record 0 false
  { s with eng := vset s.eng 2 { cmds := [{ record := record, issuer := s.st.id, vf := 0, pages := [], acceptedAt := s.time, merged := 0, moves := 0,
                                             written := 0, bad := none, reads := [], result := none }], frozen := false, retired := false } }

theorem wit_EngineCommand :
    (∀ n ∈ [15, 16], (ecmd n).spec = false ∧ (ecmd n).policy 1 ≠ 3 ∧ (ecmd n).noneHeld = true ∧ (ecmd n).st.equeue.length = n) ∧
    (let r := engRec 0 1 32 0x1000100 0x1000140 0
     engMalformed r = false ∧ engMalformed (engRec 4 1 32 0x1000100 0x1000140 0) = true ∧
     ((commanding 16 r 0 false).st.equeue.map (fun it => (it.instr, vget it.x.sreg 0 4))) = [(.ecmd 3 4 5, 16)] ∧
     ((commanding 2 r 64 false).engine 2).shut = false ∧ ((commanding 2 r 64 false).engine 2).cmds.length = 64 ∧
     (commanding 2 r 64 false).engTwin 2 r = false ∧ (commanding 2 r 63 false).engTwin 2 r = false ∧
     ((commanding 2 r 63 false).engine 2).cmds.length < 64 ∧ ((commanding 2 r 0 true).engine 2).shut = true ∧
     (twinned (engRec 1 1 32 0 0x1000140 0)).engTwin 2 (engRec 1 1 32 0 0x1000140 0) = true) ∧
    (ecmd 15).Plain .read ((ecmd 15).getS 5) 64 (page 0x100) ∧ (ecmd 16).Plain .read ((ecmd 16).getS 5) 64 (page 0x100) :=
  ⟨by decide +kernel, by decide +kernel, plain_of (by decide +kernel) (by decide +kernel), plain_of (by decide +kernel) (by decide +kernel)⟩

/-- At supervisor level, with this vl and vtype. -/
def blocked (vl vtype : Word) : State := { wSup.setS 4 16 with x := { (wSup.setS 4 16).x with vl := vl, vtype := vtype } }

theorem wit_EngineCommandBlock :
    (wUser.st.place.master? ≠ none ∧ wUser.lvl = 0) ∧ (1 ≤ (blocked 32 0).lvl ∧ (blocked 32 0).spec = false) ∧
    vill (blocked 0 0x8000000000000000).x.vtype = true ∧ (vill (blocked 32 4).x.vtype = false ∧ ¬ ((9 : BitVec 5).toNat % (blocked 32 4).vgm = 0)) ∧
    ¬ ((blocked 33 0).vl ≤ 32 * (blocked 33 0).vgm) ∧
    (let s := blocked 32 0
     (6 : BitVec 5).toNat % s.vgm = 0 ∧ s.vl ≤ 32 * s.vgm ∧ s.noneHeld = true ∧ 16 ≤ (s.getS 4).toNat) := by
  decide +kernel

/-- Engine 4 has one command, its source and its target in the page at 0x1000000, with these causes. -/
def engine (op len src dst : Nat) (rc wc : BitVec 8) : State :=
  let pg := fun (w : Bool) (cause : BitVec 8) => ({ page := 0x100, write := w, cause := cause, pa := 0, vc := 1, kind := 0 } : PageXl)
  let c : EngCmd := { record := engRec op 1 len src dst 1, issuer := 3, vf := 0, pages := [pg false rc, pg true wc], acceptedAt := 0, merged := 0,
                      moves := 0, written := 0, bad := none, reads := [], result := none }
  { wUser with mem := [(0x103, 5)], eng := vset wUser.eng 4 { cmds := [c], frozen := false, retired := false } }

def moved (s : State) : Option (State × EngCmd × Option EngStop) :=
  ((s.engine 4).cmds.find? (fun c => c.result.isNone)).map (fun c => s.engMoves 4 ((readEngRec c.record).moves.drop c.moves) c)

/-- The command's translations give local pages for all of these bytes. -/
def lands (c : EngCmd) (write : Bool) (va n : Nat) : Bool :=
  (pagePieces va n).all (fun p => match c.at_ write p.1 with | .ok x => x.kind != 1 | .error _ => false)

theorem lands_here {c : EngCmd} {write : Bool} {va n : Nat} (h : lands c write va n = true) :
    ∀ p ∈ pagePieces va n, ∃ x, c.at_ write p.1 = .ok x ∧ x.kind ≠ 1 := by
  intro p hp
  have := List.all_eq_true.mp h p hp
  split at this
  · next x e => exact ⟨x, e, by simpa using this⟩
  · cases this

/-- The one command of engine 4 there. -/
def firstCmd (s : State) : EngCmd :=
  ((s.engine 4).cmds.head?).getD { record := 0, issuer := 0, vf := 0, pages := [], acceptedAt := 0, merged := 0, moves := 0, written := 0, bad := none,
                                   reads := [], result := none }

theorem wit_EnginePerforms_here :
    let s := engine 0 32 0x1000100 0x1000400 0 0
    let c := firstCmd s
    (s.engine 4).cmds.find? (fun c => c.result.isNone) = some c ∧ c.reads = [] ∧ s.clo.here = [] ∧ s.cache.lines = [] ∧
    ∀ m ∈ (readEngRec c.record).moves, (∀ p ∈ pagePieces m.src m.len, ∃ x, c.at_ false p.1 = .ok x ∧ x.kind ≠ 1) ∧
      ∀ bs, bs.length = m.len → ∀ p ∈ pagePieces m.dst (m.make bs).length, ∃ x, c.at_ true p.1 = .ok x ∧ x.kind ≠ 1 := by
  refine ⟨by decide +kernel, by decide +kernel, by decide +kernel, by decide +kernel, ?_⟩
  have one : (readEngRec (firstCmd (engine 0 32 0x1000100 0x1000400 0 0)).record).op = 0 ∧
      (readEngRec (firstCmd (engine 0 32 0x1000100 0x1000400 0 0)).record).rows = 1 := by decide +kernel
  intro m hm
  simp only [EngRec.moves, one.1, one.2] at hm
  obtain rfl : m = copyMove (readEngRec (firstCmd (engine 0 32 0x1000100 0x1000400 0 0)).record) 0 := by simpa using hm
  refine ⟨lands_here (by decide +kernel), fun bs hb => ?_⟩
  refine lands_here ?_
  have : (copyMove (readEngRec (firstCmd (engine 0 32 0x1000100 0x1000400 0 0)).record) 0).make bs = bs := rfl
  rw [this, hb]
  decide +kernel

theorem wit_EnginePerforms :
    (∀ op ∈ [0, 1, 2, 3], ((engine op 32 0x1000100 0x1000400 0 0).engine 4).shut = false ∧
      meets (((engine op 32 0x1000100 0x1000400 0 0).engine 4).cmds.find? (fun c => c.result.isNone)) (fun c => (readEngRec c.record).op = op) = true ∧
      meets (moved (engine op 32 0x1000100 0x1000400 0 0)) (fun p => p.2.2 = none) = true) ∧
    meets (moved (engine 0 32 0x1000100 0x1000400 0x22 0)) (fun p => p.2.2 = some (.fail 0x22 false 0x1000100)) = true ∧
    meets (moved (engine 0 32 0x1000100 0x1000400 0 0x24)) (fun p => p.2.2 = some (.fail 0x24 true 0x1000400)) = true := by
  decide +kernel

theorem wit_EngineCopyAndFillBytes :
    ∀ op ∈ [0, 1], ∀ at_ ∈ [(0x1000103, 0x1000107, 9), (0x100FFFF, 0x100FFFF, 1)],
      let s := engine op at_.2.2 at_.1 at_.2.1 0 0
      s.memWf = true ∧ (s.engine 4).shut = false ∧ (s.engine 4).cmds.length = 1 ∧
      meets (s.engine 4).cmds.head? (fun c => c.result = none ∧ c.moves = 0 ∧ c.written = 0 ∧ c.bad = none ∧ c.reads = [] ∧ (readEngRec c.record).rows = 1 ∧
        0 < (readEngRec c.record).len ∧ (readEngRec c.record).src.toNat % 65536 + (readEngRec c.record).len ≤ 65536 ∧
        (readEngRec c.record).dst.toNat % 65536 + (readEngRec c.record).len ≤ 65536 ∧ (readEngRec c.record).op = op ∧
        (∀ w ∈ [true, false], meets (c.pages.find? (fun p => p.page == 0x100 && p.write == w)) (fun p => p.cause = 0 ∧ p.kind ≠ 1 ∧ p.pa = 0) = true) ∧
        s.blocked true (at_.2.1 % 65536) at_.2.2 = false ∧ s.blocked false (at_.1 % 65536) at_.2.2 = false ∧
        (List.range at_.2.2).all (fun i => !s.poisoned (at_.1 % 65536 + i)) = true) = true := by decide +kernel

/-- Engine 4 holds a command with this result, and another. -/
def performed (notify : Nat) (r : Option (BitVec 8 × Word × Nat)) : State :=
  let c : EngCmd := { record := engRec 0 1 8 0 0 notify, issuer := 3, vf := 0, pages := [], acceptedAt := 0, merged := 0, moves := 0, written := 0, bad := none,
                      reads := [], result := r }
  { wUser with eng := vset wUser.eng 4 { cmds := [c, c], frozen := false, retired := false } }

theorem wit_EngineCompletes :
    ∀ n ∈ [0, 1], ∀ r ∈ [none, some ((2 : BitVec 8), (0x1234 : Word), 9)],
      ((performed n r).engine 4).frozen = false ∧ (performed n r).fab.reqs = [] ∧ ((performed n r).engine 4).cmds.length = 2 ∧
      meets ((performed n r).engine 4).cmds.head? (fun c => c.result = r ∧ (readEngRec c.record).notify = (n == 1)) = true := by
  decide +kernel

/-- The strand's oldest message, tried so often, is for a strand with so many messages waiting, at this place. -/
def delivering (tries inbox : Nat) (p : Place) : State :=
  let m : Msg := { payload := 1, sender := 2 }
  let e : RetryMsg := { msg := m, rcv := .strand 0x100000007, tries := tries, delay := 40, due := 70 }
  { wUser with
    st := { wUser.st with retry := [e] }
    parked := wUser.parked ++ [{ x := Ctx.zero, st := { Strand.zero with id := 0x100000007, place := p, inbox := List.replicate inbox m } }] }

theorem wit_MessageDelivery :
    (∀ n ∈ [0, 1, 31], (delivering n 0 (.ring 2)).st.place ≠ .management ∧ (delivering n 0 (.ring 2)).st.retry.length = 1 ∧
      meets (delivering n 0 (.ring 2)).st.retry.head? (fun e => e.rcv = .strand 0x100000007 ∧ e.tries = n ∧ e.due ≤ (delivering n 0 (.ring 2)).time) = true) ∧
    (delivering 0 31 (.ring 2)).attempt 0x100000007 = .appended ∧ (delivering 0 32 (.ring 2)).attempt 0x100000007 = .refused ∧
    (delivering 0 0 .saved).attempt 0x100000007 = .overflow ∧ (delivering 0 0 .saved).attempt 0x100000008 = .ended := by
  decide +kernel

theorem wit_HubMessage :
    wUser.cp.hubOut = [] ∧
    (let s := fun (n : Nat) (p : Place) => ({ delivering 0 n p with cp := { wUser.cp with hubOut := [{ rcv := some 0x100000007, msg := { payload := 8, sender := 9 } }] } } : State)
     (s 0 (.ring 2)).cp.hubOut = [{ rcv := some 0x100000007, msg := { payload := 8, sender := 9 } }] ∧
     (s 0 (.ring 2)).attempt 0x100000007 = .appended ∧ (s 0 .saved).attempt 0x100000007 = .overflow ∧
     (s 32 (.ring 2)).attempt 0x100000007 = .refused ∧ (s 0 .saved).attempt 0x100000008 = .ended) := by decide +kernel

/-- The fabric is enabled and lets package 1 in. -/
def onFabric : State := { wUser with fab := { wUser.fab with fxep := 0x10005, fxacl := vset wUser.fab.fxacl 0 2 } }

theorem wit_RemoteMessage :
    bit onFabric.fab.fxep 16 = true ∧ (vget onFabric.fab.fxacl 0 0).getLsbD 1 = true ∧ (vget onFabric.fab.fxacl 0 1).getLsbD 6 = false ∧
    (let legal := fun (t : BitVec 32) => t.toNat / 2 ^ 29 = 4 ∧ t.toNat / 2 ^ 9 % 2 ^ 10 = 0 ∧ t.toNat % 512 < 400
     legal 0x80000000 ∧ legal 0x8000018F ∧ ¬ legal 0x80000190 ∧ ¬ legal 0xA0000000) ∧
    onFabric.occupant 1 = none ∧ onFabric.occupant 63 = none ∧ onFabric.cp.remoteIn = [] ∧
    (let s : State := { onFabric with st := { onFabric.st with inbox := List.replicate 32 { payload := 0, sender := 0 } } }
     meets (s.occupant 0) (fun st => s.attempt st.id = .refused) = true) ∧
    (let r : RemoteMsg := { entry := { msg := { payload := 1, sender := 2 }, rcv := .strand onFabric.st.id, tries := 1, delay := 2, due := 7 }, ep := 1, core := 0 }
     let s : State := { onFabric with cp := { onFabric.cp with remoteIn := [r] } }
     s.cp.remoteIn = [r] ∧ r.entry.due ≤ s.time ∧ s.attempt onFabric.st.id = .appended) ∧
    meets (onFabric.occupant 0) (fun st => onFabric.attempt st.id = .appended) = true := by decide +kernel

/-- The strand on gateway core 15, whose queue has this configuration and these blocks; blocks are of 512 bytes, 16 in window 9. -/
def gated (on : Bool) (blocks : List Nat) : State :=
  let cfg : Word := BitVec.ofNat 64 (9 + (if on then 128 else 0) + 2 * 256 + 16 * 2 ^ 32)
  { wUser with
    st := { wUser.st with place := .gateway 15 }
    gwq := vset wUser.gwq 15 { cfg := cfg, queue := blocks, waiting := [], bytes := [] } }

theorem wit_BlockQueues :
    (∀ on ∈ [true, false], (gated on []).st.place = .gateway 15 ∧ (gated on []).spec = false ∧ (gated on []).feature 3 = true ∧
      bit (vget (gated on []).gwq emptyGwq 15).cfg 7 = on ∧ (vget (gated on []).gwq emptyGwq 15).queue = []) ∧
    ((vget (gated true [3, 4]).gwq emptyGwq 15).queue = [3, 4] ∧ (vget (gated true [3, 4]).gwq emptyGwq 15).waiting = []) ∧
    (wUser.st.place = .ring 0 ∧ wUser.feature 3 = true) ∧
    (let q := vget (gated true []).gwq emptyGwq 15
     (31 : BitVec 5).toNat / 2 = 15 ∧ q.cfg.toNat % 64 = (9 : BitVec 6).toNat ∧
     (8191 : BitVec 36).toNat / (256 * (q.cfg.toNat / 2 ^ 8 % 2 ^ 20)) < q.cfg.toNat / 2 ^ 32 % 2 ^ 13 ∧ q.bytes = []) := by decide +kernel

/-! ## Witnesses: host registers, events, counters, translation -/

theorem wit_HostRegisterWrites :
    (31 < 32 ∧ 63 < 64 ∧ 7 < 8 ∧ 0x10010 ≠ 0 ∧ bits (0x0006000000000000 : Word) 48 8 ≤ 6) ∧ wUser.mbx.atstat ≠ 2 ∧
    bits ({ wUser with mbx := { wUser.mbx with mbstat := 1 } } : State).mbx.mbstat 1 2 = 0 ∧ bits wUser.mbx.mbstat 1 2 ≠ 0 := by
  decide +kernel

/-- The leaf for the page at 0x1000000, under the root at 0x100000. -/
def tables (leaf : List Host.Cell) : List Host.Cell :=
  [(0x100000, 1), (0x100002, 0x10), (0x100003, 1), (0x110000, 1), (0x110002, 0x20), (0x110003, 1)] ++ leaf

/-- Function 0 has its root at 0x100000, and a launch record stands at 0x1000000. -/
def hosted : State :=
  { wUser with
    cp := { wUser.cp with proot := vset wUser.cp.proot 0 0x100000 }
    mem := [(0x3, 1), (0x9, 0x50), (0x10, 1), (0x16, 16), (0x1C, 7), (0x21, 0x90), (0x29, 1), (0x30, 8), (0x33, 1)] ++
      tables [(0x120800, 0xDF), (0x120801, 0x18)] }

/-- What the command processor's translation of function 0's address gives. -/
def hubRead (s : State) (va : Nat) : Option Xl :=
  (s.xlateHub { ptroot := vget s.cp.proot 0 0 &&& 0xFFFFFFFFF0000, asid := vget s.cp.proot 0 0 &&& 0xFFFF, vf := 0, user := true, master := none }
    .read va).2.toOption

/-- The page of the record is one of fabric kind. -/
def hostedFabric : State :=
  { hosted with fab := { hosted.fab with fxep := 0x10005 }, mem := Memory.writeBytes hosted.mem unlisted 0x120800 (leBytes 8 0xC20000000BD7) }

theorem wit_HostLaunch :
    (4 : BitVec 5) ≠ 0 ∧ ({ wUser with cp := { wUser.cp with vfcfg := vset wUser.cp.vfcfg 0 1 } } : State).enabled 0 = false ∧
    hosted.enabled 0 = true ∧ (0x1000020 : Word).toNat % 64 ≠ 0 ∧ hubRead hosted 0x9000000 = none ∧
    (0x1000000 : Word).toNat % 64 = 0 ∧ hubRead hosted 0x1000000 = some (page 0) ∧ hosted.poisoned 0 = false ∧
    (readLaunch (hosted.memBytes 0 64)).ok = true ∧ ({ hosted with poison := [0] } : State).poisoned 0 = true ∧
    meets (hubRead hostedFabric 0x1000000) (fun x => x.kind = 1) = true := by decide +kernel

/-- Features are offered, and the host asks for these, with these windows. -/
def asking (fa : Word) (hdm : Word) (stat : Word) : State :=
  { wUser with mbx := { wUser.mbx with
    mbstat := stat, fw := vset wUser.mbx.fw 0 0x73F, fa := vset wUser.mbx.fa 0 fa, hdmcfg := hdm } }

theorem wit_MailboxCommands :
    ((asking 0x73F 0x01000100 1).mbx.mbstat.getLsbD 0 = true ∧ (asking 0x73F 0x01000100 1).mbx.mbstat.toNat / 2 % 4 = 0) ∧
    (asking 1 0 0).mbx.mbstat.getLsbD 0 = false ∧ (asking 1 0 3).mbx.mbstat.toNat / 2 % 4 ≠ 0 ∧
    vget (asking 0x800 0 1).mbx.fa 0 0 &&& ~~~(vget (asking 0x800 0 1).mbx.fw 0 0) ≠ 0 ∧
    (vget (asking 2 0 1).mbx.fa 0 0).getLsbD 0 = false ∧ 512 < (asking 1 0x201 1).mbx.hdmcfg.toNat % 2 ^ 10 ∧
    768 < (asking 1 0x01010200 1).mbx.hdmcfg.toNat / 2 ^ 16 % 2 ^ 10 + (asking 1 0x01010200 1).mbx.hdmcfg.toNat % 2 ^ 10 ∧
    ¬ (768 < (asking 1 0x01000200 1).mbx.hdmcfg.toNat / 2 ^ 16 % 2 ^ 10 + (asking 1 0x01000200 1).mbx.hdmcfg.toNat % 2 ^ 10) ∧
    wUser.mbx.atstat ≠ 2 ∧ ({ wUser with mbx := { wUser.mbx with atstat := 2 } } : State).mbx.atstat = 2 := by decide +kernel

theorem wit_RegisterWriteEvents :
    1 ≤ wSup.lvl ∧ wUser.lvl = 0 ∧ 96 ≤ ({ wUser with mg := { wUser.mg with sel := 96 } } : State).mg.sel.toNat ∧
    (wUser.mg.sensors.toArray[({ wUser with mg := { wUser.mg with sel := 95 } } : State).mg.sel.toNat]?).isSome = true ∧
    Memory.wf (fun _ => 0) wUser.sram = true := by decide +kernel

/-- A trap is held. -/
def held (s : State) : State :=
  { s with x := { s.x with held := some { cause := 0x22, akind := 2, pc := 0x1000044, tval := 5, telem := 6, tstride := 7, tremain := 8 } } }

/-- An event of counters 0 and 2 is pending, with this status. -/
def pending (status : Word) : State :=
  { wUser with st := { wUser.st with ovfPend := 5, trap := { wUser.st.trap with status := status } } }

theorem wit_TrapEvents :
    (meets (match decode 0 with | .error e => some e | .ok _ => none) (fun _ => True) = true) ∧
    (decode 0x08A4FFF0).toOption = some (.addi 5 4 0xFFF0) ∧ wUser.x.held = none ∧
    ((held (wSpec 0)).x.held ≠ none ∧ (held (wSpec 0)).spec = true) ∧
    (meets (held wUser).x.held (fun r => r.cause ≠ 0xA0 ∧ r.cause ≠ 0xC0 ∧ r.cause ≠ 0xC1) = true ∧ (held wUser).spec = false ∧
      bit (held wUser).st.trap.status 5 = false) ∧
    ((pending 0x840).st.place ≠ .management ∧ (pending 0x840).asyncDue = true ∧ bit (pending 0x840).st.trap.status 5 = false ∧
      ∀ j, j < 4 → bits (vget (pending 0x840).st.pmcfg 0 j) 48 8 ≠ 0x0D) ∧
    State.reset.st.place = .management ∧ (pending 0x800).asyncDue = false := by decide +kernel

/-- Interrupts wait for the management core. -/
def interrupted (irqs : List (Nat × Word)) (status : Word) (halted : Bool) : State :=
  { State.reset with
    st := { State.reset.st with trap := { TrapRegs.zero with status := status, tvec := 0x100 } }
    mg := { State.reset.mg with irqs := irqs, halted := halted } }

theorem wit_CoreEvents :
    (State.reset.st.place = .management ∧ State.reset.mg.irqs = []) ∧
    ((interrupted [(3, 4), (5, 6)] 0x843 false).mg.irqs = [(3, 4), (5, 6)] ∧ (interrupted [(3, 4)] 0x843 false).asyncDue = true ∧
      bit (interrupted [(3, 4)] 0x843 false).st.trap.status 5 = false ∧ (interrupted [(3, 4)] 3 false).asyncDue = false ∧
      (interrupted [(3, 4)] 0x843 true).mg.halted = true) ∧
    wUser.occupant (63 : BitVec 6).toNat = none ∧
    (wUser.st.place.master? = some (0 : BitVec 6).toNat ∧ wUser.spec = false ∧ (∃ r ∈ wUser.parked, r.st.place = .management) ∧
      ∀ r ∈ wUser.parked, r.st.id = wUser.st.id → r.st.place = .management) := by decide +kernel

/-- Performance counter 2, and bank counter 126, hold this word. -/
def counting (w : Word) (frozen : BitVec 32) : State :=
  { wSup with
    st := { wSup.st with pmcfg := vset wSup.st.pmcfg 2 w }
    cp := { wSup.cp with bankCtr := vset wSup.cp.bankCtr 126 w, bankFrozen := frozen } }

theorem wit_PerformanceCounters :
    (wUser.st.place.master? ≠ none ∧ wUser.lvl = 0 ∧ wSup.st.place.master? ≠ none ∧ 1 ≤ wSup.lvl ∧ wSup.spec = false) ∧
    bit (vget (counting 0 0).st.pmcfg 0 2) 63 = false ∧ (vget (counting 0x8000000000000005 0).st.pmcfg 0 2).toNat % 2 ^ 48 ≠ 2 ^ 48 - 1 ∧
    (let w := vget (counting 0xA000FFFFFFFFFFFF 0).st.pmcfg 0 2
     bit w 63 = true ∧ w.toNat % 2 ^ 48 = 2 ^ 48 - 1 ∧ bit w 61 = true) ∧
    (let w := vget (counting 0x8000FFFFFFFFFFFF 0).st.pmcfg 0 2
     bit w 63 = true ∧ w.toNat % 2 ^ 48 = 2 ^ 48 - 1 ∧ bit w 61 = false) ∧
    (let s := counting 0x8000FFFFFFFFFFFF 0
     let b := vget s.cp.bankCtr 0 (4 * (31 : BitVec 5).toNat + (2 : BitVec 2).toNat)
     bit b 63 = true ∧ b.toNat % 2 ^ 48 = 2 ^ 48 - 1 ∧ s.cp.bankFrozen.getLsbD (31 : BitVec 5).toNat = false ∧ bit b 61 = false) ∧
    (let b := vget (counting 0xA000FFFFFFFFFFFF 0).cp.bankCtr 0 126
     bit b 63 = true ∧ b.toNat % 2 ^ 48 = 2 ^ 48 - 1 ∧ bit b 61 = true) ∧
    (counting 0x8000FFFFFFFFFFFF 0x80000000).cp.bankFrozen.getLsbD 31 = true := by decide +kernel

/-- Memory holds tables; these lines are poisoned. -/
def walking (m : List Host.Cell) (poison : List Nat) : State := { wUser with mem := m, poison := poison }

theorem wit_TranslationWalk :
    let s := walking (tables [(0x120800, 0xDF), (0x120801, 0x18)]) []
    (2 ^ 54 ≤ 0x40000000000000) ∧ isHbm 0x100000 = true ∧ s.allowed 0 0x100000 65536 = true ∧
    (s.poisoned 0x100000 = false ∧ s.malformed 0 (s.mem64 0x100000) 1 = false ∧ pteV (s.mem64 0x100000) = true) ∧
    (s.poisoned 0x110000 = false ∧ s.malformed 0 (s.mem64 0x110000) 2 = false ∧ pteV (s.mem64 0x110000) = true ∧
      pteLf (s.mem64 0x110000) = false) ∧
    (s.poisoned 0x120800 = false ∧ s.malformed 0 (s.mem64 0x120800) 3 = false ∧ pteV (s.mem64 0x120800) = true) ∧
    (walking (tables []) [0x100000 / 64]).poisoned 0x100000 = true ∧ pteV ((walking [] []).mem64 0x100000) = false ∧
    (let s := walking [(0x100000, 3), (0x100002, 0x10), (0x100003, 1)] []
     pteV (s.mem64 0x100000) = true ∧ s.malformed 0 (s.mem64 0x100000) 1 = true) ∧
    pteV ((walking [(0x100000, 1), (0x100002, 0x10), (0x100003, 1)] []).mem64 0x110000) = false ∧
    (let s := walking [(0x100000, 1), (0x100002, 0x10), (0x100003, 1), (0x110000, 0xDF), (0x110001, 0x18)] []
     s.malformed 0 (s.mem64 0x110000) 2 = false ∧ pteV (s.mem64 0x110000) = true ∧ pteLf (s.mem64 0x110000) = true) ∧
    pteV ((walking (tables []) []).mem64 0x120800) = false ∧ (isHbm 0x8000000000000 = false) ∧ (walking [] [0x110000 / 64, 0x120800 / 64]).poisoned 0x110000 = true ∧
    (walking [] [0x110000 / 64, 0x120800 / 64]).poisoned 0x120800 = true ∧
    ((walking [] []).malformed 0 3 2 = true ∧ pteV 3 = true ∧ (walking [] []).malformed 0 1 3 = true ∧ pteV 1 = true) := by decide +kernel

/-- A held store of the strand covers an entry of the first level, which a walk then does not read. -/
def walkHeld : State :=
  let s : State := { wSup with tlb := [], mem := tables [(0x120800, 0xDF), (0x120801, 0x18)] }
  let it := s.item (.vst 0 8 4 3 0)
  let p : Pipe := { items := [{ i := 0, f := 0, va := 0x1000000, n := 8, pa := 0x100000, vc := 1, kind := 0 }], fault := none }
  { s with st := { s.st with vqueue := [{ it with x := { it.x with pipe := some p } }] } }

def probeError (s : State) (k : Acc) (va : Nat) : Option (BitVec 8) :=
  match s.xlateProbe s.walkRead s.space k va with | .error c => some c | .ok _ => none

theorem wit_TranslationInstructions :
    (wUser.st.place.master? = some 0 ∧ wUser.lvl = 0) ∧ (wSup.st.place.master? = some 0 ∧ 1 ≤ wSup.lvl ∧ (4 : BitVec 5) ≠ 0) ∧
    meets (wSup.xlateProbe wSup.walkRead wSup.space .read 0x1000100).toOption (fun x => x = page 0x100) = true ∧
    probeError wSup .write 0x40000000000000 = some 0x20 ∧
    probeError { wSup with tlb := [], poison := [0x100000 / 64] } .read 0x1000100 = some 0xC0 ∧
    (walkHeld.walkRead 0x100000 = none ∧ probeError walkHeld .read 0x1000100 = some mustWait) := by decide +kernel

/-- The log of die 1 names what entry 3 names, two entries not yet applied, and has overflowed or not. -/
def logged (over_ : Bool) : State :=
  { wUser with
    mbx := { wUser.mbx with tlbase := 0x800000 }
    mem := [(0x810000, 5), (0x810008, 3)] ++ (if over_ then [(0x810010, 1)] else []) ++ [(0x810073, 1), (0x81007A, 1)] }

theorem wit_TranslationLogApplied : ∀ o ∈ [true, false], (logged o).memWf = true ∧ 1 ≤ 8 ∧
    ((logged o).mem64 0x810008).toNat ≤ ((logged o).mem64 0x810000).toNat ∧
    ((logged o).mem64 0x810000).toNat ≤ ((logged o).mem64 0x810008).toNat + 4092 ∧
    (((logged o).memByte 0x810010).getLsbD 0 = o) := by decide +kernel

/-- A supervisor with a log record of this operation at 0x100, s4 holding its address; the log of die 0 has this append counter. -/
def appending (op : Byte) (app : List Host.Cell) : State :=
  { wSup.setS 4 0x1000100 with
    mbx := { wSup.mbx with tlbase := 0x800000 }
    mem := [(0x103, 1)] ++ (if op = 0 then [] else [(0x10A, op)]) ++ app }

/-- The record that the operand of TLOGW names. -/
def record16 (s : State) : List Byte := (List.range 16).map (fun i => s.viewByte false (0x100 + i))

theorem wit_TranslationLogAppend :
    ((begun 1).st.place.master? ≠ none ∧ 1 ≤ (begun 1).lvl ∧ (begun 1).st.active = true) ∧
    ((wSup.setS 4 0x1000108).st.active = false ∧ ((wSup.setS 4 0x1000108).getS 4).toNat % 16 ≠ 0) ∧
    4 < ((record16 (appending 5 [])).getD 10 0).toNat ∧
    (∀ op ∈ [(4 : Byte), 0], (∀ b ∈ (record16 (appending op [])).drop 11, b = 0) ∧ (record16 (appending op [])).getD 10 0 = op ∧
      (appending op []).noneHeld = true ∧ (appending op []).policy 1 ≠ 3) ∧
    ({ appending 4 [] with st := walkHeld.st } : State).noneHeld = false ∧
    (let w := ((appending 0 [(0x800000, 0xFC), (0x800001, 0x0F)]).atRead (page 0x100) 16).release
     w.mem64 0x800000 - w.mem64 0x800008 = 4092) ∧
    (let w := ((appending 0 [(0x800000, 5)]).atRead (page 0x100) 16).release
     w.mem64 0x800000 - w.mem64 0x800008 ≠ 4092) := by
  decide +kernel

theorem wit_TranslationLogAppend_plain :
    (∀ op ∈ [(4 : Byte), 0, 5], (appending op []).Plain .read ((appending op []).getS 4) 16 (page 0x100)) ∧
    (appending 0 [(0x800000, 0xFC), (0x800001, 0x0F)]).Plain .read ((appending 0 [(0x800000, 0xFC), (0x800001, 0x0F)]).getS 4) 16 (page 0x100) := by
  refine ⟨fun op h => ?_, plain_of (by decide +kernel) (by decide +kernel)⟩
  simp only [List.mem_cons, List.not_mem_nil, or_false] at h
  rcases h with rfl | rfl | rfl <;> exact plain_of (by decide +kernel) (by decide +kernel)

/-! ## Witnesses: vcaches -/

/-- A plat of this identifier and owner in ways 0 to 3 of the first slices of its map. -/
def plat (id owner policy : Nat) (ways : BitVec 16) (map : BitVec 512) : Plat :=
  { id := id, repl := true, policy := policy, line := 1, owner := owner, fast := false, waymask := ways, map := map }

/-- Vcache 2 has a plat, 3 one that drains too, 4 is being deleted; line 4 of each. -/
def vcaches (lvl : Nat) : State :=
  let vs : List Vcache := [
    { id := 2, current := some (plat 2 0 0 0xF 0xFF), draining := none, deleting := false, degraded := false, issuer := some 3, moved := 1, written := 2 },
    { id := 3, current := some (plat 3 5 3 0xF0 0xFF), draining := some (plat 3 5 0 0xF00 0xFF), deleting := false, degraded := true, issuer := some 3, moved := 7, written := 8 },
    { id := 4, current := none, draining := some (plat 4 0xFF 0 0xF000 0xFF), deleting := true, degraded := false, issuer := some 3, moved := 7, written := 8 }]
  let lines : List CLine := [
    { holder := .vcache 3, line := 4, state := .modified, current := false, way := 0, probe := none },
    { holder := .vcache 4, line := 4, state := .shared, current := false, way := 0, probe := none },
    { holder := .vcache 2, line := 4, state := .modified, current := true, way := 3, probe := none },
    { holder := .l1 0, line := 4, state := .modified, current := true, way := 3, probe := none }]
  let s := atLvl wUser lvl
  { s with cache := { s.cache with vcaches := vs, lines := lines, fenced := [0x1005] } }

/-- s4 holds the address of a plat record at 0x100 whose first bytes are these, and whose map has bit 256 + n. -/
def defining (id policy owner : Byte) (lvl n : Nat) : State :=
  { (vcaches lvl).setS 4 0x1000100 with
    mem := [(0x100, id), (0x101, 0x21 + 4 * policy), (0x102, owner), (0x104, 0x20), (0x106, 1), (0x160 + n / 8, BitVec.ofNat 8 (2 ^ (n % 8)))].filter (fun c => c.2 != 0) }

theorem wit_VcacheDefine :
    ((vcaches 1).st.place ≠ .saved ∧ (vcaches 1).feature 2 = true ∧ (vcaches 1).lvl = 1 ∧ (vcaches 1).spec = false ∧
      (vcaches 3).lvl = 3 ∧ ((((vcaches 1).setS 4 0x1000140).getS 4).toNat % 128 ≠ 0)) ∧
    (let reads := fun (s : State) (p : Option Plat → Prop) [DecidablePred p] =>
       meets (s.memRead 0x1000100 128).toOption (fun r => p (readPlat r.2)) = true
     reads (defining 9 5 0 1 44) (· = none) ∧ reads (defining 1 1 0 1 44) (fun p => meets p (fun p => p.id = 1) = true) ∧
     reads (defining 9 1 7 1 44) (fun p => meets p (fun p => p.owner = 7) = true) ∧
     reads (defining 3 1 0 1 44) (fun p => meets p (fun p => p.id = 3 ∧ p.owner = 0) = true) ∧
     reads (defining 4 1 0 3 44) (fun p => meets p (fun p => p.id = 4 ∧ p.policy = 1) = true) ∧
     reads (defining 9 1 0 1 44) (fun p => meets p (fun p => p.map.getLsbD 300 = true ∧ p.waymask = 0x20) = true)) ∧
    (meets ((vcaches 3).vcache? 4) (fun v => v.draining ≠ none ∧ v.deleting = true) = true ∧
      meets ((vcaches 1).vcache? 3) (fun v => meets v.plat? (fun p => p.owner = 5) = true) = true ∧
      (vcaches 1).cache.fenced = [0x1005] ∧ (vcaches 1).vcache? 9 = none) ∧
    (let p := plat 9 0 1 0x20 (2 ^ 256)
     p.map.getLsbD ((0x1005 : BitVec 13).toNat / 16) = true ∧ p.waymask.getLsbD ((0x1005 : BitVec 13).toNat % 16) = true) := by
  decide +kernel

theorem wit_VcacheDefine_plain :
    (defining 9 1 0 1 44).Plain .read ((defining 9 1 0 1 44).getS 4) 128 (page 0x100) ∧ (defining 9 1 0 1 44).policy 1 ≠ 3 :=
  ⟨plain_of (by decide +kernel) (by decide +kernel), by decide +kernel⟩

theorem wit_VcacheDeleteAndQuery :
    ((vcaches 1).st.place ≠ .saved ∧ (vcaches 1).feature 2 = true ∧ 1 ≤ (vcaches 1).lvl ∧ (vcaches 1).spec = false) ∧
    255 < (0x100000002 : Word).toNat ∧ (vcaches 1).vcache? 255 = none ∧
    meets ((vcaches 1).vcache? 3) (fun v => meets v.plat? (fun p => p.owner ≠ (vcaches 1).st.vf.toNat ∧ p.owner ≠ 0xFF) = true ∧ (vcaches 1).lvl = 1) = true ∧
    meets ((vcaches 1).vcache? 2) (fun v => meets v.plat? (fun p => p.owner = (vcaches 1).st.vf.toNat ∧ p.policy < 8 ∧ p.line < 4) = true ∧
      v.draining = none ∧ v.deleting = false) = true ∧
    meets ((vcaches 3).vcache? 4) (fun v => v.draining ≠ none ∧ (vcaches 3).lvl ≠ 1) = true := by decide +kernel

/-- s4 and s5 hold a range; its page may be one of the read-only vcache 5. -/
def ranged (a n : Word) (ro : Bool) : State :=
  let t : TlbEntry := { master := 0, asid := 0, vpage := 0x100, large := false, entry := if ro then 0x58DF else 0x18DF }
  let v : Vcache := { id := 5, current := some (plat 5 0 3 0xF 0xFF), draining := none, deleting := false, degraded := false, issuer := none, moved := 0, written := 0 }
  let s := (wUser.setS 4 a).setS 5 n
  { s with tlb := [t], cache := { s.cache with vcaches := [v] } }

/-- The pages that a range touches, each with the address where the range enters it. -/
def pagesOf (va n : Nat) : List Nat :=
  (List.range ((va + n - 1) / 65536 - va / 65536 + 1)).map (fun i => max va ((va / 65536 + i) * 65536))

theorem wit_VcacheRangeOperations :
    (wUser.st.place.master? ≠ none ∧ ((ranged 0x1000100 0 false).getS 5).toNat = 0) ∧
    2 ^ 54 < ((ranged 0x3FFFFFFFFFFFFF 2 false).getS 4).toNat + ((ranged 0x3FFFFFFFFFFFFF 2 false).getS 5).toNat ∧
    ((ranged 0x40000000 8 false).keptXl 0x40000000 = none ∧
      ((ranged 0x40000000 8 false).xlate (ranged 0x40000000 8 false).walkRead (ranged 0x40000000 8 false).space .read 0x40000000).2.toOption = none) ∧
    (pagesOf 0x100FF00 256 = [0x100FF00] ∧ pagesOf 0x100FF00 257 = [0x100FF00, 0x1010000]) ∧
    (∀ ro ∈ [true, false], 0x100FF00 % 65536 + 256 ≤ 65536 ∧ (ranged 0x100FF00 256 ro).keptXl 0x100FF00 = none ∧
      ((ranged 0x100FF00 256 ro).policy (if ro then 5 else 1) = 3 ↔ ro = true)) ∧
    onFabricPage.keptXl 0x1010100 = none ∧ (ranged 0x100FF00 256 false).countsNone [6] = true := by decide +kernel

theorem wit_VcacheRangeOperations_maps :
    (ranged 0x100FF00 256 true).xlate (ranged 0x100FF00 256 true).walkRead (ranged 0x100FF00 256 true).space .read 0x100FF00 =
      (ranged 0x100FF00 256 true, .ok { page 0xFF00 with vc := 5 }) ∧
    (ranged 0x100FF00 256 false).xlate (ranged 0x100FF00 256 false).walkRead (ranged 0x100FF00 256 false).space .read 0x100FF00 =
      (ranged 0x100FF00 256 false, .ok (page 0xFF00)) ∧
    ∃ x, onFabricPage.xlate onFabricPage.walkRead onFabricPage.space .read 0x1010100 = (onFabricPage, .ok x) ∧ x.kind = 1 :=
  ⟨xlate_of_hits _ _ _ _ _ (by decide +kernel), xlate_of_hits _ _ _ _ _ (by decide +kernel),
   leafXl 0x80300AD7 false 0x1010100, xlate_of_hits _ _ _ _ _ (by decide +kernel), by decide +kernel⟩

/-- What drains of vcache 3: a dirty line of a plat of this policy, or a clean line, with a current plat or none. -/
def draining (policy : Nat) (st : LineState) (cur : Option Plat) (lines : Bool) : State :=
  let v : Vcache := { id := 3, current := cur, draining := some (plat 3 5 policy 0xF00 0xFF), deleting := cur.isNone, degraded := false, issuer := some 3, moved := 7, written := 8 }
  let l : CLine := { holder := .vcache 3, line := 4, state := st, current := false, way := 0, probe := none }
  { wUser with cache := { wUser.cache with vcaches := [v], lines := if lines then [l] else [] } }

/-- Additions pend at 0x100 on a page of vcache 3, of function 5, and a line of it is on its way home; the function's counter 2. -/
def chaining (w : Word) (frozen : BitVec 32) : State :=
  let s := vcaches 1
  let c : Scatter := { pa := 0x100, vc := 3, wide := true, op := 0, value := 3, owner := wUser.st.id }
  { s with
    scatter := [c, { c with pa := 0x200 }, c]
    cp := { s.cp with bankCtr := vset s.cp.bankCtr 22 w, bankFrozen := frozen }
    cache := { s.cache with lines := [{ holder := .vcache 3, line := 4, state := .evictPending, current := true, way := 0, probe := none }] } }

theorem wit_BankEvents :
    (∀ s ∈ [chaining 0x8005000000000000 0, chaining 0xE006FFFFFFFFFFFE 0x20, chaining 0x0005000000000007 0],
      (∃ c ∈ s.scatter, c.pa = (0x100 : BitVec 52).toNat ∧ c.vc = 3) ∧ (s.scatter.filter (fun c => c.pa == 0x100)).length = 2 ∧
      meets (s.cline? (.vcache 3) ((0x100 : BitVec 52).toNat / 64)) (fun l => l.state = .evictPending) = true ∧
      meets (s.vcache? 3) (fun v => meets v.plat? (fun p => p.owner = 5) = true) = true ∧
      bits (vget s.cp.bankCtr 0 (4 * 5 + 2)) 48 8 ∈ [5, 6]) ∧
    bit (0xE006FFFFFFFFFFFE : Word) 63 = true ∧ (0xE006FFFFFFFFFFFE : Word).toNat % 2 ^ 48 < 2 ^ 48 - 1 ∧
    bit (0x0005000000000007 : Word) 63 = false ∧ (0 : BitVec 32).getLsbD 5 = false ∧ (0x20 : BitVec 32).getLsbD 5 = true := by decide +kernel

theorem wit_VcacheDrain :
    (∀ c ∈ [((3 : Nat), LineState.modified, some (plat 3 5 0 0xF0 0xFF)), (0, .shared, none), (0, .modified, some (plat 3 5 0 0xF0 0xFF)), (0, .owned, none)],
      let s := draining c.1 c.2.1 c.2.2 true
      meets (s.vcache? 3) (fun v => meets v.draining (fun p => p.policy = c.1) = true ∧ v.current = c.2.2) = true ∧
      meets (s.cache.lines.find? (drains 3)) (fun l => l.state = c.2.1 ∧ s.sameLine l l = true) = true) ∧
    (let s := draining 0 .modified (some (plat 3 5 0 0xF0 0xFF)) true
     (plat 3 5 0 0xF0 0xFF).line = (plat 3 5 0 0xF00 0xFF).line ∧ (s.freeWay (some (plat 3 5 0 0xF0 0xFF)) 4).isSome = true) ∧
    (let s := draining 0 .modified none false
     s.cache.lines.find? (drains 3) = none ∧ (∀ l ∈ s.cache.lines, ¬ (l.holder = .vcache 3 ∧ l.current = false)) ∧
     meets (s.vcache? 3) (fun v => v.issuer = some 3) = true) := by decide +kernel

theorem wit_ParcelFenced :
    (0x1005 : BitVec 13) ∈ (vcaches 1).cache.fenced ∧ (0x1006 : BitVec 13) ∉ (vcaches 1).cache.fenced ∧
    (vcaches 1).cache.vcaches.all (fun v => !v.holdsParcel (0x1006 / 16) (0x1006 % 16)) = true ∧
    ((vcaches 1).cache.vcaches.find? (fun v => v.holdsParcel (0 / 16) (0 % 16))).isSome = true := by decide +kernel

/-- Additions pend at 0x100. -/
def adding (wide : Bool) : State :=
  let c : Scatter := { pa := 0x100, vc := 1, wide := wide, op := 0, value := 0xFFFFFFFFFFFFFFFF, owner := wUser.st.id }
  { wMem with scatter := [c, { c with value := 3 }, { c with pa := 0x200 }] }

theorem wit_BankArithmetic :
    (wMem.memWf = true ∧ wMem.scatter = []) ∧
    (∀ w ∈ [true, false], (10 ≤ 10 ∧ 0x100 % (if w then 8 else 4) = 0 ∧ (isHbm 0x100 || isHostMem 0x100 || isPool 0x100) = true ∧
      wMem.poisoned 0x100 = false ∧ wMem.inDoubt 0x100 (if w then 8 else 4) = false ∧ wMem.hostLines true 0x100 (if w then 8 else 4) = []) ∧
      ((adding w).scatter.filter (fun c => c.pa == 0x100)).length = 2 ∧
      ((adding w).scatter.filter (fun c => c.pa == 0x100)).all (fun c => c.wide == w && c.op == 0) = true) ∧
    0x104 % 8 ≠ 0 ∧ ¬ (11 ≤ 10) := by decide +kernel

/-! ## Witnesses: Closure groups -/

/-- Package 5 of a fabric that lets every package in; its window 9 leads to two pages at 0x1000000, the first of which has a leaf.
s20 names local group 6, s4 holds an address, 0x1010000 is a page of the fabric. -/
def wClo (a : Word) : State :=
  let s := ((onFabricPage.setS 4 a).setS 20 326).setS 5 9
  { s with
    time := 2050
    mem := tables [(0x120800, 0xDF), (0x120801, 0x19)]
    fab := { s.fab with
      fxclcfg := 0x0000004007D007D0, lanes := vset s.fab.lanes 3 4, fxacl := vset s.fab.fxacl 0 0xFFFFFFFFFFFFFFFF, wina := vset s.fab.wina 9 0x1000000
      winb := vset s.fab.winb 9 0x100000, winc := vset s.fab.winc 9 0xE000000000000002 } }

def dest (ep : BitVec 10) (count acked : Nat) (vote : Option (BitVec 8)) (done : Bool) : Dest :=
  { ep := ep, count := count, hash := 5, acked := acked, vote := vote, done := done, refused := false }

/-- Group l of the strand. -/
def mine (l : Nat) (state : GState) (held : Bool) (dests : List Dest) : Group1 :=
  { loc := l, owner := (wClo 0).st.id, vf := 0, state := state, held := held, seq := 3, dests := dests, reason := 7, lostStore := false, since := 10,
    publish := false, waited := false, inCommit := false }

/-- The package has these groups. -/
def grouped (a : Word) (gs : List Group1) : State := { wClo a with clo := { (wClo a).clo with mine := gs } }

theorem wit_GroupOpenAndAbort :
    (let s := grouped 0 [mine 0 .open_ true [], mine 6 .open_ true []]
     s.st.place.master? ≠ none ∧ s.feature 1 = true ∧ s.spec = false ∧
     meets (s.group1? 0) (fun r => s.groupFree r = false) = true ∧ s.group1? 1 = none ∧ s.openGroup 327 = none ∧
     meets (s.openGroup (s.getS 20)) (fun r => r.loc = 6) = true) ∧
    (let s := grouped 0 ((List.range 64).map (fun l => mine l .open_ true []))
     (List.range 64).all (fun l => meets (s.group1? l) (fun r => s.groupFree r = false)) = true) := by decide +kernel

/-- Sixteen destinations. -/
def sixteen : List Dest := (List.range 16).map (fun i => dest (BitVec.ofNat 10 (i + 10)) 1 1 none false)

/-- What GST's address leads to. -/
def gstMeets (s : State) (p : State → Xl → Prop) [∀ u x, Decidable (p u x)] : Bool :=
  let r := s.xlate s.walkRead s.space .write (s.getS 4).toNat
  decide (s.keptXl (s.getS 4).toNat = none) && meets r.2.toOption (fun x => p r.1 x)

theorem wit_GroupStore :
    (let s := grouped 0x1000100 [mine 6 .open_ true []]
     s.st.place.master? ≠ none ∧ s.feature 1 = true ∧ s.spec = false ∧ (s.getS 4).toNat < 2 ^ 54 ∧ (s.getS 4).toNat % 8 = 0 ∧
     s.regionAt (s.getS 4).toNat 8 = none ∧ gstMeets s (fun _ x => x.kind ≠ 1) = true) ∧
    (let s := grouped 0x1010100 []
     gstMeets s (fun u x => x.kind = 1 ∧ u.openGroup (u.getS 20) = none) = true) ∧
    (∀ st ∈ [GState.open_, .doomed], gstMeets (grouped 0x1010100 [mine 6 st true []]) (fun u x => x.kind = 1 ∧
      meets (u.openGroup (u.getS 20)) (fun r => r.state = st ∧ (countStore (BitVec.ofNat 10 x.ep)
        (storeHash x.window x.off 8 (leNat (leBytes 8 (u.getS 5).toNat))) r.dests 16).isSome = true) = true) = true) ∧
    gstMeets (grouped 0x1010100 [mine 6 .open_ true sixteen]) (fun u x => meets (u.openGroup (u.getS 20)) (fun r => r.state = .open_ ∧
      (r.dests.map (·.ep)).length = 16 ∧ BitVec.ofNat 10 x.ep ∉ r.dests.map (·.ep)) = true) = true := by decide +kernel

/-- A GCOMMIT of group 6 is under way. -/
def committing (state : GState) (waited : Bool) : State :=
  let g := mine 6 state true [dest 3 2 2 none false]
  let s := grouped 0 [{ g with inCommit := true, waited := waited }]
  { s with x := { s.x with replies := [.data []] } }

theorem wit_GroupCommit :
    (∀ p ∈ [(GState.published, false), (.aborted, false), (.pending, true), (.committing, false), (.pending, false)],
      let s := committing p.1 p.2
      s.st.place.master? ≠ none ∧ s.feature 1 = true ∧ s.spec = false ∧
      meets (s.committing? (s.getS 20)) (fun r => r.state = p.1 ∧ r.waited = p.2) = true) ∧
    ((grouped 0 []).committing? ((grouped 0 []).getS 20) = none ∧ (grouped 0 []).openGroup ((grouped 0 []).getS 20) = none) ∧
    (∀ g ∈ [mine 6 .open_ true [dest 3 2 1 none false], mine 6 .open_ true [], mine 6 .doomed true [], { mine 6 .open_ true [dest 3 2 1 none false] with lostStore := true },
        mine 6 .open_ true [dest 3 2 2 none false]],
      let s := grouped 0 [g]
      s.committing? (s.getS 20) = none ∧ s.openGroup (s.getS 20) = some g ∧ s.noneHeld = true ∧
      s.release.sysWait.toOption = some () ∧ g.dests.all (fun e => !e.done && !e.refused && e.vote.isNone && !s.fab.unreachable.contains e.ep) = true) := by
  decide +kernel

/-- The group 2 of package 3, as staged here. -/
def staged (state : DState) (stores : List Staged) (marked asking : Bool) : Group2 :=
  { g := 194, state := state, stores := stores, windows := [9], held := 0, reason := 0, parties := [6, 7], marked := marked, reported := false,
    resolved := false, outcomeAcked := false, since := 50, asking := asking, answers := [] }

/-- This package stages it. -/
def staging (r : Group2) (lvl : Nat) : State :=
  let s := atLvl ((wClo 0).setS 20 194) lvl
  { s with clo := { s.clo with here := [r] } }

theorem wit_GroupStatusAndResolve :
    (let s := grouped 0 [mine 6 .open_ true []]
     s.st.place ≠ .saved ∧ s.feature 1 = true ∧ s.spec = false ∧ s.lvl = 0 ∧ (326 : Nat) / 64 = bits s.fab.fxep 0 10 ∧
     meets (s.group1? (326 % 64)) (fun r => r.vf = s.st.vf ∧ r.dests.length < 2 ^ 16) = true ∧ s.group1? (327 % 64) = none) ∧
    (let s := staging (staged .published [] false false) 1
     (194 : Nat) / 64 ≠ bits s.fab.fxep 0 10 ∧ s.lvl ≠ 0 ∧ 1 ≤ s.lvl ∧ meets (s.group2? 194) (fun r => r.state.final = true) = true ∧ s.group2? 195 = none) ∧
    (let s := staging (staged .inDoubt [] false false) 2
     s.lvl ≠ 1 ∧ 1 ≤ s.lvl ∧ meets (s.group2? 194) (fun r => r.state = .inDoubt) = true) := by decide +kernel

theorem wit_GroupDecision :
    (let r := mine 6 .committing false [dest 3 2 2 (some 0) false, dest 4 1 1 none false]
     let s := grouped 0 [r]
     s.mineNo 326 = some r ∧ r.state = .committing ∧ (∃ e ∈ r.dests, e.ep = 4 ∧ e.vote = none) ∧
     (∀ e ∈ r.dests.map (fun (e : Dest) => if e.ep = 4 then { e with vote := some 2 } else e), e.vote ≠ none) ∧
     (∀ e ∈ r.dests, e.done = false ∧ e.refused = false ∧ e.vote ≠ some 4) ∧
     r.since + bits s.fab.fxclcfg 16 16 ≤ s.time) ∧
    (let r := mine 6 .committing false [dest 3 2 2 none false, dest 4 1 1 none false]
     (grouped 0 [r]).mineNo 326 = some r ∧ (∃ e ∈ r.dests, e.ep = 4 ∧ e.vote = none) ∧
     ∃ e ∈ r.dests.map (fun (e : Dest) => if e.ep = 4 then { e with vote := some 2 } else e), e.vote = none) ∧
    (let r := { mine 6 .open_ false [] with since := 80 }
     (grouped 0 [r]).mineNo 326 = some r ∧ r.state ≠ .committing ∧ r.held = false ∧ ¬ (r.since + bits (grouped 0 [r]).fab.fxclcfg 16 16 ≤ (grouped 0 [r]).time)) ∧
    (let r := mine 6 .pending true [dest 3 2 2 (some 0) true, dest 4 1 1 none false]
     (grouped 0 [r]).mineNo 326 = some r ∧ r.held = true ∧ r.state = .pending ∧ (∃ e ∈ r.dests, e.ep = 4 ∧ e.done = false) ∧
     ∀ e ∈ r.dests.map (fun (e : Dest) => if e.ep = 4 then { e with done := true, refused := false } else e), e.done = true) := by
  decide +kernel

/-- Store 2 of group 6 has gone to package 3. -/
def sentStore : State :=
  let q : FabReq := { id := 44, kind := .group, owner := (wClo 0).st.id, va := 0, ep := 3, window := 2, off := 3, slot := none, sentAt := 0, group := some (326, 2, 1) }
  let s := grouped 0 [mine 6 .open_ true [dest 3 3 2 none false]]
  { s with fab := { s.fab with reqs := [q] } }

theorem wit_GroupStoreAcknowledged :
    meets (sentStore.fab.reqs.find? (fun q => q.kind == .group && q.ep == 3 && q.group == some ((326 : BitVec 16).toNat, (2 : BitVec 32).toNat, 1))) (fun q => q.id = 44) = true ∧
    meets (sentStore.clo.mine.find? (fun r => sentStore.groupNo r.loc == (326 : BitVec 16).toNat && r.held)) (fun r => r.loc = 6) = true := by decide +kernel

/-- A staged store. -/
def stagedStore : Staged := { seq := 2, window := 9, off := 0x100, pa := 0x100, vc := 1, data := [1, 2, 3, 4] }

theorem wit_GroupAtDestination :
    (let s := staging (staged .staging [stagedStore] false false) 0
     bit s.fab.fxep 16 = true ∧ s.admitted 3 = true ∧ (3 : BitVec 10) = initiatorOf 194 ∧
     (s.windowCheck .write 3 9 0x120 8).toOption.isSome = true ∧ s.instance2 194 = staged .staging [stagedStore] false false ∧
     s.stageRoom { staged .staging [stagedStore] false false with since := s.time } = true ∧
     (∃ p ∈ [3], p < 32 ∧ vget s.fab.lanes 0 p ≠ 0) ∧ [stagedStore].length ≠ 2 ∧ [stagedStore].length = 1 ∧ ∀ w ∈ [(9 : BitVec 6)], s.windowOff w = false) ∧
    (∀ m ∈ [true, false], let s := staging (staged .inDoubt [stagedStore] m false) 0
      meets (s.group2? 194) (fun r => r.state = .inDoubt ∧ r.marked = m) = true ∧ (initiatorOf 194).toNat ≠ bits s.fab.fxep 0 10) := by
  decide +kernel

theorem wit_PublishAppliesStores :
    (staging (staged .inDoubt [stagedStore, { stagedStore with seq := 1, pa := 0x104 }] false false) 0).memWf = true ∧
    ∀ i ∈ [0, 1], ∀ j ∈ [0, 1], i ≠ j → ∃ a ∈ ([0x100, 0x104][i]? : Option Nat), ∃ b ∈ ([0x100, 0x104][j]? : Option Nat), a + 4 ≤ b ∨ b + 4 ≤ a := by
  decide +kernel

theorem wit_GroupTermination :
    (∀ r ∈ [staged .inDoubt [] false false, staged .staging [stagedStore] false false, staged .staging [stagedStore] false true,
        staged .inDoubt [] false true],
      (staging r 0).fabricOn = true ∧ (staging r 0).admitted 3 = true ∧ (staging r 0).group2? 194 = some r ∧ initiatorOf 194 ∉ (staging r 0).fab.unreachable ∧ r.g = 194 ∧
      r.since + bits (staging r 0).fab.fxclcfg 0 16 ≤ (staging r 0).time ∧ (staging r 0).time < r.since + 100 * bits (staging r 0).fab.fxclcfg 0 16) ∧
    (let s : State := { staging (staged .staging [stagedStore] false false) 0 with time := 200050 }
     50 + 100 * bits s.fab.fxclcfg 0 16 ≤ s.time) ∧
    (let s : State := { staging (staged .inDoubt [] false false) 0 with time := 2049 }
     s.time < 50 + bits s.fab.fxclcfg 0 16) ∧
    (let s : State := { staging (staged .staging [] false false) 0 with fab := (staging (staged .staging [] false false) 0).fab }
     ({ s with fab := { s.fab with fxep := 5 } } : State).fabricOn = false ∧
     ({ s with fab := { s.fab with fxacl := vset s.fab.fxacl 0 0 } } : State).admitted 3 = false) := by decide +kernel

/-! ## Witnesses: the fabric, dies, caches, host and pool -/

/-- The base state of the fabric's statements, its first page written. -/
def target : State := { wClo 0x1000100 with mem := [(0x100, 5), (0x104, 9)] ++ (wClo 0).mem }

theorem wit_FabricWindowRequests :
    let addr : Word := 0x9000000100
    target.memWf = true ∧ windowRequestOk addr .read 0 [] = false ∧ windowRequestOk addr .write 8 [1] = false ∧
    (windowRequestOk 0x9000020000 .read 8 [] = true ∧ (target.windowCheck (reqAcc .read) 3 9 0x20000 8).toOption = none) ∧
    (∀ p ∈ [(ReqKind.read, ([] : List Byte), Acc.read), (.write, [1, 2, 3, 4, 5, 6, 7, 8], .write), (.atomic 9, leBytes 16 77, .both)],
      windowRequestOk addr p.1 8 p.2.1 = true ∧ reqAcc p.1 = p.2.2 ∧ (target.windowCheck p.2.2 3 9 0x100 8).toOption = some (page 0x100) ∧
      (target.targetPieces p.2.2 3 9 0x100 8).toOption = some [(page 0x100, 8)] ∧ target.blocked (p.2.2 != .read) 0x100 8 = false) ∧
    (∀ l ∈ linesOf 0x100 8, target.poisoned (l * 64) = false) ∧ target.poisoned 0x100 = false ∧
    (let s : State := { target with poison := [4] }
     (∃ l ∈ linesOf 0x100 8, s.poisoned (l * 64) = true) ∧ (s.targetPieces .read 3 9 0x100 8).toOption = some [(page 0x100, 8)] ∧
       (s.windowCheck .read 3 9 0x100 8).toOption = some (page 0x100)) ∧
    (let s : State := { target with cache := { target.cache with lines := [{ holder := .host, line := 4, state := .modified, current := true, way := 0, probe := none }] } }
     s.blocked true 0x100 8 = true ∧ (s.targetPieces .write 3 9 0x100 8).toOption = some [(page 0x100, 8)]) := by decide +kernel

/-- The target with this word for window 9, and with or without the fabric. -/
def windowed (c : Word) (on : Bool) : State :=
  { target with fab := { target.fab with winc := vset target.fab.winc 9 c, fxep := if on then 0x10005 else 5 } }

theorem wit_FabricTargetCheck :
    bit (windowed 0xE000000000000002 false).fab.fxep 16 = false ∧
    (∀ c ∈ [(0xE000000000000002 : Nat), 0x6000000000000002, 0xE000000000000000, 0x8000000000000002, 0xC000000000000002],
      let s := windowed (BitVec.ofNat 64 c) true
      bit s.fab.fxep 16 = true ∧ s.admitted 3 = true ∧ ((bit (vget s.fab.winc 0 9) 63 = true ∧ bits (vget s.fab.winc 0 9) 0 21 ≠ 0) ↔ c ∉ [0x6000000000000002, 0xE000000000000000]) ∧
      (bit (vget s.fab.winc 0 9) 62 = true ↔ c ≠ 0x8000000000000002) ∧ (bit (vget s.fab.winc 0 9) 61 = true ↔ c ∉ [0x8000000000000002, 0xC000000000000002])) ∧
    (let s := windowed 0xE000000000000002 true
     ¬ (0x20000 / 65536 < bits (vget s.fab.winc 0 9) 0 21) ∧ 0x1FFFF / 65536 < bits (vget s.fab.winc 0 9) 0 21 ∧
     meets (match s.walk (fun a => some (s.mem64 a)) 0x100000 0 0x1010000 with | .error e => some e | .ok _ => none) (fun e => e = 0x22) = true ∧
     meets (s.walk (fun a => some (s.mem64 a)) 0x100000 0 0x1000100).toOption (fun l => pteU l.entry = true ∧ pteP l.entry = true ∧ checkPte l.entry .read true = true ∧ isHbm (leafXl l.entry l.large 0x1000100).pa = true) = true ∧
     (s.checkVcache 0 1).toOption = some () ∧
     (s.targetByte .read 3 9 0x100).toOption = some (page 0x100)) ∧
    (let s : State := { windowed 0xE000000000000002 true with mem := tables [(0x120800, 0xDF), (0x120801, 0x18)] }
     meets (s.walk (fun a => some (s.mem64 a)) 0x100000 0 0x1000100).toOption (fun l => pteP l.entry = false ∧ pteU l.entry = true) = true) ∧
    (let s : State := { windowed 0xE000000000000002 true with mem := tables [(0x120800, 0xDF), (0x120801, 0x29)] }
     meets (s.walk (fun a => some (s.mem64 a)) 0x100000 0 0x1000100).toOption (fun l => (s.checkVcache 0 (leafXl l.entry l.large 0x1000100).vc).toOption = none) = true) ∧
    (let s : State := { windowed 0xE000000000000002 true with
        cp := { wUser.cp with phys := vset wUser.cp.phys 0 (vget wUser.cp.phys 0 0 ||| 0x10000) }
        shelves := vset wUser.shelves 0 (some { base := 0x8000000000000, size := 2 ^ 30, lost := false })
        mem := Memory.writeBytes (tables []) unlisted 0x120800 (leBytes 8 0x80000000001DDF) }
     meets (s.walk (fun a => some (s.mem64 a)) 0x100000 0 0x1000100).toOption (fun l => checkPte l.entry .read true = true ∧
       (leafXl l.entry l.large 0x1000100).kind ≠ 0) = true) ∧
    (let s : State := { windowed 0xE000000000000002 true with mem := tables [(0x120800, 0xCF), (0x120801, 0x19)] }
     meets (s.walk (fun a => some (s.mem64 a)) 0x100000 0 0x1000100).toOption (fun l => pteU l.entry = false) = true) := by decide +kernel

/-- A vector request of one field of so many elements of 4 bytes, 8 apart, at this base of window 9. -/
def vreq (op count base : Nat) : BitVec 2048 :=
  BitVec.ofNat 2048 (op + 2 * 16 + 2 ^ 12 + count * 2 ^ 16 + 9 * 2 ^ 64 + base * 2 ^ 192 + 8 * 2 ^ 256)

def vslot : List Byte := List.replicate 32 3 ++ List.replicate 32 7

theorem wit_VectorRequests :
    target.memWf = true ∧ vreqOk (vreq 5 4 0x100).toNat = false ∧
    (let g : BitVec 2048 := vreq 4 4 0x100 ||| BitVec.ofNat 2048 (0xC3 * 2 ^ 128)
     vreqOk g.toNat = true ∧ (readVReq g.toNat).op = 4 ∧ (3 : BitVec 10) = initiatorOf (BitVec.ofNat 16 (readVReq g.toNat).group) ∧
     (target.vreqItems 3 (readVReq g.toNat) vslot).toOption ≠ none) ∧
    (let g : BitVec 2048 := vreq 4 4 0x20000 ||| BitVec.ofNat 2048 (0xC3 * 2 ^ 128)
     vreqOk g.toNat = true ∧ (target.vreqItems 3 (readVReq g.toNat) vslot).toOption = none) ∧
    (∀ op ∈ [2, 3], vreqOk (vreq op 1 0x100).toNat = true ∧ (readVReq (vreq op 1 0x100).toNat).op = op ∧
      meets (target.vreqItems 3 (readVReq (vreq op 1 0x100).toNat) vslot).toOption (fun ps => ps.length = 1 ∧
        ps.all (fun p => !target.blocked true p.pa p.n && !target.poisoned p.pa) = true) = true) ∧
    (vreqOk (vreq 0 3 0x20000).toNat = true ∧ (target.vreqItems 3 (readVReq (vreq 0 3 0x20000).toNat) vslot).toOption = none) ∧
    (∀ op ∈ [0, 1], vreqOk (vreq op 4 0x100).toNat = true ∧ (readVReq (vreq op 4 0x100).toNat).op = op ∧
      meets (target.vreqItems 3 (readVReq (vreq op 4 0x100).toNat) vslot).toOption (fun ps => ps ≠ [] ∧
        ps.all (fun p => !target.blocked (op != 0) p.pa p.n && !target.poisoned p.pa) = true) = true) := by decide +kernel

/-- A request of this kind was sent at time 77 and awaits its answer at this time; the timeout is 1000 µs. -/
def awaiting (kind : FabKind) (now : Nat) : State :=
  let q : FabReq := { id := 8, kind := kind, owner := wUser.st.id, va := 0x1234, ep := 3, window := 2, off := 5, slot := some 4, sentAt := 77 }
  { wUser with
    time := now
    x := { wUser.x with replies := [.data [1], .waiting 8] }
    fab := { wUser.fab with fxtmo := 1000, reqs := [q] } }

theorem wit_FabricAnswers :
    wUser.fab.reqs = [] ∧ (∀ l ∈ (awaiting .read 1077).cp.launches, l.endedOk + l.endedFault ≠ l.nring + l.ngate) ∧
    (∀ k ∈ [FabKind.read, .write, .atomic, .vector], meets ((awaiting k 1077).fab.reqs.find? (fun q => q.id == 8)) (fun q => q.group = none ∧ q.kind = k ∧
      q.slot = some (4 : BitVec 6).toNat ∧ q.sentAt + (awaiting k 1077).fab.fxtmo.toNat % 2 ^ 32 ≤ (awaiting k 1077).time ∧
      q.owner = (awaiting k 1077).st.id ∧ (awaiting k 1077).st.place ≠ .management) = true) ∧
    ((awaiting .read 1076).time < 77 + (awaiting .read 1076).fab.fxtmo.toNat % 2 ^ 32 ∧ (3 : BitVec 10) ∉ (awaiting .read 1076).fab.unreachable) ∧
    (let s := awaiting .read 1076
     (3 : BitVec 10) ∈ ({ s with fab := { s.fab with unreachable := [3] } } : State).fab.unreachable) := by decide +kernel

theorem wit_FabricPortsAndEndpoints :
    (let s : State := { wUser with fab := { wUser.fab with lanes := vset wUser.fab.lanes 7 4 } }
     (2 : BitVec 3).toNat ≤ 2 ∧ (2 : BitVec 3).toNat < (vget s.fab.lanes 0 7).toNat ∧ ¬ ((3 : BitVec 3).toNat ≤ 2) ∧ vget s.fab.lanes 0 7 ≠ 0) ∧
    (let s : State := { wUser with fab := { wUser.fab with lanes := vset wUser.fab.lanes 7 0 } }
     vget s.fab.lanes 0 7 = 0 ∧ s.feature 4 = true) ∧
    ({ wUser with mbx := { wUser.mbx with fa := vset wUser.mbx.fa 0 0x72F } } : State).feature 4 = false := by decide +kernel

/-- A packet from die 1 to die 2 that asks for so many packets from die 3 to have arrived; others of its stream are held, or the
stream's entries are used up. -/
def transit (count : BitVec 12) (held : List (BitVec 12)) (full : Bool) : State :=
  let pkt := fun (c : BitVec 12) => ({ mail := { cls := .reply, writes := [5] }, stamp := layStamp 0 [{ row := 3, col := 2, count := c }] } : Packet)
  let hs := held.map (fun c => ({ die := 2, src := 1, packet := pkt c, since := 10 } : Held))
  { wUser with net := { wUser.net with transit := [(strKey 1 2, pkt count)], early := hs ++ (if full then List.replicate 224 { die := 2, src := 1, packet := pkt 5, since := 10 } else []) } }

theorem wit_DiePackets :
    (∀ p ∈ [((0 : BitVec 12), ([] : List (BitVec 12)), false), (5, [], false), (0, [5], false), (0, [0], false), (5, [], true)],
      let s := transit p.1 p.2.1 p.2.2
      meets (s.net.transit.find? (fun t => t.1 == strKey (1 : BitVec 4).toNat (2 : BitVec 4).toNat)) (fun t => stampOk t.2.stamp = true ∧
        s.net.lostCause 2 t.2 = false ∧ t.2.mail.follow = [] ∧ s.net.ready 2 t.2 = (p.1 == 0) ∧ queueKey 2 t.2.mail.cls ∉ s.net.full) = true ∧
      s.net.stalled = [] ∧ lookupD 0 (strKey 2 1) s.net.unacked < 255 ∧ s.net.roomFor 1 2 = !p.2.2 ∧
      (s.net.firstHeld 2 1 = none ↔ p.2.1 = [] ∧ p.2.2 = false)) ∧
    (∀ c ∈ [(0 : BitVec 12), 5], meets ((transit 0 [c] false).net.firstHeld 2 1) (fun h => (transit 0 [c] false).net.lostCause 2 h.packet = false ∧
      (transit 0 [c] false).net.ready 2 h.packet = (c == 0) ∧ (transit 0 [c] false).net.flitsIn 2 1 h.packet = true) = true) ∧
    (let s : State := { transit 5 [] false with net := { (transit 5 [] false).net with retired := [(3, [(2, 4)])] } }
     meets (s.net.transit.find? (fun t => t.1 == strKey 1 2)) (fun t => s.net.lostCause 2 t.2 = true) = true) := by decide +kernel

theorem wit_Baseline :
    (let s : State := { transit 0 [5] false with time := 111 }
     ∃ h ∈ s.net.early, h.die = (2 : BitVec 4).toNat ∧ h.src = (1 : BitVec 4).toNat ∧ h.since + 100 < s.time) ∧
    (let s : State := { transit 0 [5] false with time := 110 }
     ∀ h ∈ s.net.early, h.die = (2 : BitVec 4).toNat → h.src = (1 : BitVec 4).toNat → s.time ≤ h.since + 100) ∧
    wUser.net.transit = [] ∧ wUser.net.early = [] ∧ wUser.net.stalled = [] := by decide +kernel

theorem wit_DieLost :
    (let s : State := { State.reset with net := { State.reset.net with retired := [(5, [])] } }
     (∃ r ∈ s.net.retired, r.1 = (5 : BitVec 4).toNat) ∧ (∀ r ∈ s.net.retired, r.1 ≠ (12 : BitVec 4).toNat) ∧ s.strands = [s.st] ∧
     s.st.place = .management) ∧ (12 : BitVec 4).toNat ≤ 12 ∧ 12 < (13 : BitVec 4).toNat := by decide +kernel

/-- Cached lines, page classes, directory. -/
def cached (lines : List CLine) (classes : List (Nat × PageClass)) (dir : List DirRegion) (now : Nat) : State :=
  { wUser with time := now, classes := classes, cache := { wUser.cache with lines := lines, dir := dir } }

def cline (a : Agent) (line : Nat) (st : LineState) (p : Option ProbeKind) : CLine :=
  { holder := a, line := line, state := st, current := true, way := 0, probe := p.map (fun k => (k, false)) }

/-- Two sibling regions, held by these. -/
def siblings (b : List Agent) : List DirRegion :=
  [{ base := 0, size := 4, holders := [.l1 3, .l1 4], conflictAt := 5, used := 6 }, { base := 4, size := 4, holders := b, conflictAt := 50, used := 6 }]

theorem wit_DirectoryRegions :
    (383 < 384 ∧ isHbm (0x100 : BitVec 52).toNat = true ∧ classOf (cached [] [] [] 0) 0 = none ∧
      classOf (cached [] [(0, .priv (3 / 8))] [] 0) 0 = some (.priv (3 / 8))) ∧
    (let s := cached [] [(0, .shared)] [] 0
     classOf s 0 = some .shared ∧ s.cache.dir = [] ∧ s.cache.dir.length < 4194304 ∧ s.cline? (.l1 3) 4 = none ∧ s.hostLines true (4 * 64) 64 = []) ∧
    (∀ p ∈ [([Agent.l1 4, .l1 3], 1050, true), ([.l1 4, .l1 3], 1049, false), ([.l1 4], 1050, false)],
      let s := cached [] [] (siblings p.1) p.2.1
      meets (s.regionFor 4) (fun r => r.size < 1024 ∧ meets (s.cache.dir.find? (fun q => q.base == (if r.base / r.size % 2 = 0 then r.base + r.size else r.base - r.size) && q.size == r.size))
        (fun q => (sameHolders r q = true ∧ r.conflictAt + 1000 ≤ s.time ∧ q.conflictAt + 1000 ≤ s.time) ↔ p.2.2 = true) = true) = true) := by decide +kernel

theorem wit_CacheLineEvents :
    (cached [] [] [] 0).cline? (.l1 3) ((0x100 : BitVec 52).toNat / 64) = none ∧
    (∀ p ∈ [(LineState.modified, none), (.owned, none), (.exclusive, none), (.shared, none), (.evictPending, none), (.pendingFill, none), (.pendingFill, some ProbeKind.invalidate)],
      let s := cached [cline (.l1 3) 4 p.1 p.2] [] [] 0
      s.cline? (.l1 3) 4 = some (cline (.l1 3) 4 p.1 p.2) ∧ (∀ q ∈ s.cache.lines, q.holder = .l1 3 → q.line = 4 → q = cline (.l1 3) 4 p.1 p.2) ∧
      s.unsnooped (.l1 3) = false ∧ s.sectorsOf (cline (.l1 3) 4 p.1 p.2) = [cline (.l1 3) 4 p.1 p.2] ∧
      ((∀ q ∈ s.sectorsOf (cline (.l1 3) 4 p.1 p.2), q.probe = none) ↔ p.2 = none)) ∧
    ({ cline (.l1 3) 4 .pendingFill none with want := true } : CLine).want = true ∧
    (∃ q ∈ (cached [cline (.l1 3) 4 .pendingFill none, cline (.vcache 1) 4 .shared none] [] [] 0).cache.lines, q.line = 4 ∧ q.holder ≠ .l1 3) ∧
    (let s : State := { cached [cline (.vcache 5) 4 .shared none] [] [] 0 with cache := { (ranged 0 0 true).cache with lines := [cline (.vcache 5) 4 .shared none] } }
     s.unsnooped (.vcache 5) = true) := by
  decide +kernel

/-- Bit 8 is accepted or not; the window is the GiB at 0; the host is asked for line 4, or holds it. -/
def host (on : Bool) (bi : List BackInv) (lines : List CLine) : State :=
  let fa : Word := if on then 0x73F else 0x63F
  { wUser with
    mbx := { wUser.mbx with hdmcfg := 1, fa := vset wUser.mbx.fa 0 fa }
    cache := { wUser.cache with backInv := bi, lines := lines } }

theorem wit_HostMemory :
    (let s := host true [] []
     s.memWf = true ∧ s.feature 8 = true ∧ s.mbx.hdmcfg.toNat % 2 ^ 10 * 2 ^ 30 = 2 ^ 30 ∧ s.mbx.hdmcfg.toNat / 2 ^ 16 % 2 ^ 10 = 0 ∧
     (2 ^ 30 - 2) + 2 ≤ 2 ^ 30 ∧ (2 ^ 30 - 64) + 64 ≤ 2 ^ 30 ∧ (2 ^ 30 - 64) % 64 = 0 ∧ s.inDoubt (2 ^ 30 - 2) 2 = false ∧
     s.hostHolding (2 ^ 30 - 2) 2 = false ∧ s.inDoubt (2 ^ 30 - 64) 64 = false ∧ s.hostHolding (2 ^ 30 - 64) 64 = false) ∧
    (host false [] []).feature 8 = false ∧ 2 ^ 30 < (2 ^ 30 - 2) + 3 ∧
    (let s : State := { host true [] [] with cache := { wUser.cache with backInv := [{ line := 4, write := true, owner := wUser.st.id, answered := true }] } }
     s.inDoubt 0x100 64 = false ∧ s.hostHolding 0x100 64 = true ∧ (∀ b ∈ s.cache.backInv, b.line = (0x100 : BitVec 52).toNat / 64 → b.answered = true)) ∧
    (let s := host true [{ line := 4, write := false, owner := 0, answered := false }] []
     meets (s.cache.backInv.find? (fun b => b.line == (0x100 : BitVec 52).toNat / 64 && !b.answered)) (fun b => b.write = false) = true) := by decide +kernel

theorem wit_SnoopsAndBackInvalidations :
    (isHostMem (0x100 : BitVec 52).toNat = false ∧ isPool (0x100 : BitVec 52).toNat = false) ∧
    (let s := cached [cline (.l1 3) 0x4000000000 .modified none, cline (.l1 4) 0x7FFFFFFFFF .shared none] [] [] 0
     (∀ pa ∈ [(0x100000000000 : BitVec 52).toNat, (0x1FFFFFFFFFFF : BitVec 52).toNat], isHostMem pa = true ∧
       ∀ c ∈ s.cache.lines.filter (fun c => c.line == pa / 64 && c.holder != .host), c.state ≠ .pendingFill)) ∧
    (let s := cached [cline (.l1 3) 0x4000000000 .pendingFill none] [] [] 0
     ∃ c ∈ s.cache.lines.filter (fun c => c.line == (0x100000000000 : BitVec 52).toNat / 64 && c.holder != .host), c.state = .pendingFill) ∧
    (let s := cached [cline (.l1 3) 0x200000000000 .modified none, cline (.l1 4) 0x3FFFFFFFFFFF .shared none] [] [] 0
     ∀ pa ∈ [(0x8000000000000 : BitVec 52).toNat, (0xFFFFFFFFFFFFF : BitVec 52).toNat], isPool pa = true ∧
       ∀ c ∈ s.cache.lines, c.line = pa / 64 → c.state ≠ .pendingFill) := by decide +kernel

/-- Shelf 3 with this state of the pool. -/
def pooled (b : Boot) (up : Bool) (accepted : Bool) (h : Option Shelf) : State :=
  { wUser with
    boot := b, poolUp := up, shelves := vset wUser.shelves 3 h
    mbx := { wUser.mbx with fa := vset wUser.mbx.fa 0 (if accepted then 0x73F else 0x33F) } }

theorem wit_PoolShelves :
    let gib : Nat := 2 ^ 30
    let base : Nat := 0x8000000000000
    let sh : Bool → Option Shelf := fun l => some { base := base, size := gib, lost := l }
    vget (pooled .ready true true none).shelves none (3 : BitVec 4).toNat = none ∧
    (∀ l ∈ [true, false], vget (pooled .ready true true (sh l)).shelves none (3 : BitVec 4).toNat = some { base := base, size := gib, lost := l }) ∧
    base % 64 = 0 ∧ (pooled .ready false true none).poolUp = false ∧
    (∀ h ∈ [none, sh true], let s := pooled .ready true true h
      s.poolUp = true ∧ s.shelfFits 3 base gib = true ∧ s.shelfFits 3 (0x10000000000000 - gib) gib = true ∧
      s.shelfFits 3 (0x10000000000000 - gib) (gib + 1) = false ∧ s.shelfFits 3 (base + 64) gib = false) ∧
    (pooled .halted false true none).boot ≠ .ready ∧ (pooled .ready false false none).feature 10 = false ∧
    (let s := pooled .ready false true none
     s.boot = .ready ∧ s.poolUp = false ∧ s.feature 10 = true ∧ s.shelfFits (3 : BitVec 4).toNat base gib = true) := by decide +kernel

/-- Sensor i of the module in this state. -/
def sensed (i : Nat) (t : BitVec 16) (alert : Bool) (since now : Nat) : State :=
  { wUser with
    time := now
    mg := { wUser.mg with sensors := vset wUser.mg.sensors i { temp := t, rel := 0x0640, alrt := 0x0690, alert := alert, since := since } } }

theorem wit_Sensors :
    let q (t : BitVec 16) (al : Bool) : Sensor := { temp := t, rel := 0x0640, alrt := 0x0690, alert := al, since := 500 }
    (∀ i ∈ [0, 63, 64, 95], ∀ al ∈ [true, false], (sensed i 0x0650 al 500 1500).mg.sensors.toArray[i]? = some (q 0x0650 al) ∧
      (sensed i 0x0650 al 500 1500).mg.tripped.getLsbD i = false) ∧
    wUser.mg.trip = 0x07D0 ∧
    (∀ t ∈ [0x0690, 0x07CF], (BitVec.ofNat 16 t).toInt < (0x07D0 : BitVec 16).toInt ∧ (0x0690 : BitVec 16).toInt ≤ (BitVec.ofNat 16 t).toInt) ∧
    (∀ t ∈ [0x0640, 0x8000], (BitVec.ofNat 16 t).toInt < (0x07D0 : BitVec 16).toInt ∧ (BitVec.ofNat 16 t).toInt ≤ (0x0640 : BitVec 16).toInt) ∧
    ((0x068F : BitVec 16).toInt < (0x0690 : BitVec 16).toInt ∧ (0x0640 : BitVec 16).toInt < (0x0641 : BitVec 16).toInt) ∧
    (0x07D0 : BitVec 16).toInt ≤ (0x7FFF : BitVec 16).toInt ∧
    ((0x0640 : BitVec 16).toInt < (0x0650 : BitVec 16).toInt ∧ (0x0650 : BitVec 16).toInt < (0x07D0 : BitVec 16).toInt ∧ 500 + 1000 ≤ (sensed 3 0x0650 true 500 1500).time ∧
      (sensed 3 0x0650 true 500 1499).time < 500 + 1000) := by decide +kernel

/-- Whether an image verifies is a free value; for each that does, a flash holds it. -/
theorem wit_ResetAndRecovery :
    (∀ i : Image, Config.imageSigned (sha512 i.body) i.signature = true →
      ∃ s : State, s.flash = some i ∧ Config.imageSigned (sha512 i.body) i.signature = true) ∧
    (∃ s : State, ¬ ∃ i, s.flash = some i ∧ Config.imageSigned (sha512 i.body) i.signature = true) ∧
    (({ wUser with boot := .recovery } : State).boot = .recovery ∧ wUser.boot ≠ .recovery ∧
     (∀ k ∈ ([] : List (BitVec 4)), 12 ≤ k.toNat) ∧ ¬ ∀ k ∈ ([3] : List (BitVec 4)), 12 ≤ k.toNat) :=
  ⟨fun i h => ⟨{ wUser with flash := some i }, rfl, h⟩, ⟨{ wUser with flash := none }, by simp⟩, by decide +kernel⟩

/-! ## Witnesses: the vector unit -/

/-- A strand whose s20 holds this format descriptor, s21 and s22 tensor scales, with the vector length set so. -/
def vec (fd vt vl vb : Nat) : State :=
  let s := (((wUser.setS 20 (BitVec.ofNat 64 fd)).setS 21 0x3F000000).setS 22 0x40800000).setS 4 0x1000100
  { s with x := { s.x with
      vtype := BitVec.ofNat 64 vt, vl := BitVec.ofNat 64 vl, vbeg := BitVec.ofNat 64 vb
      vreg := vset (vset s.x.vreg 8 0x3F800000C0000000) 16 0x4000000000000010 } }

/-- The descriptor of these formats. -/
def fdOf (fa fb fdst : Nat) : Nat := fa + fb * 32 + fdst * 1024

theorem ready_of {s : State} {f : BitVec 5} {d : FD} {used : List Nat} {opds : List Opd}
    (h : s.st.place.master? ≠ none ∧ d = readFD (s.getS f) ∧ fdLegal (s.getS f) = true ∧
      (0x16 ∈ used → f ≠ 31 ∧ tensorScaleOk (s.scaleReg f) = true) ∧ vill s.x.vtype = false ∧
      groupsLegal s.x.vtype opds = true) : s.Ready f d used opds :=
  ⟨h.1, h.2.1, h.2.2.1, h.2.2.2.1, h.2.2.2.2.1, h.2.2.2.2.2⟩

theorem readyEw_of {s : State} {l : List (BitVec 5)} (h : s.st.place.master? ≠ none ∧ vill s.x.vtype = false ∧
    groupsLegal s.x.vtype (l.map (fun r => opdW r s.ew)) = true) : s.ReadyEw l := ⟨h.1, h.2.1, h.2.2⟩

theorem wit_VectorLengthSetting :
    wUser.st.place.master? ≠ none ∧ ((vec 0 0 0 0).setS 6 63).getS 6 = 63 ∧ ((vec 0 0 0 0).setS 6 64).getS 6 = 64 := by decide +kernel

/-- The state in which s20 describes these formats, and what a vector instruction reads there. -/
def vecF (fa fb fdst : Nat) : State := vec (fdOf fa fb fdst) 0x16 33 1

def fdF (fa fb fdst : Nat) : FD := { fa := fa, fb := fb, fdst := fdst, sat := false, rm := 0, ftz := false }

theorem wit_VectorArithmetic :
    (vecF 9 9 9).Ready 20 (fdF 9 9 9) [9, 9] [opdOf 8 9, opdOf 16 9, opdOf 24 9] ∧ arithFormats true (fdF 9 9 9) = true ∧
    (vecF 1 1 2).Ready 20 (fdF 1 1 2) [1, 1] [opdOf 8 1, opdOf 24 2] ∧ arithFormats true (fdF 1 1 2) = true ∧
    (vecF 0x16 9 8).Ready 20 (fdF 0x16 9 8) [0x16, 9] [opdOf 8 0x16, opdOf 16 9, opdOf 24 8] ∧ arithFormats true (fdF 0x16 9 8) = true :=
  ⟨ready_of (by decide +kernel), by decide, ready_of (by decide +kernel), by decide, ready_of (by decide +kernel), by decide⟩

theorem wit_VectorOneSource :
    (vecF 9 0 9).Ready 20 (fdF 9 0 9) [9] [opdOf 8 9, opdOf 24 9] ∧
    (arithFormats false (fdF 9 0 9) = true ∧ isReal 9 = true ∧ isFloat 9 = true ∧ notScale 9 = true ∧ isPlain 9 = true) ∧
    ((vecF 0x16 0 9).Ready 20 (fdF 0x16 0 9) [0x16] [opdOf 8 0x16, opdOf 24 9] ∧ isBlock 0x16 = true) ∧
    ((vecF 0x11 0 9).Ready 20 (fdF 0x11 0 9) [0x11] [opdOf 8 0x11, opdOf 24 9] ∧ isE8M0 0x11 = true ∧ notScale 0x11 = false) :=
  ⟨ready_of (by decide +kernel), by decide, ⟨ready_of (by decide +kernel), by decide⟩, ready_of (by decide +kernel), by decide⟩

theorem wit_VectorBitwise :
    (vecF 2 9 6).Ready 20 (fdF 2 9 6) [2, 9] [opdOf 8 2, opdOf 16 9, opdOf 24 6] ∧ bitFormats true (fdF 2 9 6) = true ∧
    (vecF 2 0 6).Ready 20 (fdF 2 0 6) [2, 0] [opdOf 8 2, opdOf 24 6] ∧ shiftFormats (fdF 2 0 6) = true ∧
    (vecF 2 0 6).Ready 20 (fdF 2 0 6) [2] [opdOf 8 2, opdOf 24 6] ∧ bitFormats false (fdF 2 0 6) = true :=
  ⟨ready_of (by decide +kernel), by decide, ready_of (by decide +kernel), by decide, ready_of (by decide +kernel), by decide⟩

theorem wit_VectorCompare :
    (vecF 9 10 0).Ready 20 (fdF 9 10 0) [9, 10] [opdOf 8 9, opdOf 16 10] ∧ compareFormats (fdF 9 10 0) = true :=
  ⟨ready_of (by decide +kernel), by decide⟩

theorem wit_VectorReductions :
    let s (fa fd : Nat) : State := vec (fdOf fa 0 fd) 0x16 33 0
    ((s 9 9).Ready 20 (fdF 9 0 9) [9] [opdOf 8 9, opdOf 24 9] ∧ reduceFormats (fdF 9 0 9) = true ∧ (s 9 9).x.vbeg = 0) ∧
    ((s 2 6).Ready 20 (fdF 2 0 6) [2] [opdOf 8 2, opdOf 24 6] ∧ reduceFormats (fdF 2 0 6) = true ∧ (s 2 6).x.vbeg = 0) :=
  ⟨⟨ready_of (by decide +kernel), by decide +kernel⟩, ready_of (by decide +kernel), by decide +kernel⟩

theorem wit_VectorSort :
    let s (fd : Nat) : State := vec (fdOf 9 5 fd) 0x16 33 0
    (s 5).x.vbeg = 0 ∧ isPlain 9 = true ∧ isPlain 5 = true ∧
    (s 5).Ready 20 (fdF 9 5 5) [9, 5] [opdOf 8 9, opdOf 16 5, opdOf 24 9, { base := 24 + groupRegs (s 5).x.vtype 32, width := 16, block := false }] ∧
    (s 5).Ready 20 (fdF 9 5 5) [9] [opdOf 8 9, opdOf 24 9, { base := 24 + groupRegs (s 5).x.vtype 32, width := 16, block := false }] ∧
    (s 6).Ready 20 (fdF 9 5 6) [9] [opdOf 8 9, opdOf 24 9, { base := 24 + groupRegs (s 6).x.vtype 32, width := 32, block := false }] :=
  ⟨by decide +kernel, by decide, by decide, ready_of (by decide +kernel), ready_of (by decide +kernel), ready_of (by decide +kernel)⟩

theorem wit_VectorMoves :
    let s := vec 0 0x16 33 0
    s.ReadyEw [24] ∧ s.ReadyEw [8, 24] ∧ s.ReadyEw [8, 16, 24] ∧ s.x.vbeg = 0 ∧ ((s.setS 6 32).getS 6).toNat < (s.setS 6 32).vl ∧
    ¬ ((s.setS 6 33).getS 6).toNat < (s.setS 6 33).vl :=
  ⟨readyEw_of (by decide +kernel), readyEw_of (by decide +kernel), readyEw_of (by decide +kernel), by decide +kernel⟩

theorem wit_MaskInstructions :
    (vecF 0 0 0).st.place.master? ≠ none ∧ vill (vecF 0 0 0).x.vtype = false ∧ 0 < (1 : BitVec 5).toNat ∧ (7 : BitVec 5).toNat < 8 := by
  decide +kernel

theorem wit_VectorRandomAndTable :
    (∀ c ∈ [6, 2, 8, 13], randFormats (fdF 0 0 c) = true) ∧ (vecF 0 0 6).Ready 20 (fdF 0 0 6) [] [opdOf 24 6] ∧
    (vecF 0 0 8).Ready 20 (fdF 0 0 8) [] [opdOf 24 8] ∧
    ((vecF 9 0 9).Ready 20 (fdF 9 0 9) [9] [opdOf 8 9, opdOf 24 9] ∧ isFloat 9 = true) ∧
    ((vecF 10 0 8).Ready 20 (fdF 10 0 8) [10] [opdOf 8 10, opdOf 24 8] ∧ isFloat 10 = true ∧ isFloat 8 = true) :=
  ⟨by decide, ready_of (by decide +kernel), ready_of (by decide +kernel), ⟨ready_of (by decide +kernel), by decide⟩,
   ready_of (by decide +kernel), by decide⟩

theorem wit_VectorQuantise :
    let s (fa fd : Nat) : State := vec (fdOf fa fa fd) 0x16 33 0
    ((s 9 0x12).x.vbeg = 0 ∧ isFloat 9 = true ∧ isBlock 0x12 = true ∧ isE8M0 0x11 = true) ∧
    (s 9 0x12).Ready 20 (fdF 9 9 0x12) [0x12] [opdOf 8 9, opdOf 24 0x12] ∧
    (s 9 0x16).Ready 20 (fdF 9 9 0x16) [0x16] [opdOf 8 9, opdOf 24 0x16] ∧
    (s 9 0x11).Ready 20 (fdF 9 9 0x11) [0x11] [opdOf 8 9, opdOf 24 0x11] ∧
    ((s 0x16 0x16).Ready 20 (fdF 0x16 0x16 0x16) [0x16, 0x16] [opdOf 8 0x16, opdOf 16 0x16, opdOf 24 0x16] ∧ (s 0x16 0x16).feature 3 = true) :=
  ⟨by decide +kernel, ready_of (by decide +kernel), ready_of (by decide +kernel), ready_of (by decide +kernel),
   ready_of (by decide +kernel), by decide +kernel⟩

theorem wit_VectorDispatchTraps :
    fdLegal ((vec (fdOf 0x17 9 9) 0x16 33 0).getS 20) = false ∧
    (let s : State := { vecF 9 9 9 with x := { (vecF 9 9 9).x with vtype := 0x8000000000000000 } }
     vill s.x.vtype = true ∧ s.st.place.master? ≠ none) ∧
    (let s := vecF 9 9 9
     vill s.x.vtype = false ∧ s.x.vbeg ≠ 0 ∧
     (∀ l ∈ [[9], [8, 9], [9, 16, 24]], groupsLegal s.x.vtype (l.map (fun q => opdW (BitVec.ofNat 5 q) s.ew)) = false) ∧
     ∀ l ∈ [[], [24], [8, 24], [8, 16, 24]], groupsLegal s.x.vtype (l.map (fun q => opdW (BitVec.ofNat 5 q) s.ew)) = true) := by
  decide +kernel

/-! ## Witnesses: vector memory -/

/-- A strand whose s4 holds 0x1000100 and s6 the stride 8, with vector offsets 0, 8, 16 in v16. -/
def vmem : State := { (vec 0 2 3 0).setS 6 8 with x := { ((vec 0 2 3 0).setS 6 8).x with vreg := vset (vset (vec 0 2 3 0).x.vreg 8 0x70000000600000005) 16 0x100000000800000000 } }

theorem alone_of {s : State} (h : s.st.place.master? ≠ none ∧ (s.st.fork = none ∧ s.st.active = false) ∧
    (s.x.pipe = none ∧ s.x.replies = []) ∧ s.scatter = []) : s.Alone :=
  ⟨h.1, h.2.1, h.2.2.1, by rw [h.2.2.2]; intro c hc; cases hc⟩

theorem alone_vmem : vmem.Alone := alone_of (by decide +kernel)

theorem parted_of {s : State} (h : s.st.sbuf = []) : s.Parted := by
  unfold State.Parted
  rw [h]
  intro e he
  cases he

theorem parted_vmem : vmem.Parted := parted_of (by decide +kernel)

/-- The elements 0, 1 and 2 of an access of three elements. -/
theorem three {s : State} {k : BitVec 3} {p : Nat → Prop} (hv : s.vl = 3) (h : p 0 ∧ p 1 ∧ p 2) (i : Nat)
    (a : s.vbeg ≤ i ∧ i < s.vl ∧ (s.kmask k.toNat).getLsbD i = true) : p i := by
  have := a.2.1
  rw [hv] at this
  match i, this with
  | 0, _ => exact h.1
  | 1, _ => exact h.2.1
  | 2, _ => exact h.2.2

/-- Elements of 4 bytes lie in local memory: at distance 4, at the stride 8, at the offsets of v16. -/
def VmemElems (k : Acc) : Prop :=
    (∀ i, vmem.vbeg ≤ i ∧ i < vmem.vl ∧ (vmem.kmask (0 : BitVec 3).toNat).getLsbD i = true →
      vmem.Local k (vmem.getS 4 + BitVec.ofNat 64 (i * 4)) 4 (page (0x100 + i * 4)) ∧
      (vmem.getS 4 + BitVec.ofNat 64 (i * 4)).toNat % 4 = 0) ∧
    (∀ i, vmem.vbeg ≤ i ∧ i < vmem.vl ∧ (vmem.kmask (0 : BitVec 3).toNat).getLsbD i = true →
      vmem.Local k (vmem.getS 4 + BitVec.ofNat 64 i * vmem.getS 6) 4 (page (0x100 + i * 8)) ∧
      (vmem.getS 4 + BitVec.ofNat 64 i * vmem.getS 6).toNat % 4 = 0) ∧
    (∀ i, vmem.vbeg ≤ i ∧ i < vmem.vl ∧ (vmem.kmask (0 : BitVec 3).toNat).getLsbD i = true →
      vmem.Local k (vmem.getS 4 + BitVec.ofNat 64 (vmem.elemEw 16 i)) 4 (page (0x100 + i * 8)) ∧
      (vmem.getS 4 + BitVec.ofNat 64 (vmem.elemEw 16 i)).toNat % 4 = 0)

theorem vmem_local (k : Acc) (hk : k = .read ∨ k = .write ∨ k = .both) : VmemElems k := by
  rcases hk with rfl | rfl | rfl <;>
  refine ⟨three (by decide +kernel) ⟨⟨local_of ?_ ?_, ?_⟩, ⟨local_of ?_ ?_, ?_⟩, ⟨local_of ?_ ?_, ?_⟩⟩,
    three (by decide +kernel) ⟨⟨local_of ?_ ?_, ?_⟩, ⟨local_of ?_ ?_, ?_⟩, ⟨local_of ?_ ?_, ?_⟩⟩,
    three (by decide +kernel) ⟨⟨local_of ?_ ?_, ?_⟩, ⟨local_of ?_ ?_, ?_⟩, ⟨local_of ?_ ?_, ?_⟩⟩⟩ <;> decide +kernel

/-- Of the segmented forms: fields 0 and 1 of elements of 4 bytes. -/
def VmemSegs (k : Acc) : Prop :=
    ∀ i f, vmem.vbeg ≤ i ∧ i < vmem.vl ∧ (vmem.kmask (0 : BitVec 3).toNat).getLsbD i = true → f < 2 →
      vmem.Local k (vmem.getS 4 + BitVec.ofNat 64 ((i * 2 + f) * 4)) 4 (page (0x100 + (i * 2 + f) * 4)) ∧
      (vmem.getS 4 + BitVec.ofNat 64 ((i * 2 + f) * 4)).toNat % 4 = 0

theorem vmem_segments (k : Acc) (hk : k = .read ∨ k = .write) : VmemSegs k := by
  intro i f h hf
  rcases hk with rfl | rfl <;> revert i <;>
  match f, hf with
  | 0, _ => exact three (by decide +kernel) (by refine ⟨⟨local_of ?_ ?_, ?_⟩, ⟨local_of ?_ ?_, ?_⟩, ⟨local_of ?_ ?_, ?_⟩⟩ <;> decide +kernel)
  | 1, _ => exact three (by decide +kernel) (by refine ⟨⟨local_of ?_ ?_, ?_⟩, ⟨local_of ?_ ?_, ?_⟩, ⟨local_of ?_ ?_, ?_⟩⟩ <;> decide +kernel)

theorem wit_VectorLoad :
    vmem.Alone ∧ vill vmem.x.vtype = false ∧
    (∀ p ∈ [(1, none), (1, some (16 : BitVec 5)), ((1 : BitVec 3).toNat + 1, none)],
      vmemGroups vmem.x.vtype 8 32 p.1 p.2 true = true) ∧ VmemElems .read ∧ VmemSegs .read :=
  ⟨alone_vmem, by decide +kernel, by decide +kernel, vmem_local _ (.inl rfl), vmem_segments _ (.inl rfl)⟩

theorem wit_VectorStore :
    vmem.Alone ∧ vill vmem.x.vtype = false ∧
    (∀ p ∈ [(1, none), (1, some (16 : BitVec 5)), ((1 : BitVec 3).toNat + 1, none)],
      vmemGroups vmem.x.vtype 8 32 p.1 p.2 false = true) ∧ VmemElems .write ∧ VmemSegs .write ∧
    vmem.Parted ∧ ∀ i, i < 6 → (page (0x100 + i * 4)).pa % 4 = 0 :=
  ⟨alone_vmem, by decide +kernel, by decide +kernel, vmem_local _ (.inr (.inl rfl)), vmem_segments _ (.inr rfl), parted_vmem, by decide⟩

theorem wit_VectorElementFault :
    (let s := vmem.setS 4 0x3FFFFFFFFFFFFC
     vill s.x.vtype = false ∧ s.vbeg ≤ 1 ∧ 1 < s.vl ∧ (s.kmask 0).getLsbD 1 = true ∧ 2 ^ 54 ≤ (s.getS 4 + BitVec.ofNat 64 (1 * 4)).toNat ∧
     2 ^ 54 ≤ (s.getS 4 + BitVec.ofNat 64 1 * s.getS 6).toNat ∧ vmemGroups s.x.vtype 8 32 1 none true = true ∧
     vmemGroups s.x.vtype 8 32 1 none false = true) ∧
    (let s : State := { vmem.setS 4 0x1000102 with x := { (vmem.setS 4 0x1000102).x with vbeg := 1 } }
     s.vbeg ≤ 1 ∧ 1 < s.vl ∧ (s.getS 4 + BitVec.ofNat 64 (1 * 4)).toNat % 4 ≠ 0 ∧ (s.getS 4 + BitVec.ofNat 64 1 * s.getS 6).toNat % 4 ≠ 0 ∧
     (s.getS 4 + BitVec.ofNat 64 (1 * 4)).toNat < 2 ^ 54 ∧ (s.getS 4 + BitVec.ofNat 64 1 * s.getS 6).toNat < 2 ^ 54) ∧
    (vmem.setS 4 0x3FFFFFFFFFFFFC).Alone ∧ (∀ j, 1 ≤ j → j < 1 → False) :=
  ⟨by decide +kernel, by decide +kernel, alone_of (by decide +kernel), by omega⟩

/-- vmem with one element, on a page of this vcache. -/
def fetching (vc : Nat) : State :=
  { vmem with
    tlb := [{ master := 0, asid := 0, vpage := 0x100, large := false, entry := BitVec.ofNat 64 (0x8DF + vc * 0x1000) }]
    x := { vmem.x with vl := 1 } }

theorem wit_VectorPrefetch :
    (vmem.st.place.master? ≠ none ∧ vill vmem.x.vtype = false ∧ groupsLegal vmem.x.vtype [opdW 16 vmem.ew] = true ∧ vmem.countsNone [1, 2] = true) ∧
    (let s := fetching 1
     s.st.place.master? ≠ none ∧ vill s.x.vtype = false ∧ groupsLegal s.x.vtype [opdW 16 s.ew] = true ∧
     (List.range s.vl).filter (fun i => (s.kmask 0).getLsbD i) = [0] ∧
     meets (plainCheck .read 4 s [] 0 (s.getS 4 + BitVec.ofNat 64 (0 * 4)) 4).2.toOption (fun x => x.kind ≠ 1 ∧ x.vc = 1 ∧
       s.bare x.vc (x.pa / 64 * 64) = false ∧ s.cline? (.vcache x.vc) (x.pa / 64) = none ∧
       s.freeWay ((s.vcache? x.vc).bind (·.current)) (x.pa / 64) ≠ none) = true) ∧
    (let s : State := { fetching 2 with cache := { (fetching 2).cache with
       vcaches := [{ id := 2, current := some (plat 2 0 0 0xF 0xFF), draining := none, deleting := false, degraded := false, issuer := none, moved := 0, written := 0 }] } }
     meets (plainCheck .read 4 s [] 0 (s.getS 4 + BitVec.ofNat 64 (0 * 4)) 4).2.toOption (fun x => x.kind ≠ 1 ∧ x.vc = 2 ∧
       (s.vcache? x.vc).bind (·.current) ≠ none ∧ s.bare x.vc (x.pa / 64 * 64) = false ∧ s.cline? (.vcache x.vc) (x.pa / 64) = none ∧
       s.freeWay ((s.vcache? x.vc).bind (·.current)) (x.pa / 64) ≠ none) = true) := by
  decide +kernel

/-- The record at 0x1000100 of a queue at 0x1000200 of 64 entries of 4 bytes, with this tail and head. -/
def memQueue (vl tail head : Nat) : State :=
  { vmem with
    mem := [(0x101, 2), (0x103, 1), (0x108, 64), (0x10C, 2)] ++ (if tail = 0 then [] else [(0x110, BitVec.ofNat 8 tail)]) ++
      (if head = 0 then [] else [(0x118, BitVec.ofNat 8 head)])
    x := { vmem.x with vl := BitVec.ofNat 64 vl } }

theorem wit_MemoryQueues :
    (∀ p ∈ [(5, 2), (66, 2), (64, 63), (0, 0)], meets (readQueue 2 ((List.range 64).map (fun i => (memQueue 3 p.1 p.2).viewByte true (0x100 + i))))
        (fun q => q.tail = p.1 ∧ q.head = p.2 ∧ q.cap = 64 ∧ (q.cap - q.wait < 3 ↔ p = (66, 2))) = true) ∧
    (memQueue 0 5 2).Alone ∧ (memQueue 0 5 2).vl = 0 ∧ (memQueue 0 5 2).x.vbeg = 0 ∧ (memQueue 3 5 2).vl ≠ 0 ∧
    (memQueue 3 5 2).Alone ∧ (memQueue 3 5 2).x.vbeg = 0 ∧ vill (memQueue 3 5 2).x.vtype = false ∧
    groupsLegal (memQueue 3 5 2).x.vtype [opdW 8 32] = true ∧ (memQueue 3 5 2).Local .both ((memQueue 3 5 2).getS 4) 64 (page 0x100) ∧
    ((memQueue 3 5 2).getS 4).toNat % 64 = 0 ∧ 0x100 % 64 = 0 ∧
    (∀ j, j < 3 → (memQueue 3 5 2).Local .both (BitVec.ofNat 64 (0x1000200 + (2 + j) % 64 * 4)) 4 (page (0x200 + (2 + j) % 64 * 4))) ∧
    ((List.range 3).map (fun j => (readQueue 2 ((List.range 64).map (fun i => (memQueue 3 5 2).viewByte true (0x100 + i)))).map (fun q => q.addr (q.head + j) 4)) =
      (List.range 3).map (fun j => some (BitVec.ofNat 64 (0x1000200 + (2 + j) % 64 * 4)))) := by
  refine ⟨by decide +kernel, alone_of (by decide +kernel), by decide +kernel, by decide +kernel, by decide +kernel,
    alone_of (by decide +kernel), by decide +kernel, by decide +kernel, by decide +kernel, local_of (by decide +kernel) (by decide +kernel), by decide +kernel, by decide, ?_, by decide +kernel⟩
  intro j hj
  match j, hj with
  | 0, _ => exact local_of (by decide +kernel) (by decide +kernel)
  | 1, _ => exact local_of (by decide +kernel) (by decide +kernel)
  | 2, _ => exact local_of (by decide +kernel) (by decide +kernel)

theorem wit_VectorAtomic :
    vmem.Alone ∧ (vill vmem.x.vtype = false ∧ 32 ≤ vmem.ew ∧ (0 : BitVec 5).toNat ≤ 8 ∧ (8 : BitVec 5).toNat ≤ 8 ∧ vmem.ew = 32 ∧ vmem.memWf = true) ∧
    groupsLegal vmem.x.vtype [opdW 8 vmem.ew, opdW 16 vmem.ew] = true ∧ (opdW 8 vmem.ew).disjoint vmem.x.vtype (opdW 16 vmem.ew) = true ∧
    VmemElems .both ∧ (∀ i j, i < 3 → j < 3 → i ≠ j → (page (0x100 + i * 8)).pa + 4 ≤ (page (0x100 + j * 8)).pa ∨
      (page (0x100 + j * 8)).pa + 4 ≤ (page (0x100 + i * 8)).pa) ∧
    vmem.Parted ∧ vmem.net.retired = [] ∧ (∀ o ∈ [0, 4, 8, 10], (atomicNew o 32 5 7 0).isSome = true) :=
  ⟨alone_vmem, by decide +kernel, by decide +kernel, by decide +kernel, vmem_local _ (.inr (.inr rfl)), by simp only [page]; omega,
   parted_vmem, by decide +kernel, by decide +kernel⟩

theorem wit_VectorAtomicScatter :
    vmem.Alone ∧ (vill vmem.x.vtype = false ∧ 32 ≤ vmem.ew ∧ (7 : BitVec 5).toNat ≤ 7 ∧ vmem.ew = 32 ∧ vmem.memWf = true ∧ vmem.scatter = []) ∧
    groupsLegal vmem.x.vtype [opdW 8 vmem.ew, opdW 16 vmem.ew] = true ∧
    ((List.range vmem.vl).filter (fun i => (vmem.kmask (0 : BitVec 3).toNat).getLsbD i && decide (vmem.vbeg ≤ i))).length ≤ 256 ∧ VmemElems .both ∧ vmem.Parted :=
  ⟨alone_vmem, by decide +kernel, by decide +kernel, by decide +kernel, vmem_local _ (.inr (.inr rfl)), parted_vmem⟩

/-- Elements of 4 bytes at a on the fabric page at 0x1010000 or a local page, and these groups. -/
def fabricVec (a : Word) (gs : List Group1) : State :=
  let s := grouped a gs
  { s with x := { s.x with vtype := 2, vl := 3, vreg := vset s.x.vreg 8 0x70000000600000005 } }

/-- Place 0x100 of window 2 of package 3 and those that follow it. -/
def away (i : Nat) : Xl := { pa := 3 * 2 ^ 42 + 2 * 2 ^ 36 + 0x100 + i * 4, vc := 0, kind := 1 }

/-- The translation of elements 0, 1 and 2. -/
def Three (s : State) (x : Nat → Xl) : Prop :=
  ∀ i ∈ (List.range s.vl).filter (fun i => (s.kmask 0).getLsbD i && decide (s.vbeg ≤ i)),
    (s.getS 4 + BitVec.ofNat 64 (i * 4)).toNat < 2 ^ 54 ∧ (s.getS 4 + BitVec.ofNat 64 (i * 4)).toNat % 4 = 0 ∧
    s.xlate s.walkRead s.space .write (s.getS 4 + BitVec.ofNat 64 (i * 4)).toNat = (s, .ok (x i))

theorem three_of {s : State} {x : Nat → Xl} (h : (List.range s.vl).filter (fun i => (s.kmask 0).getLsbD i && decide (s.vbeg ≤ i)) = [0, 1, 2] ∧
    ∀ i ∈ [0, 1, 2], (s.getS 4 + BitVec.ofNat 64 (i * 4)).toNat < 2 ^ 54 ∧ (s.getS 4 + BitVec.ofNat 64 (i * 4)).toNat % 4 = 0 ∧
      s.hits .write (s.getS 4 + BitVec.ofNat 64 (i * 4)).toNat (x i) = true) : Three s x := by
  intro i hi
  rw [h.1] at hi
  have := h.2 i hi
  exact ⟨this.1, this.2.1, xlate_of_hits _ _ _ _ _ this.2.2⟩

theorem wit_VectorGroupStore :
    (∀ s ∈ [fabricVec 0x1010100 [], fabricVec 0x1000100 [mine 6 .open_ true []]],
      s.feature 1 = true ∧ vill s.x.vtype = false ∧ vmemGroups s.x.vtype 8 s.ew 1 none false = true ∧ s.ew = 32) ∧
    ((fabricVec 0x1010100 []).Alone ∧ Three (fabricVec 0x1010100 []) away ∧ (fabricVec 0x1010100 []).openGroup ((fabricVec 0x1010100 []).getS 20) = none) ∧
    ((fabricVec 0x1010100 [mine 6 .open_ true []]).Alone ∧ (fabricVec 0x1010100 [mine 6 .doomed true []]).Alone ∧
     Three (fabricVec 0x1010100 [mine 6 .open_ true []]) away ∧ Three (fabricVec 0x1010100 [mine 6 .doomed true []]) away) ∧
    (∀ st ∈ [GState.open_, .doomed],
      let s := fabricVec 0x1010100 [mine 6 st true []]
      meets (s.openGroup (s.getS 20)) (fun r => r.state = st ∧ r.dests.length < 16 ∧
        3 ≤ (List.range 64).countP (fun n => !s.fab.reqs.any (fun q => q.kind == .vector && q.slot == some n))) = true) ∧
    (∀ i ∈ [0, 1, 2], BitVec.ofNat 10 (away i).ep = 3) ∧
    (let s := fabricVec 0x1000100 [mine 6 .open_ true []]
     s.Alone ∧ Three s (fun i => page (0x100 + i * 4)) ∧ meets (s.openGroup (s.getS 20)) (fun r => r.state = .open_) = true ∧
     s.Local .write (s.getS 4 + BitVec.ofNat 64 (0 * 4)) 4 (page 0x100)) :=
  ⟨by decide +kernel, ⟨alone_of (by decide +kernel), three_of (by decide +kernel), by decide +kernel⟩,
   ⟨alone_of (by decide +kernel), alone_of (by decide +kernel), three_of (by decide +kernel), three_of (by decide +kernel)⟩, by decide +kernel, by decide,
   alone_of (by decide +kernel), three_of (by decide +kernel), by decide +kernel, local_of (by decide +kernel) (by decide +kernel)⟩

/-! ## Witnesses: the matrix array -/

/-- A ring core whose array has the shape 32 × 32 × 32 with slide 230, every resource claimed; row r of accumulators 0 to 3 and slots
0 to 3 holds r, but row 3 of accumulator 0 and of slot 0 is poisoned. s20 holds the descriptor, s6 the stride 64, s7 the transfer
descriptor. -/
def array (fd xfer : Nat) : State :=
  let s := ((vec fd 0x16 33 0).setS 6 64).setS 7 (BitVec.ofNat 64 xfer)
  { s with x := { s.x with
      shape := 0x00E6002000200020, claim := 0xFFFFFF
      acc := (List.range 4).flatMap (fun j => ((List.range 32).filter (fun r => j != 0 || r != 3)).map (fun r => (256 * j + r, BitVec.ofNat 8192 r)))
      slot := (List.range 4).flatMap (fun q => ((List.range 32 ++ span 230 256).filter (fun r => q != 0 || r != 3)).map (fun r => (256 * q + r, BitVec.ofNat 4096 r)))
      accPoison := vset s.x.accPoison 0 8, slotPoison := vset s.x.slotPoison 0 8 } }

theorem array_of {s : State} {accs slots : List Nat} (h : s.st.place.master? ≠ none ∧ s.st.place = .ring 0 ∧ s.feature 5 = true ∧
    (∀ j ∈ accs, s.x.claim.getLsbD j = true) ∧ ∀ q ∈ slots, s.x.claim.getLsbD (8 + q) = true) : s.Array accs slots :=
  ⟨⟨h.1, 0, h.2.1⟩, h.2.2.1, h.2.2.2⟩

theorem wit_MatrixShapeAndClaims :
    (array 0 0).Array [] [] ∧
    (shapeLegal (((array 0 0).setS 4 0x0000042000200020).getS 4) = false ∧ shapeLegal (((array 0 0).setS 4 0x00FF040001000100).getS 4) = true) ∧
    (2 ^ 24 ≤ (((array 0 0).setS 4 0x1000000).getS 4).toNat ∧ (((array 0 0).setS 4 0xFFFFFF).getS 4).toNat < 2 ^ 24) :=
  ⟨array_of (by decide +kernel), by decide +kernel, by decide +kernel⟩

/-- The rows of these accumulators and slots, but the poisoned ones, hold their index. -/
def Rows (s : State) (accs slots : List Nat) : Prop :=
  (∀ j ∈ accs, ∀ m, m < 32 → s.accBad j m = false → s.accVal j m = some m) ∧
  ∀ q ∈ slots, ∀ m, (m < 32 ∨ (230 ≤ m ∧ m < 256)) → s.slotBad q m = false → s.slotVal q m = some m

theorem rows_of {s : State} {accs slots : List Nat}
    (h : (∀ j ∈ accs, ∀ m, m < 32 → s.accBad j m = false → s.accVal j m = some m) ∧
      (∀ q ∈ slots, ∀ m, m < 32 → s.slotBad q m = false → s.slotVal q m = some m) ∧
      ∀ q ∈ slots, ∀ m, m < 26 → s.slotBad q (230 + m) = false → s.slotVal q (230 + m) = some (230 + m)) : Rows s accs slots := by
  refine ⟨h.1, fun q hq m hm hb => ?_⟩
  rcases hm with hm | hm
  · exact h.2.1 q hq m hm hb
  · obtain ⟨n, rfl⟩ := Nat.exists_eq_add_of_le hm.1
    exact h.2.2 q hq n (by omega) hb

theorem wit_MatrixProduct :
    (let s := array (fdOf 9 9 9) 0
     s.Array [0, 1] [0, 1] ∧ readFD (s.getS 20) = fdF 9 9 9 ∧ fdLegal (s.getS 20) = true ∧
     (mmaFormats false (fdF 9 9 9) = true ∧ mmaFormats true (fdF 9 9 9) = true) ∧
     (matrixScale s 20 1 9 = .ok (.ofInt 1) ∧ matrixScale s 20 2 9 = .ok (.ofInt 1)) ∧
     (shapeLegal s.x.shape = true ∧ shapeM s.x.shape = 32 ∧ shapeN s.x.shape = 32 ∧ shapeSlide s.x.shape = 230 ∧
       shapeK s.x.shape ≤ min (kLimit 9) (kLimit 9)) ∧ Rows s [0, 1] [0, 1] ∧ s.accBad 0 3 = true ∧ s.slotBad 0 3 = true) ∧
    (let s := array (fdOf 0x16 0x12 9) 0
     s.Array [0, 1] [0, 1, 2, 3] ∧ readFD (s.getS 20) = fdF 0x16 0x12 9 ∧ fdLegal (s.getS 20) = true ∧ mmaFormats true (fdF 0x16 0x12 9) = true ∧
     (matrixScale s 20 1 0x16 = .ok (tensorScale (s.getS 21)) ∧ matrixScale s 20 2 0x12 = .ok (.ofInt 1)) ∧
     shapeK s.x.shape ≤ min (kLimit 0x16) (kLimit 0x12) ∧ Rows s [0, 1] [0, 1, 2, 3]) := by
  refine ⟨⟨array_of (by decide +kernel), by decide +kernel, by decide +kernel, by decide, ⟨rfl, rfl⟩, by decide +kernel,
      rows_of (by decide +kernel), by decide +kernel, by decide +kernel⟩,
    array_of (by decide +kernel), by decide +kernel, by decide +kernel, by decide, ⟨?_, rfl⟩, by decide +kernel, rows_of (by decide +kernel)⟩
  have h : tensorScaleOk ((array (fdOf 0x16 0x12 9) 0).getS 21) = true := by decide +kernel
  show (if tensorScaleOk ((array (fdOf 0x16 0x12 9) 0).getS 21) then (.ok (tensorScale ((array (fdOf 0x16 0x12 9) 0).getS 21)) : Run XVal)
    else .error ((array (fdOf 0x16 0x12 9) 0).trapS 0x61 ((array (fdOf 0x16 0x12 9) 0).getS 21))) = _
  rw [h]; rfl

theorem wit_MatrixElementwise :
    let s := array 0 0
    s.Array [1, 0] [] ∧ s.Array [2, 3] [] ∧ s.Array [0] [] ∧ shapeLegal s.x.shape = true ∧ shapeM s.x.shape = 32 ∧ Rows s [0, 1, 2, 3] [] :=
  ⟨array_of (by decide +kernel), array_of (by decide +kernel), array_of (by decide +kernel), by decide +kernel, by decide +kernel,
   rows_of (by decide +kernel)⟩

theorem wit_MatrixConvert :
    (let s := array (fdOf 9 9 0x12) 0
     s.Array [0] [14, 15] ∧ readFD (s.getS 20) = fdF 9 9 0x12 ∧ fdLegal (s.getS 20) = true ∧ macsFormats (fdF 9 9 0x12) = true ∧
     matrixScale s 20 1 0x12 = .ok (.ofInt 1) ∧ shapeLegal s.x.shape = true ∧ shapeM s.x.shape * fmtWidth 0x12 ≤ 4096 ∧
     shapeN s.x.shape * fmtWidth 0x12 ≤ 4096 ∧ Rows s [0] []) ∧
    (let s := array (fdOf 2 9 0) 0
     s.Array [0] [15] ∧ readFD (s.getS 20) = fdF 2 9 0 ∧ fdLegal (s.getS 20) = true ∧ macsFormats (fdF 2 9 0) = true ∧
     matrixScale s 20 1 0 = .ok (.ofInt 1) ∧ Rows s [0] []) :=
  ⟨⟨array_of (by decide +kernel), by decide +kernel, by decide +kernel, by decide, rfl, by decide +kernel, by decide +kernel, by decide +kernel,
    rows_of (by decide +kernel)⟩,
   array_of (by decide +kernel), by decide +kernel, by decide +kernel, by decide, rfl, rows_of (by decide +kernel)⟩

theorem wit_MatrixRowsAndWait :
    let s (r : Nat) : State := (array 0 0).setS 5 (BitVec.ofNat 64 r)
    (s 4).Array [0] [] ∧ (s 4).Array [] [] ∧ (s 4).st.mqueue = [] ∧ 255 < ((s 256).getS 5).toNat ∧ ((s 255).getS 5).toNat ≤ 255 ∧
    (((s 3).getS 5).toNat ≤ 255 ∧ (s 3).accBad 0 ((s 3).getS 5).toNat = true) ∧
    ((s 4).accBad 0 ((s 4).getS 5).toNat = false ∧ (s 4).accVal 0 ((s 4).getS 5).toNat = some 4) :=
  ⟨array_of (by decide +kernel), array_of (by decide +kernel), by decide +kernel, by decide +kernel, by decide +kernel, by decide +kernel,
   by decide +kernel⟩

/-- Rows 1 and 2 of a transfer of two 4-byte elements a row, or of rows of 8 bytes, at 0x1000100 and each 64 bytes on. -/
def moving (fmt len : Nat) : State :=
  let s := array 0 (fmt * 2 ^ 32 + len * 2 ^ 16 + 3)
  { s with x := { s.x with vbeg := 1 } }

theorem two {p : Nat → Prop} (h : p 1 ∧ p 2) : ∀ r, 1 ≤ r ∧ r < 3 → p r := by
  intro r hr
  match r, hr with
  | 1, _ => exact h.1
  | 2, _ => exact h.2

theorem wit_MatrixTransfers :
    (moving 0 8).Alone ∧ (moving 0 8).Array [0] [0] ∧
    ((moving 0 8).vbeg = 1 ∧ (readXfer ((moving 0 8).getS 7)).rows = 3 ∧ (readXfer ((moving 9 2).getS 7)).rows = 3 ∧ (readXfer ((moving 9 2).getS 7)).len = 2 ∧
      xferLegal ((moving 0 8).getS 7) false 512 = true ∧ xferLegal ((moving 0 8).getS 7) false 256 = true ∧
      xferLegal ((moving 9 2).getS 7) true 256 = true ∧ xferLegal ((moving 10 2).getS 7) true 256 = true) ∧
    (∀ r, 1 ≤ r ∧ r < 3 →
      let row (s : State) : Word := s.getS 4 + BitVec.ofNat 64 r * s.getS 6
      ((row (moving 0 8)).toNat % 65536 + 8 * 4 ≤ 65536 ∧ (row (moving 0 8)).toNat % 4 = 0) ∧
      (moving 0 8).Local .read (row (moving 0 8)) (8 * 1) (page (0x100 + r * 64)) ∧
      (moving 0 8).Local .read (row (moving 0 8)) (8 * 4) (page (0x100 + r * 64)) ∧
      (moving 9 2).Local .write (row (moving 9 2)) (2 * 4) (page (0x100 + r * 64)) ∧
      ((moving 9 2).accBad 0 r = false ∧ (moving 9 2).accVal 0 r = some r)) ∧
    ((moving 0 8).st.active = false ∧ ((moving 0 8).getS 4).toNat % 32 = 0 ∧ ((moving 0 8).getS 4).toNat % 65536 + 96 ≤ 65536 ∧
      (moving 0 8).Local .read ((moving 0 8).getS 4) 96 (page 0x100)) := by
  refine ⟨alone_of (by decide +kernel), array_of (by decide +kernel), by decide +kernel, two ⟨?_, ?_⟩, by decide +kernel, by decide +kernel,
    by decide +kernel, local_of (by decide +kernel) (by decide +kernel)⟩ <;>
  exact ⟨by decide +kernel, local_of (by decide +kernel) (by decide +kernel), local_of (by decide +kernel) (by decide +kernel),
    local_of (by decide +kernel) (by decide +kernel), by decide +kernel⟩

theorem wit_MatrixDispatchTraps :
    let s (c : BitVec 24) (sh : Word) : State := { array 0 0 with x := { (array 0 0).x with claim := c, shape := sh } }
    (s 0 0).Array [] [] ∧ ((s 0 0).x.claim.getLsbD 0 = false ∧ (s 0 0).x.claim.getLsbD 8 = false) ∧
    ((s 3 0x21).x.claim.getLsbD 0 = true ∧ (s 3 0x21).x.claim.getLsbD 1 = true ∧ shapeLegal (s 3 0x21).x.shape = false) ∧
    (let f := begun 0
     f.st.active = true ∧ f.st.place.master? ≠ none ∧ f.st.place = .ring 0 ∧ f.feature 5 = true) :=
  ⟨array_of (by decide +kernel), by decide +kernel, by decide +kernel, by decide +kernel⟩

/-! ## Witnesses: engines, levels, steps -/

/-- A frozen or running strand of ring 0; engine 3 is frozen with a command. -/
def fenced (ph : Phase) : State :=
  { wUser with st := { wUser.st with phase := ph } }

theorem wit_Unfreeze :
    meets wUser.st.place.master? (fun m => m < 64 ∧ (BitVec.ofNat 64 m : Word).toNat = m) = true ∧ (fenced .frozen).st.phase = .frozen ∧
    (fenced .running).st.phase ≠ .frozen ∧ (64 : Word).toNat = 64 + 0 ∧ (79 : Word).toNat = 64 + 15 ∧ 80 ≤ (80 : Word).toNat := by
  decide +kernel

/-- Bits 0 to 10 of the features accepted: none. -/
def bare : State := { wUser with mbx := { wUser.mbx with fa := vset wUser.mbx.fa 0 0 } }

theorem wit_DispatchGate :
    (∀ n ∈ [1, 2, 3, 5], bare.feature n = false) ∧ wUser.lvl = 0 ∧ (∀ l ∈ [0, 1, 2], (atLvl wUser l).lvl < 3) ∧
    State.reset.st.place = .management := by decide +kernel

/-- ADDI s5, s4, 0xFFF0 at the pc of a strand, of the head of a fork, and of the management core. -/
def placed (s : State) : State := s.placeWord 0x08A4FFF0

theorem wit_StepRunsDecoded :
    (∀ b ∈ [true, false],
      let s := placed (if b then { begun 0 with x := { (begun 0).x with pc := 0x1000000 } } else wUser)
      s.inputs = [] ∧ s.stopped = false ∧ s.hostReady = none ∧ s.asyncDue = false ∧
      (meets s.fetch.toOption (fun r => r.2 = 0x08A4FFF0 ∧ r.1.joinHere = none ∧ r.1.interlocked (.addi 5 4 0xFFF0) = false ∧
        (r.1.st.vqueue = [] ∧ r.1.st.mqueue = [])) = true) ∧
      (s.st.place.master? ≠ none ∧ s.st.phase = .running ∧ s.x.phase = .running ∧ s.st.fatal = none ∧ s.x.held = none ∧
        s.x.owed = .nothing ∧ s.st.vqueue = [] ∧ s.st.mqueue = [] ∧ s.st.equeue = [])) ∧
    (decode 0x08A4FFF0).toOption = some (.addi 5 4 0xFFF0) ∧
    (let s : State := { State.reset with boot := .ready, sram := [(0, 0xF0), (1, 0xFF), (2, 0xA4), (3, 0x08)] }
     s.st.place = .management ∧ s.mgmtRuns = true ∧ s.inputs = [] ∧ s.stopped = false ∧ s.hostReady = none ∧ s.asyncDue = false ∧
     meets s.fetch.toOption (fun r => r.2 = 0x08A4FFF0 ∧ r.1.joinHere = none ∧ r.1.interlocked (.addi 5 4 0xFFF0) = false) = true) := by
  decide +kernel

theorem wit_DecodeEncode :
    (Instr.addi 5 4 0xFFF0).isWord = true ∧ (Instr.addi 5 4 0xFFF0).wf = true ∧ (decode 0x08A4FFF0).toOption = some (.addi 5 4 0xFFF0) := by
  decide +kernel

theorem wit_StepKeepsMemoryCanonical :
    wMem.memWf = true ∧ Memory.wf (fun _ => 0) wMem.sram = true ∧
    (match step (wMem.withFetchWord 32 0x08A4FFF0) with | .next t => t.x.pc == wMem.x.pc + 4 | _ => false) = true := by decide +kernel

/-! ## Every word of the opcode table, its operands in the fields that 02_instruction_words.md R30 to R43 and the table give them -/

theorem test_decodes_add_to_div :
    decodeTableWord 32 0x058D9000 = some (.add 12 13 18) ∧ decodeTableWord 32 0x058D9001 = some (.sub 12 13 18) ∧
    decodeTableWord 32 0x058D9002 = some (.and 12 13 18) ∧ decodeTableWord 32 0x058D9003 = some (.or 12 13 18) ∧
    decodeTableWord 32 0x058D9004 = some (.xor 12 13 18) ∧ decodeTableWord 32 0x058D9005 = some (.andn 12 13 18) ∧
    decodeTableWord 32 0x058D9008 = some (.sll 12 13 18) ∧ decodeTableWord 32 0x058D9009 = some (.srl 12 13 18) ∧
    decodeTableWord 32 0x058D900A = some (.sra 12 13 18) ∧ decodeTableWord 32 0x058D900B = some (.rotr 12 13 18) ∧
    decodeTableWord 32 0x058D9010 = some (.mul 12 13 18) ∧ decodeTableWord 32 0x058D9011 = some (.mulh 12 13 18) ∧
    decodeTableWord 32 0x058D9012 = some (.mulhn 12 13 18) ∧ decodeTableWord 32 0x058D9014 = some (.div 12 13 18) := by decide +kernel

theorem test_decodes_divn_to_sext :
    decodeTableWord 32 0x058D9015 = some (.divn 12 13 18) ∧ decodeTableWord 32 0x058D9016 = some (.rem 12 13 18) ∧
    decodeTableWord 32 0x058D9017 = some (.remn 12 13 18) ∧ decodeTableWord 32 0x058D9018 = some (.min 12 13 18) ∧
    decodeTableWord 32 0x058D9019 = some (.max 12 13 18) ∧ decodeTableWord 32 0x058D901A = some (.minn 12 13 18) ∧
    decodeTableWord 32 0x058D901B = some (.maxn 12 13 18) ∧ decodeTableWord 32 0x058D901C = some (.slt 12 13 18) ∧
    decodeTableWord 32 0x058D901D = some (.sltn 12 13 18) ∧ decodeTableWord 32 0x058D0020 = some (.clz 12 13) ∧
    decodeTableWord 32 0x058D0021 = some (.ctz 12 13) ∧ decodeTableWord 32 0x058D0022 = some (.popc 12 13) ∧
    decodeTableWord 32 0x058D0023 = some (.bswap 12 13) ∧ decodeTableWord 32 0x058D0064 = some (.sext 12 13 1) := by decide +kernel

theorem test_decodes_zext_to_beq :
    decodeTableWord 32 0x058D0065 = some (.zext 12 13 1) ∧ decodeTableWord 32 0x098DBC55 = some (.addi 12 13 48213) ∧
    decodeTableWord 32 0x0D8DBC55 = some (.andi 12 13 48213) ∧ decodeTableWord 32 0x118DBC55 = some (.ori 12 13 48213) ∧
    decodeTableWord 32 0x158DBC55 = some (.xori 12 13 48213) ∧ decodeTableWord 32 0x198DBC55 = some (.slti 12 13 48213) ∧
    decodeTableWord 32 0x1D8DBC55 = some (.sltni 12 13 48213) ∧ decodeTableWord 32 0x218D8025 = some (.shi 12 13 2 37) ∧
    decodeTableWord 32 0x2580BC55 = some (.lih 12 48213) ∧ decodeTableWord 32 0x2983BC55 = some (.insi 12 3 48213) ∧
    decodeTableWord 32 0x2D80BC55 = some (.addpc 12 48213) ∧ decodeTableWord 32 0x318D3C55 = some (.ld 12 13 1 7253) ∧
    decodeTableWord 32 0x364D3C55 = some (.st 18 13 1 7253) ∧ decodeTableWord 32 0x3A4D1C55 = some (.beq 18 13 7253) := by decide +kernel

theorem test_decodes_bne_to_svc :
    decodeTableWord 32 0x3A4D3C55 = some (.bne 18 13 7253) ∧ decodeTableWord 32 0x3A4D5C55 = some (.blt 18 13 7253) ∧
    decodeTableWord 32 0x3A4D7C55 = some (.bge 18 13 7253) ∧ decodeTableWord 32 0x3A4D9C55 = some (.bltn 18 13 7253) ∧
    decodeTableWord 32 0x3A4DBC55 = some (.bgen 18 13 7253) ∧ decodeTableWord 32 0x3D9ABC55 = some (.call 12 1752149) ∧
    decodeTableWord 32 0x418D0000 = some (.callr 12 13) ∧ decodeTableWord 32 0x400D0001 = some (.jmpr 13) ∧
    decodeTableWord 32 0x45808AA0 = some (.sget 12 1109) ∧ decodeTableWord 32 0x440D8AA1 = some (.sset 13 1109) ∧
    decodeTableWord 32 0x458D8AA2 = some (.sxch 12 13 1109) ∧ decodeTableWord 32 0x44008AA4 = some (.trap 1109) ∧
    decodeTableWord 32 0x44000005 = some (.tret) ∧ decodeTableWord 32 0x44008AA6 = some (.svc 1109) := by decide +kernel

theorem test_decodes_halt_to_rdecl :
    decodeTableWord 32 0x44000007 = some (.halt) ∧ decodeTableWord 32 0x44000008 = some (.idle) ∧
    decodeTableWord 32 0x44008AA9 = some (.bkpt 1109) ∧ decodeTableWord 32 0x480D9000 = some (.fork 13 18) ∧
    decodeTableWord 32 0x498D9001 = some (.forkt 12 13 18) ∧ decodeTableWord 32 0x49800042 = some (.iter 12 2) ∧
    decodeTableWord 32 0x48000003 = some (.endi) ∧ decodeTableWord 32 0x48000004 = some (.join) ∧
    decodeTableWord 32 0x48000005 = some (.fbreak) ∧ decodeTableWord 32 0x49800006 = some (.cspec 12) ∧
    decodeTableWord 32 0x48000007 = some (.headw) ∧ decodeTableWord 32 0x480000A8 = some (.ipost 5) ∧
    decodeTableWord 32 0x480D00A9 = some (.iwait 13 5) ∧ decodeTableWord 32 0x486D900A = some (.rdecl 3 13 18) := by decide +kernel

theorem test_decodes_chainw_to_amax :
    decodeTableWord 32 0x480D000B = some (.chainw 13) ∧ decodeTableWord 32 0x4D8D0000 = some (.launch 12 13) ∧
    decodeTableWord 32 0x4C000001 = some (.sdone) ∧ decodeTableWord 32 0x4C000002 = some (.yield) ∧
    decodeTableWord 32 0x4D800003 = some (.ringid 12) ∧ decodeTableWord 32 0x4D8D0004 = some (.grpq 12 13) ∧
    decodeTableWord 32 0x4C0D0005 = some (.sprio 13) ∧ decodeTableWord 32 0x4D800006 = some (.stridx 12) ∧
    decodeTableWord 32 0x518D9010 = some (.aadd 12 13 18 1) ∧ decodeTableWord 32 0x518D9011 = some (.aand 12 13 18 1) ∧
    decodeTableWord 32 0x518D9012 = some (.aor 12 13 18 1) ∧ decodeTableWord 32 0x518D9013 = some (.axor 12 13 18 1) ∧
    decodeTableWord 32 0x518D9014 = some (.amin 12 13 18 1) ∧ decodeTableWord 32 0x518D9015 = some (.amax 12 13 18 1) := by decide +kernel

theorem test_decodes_aminn_to_mpeek :
    decodeTableWord 32 0x518D9016 = some (.aminn 12 13 18 1) ∧ decodeTableWord 32 0x518D9017 = some (.amaxn 12 13 18 1) ∧
    decodeTableWord 32 0x518D9018 = some (.aswap 12 13 18 1) ∧ decodeTableWord 32 0x518D9559 = some (.acas 12 13 18 21 1) ∧
    decodeTableWord 32 0x518D901A = some (.afadd 12 13 18 1) ∧ decodeTableWord 32 0x540D9000 = some (.binit 13 18) ∧
    decodeTableWord 32 0x558D0021 = some (.barr 12 13 1) ∧ decodeTableWord 32 0x558D9002 = some (.bwait 12 13 18) ∧
    decodeTableWord 32 0x558D0023 = some (.barrw 12 13 1) ∧ decodeTableWord 32 0x540D0004 = some (.binv 13) ∧
    decodeTableWord 32 0x558D0005 = some (.gbar 12 13) ∧ decodeTableWord 32 0x598D9000 = some (.msend 12 13 18) ∧
    decodeTableWord 32 0x598D0001 = some (.mrecv 12 13) ∧ decodeTableWord 32 0x59800002 = some (.mpeek 12) := by decide +kernel

theorem test_decodes_wakew_to_vcdef :
    decodeTableWord 32 0x580D9003 = some (.wakew 13 18) ∧ decodeTableWord 32 0x598D9004 = some (.waitw 12 13 18) ∧
    decodeTableWord 32 0x598D9005 = some (.ecmd 12 13 18) ∧ decodeTableWord 32 0x584D9006 = some (.ecmdb 2 13 18) ∧
    decodeTableWord 32 0x58000687 = some (.toks 3 4) ∧ decodeTableWord 32 0x58000688 = some (.tokw 3 4) ∧
    decodeTableWord 32 0x59800009 = some (.bqtake 12) ∧ decodeTableWord 32 0x5C000000 = some (.fsv) ∧
    decodeTableWord 32 0x5C000001 = some (.fvs) ∧ decodeTableWord 32 0x5C000222 = some (.fence 2 1) ∧
    decodeTableWord 32 0x5C000003 = some (.fsc) ∧ decodeTableWord 32 0x5D8D0124 = some (.ldacq 12 13 1 1) ∧
    decodeTableWord 32 0x5D8D0125 = some (.strel 12 13 1 1) ∧ decodeTableWord 32 0x618D0000 = some (.vcdef 12 13) := by decide +kernel

theorem test_decodes_vcdel_to_gstat :
    decodeTableWord 32 0x618D0001 = some (.vcdel 12 13) ∧ decodeTableWord 32 0x618D0002 = some (.vcqry 12 13) ∧
    decodeTableWord 32 0x600D9003 = some (.vcsync 13 18) ∧ decodeTableWord 32 0x600D9004 = some (.vcflush 13 18) ∧
    decodeTableWord 32 0x640D0000 = some (.tlbinv 13) ∧ decodeTableWord 32 0x640D0001 = some (.tlogw 13) ∧
    decodeTableWord 32 0x64000002 = some (.tloga) ∧ decodeTableWord 32 0x658D0043 = some (.atran 12 13 2) ∧
    decodeTableWord 32 0x69800000 = some (.gopen 12) ∧ decodeTableWord 32 0x698D9101 = some (.gst 12 13 18 1) ∧
    decodeTableWord 32 0x698D9202 = some (.vgst 12 13 18 2) ∧ decodeTableWord 32 0x698D0003 = some (.gcommit 12 13) ∧
    decodeTableWord 32 0x680D0004 = some (.gabort 13) ∧ decodeTableWord 32 0x698D0005 = some (.gstat 12 13) := by decide +kernel

theorem test_decodes_gresolve_to_vsqrt :
    decodeTableWord 32 0x680D0006 = some (.gresolve 13 0) ∧ decodeTableWord 32 0x6D800040 = some (.pmcr 12 2) ∧
    decodeTableWord 32 0x6C0D0041 = some (.pmcw 13 2) ∧ decodeTableWord 32 0x6C0D0002 = some (.pmcf 13) ∧
    decodeTableWord 32 0x718D9000 = some (.vsetvl 12 13 18) ∧ decodeTableWord 32 0x718D04A1 = some (.vsetvli 12 13 37) ∧
    decodeTableWord 32 0x898D9520 = some (.vadd 2 12 13 18 20 1) ∧ decodeTableWord 32 0x898D9521 = some (.vsub 2 12 13 18 20 1) ∧
    decodeTableWord 32 0x898D9522 = some (.vmul 2 12 13 18 20 1) ∧ decodeTableWord 32 0x898D9523 = some (.vfma 2 12 13 18 20 1) ∧
    decodeTableWord 32 0x898D9524 = some (.vfms 2 12 13 18 20 1) ∧ decodeTableWord 32 0x898D9525 = some (.vnfma 2 12 13 18 20 1) ∧
    decodeTableWord 32 0x898D9526 = some (.vdiv 2 12 13 18 20 1) ∧ decodeTableWord 32 0x898D0507 = some (.vsqrt 2 12 13 20) := by decide +kernel

theorem test_decodes_vmin_to_vshl :
    decodeTableWord 32 0x898D9528 = some (.vmin 2 12 13 18 20 1) ∧ decodeTableWord 32 0x898D9529 = some (.vmax 2 12 13 18 20 1) ∧
    decodeTableWord 32 0x898D050A = some (.vabs 2 12 13 20) ∧ decodeTableWord 32 0x898D050B = some (.vneg 2 12 13 20) ∧
    decodeTableWord 32 0x898D050C = some (.vexp2 2 12 13 20) ∧ decodeTableWord 32 0x898D050D = some (.vlog2 2 12 13 20) ∧
    decodeTableWord 32 0x898D050E = some (.vrcp 2 12 13 20) ∧ decodeTableWord 32 0x898D050F = some (.vrsq 2 12 13 20) ∧
    decodeTableWord 32 0x898D0510 = some (.vcvt 2 12 13 20) ∧ decodeTableWord 32 0x898D9531 = some (.vand 2 12 13 18 20 1) ∧
    decodeTableWord 32 0x898D9532 = some (.vor 2 12 13 18 20 1) ∧ decodeTableWord 32 0x898D9533 = some (.vxor 2 12 13 18 20 1) ∧
    decodeTableWord 32 0x898D0514 = some (.vnot 2 12 13 20) ∧ decodeTableWord 32 0x898D9535 = some (.vshl 2 12 13 18 20 1) := by decide +kernel

theorem test_decodes_vshr_to_vslup :
    decodeTableWord 32 0x898D9536 = some (.vshr 2 12 13 18 20 1) ∧ decodeTableWord 32 0x898D9537 = some (.vsra 2 12 13 18 20 1) ∧
    decodeTableWord 32 0x886D953D = some (.vcmp 2 3 13 18 20 1 5) ∧ decodeTableWord 32 0xC98D0500 = some (.vredsum 2 12 13 20) ∧
    decodeTableWord 32 0xC98D0501 = some (.vredmax 2 12 13 20) ∧ decodeTableWord 32 0xC98D0502 = some (.vredmin 2 12 13 20) ∧
    decodeTableWord 32 0xC98D0503 = some (.vscan 2 12 13 20) ∧ decodeTableWord 32 0xC98D9508 = some (.vsort 2 12 13 18 20) ∧
    decodeTableWord 32 0xC98D9509 = some (.vtopk 2 12 13 18 20) ∧ decodeTableWord 32 0xC98D0010 = some (.vcomp 2 12 13) ∧
    decodeTableWord 32 0xC98D0011 = some (.vexpd 2 12 13) ∧ decodeTableWord 32 0xC9800012 = some (.viota 2 12) ∧
    decodeTableWord 32 0xC98D9013 = some (.vperm 2 12 13 18) ∧ decodeTableWord 32 0xC98D9014 = some (.vslup 2 12 13 18) := by decide +kernel

theorem test_decodes_vsldn_to_vquant :
    decodeTableWord 32 0xC98D9015 = some (.vsldn 2 12 13 18) ∧ decodeTableWord 32 0xC98D0016 = some (.vbcast 2 12 13) ∧
    decodeTableWord 32 0xC18D9017 = some (.vextr 12 13 18) ∧ decodeTableWord 32 0xC18D9018 = some (.vins 12 13 18) ∧
    decodeTableWord 32 0xC98D9019 = some (.vsel 2 12 13 18) ∧ decodeTableWord 32 0xC0C32820 = some (.kand 6 3 5) ∧
    decodeTableWord 32 0xC0C32821 = some (.kor 6 3 5) ∧ decodeTableWord 32 0xC0C32822 = some (.kxor 6 3 5) ∧
    decodeTableWord 32 0xC0C30023 = some (.knot 6 3) ∧ decodeTableWord 32 0xC0C30024 = some (.kpop 6 3) ∧
    decodeTableWord 32 0xC0C30025 = some (.kfirst 6 3) ∧ decodeTableWord 32 0xC9800528 = some (.vrand 2 12 20) ∧
    decodeTableWord 32 0xC98D2D29 = some (.vpwl 2 12 13 5 20) ∧ decodeTableWord 32 0xC98D052A = some (.vquant 2 12 13 20) := by decide +kernel

theorem test_decodes_vdeq_to_vstxO :
    decodeTableWord 32 0xC98D052B = some (.vdeq 2 12 13 20) ∧ decodeTableWord 32 0xC98D952C = some (.vbaddq 2 12 13 18 20) ∧
    decodeTableWord 32 0xC98D9130 = some (.vamo 2 12 13 18 4) ∧ decodeTableWord 32 0xC98D9131 = some (.vamoc 2 12 13 18 4) ∧
    decodeTableWord 32 0xA90D0081 = some (.vld 2 8 13 2 1) ∧ decodeTableWord 32 0xA90D0085 = some (.vst 2 8 13 2 1) ∧
    decodeTableWord 32 0xA90D9181 = some (.vlds 2 8 13 18 2 1) ∧ decodeTableWord 32 0xA90D9581 = some (.vldsO 2 8 13 18 2 1) ∧
    decodeTableWord 32 0xA90D9185 = some (.vsts 2 8 13 18 2 1) ∧ decodeTableWord 32 0xA90D9585 = some (.vstsO 2 8 13 18 2 1) ∧
    decodeTableWord 32 0xA90D9281 = some (.vldx 2 8 13 18 2 1) ∧ decodeTableWord 32 0xA90D9481 = some (.vldxO 2 8 13 18 2 1) ∧
    decodeTableWord 32 0xA90D9285 = some (.vstx 2 8 13 18 2 1) ∧ decodeTableWord 32 0xA90D9485 = some (.vstxO 2 8 13 18 2 1) := by decide +kernel

theorem test_decodes_vldseg_to_mclr :
    decodeTableWord 32 0xA90D0399 = some (.vldseg 2 8 13 2 3 1) ∧ decodeTableWord 32 0xA90D039D = some (.vstseg 2 8 13 2 3 1) ∧
    decodeTableWord 32 0xA80D00B9 = some (.vpref 2 13 2 1) ∧ decodeTableWord 32 0xA80D91B9 = some (.vprefS 2 13 18 2 1) ∧
    decodeTableWord 32 0xA80D92B9 = some (.vprefX 2 13 18 2 1) ∧ decodeTableWord 32 0xA10D90B0 = some (.vldsq 8 13 18 2) ∧
    decodeTableWord 32 0xA90D90B4 = some (.vcapp 2 8 13 18 2) ∧ decodeTableWord 32 0xE0442D70 = some (.mma 2 4 5 21 3) ∧
    decodeTableWord 32 0xE0442D71 = some (.mslide 2 4 5 21 3) ∧ decodeTableWord 32 0xE0442802 = some (.mew 2 4 5 0) ∧
    decodeTableWord 32 0xE0442803 = some (.mpwl 2 4 5) ∧ decodeTableWord 32 0xE0400004 = some (.mrnorm 2) ∧
    decodeTableWord 32 0xE0400005 = some (.mzero 2) ∧ decodeTableWord 32 0xE0440006 = some (.mclr 2 4) := by decide +kernel

theorem test_decodes_mshape_to_mwait :
    decodeTableWord 32 0xE4440000 = some (.mshape 2 4) ∧ decodeTableWord 32 0xE4040001 = some (.mclaim 4) ∧
    decodeTableWord 32 0xE4040002 = some (.mrel 4) ∧ decodeTableWord 32 0xE4442843 = some (.mlds 2 4 5 1) ∧
    decodeTableWord 32 0xE4442844 = some (.mlda 2 4 5 1) ∧ decodeTableWord 32 0xE4442845 = some (.msta 2 4 5 1) ∧
    decodeTableWord 32 0xE4440056 = some (.macs 2 4 1 1) ∧ decodeTableWord 32 0xE4442807 = some (.mrowvToVector 2 4 5) ∧
    decodeTableWord 32 0xE4442817 = some (.mrowvToAccumulator 2 4 5) ∧ decodeTableWord 32 0xE4440008 = some (.mcurv 2 4) ∧
    decodeTableWord 32 0xE4400009 = some (.mwait 2) := by decide +kernel

/-- All zeros, all ones, a reserved major code, a reserved field that is not 0, a code out of range: no instruction (R48). -/
theorem test_decode_refuses :
    decodeTableWord 32 0 = none ∧ decodeTableWord 32 0xFFFFFFFF = none ∧ decodeTableWord 32 0x74000000 = none ∧
    decodeTableWord 32 0x058D7001 = some (.sub 12 13 14) ∧ decodeTableWord 32 0x058D7801 = some (.sub 12 13 15) ∧
    decodeTableWord 32 0x058D7040 = none ∧ decodeTableWord 32 0x058D00E4 = none ∧ decodeTableWord 32 0x58002C67 = none := by decide +kernel

/-! ## Ill-formed terms, one for each check of WellFormed -/

theorem test_wf_refuses_width_codes :
    Instr.wf (.sext 1 2 3) = false ∧ Instr.wf (.zext 1 2 3) = false ∧ Instr.wf (.ld 1 2 7 0) = false ∧ Instr.wf (.st 1 2 4 0) = false ∧
    Instr.wf (.ldacq 1 2 7 0) = false := by decide

theorem test_wf_refuses_fork_codes :
    Instr.wf (.fork 1 3) = false ∧ Instr.wf (.forkt 1 2 31) = false ∧ Instr.wf (.iter 1 3) = false ∧ Instr.wf (.ipost 8) = false ∧
    Instr.wf (.iwait 1 8) = false ∧ Instr.wf (.rdecl 4 1 2) = false := by decide

theorem test_wf_refuses_scopes_and_kinds :
    Instr.wf (.barr 1 2 5) = false ∧ Instr.wf (.barrw 1 2 5) = false ∧ Instr.wf (.fence 0 1) = false ∧ Instr.wf (.fence 1 5) = false ∧
    Instr.wf (.ldacq 1 2 3 5) = false ∧ Instr.wf (.strel 1 2 3 5) = false ∧ Instr.wf (.atran 1 2 3) = false ∧
    Instr.wf (.ecmdb 0 1 2) = false ∧ Instr.wf (.ecmdb 8 1 2) = false := by decide

theorem test_wf_refuses_atomic_places :
    Instr.wf (.aadd 1 2 3 3) = false ∧ Instr.wf (.aand 1 2 3 3) = false ∧ Instr.wf (.aor 1 2 3 3) = false ∧ Instr.wf (.axor 1 2 3 3) = false ∧
    Instr.wf (.amin 1 2 3 3) = false ∧ Instr.wf (.amax 1 2 3 3) = false ∧ Instr.wf (.aminn 1 2 3 3) = false ∧ Instr.wf (.amaxn 1 2 3 3) = false ∧
    Instr.wf (.aswap 1 2 3 3) = false ∧ Instr.wf (.acas 1 2 3 4 3) = false ∧ Instr.wf (.afadd 1 2 3 3) = false := by decide

theorem test_wf_refuses_masks :
    Instr.wf (.vcmp 1 0 2 3 4 0 1) = false ∧ Instr.wf (.kand 0 1 2) = false ∧ Instr.wf (.kor 8 1 2) = false ∧ Instr.wf (.kxor 1 8 2) = false ∧
    Instr.wf (.kand 1 2 8) = false ∧ Instr.wf (.knot 0 1) = false ∧ Instr.wf (.kpop 1 8) = false ∧ Instr.wf (.kfirst 1 8) = false ∧
    Instr.wf (.vpwl 1 2 3 8 4) = false := by decide

theorem test_wf_refuses_vector_memory_codes :
    Instr.wf (.vamo 1 2 3 4 9) = false ∧ Instr.wf (.vamo 1 2 3 4 11) = false ∧ Instr.wf (.vamoc 1 2 3 4 8) = false ∧
    Instr.wf (.vld 1 2 3 0 3) = false ∧ Instr.wf (.vst 1 2 3 0 3) = false ∧ Instr.wf (.vlds 1 2 3 4 0 3) = false ∧
    Instr.wf (.vldsO 1 2 3 4 0 3) = false ∧ Instr.wf (.vsts 1 2 3 4 0 3) = false ∧ Instr.wf (.vstsO 1 2 3 4 0 3) = false ∧
    Instr.wf (.vldx 1 2 3 4 0 3) = false ∧ Instr.wf (.vldxO 1 2 3 4 0 3) = false ∧ Instr.wf (.vstx 1 2 3 4 0 3) = false ∧
    Instr.wf (.vstxO 1 2 3 4 0 3) = false ∧ Instr.wf (.vldseg 1 2 3 0 0 0) = false ∧ Instr.wf (.vldseg 1 2 3 0 1 3) = false ∧
    Instr.wf (.vstseg 1 2 3 0 0 0) = false ∧ Instr.wf (.vpref 1 2 0 3) = false ∧ Instr.wf (.vprefS 1 2 3 0 3) = false ∧
    Instr.wf (.vprefX 1 2 3 0 3) = false := by decide

theorem test_wf_refuses_array_registers :
    Instr.wf (.mma 8 1 2 3 0) = false ∧ Instr.wf (.mma 1 1 2 3 1) = false ∧ Instr.wf (.mma 0 16 2 3 0) = false ∧
    Instr.wf (.mslide 0 1 16 3 0) = false ∧ Instr.wf (.mslide 3 1 2 3 3) = false ∧ Instr.wf (.mew 8 1 2 0) = false ∧ Instr.wf (.mew 1 8 2 0) = false ∧
    Instr.wf (.mpwl 1 2 8) = false ∧ Instr.wf (.mrnorm 1) = false ∧ Instr.wf (.mrnorm 8) = false ∧ Instr.wf (.mzero 8) = false ∧
    Instr.wf (.mclr 1 8) = false ∧ Instr.wf (.mlds 16 1 2 3) = false ∧ Instr.wf (.mlda 8 1 2 3) = false ∧ Instr.wf (.msta 8 1 2 3) = false ∧
    Instr.wf (.macs 16 1 2 0) = false ∧ Instr.wf (.macs 1 8 2 0) = false ∧ Instr.wf (.mrowvToVector 1 8 2) = false ∧
    Instr.wf (.mrowvToAccumulator 8 1 2) = false ∧ Instr.wf (.mcurv 8 1) = false := by decide

/-! ## Single steps; each expected result is worked out by hand from the rule named -/

/-- Register r after i, s5 and s6 holding these. -/
def got (i : Instr) (u v : Word) (r : BitVec 5) : Word := (after (exec i ((wUser.setS 5 u).setS 6 v))).getS r

/-- R82: results modulo 2^64; shift amounts modulo 64. -/
theorem test_scalar_arithmetic :
    got (.add 7 5 6) 0xFFFFFFFFFFFFFFFF 2 7 = 1 ∧ got (.sub 7 5 6) 1 2 7 = 0xFFFFFFFFFFFFFFFF ∧
    got (.mulh 7 5 6) 0xFFFFFFFFFFFFFFFF 2 7 = 0xFFFFFFFFFFFFFFFF ∧ got (.mulhn 7 5 6) 0xFFFFFFFFFFFFFFFF 2 7 = 1 ∧
    got (.sra 7 5 6) 0x8000000000000000 0x43 7 = 0xF000000000000000 ∧ got (.rotr 7 5 6) 1 1 7 = 0x8000000000000000 ∧
    got (.clz 7 5) 0 0 7 = 64 ∧ got (.bswap 7 5) 0x0102030405060708 0 7 = 0x0807060504030201 ∧
    got (.sext 7 5 1) 0x8000 0 7 = 0xFFFFFFFFFFFF8000 ∧ got (.add 0 5 6) 1 2 0 = 0 := by decide +kernel

/-- R83: truncation toward zero; a zero divisor; the most negative number by −1. -/
theorem test_scalar_division :
    got (.div 7 5 6) (-7) 2 7 = -3 ∧ got (.rem 7 5 6) (-7) 2 7 = -1 ∧ got (.div 7 5 6) 5 0 7 = 0xFFFFFFFFFFFFFFFF ∧
    got (.divn 7 5 6) 5 0 7 = 0xFFFFFFFFFFFFFFFF ∧ got (.rem 7 5 6) 5 0 7 = 5 ∧
    got (.div 7 5 6) 0x8000000000000000 (-1) 7 = 0x8000000000000000 ∧ got (.rem 7 5 6) 0x8000000000000000 (-1) 7 = 0 := by decide +kernel

/-- R84, R85: immediates. -/
theorem test_scalar_immediates :
    got (.addi 7 5 0xFFF0) 0x10 0 7 = 0 ∧ got (.andi 7 5 0x8000) 0xFFFFFFFFFFFFFFFF 0 7 = 0xFFFFFFFFFFFF8000 ∧
    got (.lih 7 0x8001) 0 0 7 = 0xFFFFFFFF80010000 := by decide +kernel

/-- R88: a branch is taken by its condition, from its own address. -/
theorem test_branches :
    (after (exec (.beq 5 6 4) wUser)).x.pc = 0x1000010 ∧ (after (exec (.bne 5 6 4) wUser)).x.pc = 0x1000004 ∧
    (after (exec (.beq 5 6 0x1FFF) wUser)).x.pc = 0xFFFFFC ∧
    (after (exec (.blt 6 5 4) (wUser.setS 5 (-1)))).x.pc = 0x1000010 ∧ (after (exec (.bltn 6 5 4) (wUser.setS 5 (-1)))).x.pc = 0x1000004 := by
  decide +kernel

/-- R86: a load of s4 + 4 reads the buffered store; the narrow one is extended by its sign. -/
theorem test_loads :
    (after (exec (.ld 7 4 2 4) wMem)).getS 7 = 0x04030201 ∧ (after (exec (.ld 7 4 6 4) wMem)).getS 7 = 0x04030201 ∧
    (after (exec (.ld 7 4 3 0) wMem)).getS 7 = 0x0403020100000005 ∧
    (let s : State := { wMem with st := { wMem.st with sbuf := [{ pa := 0x100, data := [0x80], vcache := 1 }] } }
     (after (exec (.ld 7 4 0 0) s)).getS 7 = 0x80 ∧ (after (exec (.ld 7 4 4 0) s)).getS 7 = 0xFFFFFFFFFFFFFF80) := by decide +kernel

/-- R393, R394, R391: SVC 5 at user level enters the handler at supervisor level. -/
theorem test_svc_enters_the_handler :
    let t := after (exec (.svc 5) wUser)
    t.x.pc = 0x1008000 ∧ t.lvl = 1 ∧ t.st.trap.tpc = 0x1000000 ∧ bits t.st.trap.status 2 2 = 0 := by decide +kernel

/-- R297: ACAS stores its new value where the old one is as expected, and gives the old one. -/
theorem test_compare_and_swap :
    (let s := (wMem.drainAll.setS 6 9).setS 5 9
     let t := after (exec (.acas 7 4 5 6 0) s)
     t.getS 7 = 0x0403020100070005 ∧ t.memByte 0x100 = 5) ∧
    (let s := (wMem.drainAll.setS 6 0x0403020100070005).setS 5 9
     let t := after (exec (.acas 7 4 5 6 0) s)
     t.getS 7 = 0x0403020100070005 ∧ t.memByte 0x100 = 9 ∧ t.memByte 0x104 = 0) := by decide +kernel

/-- R156, R164, R162: 1.0 + 2.0 and −2.0 + 2.0 in FP32, two elements, the tail left. -/
theorem test_vector_add :
    let s := vec (fdOf 9 9 9) 2 2 0
    let s : State := { s with x := { s.x with vreg := vset s.x.vreg 16 0x4000000040000000 } }
    let t := after (exec (.vadd 0 24 8 16 20 0) s)
    (vget t.x.vreg 0 24).toNat = 0x4040000000000000 ∧ t.x.pc = 0x1000004 ∧ t.x.vbeg = 0 := by decide +kernel

/-- R48, R401: a step fetches the word at pc and runs it; an illegal one traps with cause 0x01. -/
theorem test_steps :
    (match step (placed wMem) with | .next t => t.getS 5 == 0x10000F0 && t.x.pc == 0x1000004 | _ => false) = true ∧
    (match step (wUser.placeWord 0) with | .next t => t.x.pc == 0x1008000 && t.st.trap.tcause.toNat % 256 == 2 | _ => false) = true := by
  decide +kernel

/-- R24, FIPS 180-4: the digest of "abc", whose first and last bytes the standard prints. -/
theorem test_sha512 :
    (sha512 [0x61, 0x62, 0x63]).take 8 = [0xDD, 0xAF, 0x35, 0xA1, 0x93, 0x61, 0x7A, 0xBA] ∧
    (sha512 [0x61, 0x62, 0x63]).drop 60 = [0xA5, 0x4C, 0xA4, 0x9F] := by decide +kernel

end Sys2Proof.Tests
end

/-! What reset leaves, and that every instruction, event and step answers with a next state. -/

namespace Sys2Proof.Machine

/-! ## What reset leaves -/

theorem vget_replicate_of_lt {α : Type} {n i : Nat} (a d : α) (h : i < n) : vget (Vector.replicate n a) d i = a := by
  simp [vget, Array.getD, h]

/-- A vector that holds the default value throughout reads as it everywhere, outside its bounds too. -/
theorem vget_replicate_default {α : Type} (n i : Nat) (a : α) : vget (Vector.replicate n a) a i = a := by
  by_cases h : i < n
  · exact vget_replicate_of_lt a a h
  · simp [vget, Array.getD, h]

/-- HBM reads 0 after reset: no cell is listed, and an unlisted address of HBM holds 0 (R446). -/
theorem memByte_reset (a : Nat) (h : a < 0xC000000000) : State.reset.memByte a = 0 := if_pos h

/-- The lists of cells, strands, launches, poisoned lines and retired dies are empty, and the management core is in the focus at
level 3 (R24, R74, R391, R438). -/
theorem reset_holds_nothing :
    State.reset.memWf = true ∧ Memory.wf (fun _ => 0) State.reset.sram = true ∧ State.reset.parked = [] ∧
      State.reset.cp.launches = [] ∧ State.reset.st.place = .management ∧ State.reset.lvl = 3 ∧ State.reset.x.shape = 0 ∧
      State.reset.poison = [] ∧ State.reset.net.retired = [] ∧ State.reset.stopped = false :=
  ⟨rfl, rfl, rfl, rfl, rfl, rfl, rfl, rfl, rfl, rfl⟩

theorem resetState : Sys2Proof.Parts.ResetState := by
  obtain ⟨hmem, hsram, hparked, hlaunches, hplace, hlvl, hshape, hpoison, hretired, hstopped⟩ := reset_holds_nothing
  have hfa (i : Nat) : vget State.reset.mbx.fa 0 i = 0 := vget_replicate_default 4 i 0
  have hvfcfg (f : Nat) (h : f < 32) : vget State.reset.cp.vfcfg 0 f = 1 := vget_replicate_of_lt 1 0 h
  exact ⟨hmem, hsram, memByte_reset, hparked, hlaunches, hplace, hlvl, hshape, rfl, hfa, rfl, rfl, rfl, rfl, hvfcfg, rfl, rfl,
    hpoison, hretired, hstopped⟩

/-! ## Every instruction and every event has an effect -/

/-- The outcome is a next state: neither a fault nor a refusal. -/
def Answers (r : Host.Outcome State Fault Refusal) : Prop := ∃ t, r = .next t

theorem answers_next (t : State) : Answers (.next t) := ⟨t, rfl⟩

/-- An event of a fork changes nothing where no fork runs. -/
theorem onFork_answers (s : State) (k : Fork → Option State) : Answers (onFork s k) := by
  unfold onFork
  cases s.st.fork with
  | none => exact answers_next s
  | some f => exact answers_next _

/-- An instruction word is a computation that `finish` ends in a next state. An event is an action on the fork, one change of
state, or a choice of next states by what it finds in the state; the choices are grouped by the part of the module they are of. -/
theorem exec_answers (i : Instr) (s : State) : Answers (exec i s) := by
  cases i
  case snapshotArrival | chunkStart | chainValueArrival | chainConfirmation | storeAnnouncement | headPass | mergeCombine |
      tagPostArrival => exact onFork_answers _ _
  case cplaunch | mbcmdCommit | attestNonceWrite | atcmd | mglogw | mgthrWrite | mgalrtWrite | schedulingPass | preemptStop |
      preemptHeadTimeout | saveComplete | baseline | hubDieError | scatterAddApply | messageDelivery | retryDelayExpiry |
      waitwWake | engineCopy | engineFill | engineTranspose | engineQuantisingCopy | engineStorageError | blockQueueWrite |
      shelfLost | shelfResponseTimeout | linkTrainingFailure | bankCounterWrap | managementInterrupt |
      endpointUnreachableReport => exact answers_next _
  -- Traps, errors of a core, bring-up (R48, R394, R397, R24)
  case nonInstructionWord | heldTrapTaken | asyncEventTaken | coreStorageError | moduleReset | recoveryImage =>
    simp only [exec, execNonInstructionWord, execHeldTrapTaken, execAsyncEventTaken, execCoreStorageError, execModuleReset,
      execRecoveryImage]
    (repeat' split) <;> exact answers_next _
  -- Register writes, scheduling and world switches
  case registerWrite | gwbqcfgWrite | cpunfrz | attestReportReady | vlWrite | vtypeWrite | worldSwitchOut | worldSwitchIn |
      worldSwitchComplete | quantumExpiry | ringReclaimDone =>
    simp only [exec, execRegisterWrite, execGwbqcfgWrite, execCpunfrz, execAttestReportReady, execVlWrite, execVtypeWrite,
      execWorldSwitchOut, execWorldSwitchIn, execWorldSwitchComplete, execQuantumExpiry, execRingReclaimDone]
    (repeat' split) <;> exact answers_next _
  -- Die fabric, directory and the lines of caches
  case packetArrival | heldPacketReady | heldPacketTimeout | dieRetire | directoryRequest | regionMerge | dirtyEviction |
      writebackAck | probeArrival | fillReply =>
    simp only [exec, execPacketArrival, execHeldPacketReady, execHeldPacketTimeout, execDieRetire, execDirectoryRequest,
      execRegionMerge, execDirtyEviction, execWritebackAck, execProbeArrival, execFillReply]
    (repeat' split) <;> exact answers_next _
  -- Vector caches and the memory banks
  case farAtomicAtBank | vcacheDrainStep | drainComplete | parcelError =>
    simp only [exec, execFarAtomicAtBank, execVcacheDrainStep, execDrainComplete, execParcelError]
    (repeat' split) <;> exact answers_next _
  -- Messages, tokens and engines
  case hubMessageDelivery | remoteMessageArrival | tokenPush | tokenPop | tokenDeadlock | engineAccept | engineCompletion =>
    simp only [exec, execHubMessageDelivery, execRemoteMessageArrival, execTokenPush, execTokenPop, execTokenDeadlock,
      execEngineAccept, execEngineCompletion]
    (repeat' split) <;> exact answers_next _
  -- Package fabric
  case fabricWindowRequest | vectorRequest | vectorRequestCompletion | fabricResponse | fabricRequestTimeout | portLaneLoss |
      ualinkPortTrained =>
    simp only [exec, execFabricWindowRequest, execVectorRequest, execVectorRequestCompletion, execFabricResponse,
      execFabricRequestTimeout, execPortLaneLoss, execUalinkPortTrained]
    (repeat' split) <;> exact answers_next _
  -- Closure groups, at the initiator and at a destination
  case groupStoreArrival | groupStoreAck | prepare | voteArrival | voteTimeout | publish | abort | decisionAck |
      doubtTimerExpiry | terminationQuery | terminationAnswer | stagingIdleCheck =>
    simp only [exec, execGroupStoreArrival, execGroupStoreAck, execPrepare, execVoteArrival, execVoteTimeout, execPublish,
      execAbort, execDecisionAck, execDoubtTimerExpiry, execTerminationQuery, execTerminationAnswer, execStagingIdleCheck]
    (repeat' split) <;> exact answers_next _
  -- Host and pools
  case hostMemWrite | hostMemRead | backInvalidationResponse | hostSnoop | shelfBackInvalidation | poolBringUp | shelfReturn =>
    simp only [exec, execHostMemWrite, execHostMemRead, execBackInvalidationResponse, execHostSnoop, execShelfBackInvalidation,
      execPoolBringUp, execShelfReturn]
    (repeat' split) <;> exact answers_next _
  -- Counters and sensors
  case counterWrap | sensorReading | alertRepeat =>
    simp only [exec, execCounterWrap, execSensorReading, execAlertRepeat]
    (repeat' split) <;> exact answers_next _
  -- The instruction words
  all_goals exact finish_next _

/-! ## Every step -/

theorem settle_answers {r : Host.Outcome State Fault Refusal} (s : State) (i : Instr) (h : Answers r) : Answers (settle s i r) := by
  obtain ⟨t, rfl⟩ := h
  exact answers_next _

theorem issueBehind_answers (q : Queue) (i : Instr) (s : State) : Answers (issueBehind q i s) := by
  obtain ⟨t, ht⟩ := exec_answers i s.claimsAhead.probing
  unfold issueBehind
  simp only [ht]
  (repeat' split) <;> exact answers_next _

theorem runFront_answers (i : Instr) (s : State) : Answers (runFront i s) := by
  unfold runFront
  split
  · exact exec_answers i s
  · exact exec_answers i s
  · dsimp only
    split_ifs
    · exact exec_answers i s
    · exact issueBehind_answers _ i s

theorem runQueued_answers (q : Queue) (it : QItem) (s : State) : Answers (runQueued q it s) := by
  obtain ⟨t, ht⟩ := exec_answers it.instr (s.withItem it)
  unfold runQueued
  simp only [ht]
  split_ifs
  · exact answers_next _
  · exact answers_next _
  · exact exec_answers it.instr (s.rollback it)

theorem runPlan_answers (p : Plan) : Answers (runPlan p) := by
  cases p with
  | rest t => exact answers_next t
  | run i t => exact settle_answers t i (runFront_answers i t)
  | token push q t =>
    cases push with
    | true => exact exec_answers (.tokenPush q.code) t
    | false => exact exec_answers (.tokenPop q.code) t
  | queued q it t => exact runQueued_answers q it t

theorem runInput_answers (inp : Input) (s : State) : Answers (runInput inp s) := by
  unfold runInput
  split
  · split_ifs
    · exact answers_next s
    · exact settle_answers s _ (exec_answers _ s)
  · exact answers_next _

/-- A step answers with a next state, but for a stopped module whose next input is not its reset (R403, R441). -/
theorem step_answers (s : State) : Answers (step s) ∨ (s.stopped = true ∧ step s = .fault .moduleStopped) := by
  unfold step
  cases s.inputs with
  | nil =>
    cases h : s.stopped with
    | true => exact .inr ⟨rfl, rfl⟩
    | false => exact .inl (runPlan_answers s.plan)
  | cons inp rest =>
    by_cases h : (s.stopped && !inp.isReset) = true
    · exact .inr ⟨(Bool.and_eq_true_iff.mp h).1, if_pos h⟩
    · exact .inl (by simpa only [if_neg h] using runInput_answers inp _)

theorem everyInstructionAnswers : Sys2Proof.Parts.EveryInstructionAnswers := ⟨exec_answers, step_answers⟩

/-- Settles O60: the state after reset field by field, and totality from the branches of every event and the one `finish` that
every instruction word ends in. -/
theorem resetStateAndTotality : Obligations.ResetStateAndTotality := ⟨resetState, everyInstructionAnswers⟩

end Sys2Proof.Machine

/-! The decoder and the encoder are inverse on the well-formed word instructions and the words they have (R48). -/

namespace Sys2Proof.Coding

/-! ## Fields of a word -/

/-- The bits of a word from `lo` on, `n` of them. -/
def place (lo n : Nat) : BitVec 32 := (BitVec.allOnes n).setWidth 32 <<< lo

theorem getLsbD_place (lo n i : Nat) (h : i < 32) : (place lo n).getLsbD i = decide (lo ≤ i ∧ i < lo + n) := by
  rw [Bool.eq_iff_iff]
  simp only [place, BitVec.getLsbD_shiftLeft, BitVec.getLsbD_setWidth, BitVec.getLsbD_allOnes, Bool.and_eq_true,
    Bool.not_eq_true', decide_eq_true_eq, decide_eq_false_iff_not]
  omega

theorem getLsbD_fld (w : BitVec 32) (lo n i : Nat) : (fld w lo n).getLsbD i = (decide (i < n) && w.getLsbD (lo + i)) := by
  simp [fld, BitVec.getLsbD, Nat.testBit_div_two_pow, Nat.add_comm]

/-- A field is its own bits of the word and no others. -/
theorem fld_eq_iff (w v : BitVec 32) (lo n : Nat) : fld w lo n = fld v lo n ↔ w &&& place lo n = v &&& place lo n := by
  constructor
  · refine fun h => BitVec.eq_of_getLsbD_eq fun i hi => ?_
    rw [BitVec.getLsbD_and, BitVec.getLsbD_and, getLsbD_place lo n i hi]
    by_cases hp : lo ≤ i ∧ i < lo + n
    · have hb := congrArg (·.getLsbD (i - lo)) h
      simp only [getLsbD_fld, Nat.add_sub_cancel' hp.1] at hb
      simpa [show i - lo < n by omega, hp] using hb
    · simp [hp]
  · refine fun h => BitVec.eq_of_getLsbD_eq fun i hi => ?_
    have hb := congrArg (·.getLsbD (lo + i)) h
    simp only [BitVec.getLsbD_and] at hb
    rw [getLsbD_fld, getLsbD_fld]
    by_cases h32 : lo + i < 32
    · rw [getLsbD_place lo n _ h32] at hb
      simpa [hi] using hb
    · rw [BitVec.getLsbD_of_ge _ _ (by omega), BitVec.getLsbD_of_ge _ _ (by omega)]

/-- A field in bits that are fixed is known. -/
theorem toNat_fixed {w m : BitVec 32} {base : Nat} (hw : w &&& m = BitVec.ofNat 32 base) (lo n : Nat)
    (hp : m &&& place lo n = place lo n := by rfl) (hb : base < 2 ^ 32 := by decide) : (fld w lo n).toNat = base / 2 ^ lo % 2 ^ n := by
  have h : fld w lo n = fld (BitVec.ofNat 32 base) lo n := by rw [fld_eq_iff, ← hw, BitVec.and_assoc, hp]
  rw [h, fld, BitVec.toNat_ofNat, BitVec.toNat_ofNat, Nat.mod_eq_of_lt hb]

/-! ## Words spelled by fields -/

/-- The bits that the value `x` at place `lo` puts into a word. -/
def put {n : Nat} (x : BitVec n) (lo : Nat) : BitVec 32 := x.setWidth 32 <<< lo

theorem put_and_place {n : Nat} (x : BitVec n) (lo : Nat) : put x lo &&& place lo n = put x lo := by
  refine BitVec.eq_of_getLsbD_eq fun i hi => ?_
  rw [BitVec.getLsbD_and, getLsbD_place _ _ i hi, put, BitVec.getLsbD_shiftLeft, BitVec.getLsbD_setWidth]
  by_cases h : i < lo + n
  · simp +contextual [h]
  · simp [BitVec.getLsbD_of_ge x (i - lo) (by omega)]

theorem fld_put {n : Nat} (x : BitVec n) (lo : Nat) (h : lo + n ≤ 32) : fld (put x lo) lo n = x := by
  refine BitVec.eq_of_getLsbD_eq fun i hi => ?_
  rw [getLsbD_fld, put, BitVec.getLsbD_shiftLeft, BitVec.getLsbD_setWidth]
  simp [hi, show i < 32 by omega, show lo + i < 32 by omega]

/-- Adding a field where a word is clear is or-ing it in. -/
theorem ofNat_add_put {n : Nat} (x : BitVec n) (lo base : Nat) (h : BitVec.ofNat 32 base &&& place lo n = 0) :
    BitVec.ofNat 32 (base + x.toNat * 2 ^ lo) = BitVec.ofNat 32 base ||| put x lo := by
  have hput : BitVec.ofNat 32 (x.toNat * 2 ^ lo) = put x lo := by
    apply BitVec.eq_of_toNat_eq
    simp [put, Nat.shiftLeft_eq]
  have hand : BitVec.ofNat 32 base &&& put x lo = 0#32 := by
    rw [← put_and_place, BitVec.and_comm (put x lo), ← BitVec.and_assoc, h]
    simp
  rw [BitVec.ofNat_add, hput, BitVec.add_eq_or_of_and_eq_zero _ _ hand]

/-- The places, each a lowest bit and a width, stand apart from the bits of `m` and from each other, and with them make up the
whole word. -/
def tiles : BitVec 32 → List (Nat × Nat) → Bool
  | m, [] => m == BitVec.allOnes 32
  | m, (lo, n) :: ps => decide (lo + n ≤ 32) && (m &&& place lo n == 0) && tiles (m ||| place lo n) ps

/-- The fields of a word at these places, with value and lowest bit, as `mkWord` takes them. -/
def fieldsOf (w : BitVec 32) (ps : List (Nat × Nat)) : List (Nat × Nat) := ps.map fun p => ((fld w p.1 p.2).toNat, p.1)

/-- The values of these fields are bit vectors as wide as their places. -/
inductive Fit : List (Nat × Nat) → List (Nat × Nat) → Prop where
  | nil : Fit [] []
  | cons {n lo : Nat} (x : BitVec n) {fs ps : List (Nat × Nat)} (h : Fit fs ps) : Fit ((x.toNat, lo) :: fs) ((lo, n) :: ps)

theorem and_or_and_self (w a b : BitVec 32) : w &&& (a ||| b) &&& a = w &&& a := by
  have h : (a ||| b) &&& a = a := by ext; simp +contextual
  rw [BitVec.and_assoc, h]

/-- What the encoder writes is read back: the base outside the fields, and each field in its place. -/
theorem mkWord_reads {fs ps : List (Nat × Nat)} {m : BitVec 32} {base : Nat} (hfit : Fit fs ps) (ht : tiles m ps = true)
    (hb : BitVec.ofNat 32 base &&& m = BitVec.ofNat 32 base) :
    mkWord base fs &&& m = BitVec.ofNat 32 base ∧ fieldsOf (mkWord base fs) ps = fs := by
  induction hfit generalizing m base with
  | nil => exact ⟨hb, rfl⟩
  | @cons n lo x fs ps _ ih =>
    simp only [tiles, Bool.and_eq_true, decide_eq_true_eq, beq_iff_eq] at ht
    obtain ⟨⟨hlo, hm⟩, ht⟩ := ht
    have hbase : BitVec.ofNat 32 base &&& place lo n = 0 := by rw [← hb, BitVec.and_assoc, hm]; simp
    have hput : put x lo &&& m = 0 := by rw [← put_and_place, BitVec.and_assoc, BitVec.and_comm _ m, hm]; simp
    have hadd := ofNat_add_put x lo base hbase
    have hb' : BitVec.ofNat 32 (base + x.toNat * 2 ^ lo) &&& (m ||| place lo n) = BitVec.ofNat 32 (base + x.toNat * 2 ^ lo) := by
      simp [hadd, BitVec.and_or_distrib_left, BitVec.and_or_distrib_right, hb, hbase, hput, put_and_place]
    obtain ⟨hw, hfs⟩ := ih ht hb'
    change mkWord (base + x.toNat * 2 ^ lo) fs &&& m = _ ∧
      ((fld (mkWord (base + x.toNat * 2 ^ lo) fs) lo n).toNat, lo) :: fieldsOf (mkWord (base + x.toNat * 2 ^ lo) fs) ps = _
    generalize mkWord (base + x.toNat * 2 ^ lo) fs = w at hw hfs ⊢
    rw [hadd] at hw
    have hwm : w &&& m = BitVec.ofNat 32 base := by
      rw [← and_or_and_self w m (place lo n), hw, BitVec.and_or_distrib_right, hb, hput]
      simp
    have hwp : w &&& place lo n = put x lo &&& place lo n := by
      rw [← and_or_and_self w (place lo n) m, BitVec.or_comm, hw, BitVec.and_or_distrib_right, hbase]
      simp
    exact ⟨hwm, by rw [(fld_eq_iff _ _ _ _).mpr hwp, fld_put x lo hlo, hfs]⟩

/-- Words that agree outside the fields, and in each field, are the same word. -/
theorem eq_of_fieldsOf_eq {ps : List (Nat × Nat)} {m w v : BitVec 32} (ht : tiles m ps = true) (hm : w &&& m = v &&& m)
    (hf : fieldsOf w ps = fieldsOf v ps) : w = v := by
  induction ps generalizing m with
  | nil => rwa [beq_iff_eq.mp ht, BitVec.and_allOnes, BitVec.and_allOnes] at hm
  | cons p ps ih =>
    obtain ⟨lo, n⟩ := p
    simp only [tiles, Bool.and_eq_true] at ht
    simp only [fieldsOf, List.map_cons, List.cons.injEq, Prod.mk.injEq, and_true, BitVec.toNat_inj] at hf
    refine ih ht.2 ?_ hf.2
    rw [BitVec.and_or_distrib_left, BitVec.and_or_distrib_left, hm, (fld_eq_iff _ _ _ _).mp hf.1]

/-- A word with the bits of a base outside its fields is spelled by the base and the fields (R30). -/
theorem mkWord_fieldsOf {ps : List (Nat × Nat)} {m w : BitVec 32} {base : Nat} (hfit : Fit (fieldsOf w ps) ps)
    (ht : tiles m ps = true) (hb : BitVec.ofNat 32 base &&& m = BitVec.ofNat 32 base) (hw : w &&& m = BitVec.ofNat 32 base) :
    mkWord base (fieldsOf w ps) = w := by
  obtain ⟨hm, hf⟩ := mkWord_reads hfit ht hb
  exact eq_of_fieldsOf_eq ht (hm.trans hw.symm) hf

/-! ## The decoder accepts only encodings -/

/-- The instruction is a well-formed word instruction, encoded as `w`. -/
def Encodes (w : BitVec 32) (i : Instr) : Prop := i.isWord = true ∧ i.wf = true ∧ encode i = w

/-- A row that reads its fields at the places where its encoding has them accepts only that encoding. -/
theorem encodes_of_accept {w : BitVec 32} {mask base : Nat} {i j : Instr} {fs ps : List (Nat × Nat)}
    (h : accept w mask base i = .ok j) (hword : i.isWord = true) (he : encode i = mkWord base fs) (hfit : Fit fs ps)
    (hfs : fs = fieldsOf w ps) (ht : tiles (BitVec.ofNat 32 mask) ps = true)
    (hb : BitVec.ofNat 32 base &&& BitVec.ofNat 32 mask = BitVec.ofNat 32 base) : Encodes w j := by
  unfold accept at h
  split_ifs at h with hm hwf
  cases h
  subst hfs
  exact ⟨hword, hwf, he.trans (mkWord_fieldsOf hfit ht hb (not_not.mp hm))⟩

/-- The families whose instruction one function code selects, each code one row (R33 to R40, R42, R43). -/
def families : List (BitVec 32 → Except DecodeError Instr) :=
  [decodeRR, decodeBranch, decodeJumpReg, decodeSystem, decodeFork, decodeStrand, decodeAtomic, decodeBarrier, decodeMessage,
   decodeFence, decodeVcache, decodeTranslation, decodeClosure, decodeCounter, decodeVConfig, decodeVPage1, decodeVPage2,
   decodeMatrix]

theorem encodes_of_family {family : BitVec 32 → Except DecodeError Instr} (hf : family ∈ families) {w : BitVec 32} {i : Instr}
    (h : family w = .ok i) : Encodes w i := by
  simp only [families, List.mem_cons, List.not_mem_nil, or_false] at hf
  rcases hf with rfl | rfl | rfl | rfl | rfl | rfl | rfl | rfl | rfl | rfl | rfl | rfl | rfl | rfl | rfl | rfl | rfl | rfl
  all_goals
    dsimp only [decodeRR, decodeBranch, decodeJumpReg, decodeSystem, decodeFork, decodeStrand, decodeAtomic, decodeBarrier,
      decodeMessage, decodeFence, decodeVcache, decodeTranslation, decodeClosure, decodeCounter, decodeVConfig, decodeVPage1,
      decodeVPage2, decodeMatrix] at h
    split at h
    on_goal -1 => cases h
    all_goals exact encodes_of_accept h rfl rfl (by repeat constructor) rfl rfl rfl

theorem encodes_of_decodeMatrixData {w : BitVec 32} {i : Instr} (h : decodeMatrixData w = .ok i) : Encodes w i := by
  unfold decodeMatrixData at h
  split at h
  on_goal -1 => cases h
  case h_8 =>
    split_ifs at h <;> exact encodes_of_accept h rfl rfl (by repeat constructor) rfl rfl rfl
  all_goals exact encodes_of_accept h rfl rfl (by repeat constructor) rfl rfl rfl

theorem encodes_of_decodeVMem {w : BitVec 32} {i : Instr} (h : decodeVMem w = .ok i) : Encodes w i := by
  unfold decodeVMem at h
  dsimp only at h
  split at h
  on_goal -1 => cases h
  all_goals
    split_ifs at h
    all_goals exact encodes_of_accept h rfl rfl (by repeat constructor) rfl rfl rfl

theorem encodes_of_decode {w : BitVec 32} {i : Instr} (h : decode w = .ok i) : Encodes w i := by
  unfold decode at h
  split at h
  · cases h
  split at h
  case h_2 | h_3 | h_4 | h_5 | h_6 | h_7 | h_8 | h_9 | h_10 | h_11 | h_12 | h_13 | h_15 =>
    exact encodes_of_accept h rfl rfl (by repeat constructor) rfl rfl rfl
  case h_37 | h_38 | h_39 | h_40 | h_41 | h_42 | h_43 | h_44 => exact encodes_of_decodeVMem h
  case h_54 => exact encodes_of_decodeMatrixData h
  case h_55 => cases h
  all_goals exact encodes_of_family (by simp [families]) h

/-! ## Every encoding is decoded -/

@[simp] theorem fieldsOf_nil (w : BitVec 32) : fieldsOf w [] = [] := rfl

@[simp] theorem fieldsOf_cons (w : BitVec 32) (lo n : Nat) (x : BitVec n) (ps fs : List (Nat × Nat)) :
    fieldsOf w ((lo, n) :: ps) = (x.toNat, lo) :: fs ↔ fld w lo n = x ∧ fieldsOf w ps = fs := by
  simp [fieldsOf, BitVec.toNat_inj]

theorem accept_ok {w : BitVec 32} {mask pat : Nat} {i j : Instr} (hw : w &&& BitVec.ofNat 32 mask = BitVec.ofNat 32 pat)
    (hj : j.wf = true) (h : i = j) : accept w mask pat i = .ok j := by
  subst h
  unfold accept
  rw [if_neg (not_not.mpr hw), if_pos hj]

/-- The bits outside these places. -/
def outside (ps : List (Nat × Nat)) : BitVec 32 := ~~~ (ps.foldr (fun p m => place p.1 p.2 ||| m) 0)

/-- The places stand apart and the base leaves them free. -/
def laidOut (base : Nat) (ps : List (Nat × Nat)) : Bool :=
  tiles (outside ps) ps && (BitVec.ofNat 32 base &&& outside ps == BitVec.ofNat 32 base)

/-- An encoding is decoded when every word with its fixed bits and its fields is. -/
theorem decode_encode_of {i : Instr} {base : Nat} {fs ps : List (Nat × Nat)} (he : encode i = mkWord base fs) (hfit : Fit fs ps)
    (hl : laidOut base ps = true)
    (hrow : ∀ w, w &&& outside ps = BitVec.ofNat 32 base → fieldsOf w ps = fs → decode w = .ok i) :
    decode (encode i) = .ok i := by
  simp only [laidOut, Bool.and_eq_true, beq_iff_eq] at hl
  obtain ⟨hm, hf⟩ := mkWord_reads hfit hl.1 hl.2
  rw [he]
  exact hrow _ hm hf

/-- A word whose major opcode is neither 0 nor 63 is neither all zeros nor all ones. -/
theorem not_blank {w : BitVec 32} (h : (fld w 26 6).toNat ≠ 0) (h' : (fld w 26 6).toNat ≠ 63) :
    ¬ (w = 0x00000000#32 ∨ w = 0xFFFFFFFF#32) := by
  rintro (rfl | rfl)
  · exact h (by decide)
  · exact h' (by decide)

/-- The family of a major opcode that names one by itself (R32). -/
def familyOf (m : Nat) (w : BitVec 32) : Except DecodeError Instr :=
  match m with
  | 0x01 => decodeRR w
  | 0x0E => decodeBranch w
  | 0x10 => decodeJumpReg w
  | 0x11 => decodeSystem w
  | 0x12 => decodeFork w
  | 0x13 => decodeStrand w
  | 0x14 => decodeAtomic w
  | 0x15 => decodeBarrier w
  | 0x16 => decodeMessage w
  | 0x17 => decodeFence w
  | 0x18 => decodeVcache w
  | 0x19 => decodeTranslation w
  | 0x1A => decodeClosure w
  | 0x1B => decodeCounter w
  | 0x1C => decodeVConfig w
  | 0x38 => decodeMatrix w
  | 0x39 => decodeMatrixData w
  | _ => decode w

theorem decode_of_major {w : BitVec 32} {m : Nat} (h : (fld w 26 6).toNat = m) : decode w = familyOf m w := by
  unfold familyOf
  split
  on_goal -1 => rfl
  all_goals
    rw [decode, if_neg (not_blank (by omega) (by omega)), h]
    rfl

/-- The vector pages, each of eight major opcodes, by the three highest bits of the word; the mask register is below (R32). -/
def pages : List (Nat × (BitVec 32 → Except DecodeError Instr)) := [(4, decodeVPage1), (5, decodeVMem), (6, decodeVPage2)]

theorem decode_of_page {m : Nat} {page : BitVec 32 → Except DecodeError Instr} (hm : (m, page) ∈ pages) {w : BitVec 32}
    (h : (fld w 29 3).toNat = m) : decode w = page w := by
  have hmajor : (fld w 26 6).toNat = 8 * m + (fld w 26 3).toNat := by
    simp only [fld, BitVec.toNat_ofNat] at h ⊢
    omega
  have hk := (fld w 26 3).isLt
  simp only [pages, List.mem_cons, Prod.mk.injEq, List.not_mem_nil, or_false] at hm
  rw [decode, if_neg (not_blank (by omega) (by omega)), hmajor]
  generalize (fld w 26 3).toNat = k at hk
  obtain ⟨rfl, rfl⟩ | ⟨rfl, rfl⟩ | ⟨rfl, rfl⟩ := hm <;> interval_cases k <;> rfl

/-- The eight function codes of VCMP hold its condition (R39). -/
theorem decodeVPage1_vcmp {w : BitVec 32} (h : (fld w 3 2).toNat = 3) :
    decodeVPage1 w = accept w 0xE3000018 0x80000018
      (.vcmp (fld w 26 3) (fld w 21 3) (fld w 16 5) (fld w 11 5) (fld w 6 5) (fld w 5 1) (fld w 0 3)) := by
  have hfn : (fld w 0 5).toNat = 8 * 3 + (fld w 0 3).toNat := by
    simp only [fld, BitVec.toNat_ofNat] at h ⊢
    omega
  have hc := (fld w 0 3).isLt
  rw [decodeVPage1, hfn]
  generalize (fld w 0 3).toNat = c at hc
  interval_cases c <;> rfl

/-- R48: every well-formed word instruction is read back from its encoding, family by family: the fixed bits of the word select the
row of the instruction, and the row reads the fields that were written. -/
theorem decodeEncode : Parts.DecodeEncode := by
  intro i hword hwf
  cases i
  case tret | halt | idle | endi | join | fbreak | headw | sdone | yield | fsv | fvs | fsc | tloga => rfl
  -- The major opcode alone names the instruction (R34, R35, R84).
  case addi | andi | ori | xori | slti | sltni | shi | lih | insi | addpc | ld | st | call =>
    refine decode_encode_of rfl (by repeat constructor) rfl fun w hw hf => ?_
    have hmajor := toNat_fixed hw 26 6
    rw [decode, if_neg (not_blank (by omega) (by omega)), hmajor]
    exact accept_ok hw hwf (by simpa using hf)
  -- A function code of six bits (R33).
  case add | sub | and | or | xor | andn | sll | srl | sra | rotr | mul | mulh | mulhn | div | divn | rem | remn | min | max |
      minn | maxn | slt | sltn | clz | ctz | popc | bswap | sext | zext =>
    refine decode_encode_of rfl (by repeat constructor) rfl fun w hw hf => ?_
    have hmajor := toNat_fixed hw 26 6
    have hcode := toNat_fixed hw 0 6
    dsimp only [Nat.reduceDiv, Nat.reducePow, Nat.reduceMod] at hmajor hcode
    rw [decode_of_major hmajor]
    simp only [familyOf, decodeRR, hcode]
    exact accept_ok hw hwf (by simpa using hf)
  -- Function codes of five bits (R36, R38).
  case callr | jmpr | sget | sset | sxch | trap | svc | bkpt | fork | forkt | iter | cspec | ipost | iwait | rdecl | chainw |
      launch | ringid | grpq | sprio | stridx | binit | barr | bwait | barrw | binv | gbar | msend | mrecv | mpeek | wakew | waitw
      | ecmd | ecmdb | toks | tokw | bqtake | fence | ldacq | strel | vcdef | vcdel | vcqry | vcsync | vcflush | tlbinv | tlogw |
      atran | gopen | gst | vgst | gcommit | gabort | gstat | gresolve | pmcr | pmcw | pmcf | vsetvl | vsetvli =>
    refine decode_encode_of rfl (by repeat constructor) rfl fun w hw hf => ?_
    have hmajor := toNat_fixed hw 26 6
    have hcode := toNat_fixed hw 0 5
    dsimp only [Nat.reduceDiv, Nat.reducePow, Nat.reduceMod] at hmajor hcode
    rw [decode_of_major hmajor]
    simp only [familyOf, decodeJumpReg, decodeSystem, decodeFork, decodeStrand, decodeBarrier, decodeMessage, decodeFence,
      decodeVcache, decodeTranslation, decodeClosure, decodeCounter, decodeVConfig, hcode]
    exact accept_ok hw hwf (by simpa using hf)
  -- Function codes of four bits (R42, R43); a fifth is the direction of MROWV (R217).
  case aadd | aand | aor | axor | amin | amax | aminn | amaxn | aswap | acas | afadd | mma | mslide | mew | mpwl | mrnorm | mzero
      | mclr | mshape | mclaim | mrel | mlds | mlda | msta | macs | mcurv | mwait =>
    refine decode_encode_of rfl (by repeat constructor) rfl fun w hw hf => ?_
    have hmajor := toNat_fixed hw 26 6
    have hcode := toNat_fixed hw 0 4
    dsimp only [Nat.reduceDiv, Nat.reducePow, Nat.reduceMod] at hmajor hcode
    rw [decode_of_major hmajor]
    simp only [familyOf, decodeAtomic, decodeMatrix, decodeMatrixData, hcode]
    exact accept_ok hw hwf (by simpa using hf)
  case mrowvToVector | mrowvToAccumulator =>
    refine decode_encode_of rfl (by repeat constructor) rfl fun w hw hf => ?_
    have hmajor := toNat_fixed hw 26 6
    have hcode := toNat_fixed hw 0 4
    have hway := toNat_fixed hw 4 1
    dsimp only [Nat.reduceDiv, Nat.reducePow, Nat.reduceMod] at hmajor hcode hway
    rw [decode_of_major hmajor]
    simp only [familyOf, decodeMatrixData, hcode, hway]
    exact accept_ok hw hwf (by simpa using hf)
  -- Branch conditions above the offset (R35).
  case beq | bne | blt | bge | bltn | bgen =>
    refine decode_encode_of rfl (by repeat constructor) rfl fun w hw hf => ?_
    have hmajor := toNat_fixed hw 26 6
    have hcode := toNat_fixed hw 13 3
    dsimp only [Nat.reduceDiv, Nat.reducePow, Nat.reduceMod] at hmajor hcode
    rw [decode_of_major hmajor]
    simp only [familyOf, decodeBranch, hcode]
    exact accept_ok hw hwf (by simpa using hf)
  -- The vector pages, whose major opcode holds the mask register (R39 to R41).
  case vadd | vsub | vmul | vfma | vfms | vnfma | vdiv | vsqrt | vmin | vmax | vabs | vneg | vexp2 | vlog2 | vrcp | vrsq | vcvt |
      vand | vor | vxor | vnot | vshl | vshr | vsra =>
    refine decode_encode_of rfl (by repeat constructor) rfl fun w hw hf => ?_
    rw [decode_of_page (page := decodeVPage1) (by simp [pages]) (toNat_fixed hw 29 3), decodeVPage1, toNat_fixed hw 0 5]
    exact accept_ok hw hwf (by simpa using hf)
  case vcmp =>
    refine decode_encode_of rfl (by repeat constructor) rfl fun w hw hf => ?_
    rw [decode_of_page (page := decodeVPage1) (by simp [pages]) (toNat_fixed hw 29 3), decodeVPage1_vcmp (toNat_fixed hw 3 2)]
    exact accept_ok hw hwf (by simpa using hf)
  case vld | vst | vlds | vldsO | vsts | vstsO | vldx | vldxO | vstx | vstxO | vpref | vprefS | vprefX | vldsq | vcapp =>
    refine decode_encode_of rfl (by repeat constructor) rfl fun w hw hf => ?_
    rw [decode_of_page (page := decodeVMem) (by simp [pages]) (toNat_fixed hw 29 3), decodeVMem, toNat_fixed hw 8 3,
      toNat_fixed hw 3 3, toNat_fixed hw 2 1]
    exact accept_ok hw hwf (by simpa using hf)
  case vldseg | vstseg =>
    refine decode_encode_of rfl (by repeat constructor) rfl fun w hw hf => ?_
    rw [decode_of_page (page := decodeVMem) (by simp [pages]) (toNat_fixed hw 29 3), decodeVMem, toNat_fixed hw 8 3,
      toNat_fixed hw 2 1]
    exact accept_ok hw hwf (by simpa using hf)
  case vredsum | vredmax | vredmin | vscan | vsort | vtopk | vcomp | vexpd | viota | vperm | vslup | vsldn | vbcast | vextr | vins
      | vsel | kand | kor | kxor | knot | kpop | kfirst | vrand | vpwl | vquant | vdeq | vbaddq | vamo | vamoc =>
    refine decode_encode_of rfl (by repeat constructor) rfl fun w hw hf => ?_
    rw [decode_of_page (page := decodeVPage2) (by simp [pages]) (toNat_fixed hw 29 3), decodeVPage2, toNat_fixed hw 0 6]
    exact accept_ok hw hwf (by simpa using hf)
  -- An event is no word.
  all_goals cases hword

/-- Settles O57: an encoding is its fixed bits and its fields, each in its own place, so the row that the fixed bits select reads the
fields back; and a row that accepts a word has found its fixed bits and in its fields the rest of it. -/
theorem decodeAndEncodeAgree : Obligations.DecodeAndEncodeAgree := ⟨decodeEncode, fun _ _ h => encodes_of_decode h⟩

end Sys2Proof.Coding

/-! The checks before an instruction has any effect: what the dispatch gate stops (R48), and the access checks of a status register
(R46). -/

namespace Sys2Proof.Machine

/-! ## Meanings that stop at a check -/

/-- A meaning that begins with a check that ends it answers what the check has ended in. -/
theorem finish_bind_of_error {α : Type} {m : Run α} {t : State} (h : m = .error t) (k : α → Run State) :
    finish (m >>= k) = .next t := by
  subst h
  rfl

/-- The same of a check at the head of the first part of a meaning. -/
theorem finish_bind_bind_of_error {α β : Type} {m : Run α} {t : State} (h : m = .error t) (f : α → Run β) (k : β → Run State) :
    finish ((m >>= f) >>= k) = .next t := by
  subst h
  rfl

/-! ## The dispatch gate (R48) -/

theorem gate_of_feature {n : Need} {f : Nat} {s : State} (hn : n.feat = some f) (h : s.feature f = false) (i : Instr) :
    gate i n s = .error (s.trapS 0x03 (wordOf i)) := by
  simp [gate, hn, h]

theorem gate_of_level {n : Need} {s : State} (hn : n.feat = none) (h : s.lvl < n.lvl) (i : Instr) :
    gate i n s = .error (s.trapS 0xE1 (wordOf i)) := by
  simp [gate, hn, h]

theorem gate_of_core {n : Need} {s : State} (hn : n.feat = none) (hl : n.lvl = 0) (h : n.runsOn s.st.place = false) (i : Instr) :
    gate i n s = .error (s.trapS 0x01 (wordOf i)) := by
  simp [gate, hn, hl, h]

/-- Settles O8: each of the instructions begins with its gate, and the gate stops it; that of a matrix transfer and of VGST stands in
the issue of its addresses. -/
theorem dispatchGate : Obligations.DispatchGate := by
  intro s d a b k j w e c word
  simp only [List.forall_mem_cons, List.not_mem_nil, false_implies, implies_true, and_true]
  refine ⟨fun h => ?_, fun h => ?_, fun h => ?_, fun h => ?_, fun h => ?_, fun h => ?_, fun h => ?_⟩
  · have stop := gate_of_feature (n := matrixNeed) rfl h
    and_intros
    any_goals exact finish_bind_of_error (stop _) _
    all_goals exact finish_bind_bind_of_error (stop _) _ _
  · have stop (n : Need) (hn : n.feat = some 1) := gate_of_feature hn h
    and_intros
    any_goals exact finish_bind_of_error (stop _ rfl _) _
    exact finish_bind_bind_of_error (stop _ rfl _) _ _
  · have stop := gate_of_feature (n := { feat := some 2, lvl := 1, mgmt := true }) rfl h
    and_intros
    all_goals exact finish_bind_of_error (stop _) _
  · exact finish_bind_of_error (gate_of_feature rfl h _) _
  · have stop (n : Need) (hf : n.feat = none) (hl : 0 < n.lvl) := gate_of_level hf (h.trans_lt hl)
    and_intros
    all_goals exact finish_bind_of_error (stop _ rfl (by decide) _) _
  · exact finish_bind_of_error (gate_of_level rfl h _) _
  · have stop := gate_of_core (n := {}) rfl rfl (by rw [h]; rfl)
    and_intros
    all_goals exact finish_bind_of_error (stop _) _

/-! ## The access checks of a status register (R46) -/

theorem statusCheck_of_unknown {s : State} {n : Nat} (h : statusAccess n s.lvl = none) (i : Instr) (writes : Bool) :
    statusCheck i n writes s = .error (s.trapS 0x01 (wordOf i)) := by
  simp [statusCheck, h]

theorem statusCheck_of_closed {s : State} {n : Nat} (h : statusAccess n s.lvl = some .none) (i : Instr) (writes : Bool) :
    statusCheck i n writes s = .error (s.trapS 0xE1 (wordOf i)) := by
  simp [statusCheck, h]

theorem statusCheck_of_readOnly {s : State} {n : Nat} (h : statusAccess n s.lvl = some .ro) (i : Instr) :
    statusCheck i n true s = .error (s.trapS 0x01 (wordOf i)) := by
  simp [statusCheck, h]

/-- A status instruction passes the gate on every core, and its access check comes next. -/
theorem finish_status_of_check {s t : State} (hs : s.st.place ≠ .saved) {m : Run Unit} {i : Instr} {k : Run State}
    (h : m = .error t) : finish (gate i Need.any s >>= fun _ => m >>= fun _ => k) = .next t := by
  rw [gate_admits _ _ _ (admits_any s hs), h]
  rfl

theorem statusAccess_eq_none {n : Nat} (lvl : Nat)
    (h : ¬ (n ∈ [1, 2, 3, 0x10, 0x11, 0x12, 0x13, 0x14, 0x15, 0x20, 0x21, 0x30, 0x31, 0x32, 0x33, 0x34, 0x40, 0x200, 0x201, 0x202,
      0x203] ∨ (0x100 ≤ n ∧ n ≤ 0x108 ∨ n = 0x110 ∨ n = 0x111) ∨ 0x300 ≤ n ∧ n ≤ 0x30F)) : statusAccess n lvl = none := by
  simp only [List.mem_cons, List.not_mem_nil, or_false] at h
  unfold statusAccess
  dsimp only
  repeat rw [if_neg (by omega)]

theorem statusAccess_supervisor {n : Nat} (lvl : Nat) (h : 0x100 ≤ n ∧ n ≤ 0x108 ∨ n = 0x110 ∨ n = 0x111) :
    statusAccess n lvl = some (if lvl = 0 then .none else .rw) := by
  unfold statusAccess
  dsimp only
  obtain h | h := h
  all_goals
    repeat rw [if_neg (by omega)]
    rw [if_pos (by omega)]

theorem statusAccess_machine {n : Nat} (lvl : Nat) (h : 0x300 ≤ n ∧ n ≤ 0x30F) :
    statusAccess n lvl = some (if lvl = 3 then .rw else .none) := by
  unfold statusAccess
  dsimp only
  repeat rw [if_neg (by omega)]
  rw [if_pos (by omega)]

theorem statusAccess_closed {n lvl : Nat}
    (h : (0x100 ≤ n ∧ n ≤ 0x108 ∨ n = 0x110 ∨ n = 0x111) ∧ lvl = 0 ∨ (0x300 ≤ n ∧ n ≤ 0x30F) ∧ lvl ≠ 3) :
    statusAccess n lvl = some .none := by
  obtain ⟨h, hl⟩ | ⟨h, hl⟩ := h
  · rw [statusAccess_supervisor lvl h, if_pos hl]
  · rw [statusAccess_machine lvl h, if_neg hl]

theorem statusAccess_readOnly {n lvl : Nat}
    (h : n ∈ [0x30, 0x31, 0x32, 0x33, 0x34, 0x40] ∨ n ∈ [0x10, 0x11, 0x12, 0x13, 0x14, 0x15] ∧ lvl ≠ 3 ∨
      n ∈ [1, 2, 0x200, 0x201, 0x202, 0x203] ∧ lvl = 0) : statusAccess n lvl = some .ro := by
  simp only [List.mem_cons, List.not_mem_nil, or_false] at h
  obtain h | ⟨h, hl⟩ | ⟨h, hl⟩ := h
  · obtain rfl | rfl | rfl | rfl | rfl | rfl := h <;> rfl
  · obtain rfl | rfl | rfl | rfl | rfl | rfl := h <;> simp [statusAccess, hl]
  · obtain rfl | rfl | rfl | rfl | rfl | rfl := h <;> simp [statusAccess, hl]

/-- Settles O7: the class of a register at a level decides which of the checks stops the access, and one that does stops each of the
instructions before it reads or writes. -/
theorem statusAccessChecks : Obligations.StatusAccessChecks := by
  intro s d a n hs
  simp only [List.forall_mem_cons, List.not_mem_nil, false_implies, implies_true, and_true]
  refine ⟨fun h => ?_, fun h => ?_, fun h => ?_⟩
  · have stop := statusCheck_of_unknown (statusAccess_eq_none s.lvl h)
    exact ⟨finish_status_of_check hs (stop _ _), finish_status_of_check hs (stop _ _), finish_status_of_check hs (stop _ _)⟩
  · have stop := statusCheck_of_closed (statusAccess_closed h)
    exact ⟨finish_status_of_check hs (stop _ _), finish_status_of_check hs (stop _ _), finish_status_of_check hs (stop _ _)⟩
  · have stop := statusCheck_of_readOnly (statusAccess_readOnly h)
    exact ⟨finish_status_of_check hs (stop _), finish_status_of_check hs (stop _)⟩

end Sys2Proof.Machine

/-! A step runs the instruction that the word at pc decodes to (R27, R28, R48), and what counting it changes (R430). -/

namespace Sys2Proof.Machine

/-! ## What the focus does next -/

/-- Nothing comes before the word at pc: the strand runs, with no trap to take and, outside speculation, nothing owed or queued. -/
theorem plan_eq_planWord {s : State} (hhost : s.hostReady = none) (hasync : s.asyncDue = false)
    (hfront : (s.st.place = .management ∧ s.mgmtRuns = true) ∨
      (s.st.place.master? ≠ none ∧ s.st.phase = .running ∧ s.x.phase = .running ∧ s.st.fatal = none ∧ s.x.held = none ∧
        (s.spec = true ∨ s.x.owed = .nothing ∧ s.st.vqueue = [] ∧ s.st.mqueue = [] ∧ s.st.equeue = []))) :
    s.plan = planWord s := by
  unfold State.plan
  obtain ⟨hplace, hruns⟩ | ⟨hplace, hphase, hx, hfatal, hheld, hq⟩ := hfront
  · simp [hhost, hplace, hruns, hasync]
  · have hmg : s.st.place ≠ .management := fun e => hplace (by rw [e]; rfl)
    have hsaved : s.st.place ≠ .saved := fun e => hplace (by rw [e]; rfl)
    simp only [hhost, if_neg hmg, hphase, hx, hfatal]
    obtain hspec | ⟨howed, hv, hm, he⟩ := hq
    · simp [hheld, hasync, hspec]
    · simp [hheld, hasync, howed, planQueue, State.queue, hv, hm, he]

theorem planWord_eq_run {s u : State} {w : BitVec 32} {i : Instr} (hf : s.fetch = .ok (u, w)) (hd : decode w = .ok i)
    (hj : u.joinHere = none ∨ i = .join) (hl : u.interlocked i = false) : planWord s = .run i u := by
  have hjoin : (u.joinHere.isSome && i != .join) = false := by
    obtain h | h := hj <;> simp [h]
  simp [planWord, hf, hd, hjoin, hl]

/-- An instruction runs at once where its chunk is speculative or nothing is held in the vector and matrix queues (R186). -/
theorem runFront_eq_exec {u : State} (h : u.spec = true ∨ u.st.vqueue = [] ∧ u.st.mqueue = []) (i : Instr) :
    runFront i u = exec i u := by
  unfold runFront
  split
  · rfl
  · rfl
  case h_3 hengine =>
    rw [if_pos]
    obtain h | ⟨hv, hm⟩ := h
    · simp [h]
    · cases hq : queueOf i with
      | engine => exact absurd hq hengine
      | _ => simp [State.runsNow, State.heldBack, State.queue, hv, hm]

/-! ## Counting (R430) -/

/-- The second strand is the first but for its counters, their pending overflows and the status word. -/
def CountsOnly (a b : Strand) : Prop :=
  ∃ (cfg : Vector Word 4) (pend : BitVec 4) (status : Word),
    b = { a with pmcfg := cfg, ovfPend := pend, trap := { a.trap with status := status } }

theorem CountsOnly.refl (a : Strand) : CountsOnly a a := ⟨_, _, _, rfl⟩

theorem CountsOnly.trans {a b c : Strand} : CountsOnly a b → CountsOnly b c → CountsOnly a c := by
  rintro ⟨_, _, _, rfl⟩ ⟨_, _, _, rfl⟩
  exact ⟨_, _, _, rfl⟩

theorem countsOnly_foldl {f : Strand → Nat → Strand} (hf : ∀ a j, CountsOnly a (f a j)) (l : List Nat) (a : Strand) :
    CountsOnly a (l.foldl f a) := by
  induction l generalizing a with
  | nil => exact .refl a
  | cons j l ih => exact (hf a j).trans (ih _)

theorem countsOnly_countBy (a : Strand) (ev k : Nat) (user : Bool) : CountsOnly a (a.countBy ev k user) := by
  unfold Strand.countBy
  split
  · exact .refl a
  · refine countsOnly_foldl (fun b j => ?_) _ a
    dsimp only
    split_ifs <;> exact ⟨_, _, _, rfl⟩

theorem countAround_eq (before : State) (i : Instr) (ev : Nat) (t : State) :
    ∃ st, CountsOnly t.st st ∧ countAround before i ev t = { t with st := st } := by
  refine ⟨_, (countsOnly_countBy t.st ev 1 (before.lvl == 0)).trans ?_, rfl⟩
  exact ⟨_, _, _, rfl⟩

/-- Counting a completed instruction changes only the counters and what their wrapping leaves. -/
theorem countRetired_eq (before : State) (i : Instr) (t : State) :
    ∃ st, CountsOnly t.st st ∧ countRetired before i t = { t with retired := false, st := st } := by
  unfold countRetired
  cases hr : t.retired with
  | false => exact ⟨_, .refl _, by simp [← hr]⟩
  | true =>
    dsimp only
    generalize (if before.spec then 0x03 else 0x02) = ev
    obtain ⟨a, ha, e⟩ := countAround_eq before i ev { t with retired := false }
    obtain ⟨b, hb, e'⟩ := countAround_eq before i 0x04 { t with retired := false, st := a }
    rw [if_neg (by simp), e]
    split_ifs
    · exact ⟨_, .refl _, rfl⟩
    · exact ⟨b, ha.trans hb, e'⟩
    · exact ⟨a, ha, rfl⟩

theorem stepRunsDecoded : Sys2Proof.Parts.StepRunsDecoded := by
  intro s u w i hin hstop hhost hasync hf hd hj hl hfront
  have hstep : step s = settle u i (runFront i u) := by
    unfold step
    rw [hin, hstop, plan_eq_planWord hhost hasync hfront, planWord_eq_run hf hd hj hl]
    rfl
  refine ⟨hstep, fun hq => by rw [hstep, runFront_eq_exec hq], fun t hq ht => ?_⟩
  refine ⟨countRetired u i t, by rw [hstep, runFront_eq_exec hq, ht]; rfl, ?_⟩
  obtain ⟨st, ⟨cfg, pend, status, rfl⟩, e⟩ := countRetired_eq u i t
  rw [e]

theorem decodedWords : Sys2Proof.Parts.DecodedWords := by
  unfold Sys2Proof.Parts.DecodedWords
  decide

/-- Settles O59: nothing comes before the word at pc, so the plan is to run it, and counting it changes only the counters and
what their wrapping leaves; the examples' words are decoded one by one. -/
theorem stepRunsDecodedInstruction : Obligations.StepRunsDecodedInstruction := ⟨stepRunsDecoded, decodedWords⟩

end Sys2Proof.Machine

/-! What the host's register writes store (03 R63, 16 R354, R355, 17 R381 to R384, 18 R390, 24 R435, 25 R445), and the register
writes that act as events (07 R156, 25 R439, R443, R444). -/

namespace Sys2Proof.Machine

/-! ## Where a write of BAR0 goes (R63, R381) -/

theorem exec_registerWrite_mailbox (s : State) (v : Word) {off : Nat} (h8 : off % 8 = 0) (h : off < 0x10000) :
    exec (.registerWrite .pf off v) s = .next (s.writeMailbox off v) := by
  simp [exec, execRegisterWrite, h8, h]

theorem exec_registerWrite_cp (s : State) (v : Word) {bar off : Nat} (hbar : bar = 0x10000 + off) (h8 : off % 8 = 0) :
    exec (.registerWrite .pf bar v) s = .next (s.writeCp off v) := by
  subst hbar
  have h8' : (0x10000 + off) % 8 = 0 := by omega
  simp [exec, execRegisterWrite, h8']

theorem exec_registerWrite_vf (s : State) (v : Word) (w : BitVec 5) {off : Nat} (h : off ≠ 0) :
    exec (.registerWrite (.vf w) off v) s = .next s := by
  simp [exec, execRegisterWrite, h]

theorem exec_registerWrite_port (s : State) (v : Word) (w : BitVec 5) :
    exec (.registerWrite (.vf w) 0 v) s = exec (.cplaunch (.vf w) w v) s := by
  simp [exec, execRegisterWrite, execCplaunch, mayLaunch]

/-! ## The command-processor block -/

theorem writeCp_function (s : State) (v : Word) {f r : Nat} (hf : f < 32) (h0 : 0 < r) (hr : r < 0x40) :
    s.writeCp (0x40 * f + r) v = { s with cp := s.cp.writeFunction f r v } := by
  have hdiv : (0x40 * f + r) / 0x40 = f := by omega
  have hmod : (0x40 * f + r) % 0x40 = r := by omega
  unfold State.writeCp
  rw [if_pos (by omega), hdiv, hmod, if_neg (by omega)]

theorem writeCp_global (s : State) (v : Word) {off : Nat} (hlo : 0x800 ≤ off) (hhi : off < 0x1020) :
    s.writeCp off v = { s with cp := s.cp.writeGlobal off v } := by
  unfold State.writeCp
  rw [if_neg (by omega), if_neg (by omega), if_neg (by omega), if_pos (by omega)]

theorem writeCp_fabric (s : State) (v : Word) {off : Nat} (hlo : 0x4000 ≤ off) (hhi : off < 0x5000) :
    s.writeCp off v = { s with fab := s.fab.writeReg off v } := by
  unfold State.writeCp
  rw [if_neg (by omega), if_neg (by omega), if_neg (by omega), if_neg (by omega), if_neg (by omega), if_pos (by omega)]

theorem writeCp_bank (s : State) (v : Word) {f k : Nat} (hf : f < 32) (hk : k < 4) :
    s.writeCp (0x5000 + 0x40 * f + 8 * k) v =
      { s with cp := { s.cp with bankCtr := vset s.cp.bankCtr (4 * f + k) (bankStored v) } } := by
  have hi : (0x5000 + 0x40 * f + 8 * k - 0x5000) / 0x40 * 4 + (0x5000 + 0x40 * f + 8 * k - 0x5000) % 0x40 / 8 = 4 * f + k := by
    omega
  unfold State.writeCp
  rw [if_neg (by omega), if_neg (by omega), if_neg (by omega), if_neg (by omega), if_neg (by omega), if_neg (by omega),
    if_pos (by omega), hi]

theorem bits_lowest (v : Word) (n : Nat) : bits v 0 n = v.toNat % 2 ^ n := by
  simp [bits, nbits]

/-- The reserved field of a bank counter's register reads 0; an event that exists is stored as written (R435). -/
theorem bit_bankStored {v : Word} (h : bits v 48 8 ≤ 6) {j : Nat} (hj : j < 64) :
    bit (bankStored v) j = (bit v j && !decide (56 ≤ j ∧ j ≤ 60)) := by
  have hev : bits (putBits v 56 5 0) 48 8 = bits v 48 8 := bits_putBits_apart v 56 5 0 48 8 (by omega)
  rw [bankStored, hev, if_pos h, bit_putBits v 56 5 0 j hj]
  by_cases hres : 56 ≤ j ∧ j ≤ 60
  · rw [if_pos (by omega), decide_eq_true hres]
    simp
  · rw [if_neg (by omega), decide_eq_false hres]
    simp

/-! ## The fabric registers (R354, R355) -/

theorem atLeastOne_eq_max (n : Nat) : atLeastOne n = max 1 n := by
  unfold atLeastOne
  split <;> omega

theorem writeReg_fxacl (c : Fab) (v : Word) {i : Nat} (h : i < 16) :
    c.writeReg (0x4100 + 8 * i) v = { c with fxacl := vset c.fxacl i v } := by
  have hi : (0x4100 + 8 * i - 0x4100) / 8 = i := by omega
  unfold Fab.writeReg
  rw [if_neg (by omega), if_neg (by omega), if_neg (by omega), if_pos (by omega), hi]

/-- A write of register r of window i: its base, its target, its length and rights. -/
def Fab.writeWindow (c : Fab) (i r : Nat) (v : Word) : Fab :=
  match r with
  | 0x00 => { c with wina := vset c.wina i (v &&& 0x3FFFFFFFFFFFFF) }
  | 0x08 => { c with winb := vset c.winb i (v &&& 0xFFFFFFFFF0000) }
  | 0x10 => { c with winc := vset c.winc i (v &&& 0xE3E00000001FFFFF) }
  | _ => c

theorem writeReg_window (c : Fab) (v : Word) {i r : Nat} (hi : i < 64) (hr : r < 0x20) :
    c.writeReg (0x4200 + 0x20 * i + r) v = c.writeWindow i r v := by
  have hdiv : (0x4200 + 0x20 * i + r - 0x4200) / 0x20 = i := by omega
  have hmod : (0x4200 + 0x20 * i + r - 0x4200) % 0x20 = r := by omega
  unfold Fab.writeReg
  rw [if_neg (by omega), if_neg (by omega), if_neg (by omega), if_neg (by omega), if_pos (by omega), hdiv, hmod]
  rfl

/-! ## The mailbox and attestation (R382, R384, R445) -/

/-- Replacing one word of the nonce leaves the others (log entry 117). -/
theorem wordAt_putNonceWord (nonce : BitVec 512) (w : Word) {k j : Nat} (hk : k < 8) (hj : j < 8) :
    wordAt (putNonceWord nonce k w) j = if j = k then w else wordAt nonce j := by
  refine BitVec.eq_of_getLsbD_eq fun i hi => ?_
  simp only [wordAt, putNonceWord, BitVec.getLsbD_extractLsb', BitVec.getLsbD_xor, BitVec.getLsbD_shiftLeft,
    BitVec.getLsbD_setWidth]
  split_ifs with h
  · subst h
    simp only [hi, show 64 * j + i < 512 by omega, show ¬ 64 * j + i < 64 * j by omega, show 64 * j + i - 64 * j = i by omega,
      show i < 512 by omega, decide_true, decide_false, Bool.not_false, Bool.true_and]
    simp
  · obtain hlt | hgt := Nat.lt_or_gt_of_ne h
    · simp [show 64 * j + i < 64 * k by omega]
    · simp [show ¬ 64 * j + i - 64 * k < 64 by omega, BitVec.getLsbD_of_ge w (64 * j + i - 64 * k) (by omega)]

theorem writeMailbox_nonce (s : State) (v : Word) {k : Nat} (h : k < 8) :
    s.writeMailbox (0x4000 + 8 * k) v = s.writeNonce (putNonceWord s.mbx.nonce k v) := by
  have hk : (0x4000 + 8 * k - 0x4000) / 8 = k := by omega
  unfold State.writeMailbox
  dsimp only
  rw [if_neg (by omega), if_neg (by omega), if_neg (by omega), if_neg (by omega), if_pos (by omega), hk]

theorem writeMailbox_accepted (s : State) (v : Word) {k : Nat} (h : k < 4) (hp : bits s.mbx.mbstat 1 2 = 0) :
    s.writeMailbox (0x30 + 8 * k) v = { s with mbx := { s.mbx with fa := vset s.mbx.fa k v } } := by
  have hk : (0x30 + 8 * k - 0x30) / 8 = k := by omega
  unfold State.writeMailbox
  dsimp only
  rw [if_neg (by omega), if_pos ⟨by omega, by omega, by simp [hp]⟩, hk]

theorem writeMailbox_accepted_late (s : State) (v : Word) {k : Nat} (h : k < 4) (hp : bits s.mbx.mbstat 1 2 ≠ 0) :
    s.writeMailbox (0x30 + 8 * k) v = s := by
  unfold State.writeMailbox
  dsimp only
  rw [if_neg (by omega), if_neg (by simp [hp]), if_neg (by omega), if_neg (by omega), if_neg (by omega), if_neg (by omega)]

/-! ## What a write of the physical function stores -/

theorem exec_write_function (s : State) (v : Word) {f : Nat} (hf : f < 32) (r : Nat) (h0 : 0 < r) (hr : r < 0x40)
    (h8 : r % 8 = 0) :
    exec (.registerWrite .pf (0x10000 + r + 0x40 * f) v) s = .next { s with cp := s.cp.writeFunction f r v } := by
  rw [exec_registerWrite_cp s v (off := 0x40 * f + r) (by omega) (by omega), writeCp_function s v hf h0 hr]

theorem exec_write_global (s : State) (v : Word) (r : Nat) (hlo : 0x800 ≤ r) (hhi : r < 0x1020) (h8 : r % 8 = 0) :
    exec (.registerWrite .pf (0x10000 + r) v) s = .next { s with cp := s.cp.writeGlobal r v } := by
  rw [exec_registerWrite_cp s v rfl h8, writeCp_global s v hlo hhi]

theorem exec_write_fabric (s : State) (v : Word) {bar : Nat} (r : Nat) (hbar : bar = 0x10000 + r) (hlo : 0x4000 ≤ r)
    (hhi : r < 0x5000) (h8 : r % 8 = 0) : exec (.registerWrite .pf bar v) s = .next { s with fab := s.fab.writeReg r v } := by
  rw [exec_registerWrite_cp s v hbar h8, writeCp_fabric s v hlo hhi]

theorem exec_write_window (s : State) (v : Word) {i : Nat} (hi : i < 64) (r : Nat) (hr : r < 0x20) (h8 : r % 8 = 0) :
    exec (.registerWrite .pf (0x14200 + r + 0x20 * i) v) s = .next { s with fab := s.fab.writeWindow i r v } := by
  rw [exec_write_fabric s v (0x4200 + 0x20 * i + r) (by omega) (by omega) (by omega) (by omega), writeReg_window s.fab v hi hr]

theorem exec_write_fxacl (s : State) (v : Word) {i : Nat} (hi : i < 16) :
    exec (.registerWrite .pf (0x14100 + 8 * i) v) s = .next { s with fab := { s.fab with fxacl := vset s.fab.fxacl i v } } := by
  rw [exec_write_fabric s v (0x4100 + 8 * i) (by omega) (by omega) (by omega) (by omega), writeReg_fxacl s.fab v hi]

theorem hostRegisterWrites : Sys2Proof.Parts.HostRegisterWrites := by
  intro s v f i off w g hf hi
  refine ⟨?_, exec_registerWrite_vf s v w, exec_registerWrite_port s v w, rfl, rfl, fun k hk _ => ?_, ?_, ?_, fun k hk hev => ?_, rfl,
    fun k hk => ⟨fun hp => ?_, fun hp => ?_⟩⟩
  · simp only [List.forall_mem_cons]
    exact ⟨rfl, rfl, by simp⟩
  · refine ⟨putNonceWord s.mbx.nonce k v, ?_, fun j hj => wordAt_putNonceWord _ _ hk hj⟩
    rw [exec_registerWrite_mailbox s v (by omega) (by omega), writeMailbox_nonce s v hk]
    rfl
  · have function := exec_write_function s v hf
    have global := exec_write_global s v
    simp only [List.forall_mem_cons, ← bits_lowest]
    exact ⟨function 0x10 (by omega) (by omega) rfl, function 0x18 (by omega) (by omega) rfl,
      function 0x20 (by omega) (by omega) rfl, function 0x28 (by omega) (by omega) rfl,
      function 0x30 (by omega) (by omega) rfl, function 0x38 (by omega) (by omega) rfl,
      global 0x1000 (by omega) (by omega) rfl, global 0x1010 (by omega) (by omega) rfl,
      global 0x1018 (by omega) (by omega) rfl, by simp⟩
  · have fabric (r : Nat) := exec_write_fabric s v (bar := 0x10000 + r) r rfl
    have window := exec_write_window s v hi
    simp only [List.forall_mem_cons, ← bits_lowest, ← atLeastOne_eq_max]
    exact ⟨fabric 0x4000 (by omega) (by omega) rfl, fabric 0x4008 (by omega) (by omega) rfl,
      exec_write_fxacl s v (Nat.mod_lt f (by omega)), fabric 0x4010 (by omega) (by omega) rfl, window 0 (by omega) rfl,
      window 8 (by omega) rfl, window 0x10 (by omega) rfl, by simp⟩
  · refine ⟨_, (exec_registerWrite_cp s v (by omega) (by omega)).trans (congrArg _ (writeCp_bank s v hf hk)), rfl,
      fun j hj hne => vget_vset_ne _ _ _ _ _ hne.symm, fun j hj => ?_⟩
    rw [vget_vset_same _ _ _ _ (by omega), bit_bankStored hev hj]
  · rw [exec_registerWrite_mailbox s v (by omega) (by omega), writeMailbox_accepted s v hk hp]
  · rw [exec_registerWrite_mailbox s v (by omega) (by omega), writeMailbox_accepted_late s v hk hp]

/-! ## Negotiation and attestation (R383, R384, R445) -/

theorem commitRefused_iff (m : Mailbox) :
    commitRefused m = true ↔
      (∃ i : Nat, i < 4 ∧ vget m.fa 0 i &&& ~~~(vget m.fw 0 i) ≠ 0) ∨ (vget m.fa 0 0).getLsbD 0 = false ∨
        512 < m.hdmcfg.toNat % 2 ^ 10 ∨ 768 < m.hdmcfg.toNat / 2 ^ 16 % 2 ^ 10 + m.hdmcfg.toNat % 2 ^ 10 := by
  have hpool : bits m.hdmcfg 16 10 = m.hdmcfg.toNat / 2 ^ 16 % 2 ^ 10 := rfl
  simp only [commitRefused, hpool, bits_lowest, bit, Bool.or_eq_true, List.any_eq_true, List.mem_range, bne_iff_ne,
    Bool.not_eq_true', decide_eq_true_eq, or_assoc]
  rw [@or_comm (768 < _)]

/-- The commit that acts sets the status field of mbstat and nothing else (R384). -/
theorem commit_of_pending (s : State) {v : Word} (hv : v = 1) (hpub : s.mbx.mbstat.getLsbD 0 = true)
    (hstat : s.mbx.mbstat.toNat / 2 % 4 = 0) :
    s.commit v = { s with mbx := { s.mbx with
      mbstat := putBits s.mbx.mbstat 1 2 (if commitRefused s.mbx then 2 else 1) } } := by
  have hbits : bits s.mbx.mbstat 1 2 = 0 := hstat
  unfold State.commit
  rw [if_neg (by simp [hv, bit, hpub, hbits])]

theorem commit_of_not_pending (s : State) {v : Word}
    (h : v ≠ 1 ∨ s.mbx.mbstat.getLsbD 0 = false ∨ s.mbx.mbstat.toNat / 2 % 4 ≠ 0) : s.commit v = s := by
  unfold State.commit
  rw [if_pos]
  obtain hv | hpub | hstat := h
  · exact .inl hv
  · exact .inr (.inl (congrArg (!·) hpub))
  · exact .inr (.inr hstat)

/-- The parts of a report: version, digest, nonce, serial number (R445). -/
theorem reportBody_parts (digest nonce : BitVec 512) :
    (reportBody digest nonce).extractLsb' 0 64 = 1 ∧ (reportBody digest nonce).extractLsb' 64 512 = digest ∧
      (reportBody digest nonce).extractLsb' 576 512 = nonce ∧ (reportBody digest nonce).extractLsb' 1088 128 = Config.serial := by
  unfold reportBody
  refine ⟨?_, ?_, ?_, ?_⟩
  · rw [BitVec.extractLsb'_append_eq_right]
  · rw [BitVec.extractLsb'_append_eq_of_le (by omega), BitVec.extractLsb'_append_eq_right]
  · rw [BitVec.extractLsb'_append_eq_of_le (by omega), BitVec.extractLsb'_append_eq_of_le (by omega),
      BitVec.extractLsb'_append_eq_right]
  · rw [BitVec.extractLsb'_append_eq_of_le (by omega), BitVec.extractLsb'_append_eq_of_le (by omega),
      BitVec.extractLsb'_append_eq_left]

theorem writeNonce_of_idle {s : State} (h : s.mbx.atstat ≠ 2) (nonce : BitVec 512) :
    s.writeNonce nonce = { s with mbx := { s.mbx with nonce := nonce, atstat := 0 } } := if_neg h

theorem startReport_of_idle {s : State} (h : s.mbx.atstat ≠ 2) {v : Word} (hv : v = 1) :
    s.startReport v = { s with mbx := { s.mbx with atstat := 2 } } := if_neg (not_or.mpr ⟨not_not.mpr hv, h⟩)

/-- The report over the held nonce, and its signature above it (R445). -/
theorem exec_attestReportReady {s : State} (h : s.mbx.atstat = 2) :
    exec .attestReportReady s = .next { s with mbx := { s.mbx with
      report := Config.signature (reportBody s.imageDigest s.mbx.nonce) ++ reportBody s.imageDigest s.mbx.nonce
      atstat := 1 } } := if_neg (by simp [h])

theorem mailboxCommands : Sys2Proof.Parts.MailboxCommands := by
  intro s v nonce m hdm bad
  refine ⟨fun hv hpub hstat => ?_, fun h => congrArg _ (commit_of_not_pending s h), fun h => congrArg _ (writeNonce_of_idle h nonce),
    fun h hv => congrArg _ (startReport_of_idle h hv), fun h => ⟨congrArg _ (if_pos h), congrArg _ (if_pos (.inr h))⟩,
    fun h => if_pos h, fun h => ⟨_, exec_attestReportReady h, rfl, ?_⟩⟩
  · have hfield (n : Nat) (w : Word) : (putBits w 1 2 n).toNat / 2 % 4 = n % 4 := bits_putBits_same w 1 2 n (by omega)
    refine ⟨_, congrArg Host.Outcome.next (commit_of_pending s hv hpub hstat), rfl, fun j h1 h2 => ?_, fun hbad => ?_, fun hgood => ?_⟩
    · by_cases hj : j < 64
      · exact (getLsbD_putBits _ 1 2 _ j hj).trans (if_neg (by omega))
      · rw [BitVec.getLsbD_of_ge _ _ (by omega), BitVec.getLsbD_of_ge _ _ (by omega)]
    · dsimp only
      rw [if_pos ((commitRefused_iff m).mpr hbad), hfield]
    · dsimp only
      rw [if_neg (mt (commitRefused_iff m).mp hgood), hfield]
  · obtain ⟨hversion, hdigest, hnonce, hserial⟩ := reportBody_parts s.imageDigest s.mbx.nonce
    dsimp only
    rw [BitVec.extractLsb'_append_eq_of_add_le (by omega), BitVec.extractLsb'_append_eq_of_add_le (by omega),
      BitVec.extractLsb'_append_eq_of_add_le (by omega), BitVec.extractLsb'_append_eq_of_add_le (by omega),
      BitVec.extractLsb'_append_eq_left, BitVec.extractLsb'_append_eq_right]
    exact ⟨hversion, hdigest, hnonce, hserial, rfl⟩

/-! ## Register writes as events (R156, R439, R443, R444) -/

theorem setBit63_eq_or (v : Word) : putBits v 63 1 1 = v ||| 0x8000000000000000 := by
  have htop : (0x8000000000000000 : Word) = BitVec.twoPow 64 63 := by decide
  refine BitVec.eq_of_getLsbD_eq fun i hi => ?_
  rw [getLsbD_putBits v 63 1 1 i hi, BitVec.getLsbD_or, htop, BitVec.getLsbD_twoPow]
  by_cases h : i = 63
  · simp [h]
  · simp [show ¬ 63 ≤ i by omega, Ne.symm h]

/-- A log entry is 16 bytes: the time, then the record (R444). -/
theorem logEntry_bytes (s : State) (v : Word) (hwf : Memory.wf (fun _ => 0) s.sram = true) :
    let a := 0x3E000 + s.mg.tail.toNat % 512 * 16
    (∀ i, i < 8 → Memory.read (s.logEntry v).sram (fun _ => 0) (a + i) = BitVec.ofNat 8 (s.time / 256 ^ i)) ∧
      (∀ i, i < 8 → Memory.read (s.logEntry v).sram (fun _ => 0) (a + 8 + i) = BitVec.ofNat 8 (v.toNat / 256 ^ i)) ∧
      ∀ q, q < a ∨ a + 16 ≤ q → Memory.read (s.logEntry v).sram (fun _ => 0) q = Memory.read s.sram (fun _ => 0) q := by
  intro a
  have hlen : (leBytes 8 s.time ++ leBytes 8 v.toNat).length = 16 := by simp
  refine ⟨fun i hi => ?_, fun i hi => ?_, fun q hq => Memory.read_writeBytes_out _ a q (by omega)⟩
  · refine (Memory.read_writeBytes_in _ a i hwf (by omega)).trans ?_
    rw [List.getElem_append_left (by simpa using hi), leBytes_getElem]
  · rw [Nat.add_assoc]
    refine (Memory.read_writeBytes_in _ a (8 + i) hwf (by omega)).trans ?_
    rw [List.getElem_append_right (by simp), leBytes_getElem]
    simp

theorem field_above_six_eq_zero_iff (v : Word) : bits v 6 58 = 0 ↔ v.toNat < 64 := by
  have hlt := v.isLt
  show v.toNat / 2 ^ 6 % 2 ^ 58 = 0 ↔ _
  omega

/-- mgalrt names the selected sensor; rel is lowered to alrt (R439). -/
theorem writeMgalrt_of_sensor {s : State} {q : Sensor} (h : s.mg.sensor? = some q) (v : Word) :
    s.writeMgalrt v =
      let alrt : BitVec 16 := v.setWidth 16
      let rel : BitVec 16 := (v >>> 16).setWidth 16
      let q' : Sensor := { q with alrt := alrt, rel := if alrt.toInt < rel.toInt then alrt else rel }
      { s with mg := { s.mg with sensors := vset s.mg.sensors s.mg.sel.toNat q' } } := by
  unfold State.writeMgalrt
  rw [h]

theorem writeMgalrt_of_none {s : State} (h : s.mg.sensor? = none) (v : Word) : s.writeMgalrt v = s := by
  unfold State.writeMgalrt
  rw [h]

theorem sensor?_eq_none {m : Mgmt} (h : 96 ≤ m.sel.toNat) : m.sensor? = none :=
  Array.getElem?_eq_none (by rw [Vector.size_toArray]; exact h)

theorem registerWriteEvents : Sys2Proof.Parts.RegisterWriteEvents := by
  intro s v
  refine ⟨fun h => ⟨if_neg (by omega), (if_neg (by omega)).trans ?_⟩, fun h => ⟨if_pos h, if_pos h⟩, rfl,
    fun h => congrArg _ (writeMgalrt_of_none (sensor?_eq_none h) v), fun q hq => congrArg _ (writeMgalrt_of_sensor hq v), _, rfl, rfl, ?_⟩
  · simp only [State.writeVtype, field_above_six_eq_zero_iff]
    rfl
  · intro a hwf
    rw [← setBit63_eq_or]
    exact logEntry_bytes s (putBits v 63 1 1) hwf

/-- Settles O34: the offset of a register decides which branch of the write stores it; the commands are the writes their events are. -/
theorem hostRegisters : Obligations.HostRegisters := ⟨hostRegisterWrites, mailboxCommands, registerWriteEvents⟩

end Sys2Proof.Machine

/-! The entry state of a strand, where a pass places it, and a launch by the host (03 R63, R70, R74, 17 R381). -/

namespace Sys2Proof.Machine

/-! ## The entry state (R74) -/

theorem strandEntryState : Sys2Proof.Parts.StrandEntryState := by
  intro l i now place slot x st
  have hother : ∀ r : Nat, r < 32 → r ∉ [2, 4, 5, 6, 31] → vget x.sreg 0 r = 0 := by
    intro r hr hne
    simp only [List.mem_cons, List.not_mem_nil, or_false, not_or] at hne
    obtain ⟨h2, h4, h5, h6, h31⟩ := hne
    simp only [x, entryCtx, List.foldl_cons, List.foldl_nil]
    rw [vget_vset_ne _ _ _ _ _ (Ne.symm h31), vget_vset_ne _ _ _ _ _ (Ne.symm h6), vget_vset_ne _ _ _ _ _ (Ne.symm h5),
      vget_vset_ne _ _ _ _ _ (Ne.symm h4), vget_vset_ne _ _ _ _ _ (Ne.symm h2)]
    exact vget_replicate_default 32 r 0
  refine ⟨rfl, ?_, ?_, ?_, ?_, ?_, hother, fun r _ => vget_replicate_default 32 r 0, fun r _ => vget_replicate_default 8 r 0,
    rfl, rfl, rfl, rfl, rfl, rfl, rfl, rfl, rfl, rfl, rfl, rfl, rfl, rfl, rfl, rfl, rfl, rfl, rfl⟩
  all_goals simp [x, entryCtx]

/-! ## The place of the next strand (R70) -/

theorem findSome?_range_of_first {α : Type} {f : Nat → Option α} {b : α} {j n : Nat} (hj : j < n) (hb : f j = some b)
    (hnone : ∀ k, k < j → f k = none) : (List.range n).findSome? f = some b := by
  induction n with
  | zero => omega
  | succ n ih =>
    rw [List.range_succ, List.findSome?_append]
    obtain h | rfl := Nat.lt_succ_iff_lt_or_eq.mp hj
    · rw [ih h]
      rfl
    · rw [List.findSome?_eq_none_iff.mpr fun k hk => hnone k (List.mem_range.mp hk)]
      simpa using hb

/-- How many dies after the one last used the die of master k comes, in cyclic order (R70). -/
def diesAfter (last k : Nat) : Nat := (k / 6 + 8 - last % 8) % 8

/-- A ring is on the die that a pass looks at in step k when its die comes k after the one last used. -/
theorem dieOfMaster_eq_iff {last m k : Nat} (hm : m < 48) (hk : k < 8) :
    dieOfMaster m = (last + k) % 8 + 1 ↔ diesAfter last m = k := by
  unfold dieOfMaster diesAfter
  rw [if_pos hm]
  omega

theorem pickRing_eq_some {s : State} {l : Launch} {m : Nat} (hm : m < 48) (hmay : s.mayTake l m = true)
    (hfirst : ∀ k, k < 48 → s.mayTake l k = true → diesAfter s.cp.diePtr m < diesAfter s.cp.diePtr k ∨
      diesAfter s.cp.diePtr m = diesAfter s.cp.diePtr k ∧ m ≤ k) : s.pickRing l = some m := by
  have hlt : diesAfter s.cp.diePtr m < 8 := Nat.mod_lt _ (by omega)
  unfold State.pickRing State.openRings
  dsimp only
  rw [List.findSome?_map]
  refine findSome?_range_of_first hlt ?_ fun k hk => ?_
  · rw [Function.comp_apply, List.find?_filter, List.find?_range_eq_some]
    refine ⟨by simp [hmay, (dieOfMaster_eq_iff (last := s.cp.diePtr) hm hlt).mpr rfl], List.mem_range.mpr hm, fun k hk => ?_⟩
    have hk48 : k < 48 := by omega
    rw [Bool.not_eq_true', decide_eq_false_iff_not]
    rintro ⟨hk', hd⟩
    have := (dieOfMaster_eq_iff hk48 hlt).mp (eq_of_beq hd)
    have := hfirst k hk48 hk'
    omega
  · rw [Function.comp_apply, List.find?_eq_none]
    intro r hr hd
    obtain ⟨hr48, hr'⟩ := List.mem_filter.mp hr
    have hr48 := List.mem_range.mp hr48
    have := (dieOfMaster_eq_iff hr48 (by omega)).mp (eq_of_beq hd)
    have := hfirst r hr48 hr'
    omega

/-! ## Placing a strand that has not been saved (R70, R74) -/

theorem placeStrand_of_ring {s : State} {l : Launch} {i m : Nat} (hl : s.launch? l.handle = some l) (hg : l.isGate i = false)
    (hp : s.pickRing l = some m) : s.placeStrand l.handle i = s.placeOn l i m := by
  simp [State.placeStrand, hl, hg, hp]

/-- A strand that enters is parked on its ring, its launch no longer waits to place it, and its groups learn its place. -/
theorem placeOn_of_entering {s : State} {l : Launch} (hres : l.toResume = []) (i : Nat) {m : Nat} (hm : m < 48) :
    s.placeOn l i m = ({ s with
      parked := s.parked ++ [{ x := entryCtx l i, st := entryStrand l i (.ring m) s.freeSlot s.time }]
      cp := { s.cp with
        masters := vset s.cp.masters m .occupied
        diePtr := 1 + m / 6
        launches := s.cp.launches.map (fun (k : Launch) => if k.handle = l.handle then
          { k with toPlace := k.toPlace.filter (· != i), toResume := k.toResume.filter (· != i), waitFrom := none } else k) } } :
      State).joinGroups l.handle i m := by
  have hplace : placeOf m = .ring m := if_pos hm
  have hdie : dieOfMaster m = 1 + m / 6 := if_pos hm
  unfold State.placeOn
  simp only [hres, hplace, hdie, if_pos hm]
  rfl

theorem strandPlaced : Sys2Proof.Parts.StrandPlaced := by
  intro s l i m hl hg hres after hm hmay hfirst t
  have ht : t = s.placeOn l i m := placeStrand_of_ring hl hg (pickRing_eq_some hm hmay hfirst)
  rw [ht, placeOn_of_entering hres i hm]
  refine ⟨rfl, vget_vset_same _ _ _ _ (by omega), fun k hk => vget_vset_ne _ _ _ _ _ (Ne.symm hk), rfl, fun k hk hh hi => ?_,
    rfl, rfl, rfl⟩
  obtain ⟨k', -, rfl⟩ := List.mem_map.mp hk
  by_cases h : k'.handle = l.handle
  · rw [if_pos h] at hi
    simp at hi
  · rw [if_neg h] at hh
    exact h hh

/-! ## A launch by the host (R63, R381) -/

theorem exec_cplaunch_of_may {who : Requester} {v : BitVec 5} (h : who = .pf ∨ who = .vf v) (va : Word) (s : State) :
    exec (.cplaunch who v va) s = .next (s.cplaunch v.toNat va) := by
  obtain rfl | rfl := h <;> simp [exec, execCplaunch, mayLaunch]

theorem cplaunch_of_disabled {s : State} {n : Nat} (h : s.enabled n = false) (va : Word) :
    s.cplaunch n va = s.setPlstat n (submitResult 5 0) := by
  simp [State.cplaunch, h]

theorem cplaunch_of_misaligned {s : State} {n : Nat} (h : s.enabled n = true) {va : Word} (ha : va.toNat % 64 ≠ 0) :
    s.cplaunch n va = s.setPlstat n (submitResult 2 0) := by
  simp [State.cplaunch, h, ha]

theorem cplaunch_of_unread {s t : State} {n : Nat} (h : s.enabled n = true) {va : Word} (ha : va.toNat % 64 = 0)
    (hr : s.hostRecord n va = (t, none)) : s.cplaunch n va = t.setPlstat n (submitResult 2 0) := by
  simp [State.cplaunch, h, ha, hr]

/-- A record that is read is submitted for the function, and a pass follows where it is admitted (R63). -/
theorem cplaunch_of_read {s t : State} {n : Nat} (h : s.enabled n = true) {va : Word} (ha : va.toNat % 64 = 0) {bs : List Byte}
    (hr : s.hostRecord n va = (t, some bs)) :
    s.cplaunch n va =
      let q : Submitter := { vf := n, ptroot := (t.rootOf n).1, asid := (t.rootOf n).2, tvec := vget t.cp.ptvec 0 n, issuer := none }
      let a := t.submit q bs
      let u := a.1.setPlstat n (submitResult a.2.1 a.2.2)
      if a.2.1 = 0 then u.schedule else u := by
  simp [State.cplaunch, h, ha, hr]

/-- The hub's translation of a record's address in the space of function n (R63). -/
def State.recordXl (s : State) (n : Nat) (va : Word) : State × Except (BitVec 8) Xl :=
  s.xlateHub (launchSpace (s.rootOf n).1 (s.rootOf n).2 n) .read va.toNat

theorem hostRecord_of_error {s t : State} {n : Nat} {va : Word} {c : BitVec 8} (h : s.recordXl n va = (t, .error c)) :
    s.hostRecord n va = (t, none) := by
  unfold State.recordXl at h
  unfold State.hostRecord
  dsimp only
  rw [h]

theorem hostRecord_of_barred {s t : State} {n : Nat} {va : Word} {x : Xl} (h : s.recordXl n va = (t, .ok x))
    (hbar : x.kind = 1 ∨ t.poisoned x.pa = true) : s.hostRecord n va = (t, none) := by
  unfold State.recordXl at h
  unfold State.hostRecord
  dsimp only
  rw [h]
  exact if_pos (by simpa [Xl.fabric] using hbar)

theorem hostRecord_of_clean {s t : State} {n : Nat} {va : Word} {x : Xl} (h : s.recordXl n va = (t, .ok x)) (hk : x.kind ≠ 1)
    (hp : t.poisoned x.pa = false) : s.hostRecord n va = (t.touch none x.pa, some (t.memBytes x.pa 64)) := by
  unfold State.recordXl at h
  unfold State.hostRecord
  dsimp only
  rw [h]
  exact if_neg (by simp [Xl.fabric, hk, hp])

theorem hostLaunch : Sys2Proof.Parts.HostLaunch := by
  intro s v va root asid plstat
  refine ⟨fun w hw => by simp [exec, execCplaunch, mayLaunch, hw], fun who hwho => ?_⟩
  rw [exec_cplaunch_of_may hwho va s]
  refine ⟨fun h => congrArg _ (cplaunch_of_disabled h va), fun h ha => congrArg _ (cplaunch_of_misaligned h ha), fun h ha => ?_⟩
  exact ⟨fun c hr => congrArg _ (cplaunch_of_unread h ha (hostRecord_of_error (Prod.ext rfl hr))),
    fun x hr hbar => congrArg _ (cplaunch_of_unread h ha (hostRecord_of_barred (Prod.ext rfl hr) hbar)),
    fun x hr hk hp => congrArg _ (cplaunch_of_read h ha (hostRecord_of_clean (Prod.ext rfl hr) hk hp))⟩

/-- Settles O24: a pass looks at the dies after the one last used in turn, and at the rings of each from the lowest; the record of a
host's launch is refused or submitted as its translation says. -/
theorem strandsPlaced : Obligations.StrandsPlaced := ⟨strandEntryState, strandPlaced, hostLaunch⟩

end Sys2Proof.Machine

/-! What the accesses of a strand, the moves of cached lines and the hub's translations leave as it was: the command processor but
for its bank counters and the messages it sends, the engines, the requests in flight, and where each strand is, what it has sent
and what it has to report. -/

namespace Sys2Proof.Machine

/-- A fold of steps that each keep a relation keeps it. -/
theorem foldl_keeps {α : Type} {R : State → State → Prop} (hrefl : ∀ s, R s s) (htrans : ∀ {s t u}, R s t → R t u → R s u)
    {f : State → α → State} (hf : ∀ s a, R s (f s a)) (l : List α) (s : State) : R s (l.foldl f s) := by
  induction l generalizing s with
  | nil => exact hrefl s
  | cons a l ih => exact htrans (hf s a) (ih _)

/-! ## Lines move (R266, R284, R329, R342 to R344) -/

/-- `t` is `s` but for packets, cached lines, the directory and the classes of pages. -/
def LinesMove (s t : State) : Prop :=
  ∃ (net : Net) (classes : List (Nat × PageClass)) (lines : List CLine) (uses : Nat) (dir : List DirRegion) (backInv : List BackInv),
    t = { s with net := net, classes := classes
                 cache := { s.cache with lines := lines, uses := uses, dir := dir, backInv := backInv } }

namespace LinesMove

theorem refl (s : State) : LinesMove s s := ⟨_, _, _, _, _, _, rfl⟩

theorem trans {s t u : State} : LinesMove s t → LinesMove t u → LinesMove s u := by
  rintro ⟨_, _, _, _, _, _, rfl⟩ ⟨_, _, _, _, _, _, rfl⟩
  exact ⟨_, _, _, _, _, _, rfl⟩

theorem foldl {α : Type} {f : State → α → State} (hf : ∀ s a, LinesMove s (f s a)) (l : List α) (s : State) :
    LinesMove s (l.foldl f s) := foldl_keeps refl trans hf l s

theorem lineMail (s : State) (src vc line : Nat) (w : Bool) : LinesMove s (s.lineMail src vc line w) := ⟨_, _, _, _, _, _, rfl⟩

theorem agentLines (s : State) (src vc pa n : Nat) (w : Bool) : LinesMove s (s.agentLines src vc pa n w) :=
  foldl (fun s l => lineMail s src vc l w) _ s

theorem storePackets (s : State) (vc pa n : Nat) : LinesMove s (s.storePackets vc pa n) :=
  foldl (fun s l => by
    split
    · exact lineMail s _ _ _ _
    · exact refl s) _ s

theorem writeBack (s : State) (c : CLine) : LinesMove s (s.writeBack c) := ⟨_, _, _, _, _, _, rfl⟩

theorem evictLine (s : State) (c : CLine) : LinesMove s (s.evictLine c) := by
  unfold State.evictLine
  split_ifs
  · exact writeBack s c
  · exact refl s
  · exact ⟨_, _, _, _, _, _, rfl⟩

theorem evictAll (s : State) (p : CLine → Bool) : LinesMove s (s.evictAll p) := foldl evictLine _ s

theorem recallPicked (s : State) (p : CLine → Bool) : LinesMove s (s.recall p) :=
  trans ⟨_, _, _, _, _, _, rfl⟩ (foldl evictLine _ (s.sendProbes _))

theorem recallFrom (s : State) (a : Option Agent) (l : Nat) : LinesMove s (s.recallFrom a l) := recallPicked s _

theorem bankHolds (s : State) (pa n : Nat) : LinesMove s (s.bankHolds pa n) := foldl (fun s l => recallFrom s none l) _ s

theorem atBank (s : State) (vc pa n : Nat) : LinesMove s (s.atBank vc pa n) :=
  trans ⟨_, _, _, _, _, _, rfl⟩ (bankHolds (s.bankPackets vc pa n) pa n)

theorem emptyPage (s : State) (p : Nat) : LinesMove s (s.emptyPage p) :=
  trans (evictAll s _) ⟨_, _, _, _, _, _, rfl⟩

theorem dirEvict (s : State) (p : Nat) : LinesMove s (s.dirEvict p) := by
  unfold State.dirEvict
  split
  · exact refl s
  · exact trans (emptyPage s _) ⟨_, _, _, _, _, _, rfl⟩

theorem dirRoom (s : State) (p n : Nat) : LinesMove s (s.dirRoom p n) :=
  foldl (fun s _ => by
    split_ifs
    · exact refl s
    · exact dirEvict s p) _ s

theorem dirEnter (s : State) (a : Agent) (l : Nat) (w k : Bool) : LinesMove s (s.dirEnter a l w k) := by
  unfold State.dirEnter
  dsimp only
  split
  · exact trans (dirRoom s _ _) ⟨_, _, _, _, _, _, rfl⟩
  · exact trans (dirRoom s _ _) ⟨_, _, _, _, _, _, rfl⟩

theorem reclassify (s : State) (p r : Nat) : LinesMove s (s.reclassify p r) := by
  unfold State.reclassify
  exact ((evictAll s _).trans ⟨_, _, _, _, _, _, rfl⟩).trans (foldl (fun s k => dirEnter s _ _ _ _) _ _)

theorem touch (s : State) (r : Option Nat) (pa : Nat) : LinesMove s (s.touch r pa) := by
  unfold State.touch
  split_ifs
  · exact refl s
  · split
    · exact ⟨_, _, _, _, _, _, rfl⟩
    · exact refl s
    · exact refl s
    · split_ifs
      · exact refl s
      · exact reclassify s _ _
    · exact reclassify s _ _

end LinesMove

/-! ## What a strand is known by -/

/-- Where a strand is, who it is, what it has sent and not delivered, and what it has to report. -/
def Strand.duty (a : Strand) : Place × StrandId × List RetryMsg × List Word := (a.place, a.id, a.retry, a.failedStores)

theorem duty_countBy (a : Strand) (ev k : Nat) (user : Bool) : (a.countBy ev k user).duty = a.duty := by
  obtain ⟨_, _, _, h⟩ := countsOnly_countBy a ev k user
  rw [h]
  rfl

theorem duty_discardFrom (k : Nat) (charge : Bool) (r : Runner) : (discardFrom k charge r).st.duty = r.st.duty := by
  unfold discardFrom
  split
  · rfl
  · cases charge with
    | false => rfl
    | true => exact duty_countBy r.st _ _ _

theorem duty_squashFrom (k : Nat) (r : Runner) : (squashFrom k r).st.duty = r.st.duty := by
  unfold squashFrom
  split
  · rfl
  · split_ifs
    · rfl
    · exact duty_discardFrom k true r
    · rfl

theorem duty_externalWrite (line : Nat) (r : Runner) : (externalWrite line r).st.duty = r.st.duty := by
  unfold externalWrite
  split
  · rfl
  · exact duty_squashFrom _ r

theorem duty_releaseWait (c : BitVec 8) (p : BitVec 32) (a : Strand) : (releaseWait c p a).duty = a.duty := by
  unfold releaseWait
  split
  · split_ifs <;> rfl
  · rfl

/-- The strands on rings and gateway cores, which hub messages to supervisors reach (R312, R447). -/
def State.coreStrands (s : State) : List StrandId := (List.range 64).filterMap (fun m => (s.occupant m).map (·.id))

theorem coreStrands_eq (s : State) : s.coreStrands = (List.range 64).filterMap (fun m =>
    ((s.strands.map Strand.duty).find? (fun d => d.1.master? == some m)).map (·.2.1)) := by
  simp only [List.find?_map, Option.map_map]
  rfl

/-- A target that is bound for no launch is the strand of a core, or is remote. -/
theorem mem_coreStrands_of_bindTarget {s : State} {t : BitVec 32} {id : StrandId}
    (h : s.bindTarget none t = .ok (.strand id)) : id ∈ s.coreStrands := by
  have key {m : Nat} {st : Strand} (hm : m < 64) (ho : s.occupant m = some st) : st.id ∈ s.coreStrands :=
    List.mem_filterMap.mpr ⟨m, List.mem_range.mpr hm, by rw [ho]; rfl⟩
  unfold State.bindTarget at h
  dsimp only at h
  split at h
  · split_ifs at h
    cases h
  · split_ifs at h with hbad hcore
    · split at h
      · cases h
        exact key (show t.toNat % 512 / 8 < 64 by omega) ‹_›
      · cases h
    · split at h
      · cases h
        exact key (show 48 + (t.toNat % 512 - 384) < 64 by omega) ‹_›
      · cases h
  · split_ifs at h
    cases h
  · cases h

/-! ## The state that is kept -/

/-- From `s` to `t` only memory, caches, buffers, waits and counters have changed, and messages to supervisors may have been sent. -/
structure Kept (s t : State) : Prop where
  cp : t.cp = { s.cp with bankCtr := t.cp.bankCtr, hubOut := t.cp.hubOut }
  reqs : t.fab.reqs = s.fab.reqs
  eng : t.eng = s.eng
  vcaches : t.cache.vcaches = s.cache.vcaches
  st : t.st.duty = s.st.duty
  parked : t.parked.map (fun r => r.st.duty) = s.parked.map (fun r => r.st.duty)
  told : ∀ h ∈ t.cp.hubOut, h ∈ s.cp.hubOut ∨ ∃ id ∈ s.coreStrands, h.rcv = some id

namespace Kept

theorem of_eq {s t : State} (hcp : t.cp = s.cp) (hfab : t.fab.reqs = s.fab.reqs) (heng : t.eng = s.eng)
    (hvc : t.cache.vcaches = s.cache.vcaches) (hst : t.st.duty = s.st.duty)
    (hparked : t.parked.map (fun r => r.st.duty) = s.parked.map (fun r => r.st.duty)) : Kept s t where
  cp := by rw [hcp]
  reqs := hfab
  eng := heng
  vcaches := hvc
  st := hst
  parked := hparked
  told h hh := .inl (hcp ▸ hh)

theorem refl (s : State) : Kept s s := of_eq rfl rfl rfl rfl rfl rfl

theorem strands {s t : State} (h : Kept s t) : t.strands.map Strand.duty = s.strands.map Strand.duty := by
  simp only [State.strands, List.map_cons, List.map_map, h.st]
  exact congrArg _ h.parked

theorem coreStrands {s t : State} (h : Kept s t) : t.coreStrands = s.coreStrands := by
  rw [coreStrands_eq, coreStrands_eq, h.strands]

theorem trans {s t u : State} (h : Kept s t) (k : Kept t u) : Kept s u where
  cp := by rw [k.cp, h.cp]
  reqs := k.reqs.trans h.reqs
  eng := k.eng.trans h.eng
  vcaches := k.vcaches.trans h.vcaches
  st := k.st.trans h.st
  parked := k.parked.trans h.parked
  told m hm := by
    obtain hm | ⟨id, hid, hr⟩ := k.told m hm
    · exact h.told m hm
    · exact .inr ⟨id, h.coreStrands ▸ hid, hr⟩

theorem foldl {α : Type} {f : State → α → State} (hf : ∀ s a, Kept s (f s a)) (l : List α) (s : State) :
    Kept s (l.foldl f s) := foldl_keeps refl trans hf l s

theorem of_linesMove {s t : State} : LinesMove s t → Kept s t := by
  rintro ⟨_, _, _, _, _, _, rfl⟩
  exact of_eq rfl rfl rfl rfl rfl rfl

theorem launches {s t : State} (h : Kept s t) : t.cp.launches = s.cp.launches := by rw [h.cp]
theorem groups {s t : State} (h : Kept s t) : t.cp.groups = s.cp.groups := by rw [h.cp]
theorem remoteIn {s t : State} (h : Kept s t) : t.cp.remoteIn = s.cp.remoteIn := by rw [h.cp]
theorem masters {s t : State} (h : Kept s t) : t.cp.masters = s.cp.masters := by rw [h.cp]
theorem place {s t : State} (h : Kept s t) : t.st.place = s.st.place := congrArg Prod.fst h.st
theorem id {s t : State} (h : Kept s t) : t.st.id = s.st.id := congrArg (·.2.1) h.st
theorem failedStores {s t : State} (h : Kept s t) : t.st.failedStores = s.st.failedStores := congrArg (·.2.2.2) h.st

/-! ## The hub -/

theorem logEntry (s : State) (v : Word) : Kept s (s.logEntry v) := by
  unfold State.logEntry
  exact of_eq rfl rfl rfl rfl rfl rfl

theorem log (s : State) (d c : Nat) : Kept s (s.log d c) := by
  refine trans (t := (s.free 1 64).1) ?_ (logEntry _ _)
  exact of_eq rfl rfl rfl rfl rfl rfl

theorem fabOut (s : State) (ep : Nat) (a : Word) (p : List Byte) : Kept s (s.fabOut ep a p) := by
  unfold State.fabOut
  split_ifs
  · exact refl s
  · split
    · exact refl s
    · exact of_eq rfl rfl rfl rfl rfl rfl

theorem tellSupervisor (s : State) (v r : Nat) : Kept s (s.tellSupervisor v r) := by
  unfold State.tellSupervisor
  dsimp only
  split_ifs
  · exact refl s
  · cases hb : s.bindTarget none ((vget s.cp.evtgt 0 v).setWidth 32) with
    | error e => exact log s 0 0
    | ok rcv =>
      cases rcv with
      | remote ep core => exact fabOut s _ _ _
      | strand id =>
        refine ⟨rfl, rfl, rfl, rfl, rfl, rfl, fun h hh => ?_⟩
        obtain hh | hh := List.mem_append.mp hh
        · exact .inl hh
        · rw [List.mem_singleton.mp hh]
          exact .inr ⟨id, mem_coreStrands_of_bindTarget hb, rfl⟩

theorem bankAdd (s : State) (v k n : Nat) : Kept s (s.bankAdd v k n) := by
  have put (ctr : Vector Word 128) : Kept s { s with cp := { s.cp with bankCtr := ctr } } :=
    ⟨rfl, rfl, rfl, rfl, rfl, rfl, fun _ h => .inl h⟩
  unfold State.bankAdd
  dsimp only
  split_ifs
  · exact put _
  · exact (put _).trans (tellSupervisor _ _ _)
  · exact put _

theorem countBank (s : State) (ev vc : Nat) (req : Option Nat) : Kept s (s.countBank ev vc req) := by
  unfold State.countBank
  split
  · exact refl s
  · refine foldl (fun s k => ?_) _ s
    split_ifs
    · exact bankAdd s _ k 1
    · exact refl s

/-! ## Stores performed -/

theorem writeSeen (s : State) (own : Bool) (l : Nat) : Kept s (s.writeSeen own l) := by
  have hparked : (s.parked.map (externalWrite l)).map (fun r => r.st.duty) = s.parked.map (fun r => r.st.duty) := by
    simp [duty_externalWrite]
  cases own with
  | true => exact of_eq rfl rfl rfl rfl rfl hparked
  | false => exact of_eq rfl rfl rfl rfl (duty_externalWrite l _) hparked

theorem mapStrand {f : Strand → Strand} (hf : ∀ a, (f a).duty = a.duty) (s : State) (id : StrandId) : Kept s (s.mapStrand id f) := by
  unfold State.mapStrand
  split_ifs
  · exact of_eq rfl rfl rfl rfl (hf s.st) rfl
  · refine of_eq rfl rfl rfl rfl rfl ?_
    rw [List.map_map]
    refine List.map_congr_left fun r _ => ?_
    rw [Function.comp_apply]
    split_ifs
    · exact hf r.st
    · rfl

theorem releaseAt (s : State) (pa : Nat) (sel : Waiter → Bool) (c : BitVec 8) (p : BitVec 32) : Kept s (s.releaseAt pa sel c p) := by
  refine trans ?_ (foldl (fun s w => mapStrand (duty_releaseWait _ _) s _) _ _)
  exact of_eq rfl rfl rfl rfl rfl rfl

theorem disturb (s : State) (l : Nat) : Kept s (s.disturb l) := by
  unfold State.disturb
  split_ifs
  · exact releaseAt s _ _ _ _
  · exact refl s

theorem perform (s : State) (own : Bool) (pa : Nat) (bs : List Byte) : Kept s (s.perform own pa bs) := by
  refine trans ?_ (foldl (fun s l => (writeSeen s own l).trans (disturb _ l)) _ (s.pokeBytes pa bs))
  exact of_eq rfl rfl rfl rfl rfl rfl

theorem clearPoison (s : State) (l : Nat) : Kept s (s.clearPoison l) := by
  unfold State.clearPoison
  dsimp only
  split_ifs <;> exact of_eq rfl rfl rfl rfl rfl rfl

theorem performWhole (s : State) (pa : Nat) (bs : List Byte) : Kept s (s.performWhole pa bs) :=
  (foldl clearPoison _ s).trans (perform _ false pa bs)

theorem applyScatter (s : State) (pa : Nat) : Kept s (s.applyScatter pa) := by
  unfold State.applyScatter
  dsimp only
  split
  · exact refl s
  · refine ((trans ?_ (countBank _ _ _ _)).trans (of_linesMove (LinesMove.recallFrom _ _ _))).trans (perform _ _ _ _)
    exact of_eq rfl rfl rfl rfl rfl rfl

theorem flushScatter (s : State) (id : StrandId) : Kept s (s.flushScatter id) := foldl (fun s (c : Scatter) => applyScatter s c.pa) _ s

theorem settleScatter (s : State) (pa n : Nat) : Kept s (s.settleScatter pa n) := foldl (fun s (c : Scatter) => applyScatter s c.pa) _ s

theorem drainOne (s : State) (b : BufStore) : Kept s (s.drainOne b) :=
  (of_linesMove (LinesMove.storePackets s _ _ _)).trans (perform _ true _ _)

theorem drainCount (s : State) (v : Bool) (k : Nat) : Kept s (s.drainCount v k) := by
  refine trans (t := s.setBuffer v ((s.buffer v).drop k)) ?_ (foldl drainOne _ _)
  cases v <;> exact of_eq rfl rfl rfl rfl rfl rfl

theorem drainOldest (s : State) (v : Bool) : Kept s (s.drainOldest v) := by
  unfold State.drainOldest
  split
  · exact refl s
  · refine (trans ?_ (drainCount _ _ _)).trans (drainCount _ _ _)
    split_ifs
    · exact flushScatter s _
    · exact refl s

theorem drainBuffer (s : State) (v : Bool) : Kept s (s.drainBuffer v) := foldl (fun s _ => drainOldest s v) _ s

theorem drainTo (s : State) (v : Bool) (f : BufStore → Bool) : Kept s (s.drainTo v f) := foldl (fun s _ => drainOldest s v) _ s

theorem drainAll (s : State) : Kept s s.drainAll := (drainBuffer s false).trans (drainBuffer _ true)

theorem release (s : State) : Kept s s.release := by
  unfold State.release
  split_ifs
  · exact refl s
  · exact (drainAll s).trans (flushScatter _ _)

theorem bankApply (s : State) (own : Bool) (vc pa n op x : Nat) : Kept s (s.bankApply own vc pa n op x) := by
  unfold State.bankApply
  split
  · exact (of_linesMove (LinesMove.atBank s _ _ _)).trans (perform _ _ _ _)
  · exact refl s

theorem combineAt (s : State) (vc pa n op x : Nat) : Kept s (s.combineAt vc pa n op x) :=
  ((((drainTo s _ _).trans (drainTo _ _ _)).trans (settleScatter _ _ _)).trans (countBank _ _ _ _)).trans (bankApply _ _ _ _ _ _ _)

/-! ## Translation by the hub (R280, R281) -/

theorem orEntry (s : State) (a : Nat) (m : Word) : Kept s (s.orEntry a m) := by
  have poke (t : State) (bs : List Byte) : Kept t (t.pokeBytes a bs) := of_eq rfl rfl rfl rfl rfl rfl
  have vers (t : State) (l : List Version) : Kept t { t with x := { t.x with vers := l } } := of_eq rfl rfl rfl rfl rfl rfl
  exact (((drainAll s).trans (poke _ _)).trans (writeSeen _ true _)).trans (vers _ _)

theorem xlateHub (s : State) (sp : Space) (k : Acc) (va : Nat) : Kept s (s.xlateHub sp k va).1 := by
  unfold State.xlateHub State.xlate
  split_ifs
  · exact refl s
  · dsimp only [Option.bind_none]
    unfold State.xlateWalk
    dsimp only
    split
    · exact refl s
    · split_ifs
      · exact refl s
      · split
        · exact refl s
        · exact refl s
      · split
        · exact orEntry s _ _
        · exact orEntry s _ _

end Kept

end Sys2Proof.Machine

/-! LAUNCH, and the submission of a launch record to the hub (03 R65, R66, R68, R75). -/

namespace Sys2Proof.Machine

/-! ## The group maps of a record (R65) -/

theorem kept_readMap (s : State) (sp : Space) (va : Nat) : Kept s (s.readMap sp va).1 := by
  have hx := Kept.xlateHub s sp .read va
  unfold State.readMap
  split
  next t x heq =>
    rw [heq] at hx
    split_ifs
    · exact hx.trans (Kept.log _ _ _)
    · exact hx.trans (Kept.log _ _ _)
    · exact hx.trans (Kept.of_linesMove (LinesMove.touch _ _ _))
  next t c heq =>
    rw [heq] at hx
    exact hx.trans (Kept.log _ _ _)

theorem kept_readMaps (s : State) (sp : Space) (va n : Nat) : Kept s (s.readMaps sp va n).1 := by
  induction n generalizing s va with
  | zero => exact Kept.refl s
  | succ n ih =>
    have hone := kept_readMap s sp va
    unfold State.readMaps
    split
    next t heq =>
      rw [heq] at hone
      exact hone
    next t m heq =>
      rw [heq] at hone
      have hrest := ih t (va + 8)
      split
      next u ms heq' =>
        rw [heq'] at hrest
        exact hone.trans hrest
      next u heq' =>
        rw [heq'] at hrest
        exact hone.trans hrest

theorem length_of_readMaps {s : State} {sp : Space} {va n : Nat} {maps : List Word} (h : (s.readMaps sp va n).2 = some maps) :
    maps.length = n := by
  induction n generalizing s va maps with
  | zero =>
    cases h
    rfl
  | succ n ih =>
    unfold State.readMaps at h
    split at h
    · cases h
    · split at h
      next u ms heq =>
        cases h
        rw [List.length_cons, ih (by rw [heq])]
      · cases h

/-! ## A fresh handle (R75) -/

/-- Of more consecutive handles than are in use, and than any handles that hold those, one is free. -/
theorem exists_free_handle {used K : List (BitVec 32)} (hK : ∀ h ∈ used, h ∈ K) (hlen : K.length + 2 ≤ 2 ^ 32) (g : BitVec 32) :
    ∃ k < used.length + 2, g + BitVec.ofNat 32 k ≠ 0 ∧ g + BitVec.ofNat 32 k ∉ used := by
  by_contra hnone
  push Not at hnone
  obtain ⟨N, hN⟩ : ∃ N, N = min (used.length + 2) (K.length + 2) := ⟨_, rfl⟩
  have hnodup : ((List.range N).map (fun k => g + BitVec.ofNat 32 k)).Nodup := by
    refine List.Nodup.map_on (fun a ha b hb hab => ?_) List.nodup_range
    have ha := List.mem_range.mp ha
    have hb := List.mem_range.mp hb
    have := congrArg BitVec.toNat (add_left_cancel hab)
    rwa [BitVec.toNat_ofNat, BitVec.toNat_ofNat, Nat.mod_eq_of_lt (by omega), Nat.mod_eq_of_lt (by omega)] at this
  have hused : (List.range N).map (fun k => g + BitVec.ofNat 32 k) ⊆ 0 :: used := by
    intro h hh
    obtain ⟨k, hk, rfl⟩ := List.mem_map.mp hh
    have hk := List.mem_range.mp hk
    by_cases h0 : g + BitVec.ofNat 32 k = 0
    · exact List.mem_cons.mpr (.inl h0)
    · exact List.mem_cons_of_mem _ (hnone k (by omega) h0)
  have h1 := (hnodup.subperm hused).length_le
  have h2 := (hnodup.subperm fun a ha => List.cons_subset_cons 0 hK (hused ha)).length_le
  simp only [List.length_map, List.length_range, List.length_cons] at h1 h2
  omega

theorem newHandle_fresh {s : State} {K : List (BitVec 32)} (hK : ∀ h ∈ s.handlesUsed, h ∈ K) (hlen : K.length + 2 ≤ 2 ^ 32) :
    s.newHandle ≠ 0 ∧ s.newHandle ∉ s.handlesUsed := by
  obtain ⟨k, hk, h0, hfree⟩ := exists_free_handle hK hlen (Config.handleGuess s.cp.handleCount)
  unfold State.newHandle
  dsimp only
  generalize hf : List.find? _ _ = found
  cases found with
  | none =>
    have := List.find?_eq_none.mp hf _ (List.mem_map.mpr ⟨k, List.mem_range.mpr hk, rfl⟩)
    exact absurd (by simpa [hfree] using this) h0
  | some h =>
    have := List.find?_some hf
    simpa using this

/-- A message to a supervisor may put the handle of a strand on a core in use, and nothing else that is kept does. -/
theorem mem_handlesUsed_of_kept {s t : State} (h : Kept s t) {a : BitVec 32} (ha : a ∈ t.handlesUsed) :
    a ∈ s.handlesUsed ++ s.coreStrands.map idHandle := by
  have hretry (u : State) : u.strands.flatMap (fun st => st.retry.flatMap (fun e => e.rcv.handles)) =
      (u.strands.map Strand.duty).flatMap (fun d => d.2.2.1.flatMap (fun e => e.rcv.handles)) := by
    rw [List.flatMap_map]
    rfl
  unfold State.handlesUsed at ha ⊢
  rw [hretry, h.strands, ← hretry, h.launches, h.remoteIn, h.eng, h.vcaches, h.reqs] at ha
  have hub : ∀ b, b ∈ t.cp.hubOut.filterMap (fun m => m.rcv.map idHandle) →
      b ∈ s.cp.hubOut.filterMap (fun m => m.rcv.map idHandle) ∨ b ∈ s.coreStrands.map idHandle := by
    intro b hb
    obtain ⟨m, hm, hmb⟩ := List.mem_filterMap.mp hb
    obtain hm | ⟨id, hid, hr⟩ := h.told m hm
    · exact .inl (List.mem_filterMap.mpr ⟨m, hm, hmb⟩)
    · rw [hr] at hmb
      cases hmb
      exact .inr (List.mem_map_of_mem hid)
  simp only [List.mem_append] at ha ⊢
  have := hub a
  tauto

theorem length_coreStrands_le (s : State) : s.coreStrands.length ≤ 64 :=
  (List.length_filterMap_le _ _).trans (by rw [List.length_range])

/-- A handle that is fresh when the group maps have been read is so among the launches there were. -/
theorem newHandle_of_kept {s t : State} (h : Kept s t) (hlen : s.handlesUsed.length < 2 ^ 31) :
    t.newHandle ≠ 0 ∧ ∀ m ∈ s.cp.launches, m.handle ≠ t.newHandle := by
  have hcore := length_coreStrands_le s
  obtain ⟨h0, hfree⟩ := newHandle_fresh (fun _ ha => mem_handlesUsed_of_kept h ha)
    (by rw [List.length_append, List.length_map]; omega)
  refine ⟨h0, fun m hm he => hfree ?_⟩
  unfold State.handlesUsed
  simp only [List.mem_append, List.mem_map]
  exact .inl (.inl (.inl (.inl (.inl (.inl (.inl ⟨m, by rwa [h.launches], he⟩))))))

/-! ## Submission (R65, R66, R68, R75) -/

theorem submit_of_disabled {s : State} {q : Submitter} (h : s.enabled q.vf = false) (bs : List Byte) :
    s.submit q bs = (s, 5, 0) := by
  simp [State.submit, h]

theorem submit_of_malformed {s : State} {q : Submitter} (h : s.enabled q.vf = true) {bs : List Byte}
    (hr : (readLaunch bs).ok = false) : s.submit q bs = (s, 2, 0) := by
  simp [State.submit, h, hr]

theorem submit_of_unread {s u : State} {q : Submitter} (h : s.enabled q.vf = true) {bs : List Byte}
    (hr : (readLaunch bs).ok = true)
    (hm : s.readMaps (launchSpace q.ptroot q.asid q.vf) (readLaunch bs).groups.toNat (readLaunch bs).ngroups = (u, none)) :
    s.submit q bs = (u, 2, 0) := by
  simp [State.submit, h, hr, hm]

/-- Fewer rings or gateway cores are in service in the function's partition than a gang needs. -/
def State.gangTooLarge (s : State) (v : Nat) (r : LaunchRec) : Bool :=
  r.gang && (decide ((s.partitionRings v).length < r.nring) || decide ((s.partitionGates v).length < r.ngate))

/-- The codes of a record whose maps are read, in their order. -/
theorem submit_of_maps {s u : State} {q : Submitter} (h : s.enabled q.vf = true) {bs : List Byte}
    (hr : (readLaunch bs).ok = true) {maps : List Word}
    (hm : s.readMaps (launchSpace q.ptroot q.asid q.vf) (readLaunch bs).groups.toNat (readLaunch bs).ngroups = (u, some maps)) :
    s.submit q bs =
      if maps.all (readLaunch bs).mapOk = false then (u, 2, 0)
      else if u.gangTooLarge q.vf (readLaunch bs) = true then (u, 3, 0)
      else if 64 ≤ u.waitingCount q.vf then (u, 1, 0)
      else if 256 < u.cp.groups.length + (readLaunch bs).ngroups then (u, 4, 0)
      else ((u.admitLaunch q (readLaunch bs) maps).1, 0, (u.admitLaunch q (readLaunch bs) maps).2) := by
  unfold State.submit
  simp only [h, hr, hm, Bool.not_true, Bool.not_eq_true', Bool.false_eq_true, if_false, State.gangTooLarge]
  rfl

theorem gangTooLarge_of_few {s : State} {v : Nat} {r : LaunchRec} (hgang : r.gang = true)
    (h : (s.partitionRings v).length < r.nring ∨ (s.partitionGates v).length < r.ngate) : s.gangTooLarge v r = true := by
  simpa [State.gangTooLarge, hgang] using h

theorem gangTooLarge_of_fits {s : State} {v : Nat} {r : LaunchRec}
    (h : r.gang = false ∨ r.nring ≤ (s.partitionRings v).length ∧ r.ngate ≤ (s.partitionGates v).length) :
    s.gangTooLarge v r = false := by
  obtain hgang | ⟨hring, hgate⟩ := h
  · simp [State.gangTooLarge, hgang]
  · simp [State.gangTooLarge, hring, hgate]

/-- The group entries of a launch: one for each of its maps, its phase 0 and no member placed (R66). -/
theorem groups_of_admitLaunch (s : State) (q : Submitter) (r : LaunchRec) (maps : List Word) :
    (s.admitLaunch q r maps).1.cp.groups.map (fun g => (g.handle, g.strands, g.map, g.phase)) =
      s.cp.groups.map (fun g => (g.handle, g.strands, g.map, g.phase)) ++
        maps.map (fun m => ((s.admitLaunch q r maps).2, m, 0, 0)) := by
  unfold State.admitLaunch
  dsimp only
  rw [List.map_append, List.map_map]
  congr 1
  refine List.ext_getElem (by simp) fun i hi _ => ?_
  simp only [List.length_map, List.length_range] at hi
  simp [hi]

theorem submissionCodes : Sys2Proof.Parts.SubmissionCodes := by
  intro s q bs r out
  refine ⟨fun h => submit_of_disabled h bs, fun h hr => submit_of_malformed h hr, fun h hr => ?_⟩
  intro read u
  have hkept : Kept s u := kept_readMaps s _ _ _
  refine ⟨hkept.launches, hkept.groups, fun hm => submit_of_unread h hr (Prod.ext rfl hm), fun maps hm => ?_⟩
  have hout : out = _ := submit_of_maps (u := u) h hr (Prod.ext rfl hm)
  clear_value u
  have hwait : u.waitingCount q.vf = s.waitingCount q.vf := by
    unfold State.waitingCount
    rw [hkept.launches]
  rw [hwait, hkept.groups] at hout
  refine ⟨fun m hmem hbad => ?_, fun hall => ?_⟩
  · rw [hout, if_pos (List.all_eq_false.mpr ⟨m, hmem, ne_true_of_eq_false hbad⟩)]
  rw [if_neg (ne_false_of_eq_true (List.all_eq_true.mpr hall))] at hout
  refine ⟨fun hgang hfew => ?_, fun hroom => ?_⟩
  · rw [hout, if_pos (gangTooLarge_of_few hgang hfew)]
  rw [if_neg (ne_true_of_eq_false (gangTooLarge_of_fits hroom))] at hout
  refine ⟨fun hfull => by rw [hout, if_pos hfull], fun hnot hgroups => ?_, fun hnot hgroups hused => ?_⟩
  · rw [hout, if_neg (Nat.not_le.mpr hnot), if_pos hgroups]
  · rw [if_neg (Nat.not_le.mpr hnot), if_neg (Nat.not_lt.mpr hgroups)] at hout
    obtain ⟨h0, hfresh⟩ := newHandle_of_kept hkept hused
    refine ⟨_, _, _, hout, h0, hfresh, congrArg (· ++ _) hkept.launches, rfl, rfl, rfl, rfl, rfl, ?_, rfl, rfl, rfl⟩
    rw [groups_of_admitLaunch, hkept.groups]

/-! ## LAUNCH (R75) -/

theorem poisonedFor_of_line {s : State} {pa : Nat} (hline : s.poisonedFor (pa / 64 * 64) = false) (h : s.poisoned pa = false) :
    s.poisonedFor pa = false := by
  have hdiv : pa / 64 * 64 / 64 = pa / 64 := by omega
  unfold State.poisonedFor at hline ⊢
  dsimp only at hline ⊢
  rw [hdiv] at hline
  split
  next b hown =>
    rw [hown] at hline
    exact hline
  next hown =>
    rw [hown] at hline
    split
    next p holder =>
      rw [holder] at hline
      exact hline
    · exact h

theorem head_mem_linesOf (pa : Nat) {n : Nat} (hn : n ≠ 0) : pa / 64 ∈ linesOf pa n := by
  unfold linesOf
  rw [if_neg hn]
  exact List.mem_map.mpr ⟨0, List.mem_range.mpr (by omega), rfl⟩

theorem core_of_master {p : Place} (h : p.master? ≠ none) : p ≠ .management ∧ p ≠ .saved := by
  constructor <;> (rintro rfl; exact h rfl)

theorem admits_core {s : State} (h : s.st.place.master? ≠ none) : s.admits {} := by
  refine ⟨by simp, Nat.zero_le _, ?_⟩
  cases hp : s.st.place <;> simp_all [Need.runsOn, Place.master?]

/-- A record at a plain address is read as a load reads it (R75). -/
theorem launchRecord_of_plain {s : State} {va : Word} {x : Xl} (h : s.Plain .read va 64 x) :
    s.launchRecord va = .ok (s.touch s.ring? x.pa, some (s.memBytes x.pa 64)) := by
  have hregion : s.regionCheck .read va 64 = .ok () := by
    simp [State.regionCheck, State.regionAt, State.inFork, h.alone.2]
  have hreach : s.reach .read va.toNat = .ok (s, .mem x) := by
    simp [State.reach, State.locate, h.maps.1, h.maps.2, (core_of_master h.core).1]
  have hsettled : s.settled false x.pa 64 = .ok () := by
    have hlines : s.hostLines false x.pa 64 = [] := h.quiet.2.1
    simp [State.settled, State.blocked, h.quiet.1, hlines]
  have hclean : s.poisonedFor x.pa = false :=
    poisonedFor_of_line (h.clean.2 _ (head_mem_linesOf x.pa (by omega))) h.clean.1
  have hlocal : x.fabric = false := by simp [Xl.fabric, h.loc]
  unfold State.launchRecord
  rw [hregion, hreach]
  simp only [bind, Except.bind, hlocal, hsettled, hclean]
  rfl

theorem submitter_of_linesMove {s t : State} : LinesMove s t → t.submitter = s.submitter := by
  rintro ⟨_, _, _, _, _, _, rfl⟩
  rfl

theorem launchCompletes : Sys2Proof.Parts.LaunchCompletes := by
  intro s d a x va u
  refine ⟨fun hcore hspec ha => ?_, fun hspec hheld hplain => ?_, fun hcore hspec => ?_⟩
  · refine ⟨s.result d (submitResult 2 0), ?_, wrote_result s d _⟩
    simp only [exec, execLaunch]
    rw [gate_admits _ _ _ (admits_core hcore), headWait_head s hspec]
    simp only [bind, Except.bind]
    rw [if_pos ha]
    rfl
  · have hcore : s.st.place.master? ≠ none := (Kept.release s).place ▸ hplain.core
    have hsub (n : Net) : ({ u.touch u.ring? x.pa with net := n } : State).submitter = u.submitter :=
      submitter_of_linesMove ((LinesMove.touch u _ _).trans ⟨_, _, _, _, _, _, rfl⟩)
    have ha : va.toNat % 64 = 0 := hplain.aligned.2
    intro r out t
    simp only [exec, execLaunch]
    rw [gate_admits _ _ _ (admits_core hcore), headWait_head s hspec]
    simp only [bind, Except.bind]
    rw [if_neg (not_not.mpr ha), hheld, launchRecord_of_plain hplain]
    simp only [check_true, hsub]
    rfl
  · simp only [exec, execLaunch]
    rw [gate_admits _ _ _ (admits_core hcore), headWait_spec s hspec]
    rfl

/-- Settles O25: the record is read as a load reads it, and each code of a submission is a branch of it; reading the group maps changes
no launch and no group, and puts no handle in use but those of strands on cores, so a handle is free. -/
theorem launchesSubmitted : Obligations.LaunchesSubmitted := ⟨launchCompletes, submissionCodes⟩

end Sys2Proof.Machine

/-! SDONE, reclaim, the expiry of a quantum, and the end of frozen strands (03 R69, R71, R72, R76, 18 R405). -/

namespace Sys2Proof.Machine

/-! ## The masters that a strand's end leaves (R66, R67, R72, R77) -/

/-- A fold of steps that each leave the masters alone leaves them alone. -/
theorem masters_foldl {α : Type} {f : State → α → State} (hf : ∀ s a, (f s a).cp.masters = s.cp.masters) (l : List α) (s : State) :
    (l.foldl f s).cp.masters = s.cp.masters :=
  foldl_keeps (R := fun s t => t.cp.masters = s.cp.masters) (fun _ => rfl) (fun h k => k.trans h) hf l s

theorem masters_hubSend (s : State) (r : Except Nat Receiver) (m : Msg) : (s.hubSend r m).cp.masters = s.cp.masters := by
  unfold State.hubSend
  split
  · exact (Kept.log s 0 0).masters
  · rfl
  · exact (Kept.fabOut s _ _ _).masters

theorem masters_mailEvent (s : State) (r : Nat) : (s.mailEvent r).cp.masters = s.cp.masters := by
  unfold State.mailEvent
  dsimp only
  split_ifs
  · exact (Kept.log _ 0 0).masters
  · rfl

theorem masters_sendEvent (s : State) (v r : Nat) : (s.sendEvent v r).cp.masters = s.cp.masters :=
  (masters_mailEvent _ r).trans (Kept.tellSupervisor s v r).masters

theorem masters_settleGroup (s : State) (g : Group) : (s.settleGroup g).cp.masters = s.cp.masters := by
  unfold State.settleGroup
  split_ifs <;> rfl

theorem masters_leaveGroups (s : State) (id : StrandId) (m : Option Nat) : (s.leaveGroups id m).cp.masters = s.cp.masters :=
  masters_foldl (fun s _ => masters_settleGroup s _) _ s

theorem masters_leaveMaster (s : State) (m : Option Nat) : (s.leaveMaster m).cp.masters = s.cp.masters := by
  cases m with
  | none => rfl
  | some k => exact (Kept.of_linesMove (LinesMove.evictAll s _)).masters

theorem masters_dropFocus (s : State) : s.dropFocus.cp.masters = s.cp.masters := by
  unfold State.dropFocus
  split <;> rfl

theorem masters_completeLaunch (s : State) (l : Launch) : (s.completeLaunch l).cp.masters = s.cp.masters := by
  unfold State.completeLaunch
  extract_lets w sp t u
  have ht : Kept s t := by
    have hx := Kept.xlateHub s sp .write l.done.toNat
    dsimp only [t]
    split
    next v x heq =>
      rw [heq] at hx
      split_ifs
      · exact hx.trans (Kept.log _ _ _)
      · exact ((hx.trans (Kept.of_linesMove (LinesMove.touch _ _ _))).trans (Kept.of_linesMove (LinesMove.agentLines _ _ _ _ _ _))).trans
          (Kept.performWhole _ _ _)
    next v c heq =>
      rw [heq] at hx
      exact hx.trans (Kept.log _ _ _)
  show u.cp.masters = s.cp.masters
  dsimp only [u]
  split_ifs
  · exact (masters_hubSend _ _ _).trans ht.masters
  · exact ht.masters

theorem masters_countEnded (s : State) (id : StrandId) (faulted : Bool) : (s.countEnded id faulted).cp.masters = s.cp.masters := by
  unfold State.countEnded
  split
  · rfl
  · exact masters_foldl masters_completeLaunch _ _

/-- The ring or gateway core of a strand that ends goes to reclaim (R72). -/
theorem endStrand_reclaims {s : State} {m : Nat} (h : s.st.place.master? = some m) (hm : m < 64) (faulted : Bool) :
    vget (s.endStrand faulted false).cp.masters .free m = .reclaiming := by
  have hkept : Kept s (s.drainAll.flushScatter s.st.id) := (Kept.drainAll s).trans (Kept.flushScatter _ _)
  have hplace : (s.drainAll.flushScatter s.st.id).st.place.master? = some m := by rw [hkept.place, h]
  unfold State.endStrand
  dsimp only
  rw [masters_countEnded, masters_dropFocus, masters_leaveMaster, hplace]
  exact vget_vset_same _ _ _ _ hm

/-! ## SDONE (R76) -/

theorem kept_abortGroup (s : State) (g : Group1) (r : BitVec 8) : Kept s (s.abortGroup g r) := by
  unfold State.abortGroup State.closureSend
  refine Kept.trans ?_ (Kept.foldl (fun s d => Kept.fabOut s _ _ _) _ _)
  exact Kept.of_eq rfl rfl rfl rfl rfl rfl

theorem kept_abortGroupsOf (s : State) (id : StrandId) : Kept s (s.abortGroupsOf id) :=
  Kept.foldl (fun s g => kept_abortGroup s g 6) _ s

theorem kept_leaveFork (s : State) : Kept s s.leaveFork := by
  unfold State.leaveFork
  split
  · exact Kept.refl s
  · refine Kept.trans ?_ (Kept.foldl (fun s c => Kept.combineAt s _ _ _ _ _) _ _)
    exact Kept.of_eq rfl rfl rfl rfl (duty_discardFrom _ true _) rfl

/-- A fabric store of the strand is not yet acknowledged. -/
theorem sysWait_of_pending {s : State} (h : ∃ q ∈ s.fab.reqs, q.owner = s.st.id ∧ q.kind = .write) : s.sysWait = .error s := by
  obtain ⟨q, hq, howner, hkind⟩ := h
  exact if_pos (List.any_eq_true.mpr ⟨q, hq, by simp [howner, hkind]⟩)

theorem sysWait_of_acked {s : State} (h : ∀ q ∈ s.fab.reqs, q.owner = s.st.id → q.kind ≠ .write) :
    s.sysWait = match s.st.failedStores with
      | va :: _ => .error (({ s with st := { s.st with failedStores := [] } } : State).trapA 0xA1 2 va)
      | [] => .ok () := by
  refine if_neg fun hany => ?_
  obtain ⟨q, hq, hboth⟩ := List.any_eq_true.mp hany
  simp only [Bool.and_eq_true, beq_iff_eq] at hboth
  exact h q hq hboth.1 hboth.2

/-- SDONE passes its gate on a core; a head's goes on to its queues. -/
theorem exec_sdone_of_head {s : State} {m : Nat} (h : s.st.place.master? = some m) (hspec : s.spec = false) :
    exec .sdone s = finish (do
      check (s.queuesEmpty && s.st.retry.isEmpty) s
      s.release.sysWait
      .ok ((s.release.leaveFork.abortGroupsOf s.release.leaveFork.st.id).endStrand false false)) := by
  have hcore : s.st.place.master? ≠ none := by simp [h]
  simp only [exec, execSdone]
  rw [gate_admits _ _ _ (admits_core hcore), headWait_head s hspec]
  rfl

theorem strandDone : Sys2Proof.Parts.StrandDone := by
  intro s m hm hm64 hspec
  have hrel : Kept s s.release := Kept.release s
  have hfork : Kept s s.release.leaveFork := hrel.trans (kept_leaveFork _)
  rw [exec_sdone_of_head hm hspec, hfork.id]
  refine ⟨fun h => ?_, fun hq hr hreqs hfail => ?_, fun hq hr hpend => ?_, fun hq hr hreqs va rest hfail => ?_⟩
  · have hbusy : (s.queuesEmpty && s.st.retry.isEmpty) = false := by
      obtain h | h := h <;> simp [h]
    rw [hbusy]
    rfl
  all_goals
    have hidle : (s.queuesEmpty && s.st.retry.isEmpty) = true := by simp [hq, hr]
    rw [hidle]
  · have hplace : (s.release.leaveFork.abortGroupsOf s.st.id).st.place = s.st.place := (hfork.trans (kept_abortGroupsOf _ _)).place
    rw [sysWait_of_acked (by rwa [hrel.reqs, hrel.id]), hrel.failedStores, hfail]
    exact ⟨_, rfl, rfl, endStrand_reclaims (by rw [hplace, hm]) hm64 false⟩
  · rw [sysWait_of_pending (by rwa [hrel.reqs, hrel.id])]
    rfl
  · rw [sysWait_of_acked (by rwa [hrel.reqs, hrel.id]), hrel.failedStores, hfail]
    rfl

/-! ## Passes and reclaim (R69, R72) -/

theorem nextFunction_of_idle {s : State} (h : ∀ level v, s.canServe level v = false) (level : Nat) : s.nextFunction level = none := by
  have hcan : (s.turnOrder level).filter (s.canServe level) = [] := List.filter_eq_nil_iff.mpr fun v _ => by simp [h]
  simp [State.nextFunction, hcan]

theorem servePass_of_idle {s : State} (h : ∀ level v, s.canServe level v = false) (level fuel : Nat) : s.servePass level fuel = s := by
  cases fuel with
  | zero => rfl
  | succ n => simp [State.servePass, nextFunction_of_idle h]

theorem passFrom_of_idle {s : State} (h : ∀ level v, s.canServe level v = false) (levels : List Nat) : s.passFrom levels = s := by
  induction levels with
  | nil => rfl
  | cons level rest ih => simp [State.passFrom, servePass_of_idle h, ih]

theorem ringReclaimDone_of_not {s : State} {m : BitVec 6} (h : s.masterState m.toNat ≠ .reclaiming) :
    exec (.ringReclaimDone m) s = .next s := if_neg h

theorem schedulingAndReclaim : Sys2Proof.Parts.SchedulingAndReclaim := by
  intro s m
  refine ⟨rfl, fun h => ?_, fun h => ⟨_, if_pos h, vget_vset_same _ _ _ _ m.isLt, fun k hk => ?_, rfl, rfl⟩, ringReclaimDone_of_not⟩
  · unfold State.schedule
    rw [passFrom_of_idle h]
    exact ⟨rfl, rfl, rfl, rfl, rfl⟩
  · exact vget_vset_ne _ _ _ _ _ (Ne.symm hk)

/-! ## Freezing ends (R405) -/

theorem masters_focusOn {s t : State} {p : Strand → Bool} (h : s.focusOn p = some t) : t.cp.masters = s.cp.masters := by
  unfold State.focusOn at h
  split_ifs at h
  · cases h
    rfl
  · split at h
    · cases h
    · cases h
      rfl

theorem focusOn_self {s : State} {p : Strand → Bool} (h : p s.st = true) : s.focusOn p = some s := if_pos h

/-- What is done to the strand of the focus is done in place. -/
theorem masters_onStrand_self {s : State} {p : Strand → Bool} (h : p s.st = true) (f : State → State) :
    (s.onStrand p f).cp.masters = (f s).cp.masters := by
  unfold State.onStrand
  dsimp only
  rw [focusOn_self h]
  dsimp only
  generalize hb : State.focusOn _ _ = back
  cases back with
  | none => rfl
  | some t => exact masters_focusOn hb

/-- Where the strand of the focus is still there, it keeps the focus. -/
theorem onStrand_self {s : State} {p : Strand → Bool} (h : p s.st = true) {f : State → State} (hid : (f s).st.id = s.st.id)
    (hplace : (f s).st.place = s.st.place) (hsaved : s.st.place ≠ .saved) : s.onStrand p f = f s := by
  unfold State.onStrand
  dsimp only
  rw [focusOn_self h]
  dsimp only
  rw [focusOn_self (by simp [hid, hplace, hsaved])]
  rfl

theorem thawStrand_reclaims {s : State} {m : Nat} (h : s.st.place.master? = some m) (hm : m < 64) (hf : s.st.phase = .frozen) :
    vget s.thawStrand.cp.masters .free m = .reclaiming := by
  have hplace : (s.abortGroupsOf s.st.id).st.place.master? = some m := by rw [(kept_abortGroupsOf s _).place, h]
  unfold State.thawStrand
  rw [if_pos hf]
  unfold State.fence
  dsimp only
  rw [masters_sendEvent]
  refine endStrand_reclaims ?_ hm true
  exact hplace

theorem unfreeze : Sys2Proof.Parts.Unfreeze := by
  intro s v
  have hexec : exec (.cpunfrz .pf v) s = .next (s.unfreeze v.toNat) := rfl
  rw [hexec]
  refine ⟨fun m hm hm64 hv => ?_, fun e he hv => ?_, fun hv => ?_⟩
  · have hself : (s.st.place.master? == some m) = true := by simp [hm]
    have hstrand : s.unfreeze v.toNat = s.onStrand (fun st => st.place.master? == some m) State.thawStrand := by
      rw [hv]
      exact if_pos hm64
    rw [hstrand]
    refine ⟨fun hf => ⟨_, rfl, ?_⟩, fun hf => congrArg _ ?_⟩
    · rw [masters_onStrand_self hself]
      exact thawStrand_reclaims hm hm64 hf
    · have hthaw : s.thawStrand = s := if_neg hf
      rw [onStrand_self hself (by rw [hthaw]) (by rw [hthaw]) (core_of_master (by simp [hm])).2, hthaw]
  · have hengine : s.unfreeze v.toNat = s.thawEngine e := by
      unfold State.unfreeze
      rw [if_neg (by omega), if_pos (by omega), hv, Nat.add_sub_cancel_left]
    rw [hengine]
    rfl
  · unfold State.unfreeze
    rw [if_neg (by omega), if_neg (by omega)]

/-! ## The expiry of a quantum (R69, R71) -/

theorem head?_level {s : State} {level v : Nat} {l : Launch} (h : s.head? level v = some l) :
    l.prio.toNat = level ∧ l.vf.toNat = v := by
  have := (List.mem_filter.mp (List.mem_of_mem_head? h)).2
  simp only [Bool.and_eq_true, beq_iff_eq] at this
  exact ⟨this.1.2, this.2⟩

theorem waited_iff {s : State} {l : Launch} : s.waited l = true ↔ ∃ t, l.waitFrom = some t ∧ t + s.cp.quant.toNat ≤ s.time := by
  unfold State.waited
  cases l.waitFrom <;> simp

theorem not_waited_iff {s : State} {l : Launch} :
    s.waited l = false ↔ l.waitFrom = none ∨ ∃ t, l.waitFrom = some t ∧ s.time < t + s.cp.quant.toNat := by
  unfold State.waited
  cases l.waitFrom <;> simp

theorem quantumExpiry_of_none {s : State} {level : BitVec 2} {v : BitVec 5} (h : s.head? level.toNat v.toNat = none) :
    exec (.quantumExpiry level v) s = .next s := by
  simp [exec, execQuantumExpiry, h]

theorem quantumExpiry_of_early {s : State} {level : BitVec 2} {v : BitVec 5} {l : Launch} (h : s.head? level.toNat v.toNat = some l)
    (hw : s.waited l = false) : exec (.quantumExpiry level v) s = .next s := by
  simp [exec, execQuantumExpiry, h, hw]

theorem quantumExpiry_of_emptied {s : State} {level : BitVec 2} {v : BitVec 5} {l : Launch} (h : s.head? level.toNat v.toNat = some l)
    (hw : s.waited l = true) (hu : s.schedule.head? level.toNat v.toNat = none) :
    exec (.quantumExpiry level v) s = .next s.schedule := by
  simp [exec, execQuantumExpiry, h, hw, hu]

/-- After the pass of an expiry, its head makes room unless it need not or may not. -/
theorem quantumExpiry_of_head {s : State} {level : BitVec 2} {v : BitVec 5} {l k : Launch} (h : s.head? level.toNat v.toNat = some l)
    (hw : s.waited l = true) (hu : s.schedule.head? level.toNat v.toNat = some k) :
    exec (.quantumExpiry level v) s =
      .next (if !s.schedule.waited k || s.schedule.suspended v.toNat || s.schedule.canPlace k then s.schedule
        else s.schedule.makeRoom k) := by
  simp [exec, execQuantumExpiry, h, hw, hu]

theorem askStop_of_running {s : State} (hrun : s.st.phase = .running) (hfork : s.st.fork = none) (due : Bool) :
    s.askStop due = { s with st := { s.st with phase := .stopping s.time due } } := by
  unfold State.askStop State.dropSpeculative
  rw [hrun, hfork]

theorem preempt_focus {s : State} (hrun : s.st.phase = .running) (hfork : s.st.fork = none) (hcore : s.st.place.master? ≠ none)
    (hgang : ∀ g, s.launch? (idHandle s.st.id) = some g → g.gang = false) (due : Bool) :
    s.preempt s.st.id due = { s with st := { s.st with phase := .stopping s.time due } } := by
  obtain ⟨hmgmt, hsaved⟩ := core_of_master hcore
  have hstop := askStop_of_running hrun hfork due
  have hasked : s.onStrand (isStrandOf s.st.id) (fun s => s.askStop due) = s.askStop due :=
    onStrand_self (by simp [isStrandOf, hmgmt]) (by rw [hstop]) (by rw [hstop]) hsaved
  unfold State.preempt
  dsimp only
  rw [hasked, hstop]
  cases hl : s.launch? (idHandle s.st.id) with
  | none => rfl
  | some g => exact if_neg (by simp [hgang g hl])

/-- The strand of ring 0 as what can be pre-empted. -/
def Strand.victimOnRing0 (a : Strand) : Victim :=
  { rank := a.runPrio.toNat, started := a.startedAt, ids := [a.id], masters := [0] }

/-- A strand that runs on ring 0 with only the management core beside it, and is of no gang, is all that can be pre-empted. -/
theorem victims_of_alone {s : State} (hplace : s.st.place = .ring 0) (hrun : s.st.phase = .running)
    (hstart : s.st.startedAt ≤ s.time) (hgang : ∀ g, s.launch? (idHandle s.st.id) = some g → g.gang = false)
    (hparked : ∀ r ∈ s.parked, r.st.place = .management) : s.victims = [s.st.victimOnRing0] := by
  have hrest : (s.parked.map (·.st)).filter (fun st => st.place != .management && st.place != .saved && st.phase == .running) = [] := by
    refine List.filter_eq_nil_iff.mpr fun st hst => ?_
    obtain ⟨r, hr, rfl⟩ := List.mem_map.mp hst
    simp [hparked r hr]
  have hruns : s.strands.filter (fun st => st.place != .management && st.place != .saved && st.phase == .running) = [s.st] := by
    rw [State.strands, List.filter_cons_of_pos (by simp [hplace, hrun]), hrest]
  have hrank : min 3 s.st.runPrio.toNat = s.st.runPrio.toNat := by
    have := s.st.runPrio.isLt
    omega
  unfold State.victims
  dsimp only
  rw [hruns]
  cases hl : s.launch? (idHandle s.st.id) with
  | none => simp [hl, hplace, hrank, hstart, Strand.victimOnRing0, Place.master?]
  | some g => simp [hl, hgang g hl, hplace, hrank, hstart, Strand.victimOnRing0, Place.master?]

/-- One ring is needed and the victim has it. -/
theorem takeVictims_ring0 {inPart : Nat → Bool} (h : inPart 0 = true) (needG : Nat) (a : Strand) :
    takeVictims inPart 1 needG [a.victimOnRing0] = [a.victimOnRing0] := by
  simp [takeVictims, Strand.victimOnRing0, h]

theorem makeRoom_of_one {s : State} {k : Launch} (hres : k.toResume = []) (htoPlace : k.toPlace = [0]) (hring : 0 < k.nring)
    (hcoming : s.coming k false = 0) (hpart : (vget s.cp.parta 0 k.vf.toNat).getLsbD 0 = true)
    (hprio : k.prio.toNat < s.st.runPrio.toNat) (hvictims : s.victims = [s.st.victimOnRing0]) :
    s.makeRoom k = s.preempt s.st.id false := by
  have hneed : (k.pending.filter (fun i => !k.isGate i)).length - s.coming k false = 1 := by
    simp [Launch.pending, hres, htoPlace, Launch.isGate, hring.ne', hcoming]
  have hrank : s.st.victimOnRing0.rank = s.st.runPrio.toNat := rfl
  unfold State.makeRoom
  dsimp only
  rw [hneed, hvictims, List.filter_cons_of_pos (by simp [hrank, hprio]), List.filter_nil, List.foldr_cons, List.foldr_nil,
    insertVictim, takeVictims_ring0 hpart]
  rfl

theorem quantumExpiry : Sys2Proof.Parts.QuantumExpiry := by
  intro s level v u
  refine ⟨quantumExpiry_of_none, fun l hl hw => quantumExpiry_of_early hl (not_waited_iff.mpr hw), fun l since hl hsince hlate => ?_⟩
  have hw : s.waited l = true := waited_iff.mpr ⟨since, hsince, hlate⟩
  refine ⟨quantumExpiry_of_emptied hl hw, fun k hk => ?_⟩
  obtain ⟨hlevel, hvf⟩ := head?_level hk
  rw [quantumExpiry_of_head hl hw hk]
  constructor
  · intro hstay
    refine congrArg _ (if_pos ?_)
    have hwhy : s.schedule.waited k = false ∨ s.schedule.canPlace k = true ∨ s.schedule.suspended v.toNat = true := by
      obtain h | h | h := hstay
      · exact .inl (not_waited_iff.mpr (.inl h))
      · exact .inl (not_waited_iff.mpr (.inr h))
      · exact .inr h
    obtain h | h | h := hwhy <;> simp [h]
  · intro from_ hfrom hlate' hcan hsusp _ hres htoPlace hring hcoming hplace hpart hrun hfork hprio hstart hgang hparked
    have hwaited : s.schedule.waited k = true := waited_iff.mpr ⟨from_, hfrom, hlate'⟩
    rw [if_neg (by simp [hwaited, u, hsusp, hcan])]
    refine congrArg _ ?_
    rw [makeRoom_of_one hres htoPlace hring hcoming (hvf ▸ hpart) (hlevel ▸ hprio) (victims_of_alone hplace hrun hstart hgang hparked)]
    exact preempt_focus hrun hfork (by rw [hplace]; exact Option.some_ne_none 0) hgang false

/-- Settles O26: what SDONE performs before the end leaves the strand on its core, which goes to reclaim; a pass with no launch to serve
takes no turn; the one victim beside a head that cannot be placed is asked to stop. -/
theorem strandsEnd : Obligations.StrandsEnd := ⟨strandDone, schedulingAndReclaim, quantumExpiry, unfreeze⟩

end Sys2Proof.Machine

/-! What the scalar register instructions write (04 R82 to R85): the model's words and counts in terms of the bit vector operations,
and the instructions that write them. -/

namespace Sys2Proof.Machine

/-! ## Shifts, products and quotients as operations on bit vectors -/

theorem sraWord_eq_sshiftRight (x : Word) (n : Nat) : sraWord x n = x.sshiftRight n := by
  have hpow : (0 : Int) ≤ 2 ^ n := by positivity
  rw [sraWord, toWord, Int.fdiv_eq_ediv_of_nonneg _ hpow, BitVec.sshiftRight, Int.shiftRight_eq_div_pow]
  norm_cast

theorem rotrWord_eq_rotateRight (x : Word) {n : Nat} (h : n < 64) : rotrWord x n = x.rotateRight n := by
  rw [rotrWord, BitVec.rotateRight_def, Nat.mod_eq_of_lt h]

theorem toWord_high_eq_extract (x y : Word) :
    toWord ((x.toInt * y.toInt).fdiv (2 ^ 64)) = (x.signExtend 128 * y.signExtend 128).extractLsb' 64 64 := by
  rw [BitVec.signExtend, BitVec.signExtend, ← BitVec.ofInt_mul, Int.fdiv_eq_ediv_of_nonneg _ (by norm_num)]
  generalize x.toInt * y.toInt = p
  apply BitVec.eq_of_toNat_eq
  rw [BitVec.extractLsb'_toNat, Nat.shiftRight_eq_div_pow, toWord, BitVec.toNat_ofInt, BitVec.toNat_ofInt]
  norm_num
  omega

theorem ofNat_high_eq_extract (x y : Word) :
    BitVec.ofNat 64 (x.toNat * y.toNat / 2 ^ 64) = (x.setWidth 128 * y.setWidth 128).extractLsb' 64 64 := by
  have hlt : x.toNat * y.toNat < 2 ^ 128 := by
    have := Nat.mul_lt_mul'' x.isLt y.isLt
    omega
  apply BitVec.eq_of_toNat_eq
  rw [BitVec.extractLsb'_toNat, BitVec.toNat_mul, BitVec.toNat_setWidth_of_le (by omega), BitVec.toNat_setWidth_of_le (by omega),
    Nat.mod_eq_of_lt hlt, Nat.shiftRight_eq_div_pow, BitVec.toNat_ofNat]

/-- The quotient of two words is that of their signed values, truncated toward zero (R83). -/
theorem sdiv_eq_toWord (x y : Word) : x.sdiv y = toWord (x.toInt.tdiv y.toInt) :=
  BitVec.eq_of_toInt_eq (by rw [BitVec.toInt_sdiv, toWord, BitVec.toInt_ofInt])

theorem srem_eq_toWord (x y : Word) : x.srem y = toWord (x.toInt.tmod y.toInt) := by
  rw [toWord, ← BitVec.toInt_srem, BitVec.ofInt_toInt]

theorem divWord_eq_sdiv (x y : Word) : divWord x y = if y = 0 then BitVec.allOnes 64 else x.sdiv y := by
  unfold divWord
  rw [sdiv_eq_toWord]
  split_ifs with h0 hmin
  · rfl
  · rw [hmin.1, hmin.2]; decide
  · rfl

theorem remWord_eq_srem (x y : Word) : remWord x y = x.srem y := by
  unfold remWord
  split_ifs with h0 hmin
  · rw [h0]; exact BitVec.srem_zero.symm
  · rw [srem_eq_toWord, hmin.1, hmin.2]; decide
  · rw [srem_eq_toWord, Int.tmod_def, Int.mul_comm]

theorem divnWord_eq_div (x y : Word) : divnWord x y = if y = 0 then BitVec.allOnes 64 else x / y := by
  unfold divnWord
  split_ifs
  · rfl
  · rw [← BitVec.toNat_udiv, BitVec.ofNat_toNat, BitVec.setWidth_eq]

theorem remnWord_eq_mod (x y : Word) : remnWord x y = x % y := by
  unfold remnWord
  split_ifs with h0
  · rw [h0]; exact BitVec.umod_zero.symm
  · rw [← BitVec.toNat_umod, BitVec.ofNat_toNat, BitVec.setWidth_eq]

/-! ## Counts of bits and the order of bytes -/

theorem clzFrom_le (x : Word) (n : Nat) : clzFrom x n ≤ n := by
  induction n with
  | zero => exact Nat.le_refl 0
  | succ n ih => rw [clzFrom]; split <;> omega

/-- The bits counted are zero, and the next one down is not. -/
theorem clzFrom_spec (x : Word) (n : Nat) :
    (∀ i, n - clzFrom x n ≤ i → i < n → x.getLsbD i = false) ∧ (clzFrom x n < n → x.getLsbD (n - 1 - clzFrom x n) = true) := by
  induction n with
  | zero => exact ⟨fun i _ h => absurd h (by omega), fun h => absurd h (by omega)⟩
  | succ n ih =>
    obtain ⟨hzero, hone⟩ := ih
    rw [clzFrom]
    split_ifs with htop
    · exact ⟨fun i _ _ => absurd htop (by omega), fun _ => htop⟩
    · refine ⟨fun i hlo hi => ?_, fun h => ?_⟩
      · obtain rfl | hne := eq_or_ne i n
        · exact Bool.eq_false_iff.mpr htop
        · exact hzero i (by omega) (by omega)
      · rw [show n + 1 - 1 - (1 + clzFrom x n) = n - 1 - clzFrom x n by omega]
        exact hone (by omega)

theorem ctzFrom_le (x : Word) (n : Nat) : ctzFrom x n ≤ n := by
  induction n with
  | zero => exact Nat.le_refl 0
  | succ n ih => rw [ctzFrom]; split <;> omega

/-- The bits counted, from bit 64 − n upward, are zero, and the next one up is not. -/
theorem ctzFrom_spec (x : Word) (n : Nat) (hn : n ≤ 64) :
    (∀ i, 64 - n ≤ i → i < 64 - n + ctzFrom x n → x.getLsbD i = false) ∧
      (ctzFrom x n < n → x.getLsbD (64 - n + ctzFrom x n) = true) := by
  induction n with
  | zero => exact ⟨fun i hlo hhi => absurd hhi (by rw [ctzFrom]; omega), fun h => absurd h (by omega)⟩
  | succ n ih =>
    obtain ⟨hzero, hone⟩ := ih (by omega)
    rw [ctzFrom, show 64 - (n + 1) = 63 - n by omega]
    split_ifs with hlow
    · exact ⟨fun i _ _ => absurd hlow (by omega), fun _ => hlow⟩
    · refine ⟨fun i hlo hi => ?_, fun h => ?_⟩
      · obtain rfl | hne := eq_or_ne i (63 - n)
        · exact Bool.eq_false_iff.mpr hlow
        · exact hzero i (by omega) (by omega)
      · rw [show 63 - n + (1 + ctzFrom x n) = 64 - n + ctzFrom x n by omega]
        exact hone (by omega)

theorem popcBelow_eq_countP (x : Word) (n : Nat) : popcBelow x n = (List.range n).countP (fun i => x.getLsbD i) := by
  induction n with
  | zero => rfl
  | succ n ih =>
    rw [popcBelow, ih, List.range_succ, List.countP_append, List.countP_singleton]
    exact Nat.add_comm _ _

/-- Byte j of a list of bytes as a number. -/
theorem ofNat_leNat_div (bs : List Byte) (j : Nat) : BitVec.ofNat 8 (leNat bs / 256 ^ j) = bs.getD j 0 := by
  induction bs generalizing j with
  | nil => simp [leNat]
  | cons b bs ih =>
    cases j with
    | zero => exact BitVec.eq_of_toNat_eq (by simp [leNat]; omega)
    | succ j =>
      rw [leNat, Nat.pow_succ', ← Nat.div_div_eq_div_mul, show (b.toNat + 256 * leNat bs) / 256 = leNat bs by omega, ih]
      rfl

theorem extract_byte_eq (x : Word) (j : Nat) : x.extractLsb' (8 * j) 8 = BitVec.ofNat 8 (x.toNat / 256 ^ j) := by
  rw [BitVec.extractLsb', Nat.shiftRight_eq_div_pow, Nat.pow_mul]

theorem extract_byte_bswapWord (x : Word) {j : Nat} (hj : j < 8) :
    (bswapWord x).extractLsb' (8 * j) 8 = x.extractLsb' (56 - 8 * j) 8 := by
  have hlen : (leBytes 8 x.toNat).reverse.length = 8 := by rw [List.length_reverse, length_leBytes]
  have hlt : leNat (leBytes 8 x.toNat).reverse < 2 ^ 64 := by
    have := leNat_lt (leBytes 8 x.toNat).reverse
    rw [hlen] at this
    omega
  rw [extract_byte_eq, bswapWord, BitVec.toNat_ofNat, Nat.mod_eq_of_lt hlt, ofNat_leNat_div,
    List.getD_eq_getElem _ _ (by omega), List.getElem_reverse, leBytes_getElem, length_leBytes,
    show 56 - 8 * j = 8 * (8 - 1 - j) by omega, extract_byte_eq]

/-! ## Extensions and inserted fields -/

/-- The sign extension of the low k bits (R10). -/
theorem toWord_sextN (m : Nat) {k : Nat} (hk : 0 < k) : toWord (sextN m k) = (BitVec.ofNat k m).signExtend 64 := by
  have hpow : 2 ^ k = 2 * 2 ^ (k - 1) := by rw [← Nat.pow_succ']; congr 1; omega
  rw [BitVec.signExtend, BitVec.toInt_eq_toNat_cond, BitVec.toNat_ofNat, toWord, sextN]
  congr 1
  split_ifs with h1 h2 h3
  · rfl
  · omega
  · omega
  · norm_cast

theorem ofNat_zextN (x : Word) (k : Nat) : BitVec.ofNat 64 (zextN x.toNat k) = (x.setWidth k).setWidth 64 :=
  BitVec.eq_of_toNat_eq (by simp [zextN])

theorem ofNat_mul_two_pow {w : Nat} (m k : Nat) : BitVec.ofNat w (m * 2 ^ k) = BitVec.ofNat w m <<< k := by
  apply BitVec.eq_of_toNat_eq
  simp [Nat.shiftLeft_eq]

theorem putBits_16 (x : Word) (l : Nat) (i : BitVec 16) :
    putBits x l 16 i.toNat = (x &&& ~~~((0xFFFF : Word) <<< l)) ||| (i.setWidth 64 <<< l) := by
  rw [putBits, ofNat_mul_two_pow, ofNat_mul_two_pow, Nat.mod_eq_of_lt i.isLt, BitVec.ofNat_toNat]
  rfl

/-! ## Instructions with a plain result -/

/-- Two spellings of the value that an instruction writes. -/
theorem alu_congr {v v' : Word} (h : v = v') {i : Instr} {d : BitVec 5} {s : State} : alu i d v s = alu i d v' s := by rw [h]

/-- What each of the listed instructions computes is all that it does. -/
theorem wrote_of_alu {s : State} (hs : s.st.place ≠ .saved) {d : BitVec 5} {l : List (Instr × Word)}
    (h : ∀ p ∈ l, exec p.1 s = alu p.1 d p.2 s) : ∀ p ∈ l, ∃ t, exec p.1 s = .next t ∧ s.Wrote t d p.2 (s.x.pc + 4) := by
  intro p hp
  rw [h p hp]
  exact alu_spec p.1 d p.2 s hs

theorem scalarLogicAndShift : Sys2Proof.Parts.ScalarLogicAndShift := by
  intro s d a b hs x y n
  have hn : n < 64 := Nat.mod_lt _ (by decide)
  refine wrote_of_alu hs ?_
  simp only [List.forall_mem_cons, List.not_mem_nil, false_implies, implies_true, and_true]
  exact ⟨rfl, rfl, rfl, rfl, rfl, rfl, rfl, rfl, alu_congr (sraWord_eq_sshiftRight x n),
    alu_congr (rotrWord_eq_rotateRight x hn)⟩

theorem boolWord_decide (p : Prop) [Decidable p] : boolWord (decide p) = if p then 1 else 0 := by simp [boolWord]

/-- The comparisons of bit vectors are those of the model, on signed and on natural values. -/
theorem scalarCompare : Sys2Proof.Parts.ScalarCompare := by
  intro s d a b hs x y
  refine wrote_of_alu hs ?_
  simp only [List.forall_mem_cons, List.not_mem_nil, false_implies, implies_true, and_true, BitVec.slt, decide_eq_true_eq]
  exact ⟨rfl, rfl, rfl, rfl, alu_congr (boolWord_decide _), alu_congr (boolWord_decide _)⟩

/-- Settles O1: each instruction writes what it computes and nothing else, and what it computes is the operation on bit vectors. -/
theorem scalarLogicShiftAndCompare : Obligations.ScalarLogicShiftAndCompare := ⟨scalarLogicAndShift, scalarCompare⟩

/-- Settles O2: the model's quotients, remainders and high products are those of bit vectors, the corners among them. -/
theorem scalarMultiplyDivide : Obligations.ScalarMultiplyDivide := by
  intro s d a b hs x y
  refine wrote_of_alu hs ?_
  simp only [List.forall_mem_cons, List.not_mem_nil, false_implies, implies_true, and_true]
  exact ⟨rfl, alu_congr (toWord_high_eq_extract x y), alu_congr (ofNat_high_eq_extract x y),
    alu_congr (divWord_eq_sdiv x y), alu_congr (divnWord_eq_div x y), alu_congr (remWord_eq_srem x y),
    alu_congr (remnWord_eq_mod x y)⟩

theorem scalarBitCount : Sys2Proof.Parts.ScalarBitCount := by
  intro s d a hs x
  have writes (i : Instr) (v : Word) (h : exec i s = alu i d v s) : ∃ t, exec i s = .next t ∧ s.Wrote t d v (s.x.pc + 4) :=
    h ▸ alu_spec i d v s hs
  refine ⟨?_, ?_, ?_, ?_⟩
  · obtain ⟨t, ht, hw⟩ := writes (.clz d a) _ rfl
    obtain ⟨hzero, hone⟩ := clzFrom_spec x 64
    exact ⟨t, clzFrom x 64, ht, hw, clzFrom_le x 64, hzero, hone⟩
  · obtain ⟨t, ht, hw⟩ := writes (.ctz d a) _ rfl
    obtain ⟨hzero, hone⟩ := ctzFrom_spec x 64 (Nat.le_refl 64)
    exact ⟨t, ctzFrom x 64, ht, hw, ctzFrom_le x 64, fun i hi => hzero i (by omega) (by omega), fun h => by simpa using hone h⟩
  · exact writes (.popc d a) _ (alu_congr (congrArg _ (popcBelow_eq_countP x 64)))
  · obtain ⟨t, ht, hw⟩ := writes (.bswap d a) _ rfl
    exact ⟨t, bswapWord x, ht, hw, fun j hj => extract_byte_bswapWord x hj⟩

theorem toWord_sextN_eq_signExtend (x : Word) {k : Nat} (hk : 0 < k) : toWord (sextN x.toNat k) = (x.setWidth k).signExtend 64 := by
  rw [toWord_sextN _ hk, BitVec.ofNat_toNat]

theorem scalarImmediate : Sys2Proof.Parts.ScalarImmediate := by
  intro s d a i l n hs x m
  refine wrote_of_alu hs ?_
  simp only [List.forall_mem_cons, List.not_mem_nil, false_implies, implies_true, and_true, BitVec.slt, decide_eq_true_eq]
  have sext (k : Nat) (hk : 0 < k) := toWord_sextN_eq_signExtend x hk
  exact ⟨rfl, rfl, rfl, rfl, alu_congr (boolWord_decide _), alu_congr (boolWord_decide _), rfl, rfl,
    alu_congr (putBits_16 _ _ i), rfl, rfl, alu_congr (sraWord_eq_sshiftRight x _),
    alu_congr (rotrWord_eq_rotateRight x n.isLt),
    alu_congr (sext 8 (by decide)), alu_congr (sext 16 (by decide)), alu_congr (sext 32 (by decide)),
    alu_congr (ofNat_zextN x 8), alu_congr (ofNat_zextN x 16), alu_congr (ofNat_zextN x 32)⟩

/-- Settles O3: the counts are found by induction over the bits, a byte of the swapped word is a byte of the reversed list, and the
immediate operations compute the operations on bit vectors. -/
theorem scalarCountsAndImmediates : Obligations.ScalarCountsAndImmediates := ⟨scalarBitCount, scalarImmediate⟩

/-! ## Branches, calls and jumps -/

/-- A branch target: four times the offset (R90). -/
theorem shiftLeft_two_eq (o : BitVec 54) : o <<< 2 = 4 * o := by
  rw [BitVec.shiftLeft_eq_mul_twoPow, BitVec.mul_comm]; rfl

/-- A jump writes no register. -/
theorem wrote_of_goto (s : State) (pc : BitVec 54) : s.Wrote (s.goto pc) 0 0 pc := by
  have h := wrote_goto s 0 0 pc
  rwa [setS_zero] at h

theorem branch_spec {s : State} (hs : s.st.place ≠ .saved) (i : Instr) (c : Cond) (b a : BitVec 5) (o : BitVec 13) :
    ∃ t, branch i c b a o s = .next t ∧
      s.Wrote t 0 0 (if c.holds (s.getS a) (s.getS b) then s.x.pc + 4 * o.signExtend 54 else s.x.pc + 4) := by
  refine ⟨_, by rw [branch, gate_admits _ _ _ (admits_any s hs)]; rfl, ?_⟩
  split
  · rw [← shiftLeft_two_eq]
    exact wrote_of_goto s _
  · exact wrote_of_goto s _

theorem holds_ge (x y : Word) : Cond.ge.holds x y = !x.slt y := by simp [Cond.holds, BitVec.slt, ← decide_not]

theorem holds_gen (x y : Word) : Cond.gen.holds x y = !x.ult y := by simp [Cond.holds, BitVec.ult, ← decide_not]

/-- Settles O4: a branch goes where its condition says, and the conditions are the comparisons of bit vectors. -/
theorem branchTarget : Obligations.BranchTarget := by
  intro s b a o hs x y
  simp only [List.forall_mem_cons, List.not_mem_nil, false_implies, implies_true, and_true, ← holds_ge, ← holds_gen]
  exact ⟨branch_spec hs _ .eq b a o, branch_spec hs _ .ne b a o, branch_spec hs _ .lt b a o, branch_spec hs _ .ge b a o,
    branch_spec hs _ .ltn b a o, branch_spec hs _ .gen b a o⟩

/-- A legal target passes, any other traps (R92). -/
theorem targetCheck_eq (s : State) (t : Word) :
    s.targetCheck t = if t.toNat % 4 = 0 ∧ t.toNat < 2 ^ 54 then .ok () else .error (s.trapS 0x04 t) := by
  have hlow : bits t 0 2 = t.toNat % 4 := bits_lowest t 2
  have hhigh : bits t 54 10 = 0 ↔ t.toNat < 2 ^ 54 := by
    have := t.isLt
    rw [bits, nbits]
    omega
  rw [State.targetCheck, check]
  simp only [Bool.and_eq_true, beq_iff_eq, hlow, hhigh]

/-- Settles O5: the check of the target comes before the link is written. -/
theorem callAndJump : Obligations.CallAndJump := by
  intro s d a o hs x link
  have passes (i : Instr) := gate_admits i _ _ (admits_any s hs)
  refine ⟨?_, fun h4 hlt => ?_, fun hbad => ?_⟩
  · refine ⟨_, by simp only [exec, execCall, passes]; rfl, ?_⟩
    rw [shiftLeft_two_eq]
    exact wrote_goto s d link _
  · have hok : s.targetCheck x = .ok () := (targetCheck_eq s x).trans (if_pos ⟨h4, hlt⟩)
    refine ⟨⟨_, ?_, wrote_goto s d link _⟩, ⟨_, ?_, wrote_of_goto s _⟩⟩
    · simp only [exec, execCallr, passes]
      exact congrArg (fun m => finish (m >>= fun _ => _)) hok
    · simp only [exec, execJmpr, passes]
      exact congrArg (fun m => finish (m >>= fun _ => _)) hok
  · have hbad : s.targetCheck x = .error (s.trapS 0x04 x) := (targetCheck_eq s x).trans (if_neg hbad)
    simp only [List.forall_mem_cons, List.not_mem_nil, false_implies, implies_true, and_true]
    refine ⟨?_, ?_⟩
    · simp only [exec, execCallr, passes]
      exact finish_bind_of_error hbad _
    · simp only [exec, execJmpr, passes]
      exact finish_bind_of_error hbad _

end Sys2Proof.Machine

/-! What SGET, SSET and SXCH read and store in the status registers that their level may reach (02 R45, R46, 04 R94 to R97). -/

namespace Sys2Proof.Machine

/-! ## Reads (R94) -/

/-- R45 lets the level read the register. -/
def readable (n lvl : Nat) : Bool :=
  match statusAccess n lvl with
  | some .ro => true
  | some .rw => true
  | _ => false

theorem readable_user (lvl : Nat) : ∀ n ∈ [1, 2, 3, 0x10, 0x11, 0x12, 0x13, 0x14, 0x15, 0x20, 0x21, 0x30, 0x31, 0x32, 0x33, 0x34, 0x40,
    0x200, 0x201, 0x202, 0x203], readable n lvl = true := by
  by_cases h0 : lvl = 0
  · simp [readable, statusAccess, h0]
  · by_cases h3 : lvl = 3
    · simp [readable, statusAccess, h3]
    · simp [readable, statusAccess, h0, h3]

theorem readable_supervisor {n lvl : Nat} (hlvl : 1 ≤ lvl) (h : 0x100 ≤ n ∧ n ≤ 0x108 ∨ n = 0x110 ∨ n = 0x111) :
    readable n lvl = true := by
  rw [readable, statusAccess_supervisor lvl h, if_neg (by omega)]

theorem readable_machine {n lvl : Nat} (hlvl : lvl = 3) (h : 0x300 ≤ n ∧ n ≤ 0x30F) : readable n lvl = true := by
  rw [readable, statusAccess_machine lvl h, if_pos hlvl]

theorem statusCheck_of_readable {s : State} {n : Nat} (h : readable n s.lvl = true) (i : Instr) :
    statusCheck i n false s = .ok () := by
  unfold readable at h
  split at h
  next hacc => simp [statusCheck, hacc]
  next hacc => simp [statusCheck, hacc]
  · cases h

theorem exec_sget {s : State} (hs : s.st.place ≠ .saved) {n : BitVec 11} (h : readable n.toNat s.lvl = true) (d : BitVec 5) :
    exec (.sget d n) s = .next (s.result d (s.readStatus n.toNat)) := by
  simp only [exec, execSget, gate_admits _ _ _ (admits_any s hs), statusCheck_of_readable h]
  rfl

/-- Registers that the level may read are read, each as listed. -/
theorem status_reads {s : State} (hs : s.st.place ≠ .saved) (d : BitVec 5) {l : List (BitVec 11 × Word)}
    (hr : ∀ p ∈ l, readable p.1.toNat s.lvl = true) (hv : ∀ p ∈ l, s.readStatus p.1.toNat = p.2) :
    ∀ p ∈ l, ∃ t, exec (.sget d p.1) s = .next t ∧ s.Wrote t d p.2 (s.x.pc + 4) := fun p hp =>
  ⟨_, exec_sget hs (hr p hp) d, hv p hp ▸ wrote_result s d _⟩

theorem statusRead : Sys2Proof.Parts.StatusRead := by
  intro s d hs reads
  refine ⟨status_reads hs d ?_ ?_, fun hsup => status_reads hs d ?_ ?_, fun hmach => status_reads hs d ?_ ?_⟩
  all_goals simp only [List.forall_mem_cons, List.not_mem_nil, false_implies, implies_true, and_true]
  · and_intros <;> exact readable_user _ _ (by decide)
  · and_intros <;> rfl
  · and_intros <;> exact readable_supervisor hsup (by decide)
  · and_intros <;> rfl
  · and_intros <;> exact readable_machine hmach (by decide)
  · and_intros <;> rfl

/-! ## Writes (R95, R97) -/

theorem writeWait_of_head {s : State} (h : s.spec = false) (n : Nat) : s.writeWait n = .ok () := by
  unfold State.writeWait
  split
  · exact headWait_head s h
  · rfl

/-- The focus may write the register now: its level has it as RW, and a privileged write is of the head. -/
structure State.MayWrite (s : State) (n : Nat) : Prop where
  access : statusAccess n s.lvl = some .rw
  wait : s.writeWait n = .ok ()

/-- A register that user level may write needs no head chunk (R97). -/
theorem mayWrite_user {s : State} {n : Nat} (h : n ∈ [3, 0x20, 0x21]) : s.MayWrite n := by
  simp only [List.mem_cons, List.not_mem_nil, or_false] at h
  obtain rfl | rfl | rfl := h <;> exact ⟨rfl, rfl⟩

theorem mayWrite_supervisor {s : State} (hlvl : 1 ≤ s.lvl) (hspec : s.spec = false) {n : Nat}
    (h : (n = 1 ∨ n = 2) ∨ 0x100 ≤ n ∧ n ≤ 0x108 ∨ n = 0x110 ∨ n = 0x111) : s.MayWrite n := by
  refine ⟨?_, writeWait_of_head hspec n⟩
  obtain h | h := h
  · rw [statusAccess, if_pos h, if_neg (by omega)]
  · rw [statusAccess_supervisor _ h, if_neg (by omega)]

theorem mayWrite_machine {s : State} (hlvl : s.lvl = 3) (hspec : s.spec = false) {n : Nat}
    (h : 0x10 ≤ n ∧ n ≤ 0x15 ∨ 0x300 ≤ n ∧ n ≤ 0x30F) : s.MayWrite n := by
  refine ⟨?_, writeWait_of_head hspec n⟩
  obtain h | h := h
  · unfold statusAccess
    dsimp only
    rw [if_neg (by omega), if_neg (by omega), if_pos h, if_pos hlvl]
  · rw [statusAccess_machine _ h, if_pos hlvl]

theorem statusCheck_of_mayWrite {s : State} {n : Nat} (h : s.MayWrite n) (i : Instr) : statusCheck i n true s = .ok () := by
  simp [statusCheck, h.access]

theorem exec_sset {s : State} (hs : s.st.place ≠ .saved) {n : BitVec 11} (h : s.MayWrite n.toNat) (a : BitVec 5) :
    exec (.sset a n) s = .next (s.writeStatus n.toNat (s.getS a)).advance := by
  simp only [exec, execSset, gate_admits _ _ _ (admits_any s hs), statusCheck_of_mayWrite h, h.wait]
  rfl

theorem exec_sxch {s : State} (hs : s.st.place ≠ .saved) {n : BitVec 11} (h : s.MayWrite n.toNat) (d a : BitVec 5) :
    exec (.sxch d a n) s = .next ((s.writeStatus n.toNat (s.getS a)).result d (s.readStatus n.toNat)) := by
  simp only [exec, execSxch, gate_admits _ _ _ (admits_any s hs), statusCheck_of_mayWrite h, h.wait]
  rfl

theorem writeMgmt_x_pc (s : State) (n : Nat) (v : Word) : (s.writeMgmt n v).x.pc = s.x.pc := by
  unfold State.writeMgmt
  split
  case h_2 =>
    unfold State.writeMgalrt
    dsimp only
    split <;> rfl
  all_goals rfl

theorem writeStatus_x_pc (s : State) (n : Nat) (v : Word) : (s.writeStatus n v).x.pc = s.x.pc := by
  unfold State.writeStatus
  dsimp only
  split
  any_goals rfl
  exact writeMgmt_x_pc s _ v

/-- Registers that the focus may write are written, each as listed, and SXCH returns what they held. -/
theorem status_writes {s : State} (hs : s.st.place ≠ .saved) (d a : BitVec 5) {l : List (BitVec 11 × Word × State)}
    (hw : ∀ p ∈ l, s.MayWrite p.1.toNat) (hold : ∀ p ∈ l, s.readStatus p.1.toNat = p.2.1)
    (hnew : ∀ p ∈ l, s.writeStatus p.1.toNat (s.getS a) = p.2.2) :
    ∀ p ∈ l, (∃ t, exec (.sset a p.1) s = .next t ∧ p.2.2.Wrote t 0 0 (s.x.pc + 4)) ∧
      (∃ t, exec (.sxch d a p.1) s = .next t ∧ p.2.2.Wrote t d p.2.1 (s.x.pc + 4)) := by
  intro p hp
  have hpc : s.x.pc = p.2.2.x.pc := by rw [← hnew p hp, writeStatus_x_pc]
  rw [exec_sset hs (hw p hp), exec_sxch hs (hw p hp), hnew p hp, hold p hp, hpc]
  exact ⟨⟨_, rfl, wrote_of_goto _ _⟩, ⟨_, rfl, wrote_result _ _ _⟩⟩

/-- A write of vtype keeps the six bits that have a meaning, or sets vill (R156). -/
theorem writeVtype_eq (s : State) (v : Word) :
    s.writeVtype v = { s with x := { s.x with vtype := if v.toNat < 64 then v else 0x8000000000000000 } } := by
  simp only [State.writeVtype, field_above_six_eq_zero_iff]
  rfl

theorem statusWrite : Sys2Proof.Parts.StatusWrite := by
  intro s d a hs v k writes trap
  refine ⟨status_writes hs d a ?_ ?_ ?_, fun hsup hspec => status_writes hs d a ?_ ?_ ?_,
    fun hmach hspec => status_writes hs d a ?_ ?_ ?_⟩
  all_goals simp only [List.forall_mem_cons, List.not_mem_nil, false_implies, implies_true, and_true]
  · and_intros <;> exact mayWrite_user (by decide)
  · and_intros <;> rfl
  · and_intros <;> rfl
  · and_intros <;> exact mayWrite_supervisor hsup hspec (by decide)
  · and_intros <;> rfl
  · rw [← writeVtype_eq]
    and_intros <;> rfl
  · and_intros <;> exact mayWrite_machine hmach hspec (by decide)
  · and_intros <;> rfl
  · and_intros <;> rfl

/-! ## The status register (R391) -/

/-- What a write of status stores on a core: pie, ie and tl as written, plvl at most 1. -/
def statusStored (o v : Word) : Word :=
  putBits (putBits (putBits (putBits o 7 1 (bits v 7 1)) 6 1 (bits v 6 1)) 5 1 (bits v 5 1)) 2 2 (min (bits v 2 2) 1)

theorem writeStatusReg_of_core {s : State} (h : s.st.place.master? ≠ none) (v : Word) :
    s.writeStatusReg v = s.setTrap { s.st.trap with status := statusStored s.st.trap.status v } := by
  have hp : (if bits v 2 2 ≥ 2 then 1 else bits v 2 2) = min (bits v 2 2) 1 := by split <;> omega
  simp only [State.writeStatusReg, if_neg (core_of_master h).1, hp]
  rfl

theorem statusStored_flags (o v : Word) : bits (statusStored o v) 5 3 = bits v 5 3 := by
  apply Nat.eq_of_testBit_eq
  intro i
  rw [testBit_bits, testBit_bits]
  by_cases hi : i < 3
  · obtain rfl | rfl | rfl : i = 0 ∨ i = 1 ∨ i = 2 := by omega
    all_goals simp (disch := decide) only [statusStored, getLsbD_putBits, testBit_bits]; norm_num
  · simp [hi]

theorem statusStored_plvl (o v : Word) : bits (statusStored o v) 2 2 = min (bits v 2 2) 1 := by
  rw [statusStored, bits_putBits_same _ _ _ _ (by decide)]
  omega

theorem statusStored_lvl (o v : Word) : bits (statusStored o v) 0 2 = bits o 0 2 := by
  rw [statusStored]
  repeat rw [bits_putBits_apart _ _ _ _ _ _ (by decide)]

theorem statusStored_other (o v : Word) {i : Nat} (h : i = 4 ∨ 8 ≤ i) : bit (statusStored o v) i = bit o i := by
  obtain hi | hi := lt_or_ge i 64
  · rw [statusStored]
    repeat rw [bit_putBits _ _ _ _ _ hi, if_neg (by omega)]
  · rw [bit_ge _ _ hi, bit_ge _ _ hi]

theorem statusRegisterFields : Sys2Proof.Parts.StatusRegisterFields := by
  intro s a hcore hsup hspec
  have hexec : exec (.sset a 0x100) s = .next (s.writeStatusReg (s.getS a)).advance :=
    exec_sset (core_of_master hcore).2 (mayWrite_supervisor hsup hspec (by decide)) a
  rw [writeStatusReg_of_core hcore] at hexec
  exact ⟨_, hexec, rfl, statusStored_flags _ _, statusStored_plvl _ _, statusStored_lvl _ _, fun _ => statusStored_other _ _, rfl⟩

/-- Settles O6: a register that its level may reach is read and written by its own branch, and the fields of status that a write stores
lie apart. -/
theorem statusRegistersReadAndWritten : Obligations.StatusRegistersReadAndWritten := ⟨statusRead, statusWrite, statusRegisterFields⟩

end Sys2Proof.Machine

/-! The checks that a scalar access makes of its address before anything else (04 R86, R89, 05 R120). -/

namespace Sys2Proof.Machine

/-! ## scalar_address (R86, R89) -/

/-- The checks of a scalar address, in their order: the wait for head on a page of fabric kind, then 0x20, then 0x21. -/
theorem scalarCheck_eq (s : State) (k : Acc) (ea : Word) (n : Nat) :
    s.scalarCheck k ea n =
      if s.spec = true ∧ s.fabricPage s.space ea.toNat = true then .error s
      else if ea.toNat < 2 ^ 54 then (if ea.toNat % n = 0 then .ok () else .error (s.trapA 0x21 k.akind ea))
      else .error (s.trapA 0x20 k.akind ea) := by
  unfold State.scalarCheck State.fabricFirst
  by_cases hwait : s.spec = true ∧ s.fabricPage s.space ea.toNat = true
  · simp only [hwait, and_self, if_true]
    rfl
  · have hgo : (!(s.spec && s.fabricPage s.space ea.toNat)) = true := by
      rwa [Bool.not_eq_true', ← Bool.not_eq_true, Bool.and_eq_true]
    rw [if_neg hwait, hgo]
    by_cases hlt : ea.toNat < 2 ^ 54
    · by_cases hal : ea.toNat % n = 0
      · simp only [hlt, hal, if_true, decide_true]
        rfl
      · simp only [hlt, hal, if_true, if_false, decide_true, decide_false]
        rfl
    · simp only [hlt, if_false, decide_false]
      rfl

/-- No chunk needs to wait for head before the access. -/
theorem not_waits_of_goes {s : State} {va : Nat} (h : s.spec = false ∨ s.fabricPage s.space va = false) :
    ¬ (s.spec = true ∧ s.fabricPage s.space va = true) := by
  rintro ⟨hspec, hpage⟩
  obtain h | h := h
  · exact absurd hspec (by simp [h])
  · exact absurd hpage (by simp [h])

theorem scalarCheck_of_waiting {s : State} {ea : Word} (h : ¬ (s.spec = false ∨ s.fabricPage s.space ea.toNat = false)) (k : Acc)
    (n : Nat) : s.scalarCheck k ea n = .error s := by
  rw [scalarCheck_eq, if_pos (by simpa using h)]

theorem scalarCheck_of_far {s : State} {ea : Word} (h : 2 ^ 54 ≤ ea.toNat) (k : Acc) (n : Nat) :
    s.scalarCheck k ea n = .error (s.trapA 0x20 k.akind ea) := by
  have hpage : s.fabricPage s.space ea.toNat = false := if_pos h
  rw [scalarCheck_eq, if_neg (not_waits_of_goes (.inr hpage)), if_neg (Nat.not_lt.mpr h)]

theorem scalarCheck_of_misaligned {s : State} {ea : Word} (h : s.spec = false ∨ s.fabricPage s.space ea.toNat = false)
    (hlt : ea.toNat < 2 ^ 54) {n : Nat} (hal : ea.toNat % n ≠ 0) (k : Acc) :
    s.scalarCheck k ea n = .error (s.trapA 0x21 k.akind ea) := by
  rw [scalarCheck_eq, if_neg (not_waits_of_goes h), if_pos hlt, if_neg hal]

theorem scalarCheck_ok {s : State} {ea : Word} (h : s.spec = false ∨ s.fabricPage s.space ea.toNat = false)
    (hlt : ea.toNat < 2 ^ 54) {n : Nat} (hal : ea.toNat % n = 0) (k : Acc) : s.scalarCheck k ea n = .ok () := by
  rw [scalarCheck_eq, if_neg (not_waits_of_goes h), if_pos hlt, if_pos hal]

/-! ## Instructions that end at the check -/

theorem exec_ld_of_loadW {s : State} (hs : s.st.place ≠ .saved) (d a : BitVec 5) (w : BitVec 3) (o : BitVec 13) :
    exec (.ld d a w o) s = finish (do
      let (t, v) ← s.loadW (s.getS a + o.signExtend 64) w.toNat
      .ok (t.result d v)) := by
  simp only [exec, execLd, gate_admits _ _ _ (admits_any s hs)]
  rfl

theorem exec_st_of_storeW {s : State} (hs : s.st.place ≠ .saved) (b a : BitVec 5) (w : BitVec 3) (o : BitVec 13) :
    exec (.st b a w o) s = finish (do
      let t ← s.storeW (s.getS a + o.signExtend 64) w.toNat (s.getS b)
      .ok t.advance) := by
  simp only [exec, execSt, gate_admits _ _ _ (admits_any s hs)]
  rfl

/-- A load and a store both end where the check of their address ends them. -/
theorem ld_st_of_scalarCheck {s : State} (hs : s.st.place ≠ .saved) {a : BitVec 5} {w : BitVec 3} {o : BitVec 13} {stop : Acc → State}
    (h : ∀ k, s.scalarCheck k (s.getS a + o.signExtend 64) (wSize w.toNat) = .error (stop k)) (d b : BitVec 5) :
    exec (.ld d a w o) s = .next (stop .read) ∧ exec (.st b a w o) s = .next (stop .write) := by
  rw [exec_ld_of_loadW hs, exec_st_of_storeW hs, State.loadW, State.storeW, h, h]
  exact ⟨rfl, rfl⟩

/-- A scalar atomic ends where the check of its address ends it. -/
theorem atomic_of_scalarCheck {s t : State} (hs : s.st.place ≠ .saved) {a : BitVec 5} {op n : Nat} (hn : (if op = 10 then 4 else 8) = n)
    (h : s.scalarCheck .both (s.getS a) n = .error t) (i : Instr) (d b c : BitVec 5) (p : BitVec 2) :
    finish (scalarAtomic i op d a b c p s) = .next t := by
  unfold scalarAtomic
  rw [gate_admits _ _ _ (admits_any s hs)]
  dsimp only
  rw [hn, h]
  rfl

/-- The scalar atomics of eight bytes. -/
theorem atomics_of_scalarCheck {s t : State} (hs : s.st.place ≠ .saved) {a : BitVec 5} (h : s.scalarCheck .both (s.getS a) 8 = .error t)
    (d b c : BitVec 5) (p : BitVec 2) :
    ∀ i ∈ [Instr.aadd d a b p, .aand d a b p, .aor d a b p, .axor d a b p, .amin d a b p, .amax d a b p, .aminn d a b p,
      .amaxn d a b p, .aswap d a b p, .acas d a b c p], exec i s = .next t := by
  have stops (op : Nat) (hop : (if op = 10 then 4 else 8) = 8) := atomic_of_scalarCheck hs hop h
  simp only [List.forall_mem_cons, List.not_mem_nil, false_implies, implies_true, and_true]
  exact ⟨stops 0 rfl _ _ _ _ _, stops 1 rfl _ _ _ _ _, stops 2 rfl _ _ _ _ _, stops 3 rfl _ _ _ _ _, stops 4 rfl _ _ _ _ _,
    stops 5 rfl _ _ _ _ _, stops 6 rfl _ _ _ _ _, stops 7 rfl _ _ _ _ _, stops 8 rfl _ _ _ _ _, stops 9 rfl _ _ _ _ _⟩

theorem afadd_of_scalarCheck {s t : State} (hs : s.st.place ≠ .saved) {a : BitVec 5} (h : s.scalarCheck .both (s.getS a) 4 = .error t)
    (d b : BitVec 5) (p : BitVec 2) : exec (.afadd d a b p) s = .next t :=
  atomic_of_scalarCheck hs (op := 10) rfl h (.afadd d a b p) d b 0 p

theorem scalarAddressChecksPart : Sys2Proof.Parts.ScalarAddressChecks := by
  intro s d a b c w o p hs ea at_ goes words
  have all {t : State} (h8 : s.scalarCheck .both at_ 8 = .error t) (h4 : s.scalarCheck .both at_ 4 = .error t) :
      ∀ i ∈ words ++ [.afadd d a b p], exec i s = .next t := by
    intro i hi
    obtain hi | hi := List.mem_append.mp hi
    · exact atomics_of_scalarCheck hs h8 d b c p i hi
    · rw [List.mem_singleton.mp hi]
      exact afadd_of_scalarCheck hs h4 d b p
  refine ⟨fun h => ?_, fun hgo hlt hal => ?_, fun h => ?_, fun h => ?_, fun hgo hlt hal => ?_, fun hgo hlt hal => ?_, fun h => ?_⟩
  · exact ld_st_of_scalarCheck hs (fun k => scalarCheck_of_far h k _) d b
  · exact ld_st_of_scalarCheck hs (fun k => scalarCheck_of_misaligned hgo hlt hal k) d b
  · exact ld_st_of_scalarCheck hs (fun k => scalarCheck_of_waiting h k _) d b
  · exact all (scalarCheck_of_far h .both 8) (scalarCheck_of_far h .both 4)
  · exact atomics_of_scalarCheck hs (scalarCheck_of_misaligned hgo hlt hal .both) d b c p
  · exact afadd_of_scalarCheck hs (scalarCheck_of_misaligned hgo hlt hal .both) d b p
  · exact all (scalarCheck_of_waiting h .both 8) (scalarCheck_of_waiting h .both 4)

/-! ## Merge regions (R120) -/

/-- A plain access of a fork that touches one of its merge regions traps. -/
theorem regionCheck_of_touched {s : State} (hfork : s.st.active = true) {i : Nat} (hi : i < 4) {r : Region}
    (hr : vget s.st.regions none i = some r) {va : Word} {n : Nat} (hlo : va.toNat < r.base + r.len) (hhi : r.base < va.toNat + n)
    (k : Acc) : s.regionCheck k va n = .error (s.trapA 0x43 k.akind va) := by
  have hsome : (s.regionAt va.toNat n).isSome = true := by
    rw [State.regionAt, State.inFork, hfork]
    exact List.findSome?_isSome_iff.mpr ⟨i, List.mem_range.mpr hi, by simp [hr, hlo, hhi]⟩
  obtain ⟨q, hq⟩ := Option.isSome_iff_exists.mp hsome
  rw [State.regionCheck, hq]
  rfl

theorem mergeRegionBarsPlainAccess : Sys2Proof.Parts.MergeRegionBarsPlainAccess := by
  intro s d a w o i r hs hfork hi hr ea n hlt hal hlo hhi hgo
  have hcheck (k : Acc) : s.scalarCheck k ea (wSize w.toNat) = .ok () := scalarCheck_ok hgo hlt hal k
  have hregion (k : Acc) : s.regionCheck k ea (wSize w.toNat) = .error (s.trapA 0x43 k.akind ea) :=
    regionCheck_of_touched hfork hi hr hlo hhi k
  rw [exec_ld_of_loadW hs, exec_st_of_storeW hs]
  change finish (s.loadW ea w.toNat >>= _) = _ ∧ finish (s.storeW ea w.toNat (s.getS d) >>= _) = _
  constructor
  · rw [State.loadW, hcheck, State.memRead, hregion]
    rfl
  · rw [State.storeW, hcheck, State.memWrite, length_leBytes, hregion]
    rfl

/-- Settles O14: the check of the address ends each access before it has touched anything, and the check for merge regions follows
it. -/
theorem scalarAddressChecks : Obligations.ScalarAddressChecks := ⟨scalarAddressChecksPart, mergeRegionBarsPlainAccess⟩

end Sys2Proof.Machine

/-! What a plain scalar access leaves: lines and packets move, the load reads the bytes that the strand sees, the store joins its
buffer; and a release or an acquire beside it (04 R86, R87, 10 R241, R249, 12 R288). -/

namespace Sys2Proof.Machine

/-! ## What moving lines leaves alone -/

/-- From `s` to `t` no die has been retired, and the host has given up no line. -/
def Undisturbed (s t : State) : Prop :=
  t.net.retired = s.net.retired ∧ t.cache.backInv.filter (·.answered) = s.cache.backInv.filter (·.answered)

theorem retired_stamp (n : Net) (src dst : Nat) (m : Mail) : (n.stamp src dst m).retired = n.retired := by
  simp only [Net.stamp, Net.setCount]
  split <;> rfl

theorem retired_post (n : Net) (src dst : Nat) (m : Mail) : (n.post src dst m).retired = n.retired := by
  unfold Net.post
  split_ifs
  · rfl
  · exact retired_stamp n src dst m
  · rfl

theorem retired_postRead (n : Net) (src dst line : Nat) (m : Mail) : (n.postRead src dst line m).retired = n.retired := by
  unfold Net.postRead
  split_ifs
  · rfl
  · split
    · dsimp only
      split_ifs
      · exact retired_post n src dst _
      · exact (retired_post _ _ _ _).trans (retired_post n src dst _)
    · exact retired_post _ src dst m

theorem retired_foldl {α : Type} {f : Net → α → Net} (hf : ∀ n a, (f n a).retired = n.retired) (l : List α) (n : Net) :
    (l.foldl f n).retired = n.retired := by
  induction l generalizing n with
  | nil => rfl
  | cons a l ih => rw [List.foldl_cons, ih, hf]

theorem retired_onward (n : Net) (die : Nat) (fs : List Onward) : (n.onward die fs).retired = n.retired := by
  unfold Net.onward
  apply retired_foldl
  intro n f
  split_ifs
  · rfl
  · exact retired_post n _ _ _

theorem retired_send (n : Net) (src dst : Nat) (m : Mail) : (n.send src dst m).retired = n.retired := by
  unfold Net.send
  split_ifs
  · exact retired_onward n dst m.follow
  · split
    · exact retired_postRead n src dst _ m
    · exact retired_post n src dst m

namespace Undisturbed

theorem refl (s : State) : Undisturbed s s := ⟨rfl, rfl⟩

theorem trans {s t u : State} (h : Undisturbed s t) (k : Undisturbed t u) : Undisturbed s u :=
  ⟨k.1.trans h.1, k.2.trans h.2⟩

theorem foldl {α : Type} {f : State → α → State} (hf : ∀ s a, Undisturbed s (f s a)) (l : List α) (s : State) :
    Undisturbed s (l.foldl f s) := foldl_keeps refl trans hf l s

theorem lineMail (s : State) (src vc line : Nat) (w : Bool) : Undisturbed s (s.lineMail src vc line w) :=
  ⟨retired_send _ _ _ _, rfl⟩

theorem loadPackets (s : State) (vc pa n : Nat) : Undisturbed s (s.loadPackets vc pa n) :=
  foldl (fun s l => by
    split
    · exact lineMail s _ _ _ _
    · exact refl s) _ s

theorem evictLine (s : State) (c : CLine) : Undisturbed s (s.evictLine c) := by
  unfold State.evictLine
  split_ifs
  · exact ⟨retired_send _ _ _ _, rfl⟩
  · exact refl s
  · exact ⟨rfl, rfl⟩

theorem evictAll (s : State) (p : CLine → Bool) : Undisturbed s (s.evictAll p) := foldl evictLine _ s

/-- The host is asked for lines that it has not given up yet. -/
theorem askHost (s : State) (w : Bool) (owner : StrandId) (ls : List Nat) : Undisturbed s (s.askHost w owner ls) := by
  unfold Undisturbed State.askHost
  simp [List.filter_map]

theorem emptyPage (s : State) (p : Nat) : Undisturbed s (s.emptyPage p) := (evictAll s _).trans (askHost _ _ _ _)

theorem dirEvict (s : State) (p : Nat) : Undisturbed s (s.dirEvict p) := by
  unfold State.dirEvict
  split
  · exact refl s
  · exact trans (emptyPage s _) ⟨rfl, rfl⟩

theorem dirRoom (s : State) (p n : Nat) : Undisturbed s (s.dirRoom p n) :=
  foldl (fun s _ => by
    split_ifs
    · exact refl s
    · exact dirEvict s p) _ s

theorem dirEnter (s : State) (a : Agent) (l : Nat) (w k : Bool) : Undisturbed s (s.dirEnter a l w k) := by
  unfold State.dirEnter
  dsimp only
  split
  · exact trans (dirRoom s _ _) ⟨rfl, rfl⟩
  · exact trans (dirRoom s _ _) ⟨rfl, rfl⟩

theorem reclassify (s : State) (p r : Nat) : Undisturbed s (s.reclassify p r) := by
  unfold State.reclassify
  exact ((evictAll s _).trans ⟨rfl, rfl⟩).trans (foldl (fun s k => dirEnter s _ _ _ _) _ _)

theorem touch (s : State) (r : Option Nat) (pa : Nat) : Undisturbed s (s.touch r pa) := by
  unfold State.touch
  split_ifs
  · exact refl s
  · split
    · exact ⟨rfl, rfl⟩
    · exact refl s
    · exact refl s
    · split_ifs
      · exact refl s
      · exact reclassify s _ _
    · exact reclassify s _ _

end Undisturbed

theorem hostWaits_of_undisturbed {s t : State} (h : Undisturbed s t) (pa n : Nat) : t.hostWaits pa n = s.hostWaits pa n := by
  have key (u : State) : u.hostWaits pa n =
      (u.cache.backInv.filter (·.answered)).any (fun b => (linesOf pa n).contains b.line) := by
    simp [State.hostWaits, List.any_filter]
  rw [key, key, h.2]

theorem linesMove_loadPackets (s : State) (vc pa n : Nat) : LinesMove s (s.loadPackets vc pa n) :=
  LinesMove.foldl (fun s l => by
    split
    · exact LinesMove.lineMail s _ _ _ _
    · exact LinesMove.refl s) _ s

theorem linesMove_atRead (s : State) (x : Xl) (n : Nat) : LinesMove s (s.atRead x n) :=
  ((LinesMove.touch s _ _).trans (linesMove_loadPackets _ _ _ _)).trans ⟨_, _, _, _, _, _, rfl⟩

theorem retired_atRead (s : State) (x : Xl) (n : Nat) : (s.atRead x n).net.retired = s.net.retired :=
  ((Undisturbed.touch s _ _).trans (Undisturbed.loadPackets _ _ _ _)).1

theorem poisonedFor_of_linesMove {s t : State} (h : LinesMove s t) (hret : t.net.retired = s.net.retired) (pa : Nat) :
    t.poisonedFor pa = s.poisonedFor pa := by
  obtain ⟨net, _, _, _, _, _, rfl⟩ := h
  change net.retired = _ at hret
  unfold State.poisonedFor State.poisoned
  dsimp only
  rw [hret]
  rfl

theorem policy_of_linesMove {s t : State} (h : LinesMove s t) (vc : Nat) : t.policy vc = s.policy vc := by
  obtain ⟨_, _, _, _, _, _, rfl⟩ := h
  rfl

theorem viewBytes_of_linesMove {s t : State} (h : LinesMove s t) (v : Bool) (pa n : Nat) :
    t.viewBytes v pa n = s.viewBytes v pa n := by
  obtain ⟨_, _, _, _, _, _, rfl⟩ := h
  rfl

/-! ## Plain accesses -/

theorem spec_of_no_fork {s : State} (h : s.st.fork = none) : s.spec = false := by simp [State.spec, headOf, h]

section
variable {s : State} {k : Acc} {va : Word} {n : Nat} {x : Xl}

theorem spec_of_plain (h : s.Plain k va n x) : s.spec = false := spec_of_no_fork h.alone.1

theorem scalarCheck_of_plain (h : s.Plain k va n x) (k' : Acc) : s.scalarCheck k' va n = .ok () :=
  scalarCheck_ok (.inl (spec_of_plain h)) h.aligned.1 h.aligned.2 k'

theorem regionCheck_of_plain (h : s.Plain k va n x) (k' : Acc) : s.regionCheck k' va n = .ok () := by
  simp [State.regionCheck, State.regionAt, State.inFork, h.alone.2]

theorem reach_of_plain (h : s.Plain k va n x) : s.reach k va.toNat = .ok (s, .mem x) := by
  simp [State.reach, State.locate, h.maps.1, h.maps.2, (core_of_master h.core).1]

theorem settled_of_plain (h : s.Plain k va n x) {w : Bool} (hw : (k != .read) = w) : s.settled w x.pa n = .ok () := by
  simp [State.settled, State.blocked, h.quiet.1, ← hw, h.quiet.2.1]

theorem fabric_of_plain (h : s.Plain k va n x) : x.fabric = false := by simp [Xl.fabric, h.loc]

theorem clean_of_plain (h : s.Plain k va n x) : (linesOf x.pa n).any (fun l => s.poisonedFor (l * 64)) = false :=
  List.any_eq_false.mpr fun l hl => by simp [h.clean.2 l hl]

/-- A load of local memory outside a fork reads the bytes that the strand's scalar accesses see (R238, R240). -/
theorem loadLocal_of_plain (h : s.Plain .read va n x) (hro : s.policy x.vc ≠ 3) :
    s.loadLocal false x n = .ok (s.atRead x n, s.viewBytes false x.pa n) := by
  have hmove := linesMove_atRead s x n
  have hst : (s.atRead x n).st = s.st := by obtain ⟨_, _, _, _, _, _, e⟩ := hmove; rw [e]
  have hspec : (s.atRead x n).spec = false := spec_of_no_fork (hst ▸ h.alone.1)
  have hview := viewBytes_of_linesMove hmove false x.pa n
  unfold State.loadLocal
  rw [settled_of_plain h (by decide), h.opened.1]
  have hdef : ((s.touch s.ring? x.pa).loadPackets x.vc x.pa n).hostDone x.pa n = s.atRead x n := rfl
  simp only [hdef, hspec, hst, h.alone.1, hview, policy_of_linesMove hmove, hro, bind, Except.bind, check_true, if_false,
    Option.isSome_none, Bool.false_eq_true]

/-- A scalar read at a plain address (R86, R238). -/
theorem memRead_of_plain (h : s.Plain .read va n x) (hro : s.policy x.vc ≠ 3) :
    s.memRead va n = .ok (s.atRead x n, s.viewBytes false x.pa n) := by
  have hclean : (linesOf x.pa n).any (fun l => (s.atRead x n).poisonedFor (l * 64)) = false := by
    simp only [poisonedFor_of_linesMove (linesMove_atRead s x n) (retired_atRead s x n), clean_of_plain h]
  unfold State.memRead
  rw [regionCheck_of_plain h, reach_of_plain h]
  simp only [bind, Except.bind, fabric_of_plain h, loadLocal_of_plain h hro, Run.keeping, h.opened.2, hclean, Bool.not_false,
    Bool.and_self, check_true, if_false, Bool.false_eq_true]

/-- The value of a load: the bytes, extended as the width code says (R87). -/
def loadedWord (w : Nat) (bs : List Byte) : Word :=
  if w < 4 then BitVec.ofNat 64 (leNat bs) else (BitVec.ofNat (8 * 2 ^ (w % 4)) (leNat bs)).signExtend 64

theorem wExtend_eq_loadedWord {w : Nat} {bs : List Byte} (h : bs.length = 2 ^ (w % 4)) : wExtend w bs = loadedWord w bs := by
  unfold wExtend loadedWord
  have hpos : 0 < 8 * 2 ^ (w % 4) := by positivity
  split_ifs
  · omega
  · rw [h, toWord_sextN _ hpos]
  · rfl
  · omega

theorem loadW_of_plain {w : Nat} (h : s.Plain .read va (2 ^ (w % 4)) x) (hro : s.policy x.vc ≠ 3) :
    s.loadW va w = .ok (s.atRead x (2 ^ (w % 4)), loadedWord w (s.viewBytes false x.pa (2 ^ (w % 4)))) := by
  have hlen : (s.viewBytes false x.pa (2 ^ (w % 4))).length = 2 ^ (w % 4) := by simp [State.viewBytes]
  unfold State.loadW wSize
  rw [scalarCheck_of_plain h, memRead_of_plain h hro, ← wExtend_eq_loadedWord hlen]
  rfl

/-- The state once a store outside a fork has joined the scalar store buffer. -/
def State.buffered (s : State) (e : BufStore) : State :=
  { s with st := { s.st with sbuf := s.st.sbuf ++ [e], stores := s.st.stores + 1 } }

/-- The store that the strand issues next. -/
def State.nextStore (s : State) (x : Xl) (bs : List Byte) : BufStore :=
  { pa := x.pa, data := bs, vcache := x.vc, seq := s.st.stores, issue := s.st.qcount }

theorem bufferStore_of_no_fork (hfork : s.st.fork = none) (bs : List Byte) :
    s.bufferStore false x.pa x.vc bs = s.buffered (s.nextStore x bs) := by
  simp [State.bufferStore, State.setBuffer, State.buffer, hfork, State.buffered, State.nextStore]

theorem announce_of_no_fork (hfork : s.st.fork = none) (word : Nat) : s.announce word = s := by
  unfold State.announce
  rw [hfork]

theorem foldl_announce_of_no_fork (hfork : s.st.fork = none) (ps : List (Nat × Nat × Nat)) :
    ps.foldl (fun s p => s.announce p.1) s = s := by
  induction ps with
  | nil => rfl
  | cons p ps ih => rw [List.foldl_cons, announce_of_no_fork hfork, ih]

/-- A store to local memory outside a fork joins the buffer (R241). -/
theorem storeLocal_of_plain {bs : List Byte} (h : s.Plain .write va bs.length x) :
    s.storeLocal false x bs = .ok ((s.touch s.ring? x.pa).buffered (s.nextStore x bs)) := by
  have hst : (s.touch s.ring? x.pa).st = s.st := by obtain ⟨_, _, _, _, _, _, e⟩ := LinesMove.touch s s.ring? x.pa; rw [e]
  have hfork : (s.touch s.ring? x.pa).st.fork = none := hst ▸ h.alone.1
  have hnext : (s.touch s.ring? x.pa).nextStore x bs = s.nextStore x bs := by simp only [State.nextStore, hst]
  have hwaits (e : BufStore) : ((s.touch s.ring? x.pa).buffered e).hostWaits x.pa bs.length = false :=
    (hostWaits_of_undisturbed (Undisturbed.touch s s.ring? x.pa) x.pa bs.length).trans h.quiet.2.2
  unfold State.storeLocal
  rw [settled_of_plain h (by decide), h.opened.1]
  simp only [spec_of_no_fork hfork, hfork, bind, Except.bind, check_true, if_false, Option.isSome_none, Bool.false_eq_true,
    foldl_announce_of_no_fork hfork, bufferStore_of_no_fork hfork, hnext, hwaits]

theorem memWrite_of_plain {bs : List Byte} (h : s.Plain .write va bs.length x) :
    s.memWrite va bs = .ok ((s.touch s.ring? x.pa).buffered (s.nextStore x bs)) := by
  unfold State.memWrite
  rw [regionCheck_of_plain h, reach_of_plain h]
  simp only [bind, Except.bind, fabric_of_plain h, storeLocal_of_plain h, Run.keeping, clean_of_plain h, Bool.not_false,
    check_true, if_false, Bool.false_eq_true]

theorem storeW_of_plain {w : Nat} (h : s.Plain .write va (2 ^ (w % 4)) x) (v : Word) :
    s.storeW va w v = .ok ((s.touch s.ring? x.pa).buffered (s.nextStore x (leBytes (2 ^ (w % 4)) v.toNat))) := by
  unfold State.storeW wSize
  rw [scalarCheck_of_plain h, ← memWrite_of_plain (va := va) (by rwa [length_leBytes])]
  rfl

end

/-! ## Loads (R87, R249) -/

/-- What a register write and completion leave of a state that an access has reached. -/
theorem accessed_result {s t : State} (h : LinesMove s t) (d : BitVec 5) (v : Word) :
    s.Accessed (t.result d v) (s.x.pc + 4) ∧ (t.result d v).st = s.st ∧ (t.result d v).mem = s.mem ∧ s.Got (t.result d v) d v := by
  have hw := wrote_result t d v
  obtain ⟨_, _, _, _, _, _, rfl⟩ := h
  refine ⟨?_, by simp [State.result], by simp [State.result], hw.dest, hw.others⟩
  unfold State.Accessed State.result State.setS
  split <;> rfl

/-- LDACQ below .PKG is the load (R249). -/
theorem exec_ldacq_of_loadW {s : State} (hs : s.st.place ≠ .saved) (d a : BitVec 5) (w : BitVec 3) {scope : BitVec 3}
    (h : scope.toNat < 3) : exec (.ldacq d a w scope) s = finish (do
      let (t, v) ← s.loadW (s.getS a) w.toNat
      .ok (t.result d v)) := by
  have hsys : (scope != 4) = true := bne_iff_ne.mpr (by rintro rfl; exact absurd h (by decide))
  simp only [exec, execLdacq, gate_admits _ _ _ (admits_any s hs), hsys, if_true, if_neg (Nat.not_le.mpr h)]
  rfl

theorem scalarLoad : Sys2Proof.Parts.ScalarLoad := by
  intro s d a w o scope x hw p hp hscope n hplain hro bytes
  have hs : s.st.place ≠ .saved := (core_of_master hplain.core).2
  have hexec : exec p.1 s = finish (do
      let (t, v) ← s.loadW p.2 w.toNat
      .ok (t.result d v)) := by
    obtain rfl | rfl : p = (Instr.ld d a w o, s.getS a + o.signExtend 64) ∨ p = (.ldacq d a w scope, s.getS a) := by simpa using hp
    · exact exec_ld_of_loadW hs d a w o
    · exact exec_ldacq_of_loadW hs d a w (hscope rfl)
  rw [hexec, loadW_of_plain hplain hro]
  exact ⟨_, rfl, accessed_result (linesMove_atRead s x n) d _⟩

/-! ## Stores (R87, R241) -/

theorem accessed_buffered {s t : State} (h : LinesMove s t) (e : BufStore) :
    s.Accessed (t.buffered e).advance (s.x.pc + 4) ∧ (t.buffered e).advance.mem = s.mem ∧ s.Got (t.buffered e).advance 0 0 ∧
      (t.buffered e).advance.st = { s.st with sbuf := s.st.sbuf ++ [e], stores := s.st.stores + 1 } := by
  obtain ⟨_, _, _, _, _, _, rfl⟩ := h
  exact ⟨rfl, rfl, ⟨fun h => absurd rfl h, fun _ _ => rfl⟩, rfl⟩

theorem byteAt_in (e : BufStore) {i : Nat} (h : i < e.data.length) : e.byteAt (e.pa + i) = some e.data[i] := by
  rw [BufStore.byteAt, if_pos (by omega), Nat.add_sub_cancel_left, List.getElem?_eq_getElem h]

theorem byteAt_out (e : BufStore) {q : Nat} (h : q < e.pa ∨ e.pa + e.data.length ≤ q) : e.byteAt q = none :=
  if_neg (by omega)

/-- The youngest store of a buffer decides the bytes that it covers. -/
theorem bufLast_append (l : List BufStore) (e : BufStore) (q : Nat) :
    bufLast (l ++ [e]) q = ((e.byteAt q).map (fun v => (e.seq, v))).or (bufLast l q) := by
  unfold bufLast
  rw [List.reverse_append, List.reverse_singleton, List.singleton_append, List.findSome?_cons]
  cases e.byteAt q <;> rfl

/-- The scalar view of a byte is the one of the buffers and memory alone. -/
theorem viewByte_scalar (s : State) (q : Nat) : s.viewByte false q =
    ((laterStore (bufLast s.st.sbuf q) (bufLast (s.st.vbuf.filter (·.joined)) q)).map (·.2)).getD (s.memByte q) := rfl

theorem viewByte_vector (s : State) (q : Nat) : s.viewByte true q =
    ((laterStore (bufLast s.st.vbuf q) (bufLast (s.st.sbuf.filter (·.joined)) q)).map (·.2)).getD (s.memByte q) := rfl

section
variable {s t : State} {e : BufStore}

/-- `t` has the buffers and memory of `s`, and one more scalar store. -/
def Buffers (s t : State) (e : BufStore) : Prop :=
  t.mem = s.mem ∧ t.st.vbuf = s.st.vbuf ∧ t.st.sbuf = s.st.sbuf ++ [e]

theorem viewByte_in_of_buffers (h : Buffers s t e) (hapart : s.Apart) {i : Nat} (hi : i < e.data.length) :
    t.viewByte false (e.pa + i) = e.data[i] := by
  obtain ⟨-, hv, hs⟩ := h
  have hjoined : s.st.vbuf.filter (·.joined) = [] := List.filter_eq_nil_iff.mpr fun b hb => by simp [hapart b hb]
  rw [viewByte_scalar, hs, bufLast_append, byteAt_in e hi, hv, hjoined]
  rfl

theorem viewByte_out_of_buffers (h : Buffers s t e) {q : Nat} (hq : q < e.pa ∨ e.pa + e.data.length ≤ q) :
    t.viewByte false q = s.viewByte false q := by
  obtain ⟨hm, hv, hs⟩ := h
  rw [viewByte_scalar, viewByte_scalar, hs, bufLast_append, byteAt_out e hq, hv, State.memByte, hm]
  rfl

/-- A store that is not performed with respect to the core yet is not seen by vector accesses. -/
theorem viewByte_vector_of_buffers (h : Buffers s t e) (hj : e.joined = false) (q : Nat) :
    t.memByte q = s.memByte q ∧ t.viewByte true q = s.viewByte true q := by
  obtain ⟨hm, hv, hs⟩ := h
  have hmem : t.memByte q = s.memByte q := by rw [State.memByte, hm]; rfl
  refine ⟨hmem, ?_⟩
  rw [viewByte_vector, viewByte_vector, hs, hv, hmem, List.filter_append, List.filter_singleton, hj]
  simp

end

theorem scalarStore : Sys2Proof.Parts.ScalarStore := by
  intro s b a w o x hw n e hplain
  have hn : 2 ^ (w.toNat % 4) = n := by rw [Nat.mod_eq_of_lt hw]
  have hlen : e.data.length = n := length_leBytes _ _
  obtain ⟨hacc, hmem, hgot, hst⟩ := accessed_buffered (LinesMove.touch s s.ring? x.pa) e
  have hbuf : Buffers s ((s.touch s.ring? x.pa).buffered e).advance e := ⟨hmem, by rw [hst], by rw [hst]⟩
  refine ⟨_, ?_, hacc, hmem, hgot, hst, fun hapart i hi => ?_, fun q hq => viewByte_out_of_buffers hbuf (hlen.symm ▸ hq),
    viewByte_vector_of_buffers hbuf rfl⟩
  · rw [exec_st_of_storeW (core_of_master hplain.core).2, storeW_of_plain (hn.symm ▸ hplain), hn]
    rfl
  · rw [viewByte_in_of_buffers hbuf hapart (hlen.symm ▸ hi)]
    exact leBytes_getElem _ _ _ _

end Sys2Proof.Machine

/-! A scalar load that acquires and a scalar store that releases (10 R249, 12 R288, 16 R359). -/

namespace Sys2Proof.Machine

/-! ## A strand that has no fork goes on without one -/

/-- The focus strand runs a fork after just when it ran one before. -/
def ForkStays (s t : State) : Prop := t.st.fork.isSome = s.st.fork.isSome

theorem fork_countBy (a : Strand) (ev k : Nat) (user : Bool) : (a.countBy ev k user).fork = a.fork := by
  obtain ⟨_, _, _, h⟩ := countsOnly_countBy a ev k user
  rw [h]

theorem fork_squashFrom (k : Nat) (r : Runner) : (squashFrom k r).st.fork.isSome = r.st.fork.isSome := by
  unfold squashFrom
  split
  · rfl
  next f hf =>
    split_ifs
    · rfl
    · simp [discardFrom, hf]
    · rfl

theorem fork_externalWrite (line : Nat) (r : Runner) : (externalWrite line r).st.fork.isSome = r.st.fork.isSome := by
  unfold externalWrite
  split
  · rfl
  · exact fork_squashFrom _ r

theorem fork_releaseWait (c : BitVec 8) (p : BitVec 32) (a : Strand) : (releaseWait c p a).fork = a.fork := by
  unfold releaseWait
  split
  · split_ifs <;> rfl
  · rfl

theorem st_fabOut (s : State) (ep : Nat) (a : Word) (p : List Byte) : (s.fabOut ep a p).st = s.st := by
  unfold State.fabOut
  split_ifs
  · rfl
  · split <;> rfl

theorem st_log (s : State) (d c : Nat) : (s.log d c).st = s.st := by
  unfold State.log State.logEntry
  rfl

theorem st_hubSend (s : State) (r : Except Nat Receiver) (m : Msg) : (s.hubSend r m).st = s.st := by
  unfold State.hubSend
  split
  · exact st_log s 0 0
  · rfl
  · exact st_fabOut _ _ _ _

theorem st_bankAdd (s : State) (v k n : Nat) : (s.bankAdd v k n).st = s.st := by
  unfold State.bankAdd State.tellSupervisor
  dsimp only
  split_ifs
  · rfl
  · rfl
  · exact st_hubSend _ _ _
  · rfl

namespace ForkStays

theorem refl (s : State) : ForkStays s s := rfl

theorem trans {s t u : State} (h : ForkStays s t) (k : ForkStays t u) : ForkStays s u := Eq.trans k h

theorem foldl {α : Type} {f : State → α → State} (hf : ∀ s a, ForkStays s (f s a)) (l : List α) (s : State) :
    ForkStays s (l.foldl f s) := foldl_keeps refl trans hf l s

theorem of_st {s t : State} (h : t.st = s.st) : ForkStays s t := by rw [ForkStays, h]

theorem of_linesMove {s t : State} (h : LinesMove s t) : ForkStays s t := by
  obtain ⟨_, _, _, _, _, _, rfl⟩ := h
  exact rfl

theorem countBank (s : State) (ev vc : Nat) (req : Option Nat) : ForkStays s (s.countBank ev vc req) := by
  unfold State.countBank
  split
  · exact refl s
  · refine foldl (fun s k => ?_) _ s
    split_ifs
    · exact of_st (st_bankAdd s _ k 1)
    · exact refl s

theorem writeSeen (s : State) (own : Bool) (l : Nat) : ForkStays s (s.writeSeen own l) := by
  cases own with
  | true => exact refl s
  | false => exact fork_externalWrite l _

theorem mapStrand {f : Strand → Strand} (hf : ∀ a, (f a).fork = a.fork) (s : State) (id : StrandId) :
    ForkStays s (s.mapStrand id f) := by
  unfold State.mapStrand
  split_ifs
  · exact congrArg Option.isSome (hf s.st)
  · exact refl s

theorem disturb (s : State) (l : Nat) : ForkStays s (s.disturb l) := by
  unfold State.disturb State.releaseAt
  split_ifs
  · exact foldl (fun s w => mapStrand (fork_releaseWait _ _) s _) _ { s with waiters := _ }
  · exact refl s

theorem perform (s : State) (own : Bool) (pa : Nat) (bs : List Byte) : ForkStays s (s.perform own pa bs) :=
  foldl (fun s l => (writeSeen s own l).trans (disturb _ l)) _ (s.pokeBytes pa bs)

theorem applyScatter (s : State) (pa : Nat) : ForkStays s (s.applyScatter pa) := by
  unfold State.applyScatter
  dsimp only
  split
  · exact refl s
  · refine trans (trans ?_ (of_linesMove (LinesMove.recallFrom _ _ _))) (perform _ _ _ _)
    exact countBank { s with scatter := _ } _ _ _

theorem flushScatter (s : State) (id : StrandId) : ForkStays s (s.flushScatter id) :=
  foldl (fun s (c : Scatter) => applyScatter s c.pa) _ s

theorem setBuffer (s : State) (v : Bool) (b : List BufStore) : ForkStays s (s.setBuffer v b) := by
  cases v <;> exact refl s

theorem drainOne (s : State) (b : BufStore) : ForkStays s (s.drainOne b) :=
  (of_linesMove (LinesMove.storePackets s _ _ _)).trans (perform _ true _ _)

theorem drainCount (s : State) (v : Bool) (k : Nat) : ForkStays s (s.drainCount v k) :=
  (setBuffer s v _).trans (foldl drainOne _ _)

theorem drainOldest (s : State) (v : Bool) : ForkStays s (s.drainOldest v) := by
  unfold State.drainOldest
  split
  · exact refl s
  · refine (trans ?_ (drainCount _ _ _)).trans (drainCount _ _ _)
    split_ifs
    · exact flushScatter s _
    · exact refl s

theorem drainBuffer (s : State) (v : Bool) : ForkStays s (s.drainBuffer v) := foldl (fun s _ => drainOldest s v) _ s

theorem drained (s : State) : ForkStays s (s.drainAll.flushScatter s.st.id) :=
  ((drainBuffer s false).trans (drainBuffer _ true)).trans (flushScatter _ _)

theorem joinAll (s : State) : ForkStays s s.joinAll :=
  ((setBuffer s false _).trans (setBuffer _ true _)).trans (flushScatter _ _)

/-- A strand that ends up without a fork was not in speculation. -/
theorem spec_eq_false {s t : State} (h : ForkStays s t) (ht : t.st.fork = none) : s.spec = false := by
  apply spec_of_no_fork
  rw [ForkStays, ht] at h
  exact Option.isNone_iff_eq_none.mp (by simpa using h)

end ForkStays

theorem kept_drained (s : State) : Kept s (s.drainAll.flushScatter s.st.id) := (Kept.drainAll s).trans (Kept.flushScatter _ _)

theorem kept_joinAll (s : State) : Kept s s.joinAll := by
  have join (t : State) (v : Bool) : Kept t (t.joinStores v (fun _ => true)) := by
    cases v <;> exact Kept.of_eq rfl rfl rfl rfl rfl rfl
  exact ((join s false).trans (join _ true)).trans (Kept.flushScatter _ _)

/-! ## STREL (R249) -/

/-- What a store release stores upon (R249). -/
def State.released (s : State) (scope : BitVec 3) : State :=
  if scope.toNat ≤ 1 then s.joinAll else s.drainAll.flushScatter s.st.id

theorem kept_released (s : State) (scope : BitVec 3) : Kept s (s.released scope) := by
  unfold State.released
  split_ifs
  · exact kept_joinAll s
  · exact kept_drained s

theorem forkStays_released (s : State) (scope : BitVec 3) : ForkStays s (s.released scope) := by
  unfold State.released
  split_ifs
  · exact ForkStays.joinAll s
  · exact ForkStays.drained s

theorem release_of_head {s : State} (h : s.spec = false) : s.release = s.drainAll.flushScatter s.st.id := by
  simp [State.release, h]

theorem releaseSys_of_head {s : State} (h : s.spec = false) (hwait : (s.drainAll.flushScatter s.st.id).sysWait = .ok ()) :
    s.releaseSys = .ok (s.drainAll.flushScatter s.st.id) := by
  rw [State.releaseSys, release_of_head h, hwait]
  rfl

theorem releaseScope_of_head {s : State} (h : s.spec = false) {scope : BitVec 3}
    (hwait : scope = 4 → (s.released scope).sysWait = .ok ()) : s.releaseScope scope = .ok (s.released scope) := by
  unfold State.releaseScope State.released
  split_ifs with hlow hsys
  · rfl
  · rw [State.released, if_neg hlow] at hwait
    exact releaseSys_of_head h (hwait hsys)
  · rw [release_of_head h]

theorem storeRelease : Sys2Proof.Parts.StoreRelease := by
  intro s d a w scope x hscope hheld u n e hwait hplain
  have hs : s.st.place ≠ .saved := (kept_released s scope).place ▸ (core_of_master hplain.core).2
  have hspec : s.spec = false := (forkStays_released s scope).spec_eq_false hplain.alone.1
  have hn : 2 ^ (w.toNat % 4) = n := by rw [Nat.mod_eq_of_lt w.isLt]
  obtain ⟨hacc, hmem, hgot, hst⟩ := accessed_buffered (LinesMove.touch u u.ring? x.pa) e
  refine ⟨_, ?_, hacc, hmem, hgot, hst⟩
  simp only [exec, execStrel, gate_admits _ _ _ (admits_any s hs), hspec, hheld, releaseScope_of_head hspec hwait, bind, Except.bind,
    check_true, if_false, Bool.false_eq_true]
  rw [storeW_of_plain (w := w.toNat) (hn.symm ▸ hplain), hn]
  rfl

/-- Settles O12: the store joins its buffer and nothing else moves but lines; a release leaves the strand where it is and without a fork,
so that the store after it is the plain one. -/
theorem scalarStores : Obligations.ScalarStores := ⟨scalarStore, storeRelease⟩

/-! ## Applying a translation log (R288) -/

/-- The translations named leave the buffers; where an entry was new, the count of those applied is written and the overflow mark
cleared, in the log's first line. -/
theorem applyLog_cases (s : State) (d : Nat) : ∃ tlb : List TlbEntry, (∀ e ∈ tlb, e ∈ s.tlb) ∧
    (s.applyLog d = { s with tlb := tlb } ∨ ∃ (done : List Byte) (ovf : Byte), done.length = 8 ∧
      s.applyLog d = ((({ s with tlb := tlb } : State).pokeBytes (s.logBase d + 8) done).pokeBytes (s.logBase d + 16) [ovf]).writeSeen false
        (s.logBase d / 64)) := by
  unfold State.applyLog
  split_ifs
  · exact ⟨s.tlb, fun _ h => h, .inl rfl⟩
  · extract_lets base app done ovf count entry es hit t
    refine ⟨s.tlb.filter (fun e => !hit e), fun e he => (List.mem_filter.mp he).1, ?_⟩
    split_ifs
    · exact .inl rfl
    · exact .inr ⟨_, _, length_leBytes _ _, rfl⟩

theorem externalWrite_of_no_fork {r : Runner} (h : r.st.fork = none) (line : Nat) : externalWrite line r = r := by
  unfold externalWrite oldestExposed
  rw [h]

theorem writeSeen_of_no_fork {s : State} (h : s.st.fork = none) (line : Nat) :
    s.writeSeen false line = { s with parked := s.parked.map (externalWrite line) } := by
  have hr : externalWrite line { x := s.x, st := s.st } = { x := s.x, st := s.st } := externalWrite_of_no_fork h line
  simp only [State.writeSeen, hr, Bool.false_eq_true, if_false]

/-- Outside a fork an acquire changes nothing of the strand, no byte outside its die's log, and adds no translation. -/
theorem applyLog_frame {s : State} (h : s.st.fork = none) (d : Nat) :
    (s.applyLog d).x = s.x ∧ (s.applyLog d).st = s.st ∧ (∀ e ∈ (s.applyLog d).tlb, e ∈ s.tlb) ∧
      ∀ q, q < s.logBase d ∨ s.logBase d + 65536 ≤ q → (s.applyLog d).memByte q = s.memByte q := by
  obtain ⟨tlb, htlb, e | ⟨done, ovf, hlen, e⟩⟩ := applyLog_cases s d
  · rw [e]
    exact ⟨rfl, rfl, htlb, fun _ _ => rfl⟩
  · rw [e, writeSeen_of_no_fork (by exact h)]
    refine ⟨rfl, rfl, htlb, fun q hq => ?_⟩
    refine (memByte_pokeBytes_out _ _ _ _ ?_).trans (memByte_pokeBytes_out _ _ _ _ ?_)
    · simp only [List.length_singleton]; omega
    · omega

/-- The same of an acquire that follows a load. -/
theorem acquire_frame {s t : State} (h : LinesMove s t) (hcore : s.st.place.master? ≠ none) (hfork : s.st.fork = none) :
    t.acquire.x = s.x ∧ t.acquire.st = s.st ∧ (∀ e ∈ t.acquire.tlb, e ∈ s.tlb) ∧
      ∀ q, q < s.logBase s.die ∨ s.logBase s.die + 65536 ≤ q → t.acquire.memByte q = s.memByte q := by
  obtain ⟨hx, hst, htlb, hbase, hmem⟩ :
      t.x = s.x ∧ t.st = s.st ∧ t.tlb = s.tlb ∧ t.logBase t.die = s.logBase s.die ∧ t.mem = s.mem := by
    obtain ⟨_, _, _, _, _, _, rfl⟩ := h
    exact ⟨rfl, rfl, rfl, rfl, rfl⟩
  have hacq : t.acquire = t.applyLog t.die := if_neg (hst ▸ (core_of_master hcore).1)
  have hframe := applyLog_frame (s := t) (hst ▸ hfork) t.die
  simp only [State.memByte, hx, hst, htlb, hbase, hmem] at hframe
  rw [hacq]
  exact hframe

/-! ## LDACQ at .PKG and .SYS (R249, R288, R359) -/

/-- What a load acquire at .PKG or .SYS loads from. -/
def State.acquiredFrom (s : State) (scope : BitVec 3) : State := if scope = 3 then s else s.drainAll.flushScatter s.st.id

theorem kept_acquiredFrom (s : State) (scope : BitVec 3) : Kept s (s.acquiredFrom scope) := by
  unfold State.acquiredFrom
  split_ifs
  · exact Kept.refl s
  · exact kept_drained s

theorem forkStays_acquiredFrom (s : State) (scope : BitVec 3) : ForkStays s (s.acquiredFrom scope) := by
  unfold State.acquiredFrom
  split_ifs
  · exact ForkStays.refl s
  · exact ForkStays.drained s

theorem sysWait_of_none_failed {s : State} (hreqs : s.fab.reqs.any (fun q => q.owner == s.st.id && q.kind == .write) = false)
    (hfail : s.st.failedStores = []) : s.sysWait = .ok () := by
  rw [State.sysWait, hreqs, hfail]
  rfl

/-- The load is made once the strand's accesses are performed, and the acquire follows it. -/
theorem exec_ldacq_of_acquiredFrom {s : State} (hs : s.st.place ≠ .saved) (hspec : s.spec = false) {scope : BitVec 3}
    (h : scope = 3 ∨ scope = 4) (hwait : (s.acquiredFrom scope).sysWait = .ok ()) (d a : BitVec 5) (w : BitVec 3) :
    exec (.ldacq d a w scope) s = finish (do
      let (t, v) ← (s.acquiredFrom scope).loadW ((s.acquiredFrom scope).getS a) w.toNat
      .ok (t.acquire.result d v)) := by
  simp only [exec, execLdacq, gate_admits _ _ _ (admits_any s hs)]
  obtain rfl | rfl := h
  · rfl
  · have hrel : s.releaseSys = .ok (s.acquiredFrom 4) := releaseSys_of_head hspec hwait
    rw [hspec, hrel]
    rfl

theorem loadedWord_eq {w : Nat} (bs : List Byte) : loadedWord w bs =
    if w < 4 then BitVec.ofNat 64 (leNat bs) else ((BitVec.ofNat 64 (leNat bs)).setWidth (8 * 2 ^ (w % 4))).signExtend 64 := by
  have hle : 8 * 2 ^ (w % 4) ≤ 64 := by
    have : 2 ^ (w % 4) ≤ 2 ^ 3 := Nat.pow_le_pow_right (by decide) (by omega)
    omega
  rw [BitVec.setWidth_ofNat_of_le hle]
  rfl

/-- What a load leaves with the acquire after it. -/
theorem acquired_result {s t : State} (h : LinesMove s t) (hcore : s.st.place.master? ≠ none) (hfork : s.st.fork = none) (d : BitVec 5)
    (v : Word) : (t.acquire.result d v).x.pc = s.x.pc + 4 ∧ (t.acquire.result d v).st = s.st ∧ s.Got (t.acquire.result d v) d v ∧
      (∀ q, q < s.logBase s.die ∨ s.logBase s.die + 65536 ≤ q → (t.acquire.result d v).memByte q = s.memByte q) ∧
      (∀ e ∈ (t.acquire.result d v).tlb, e ∈ s.tlb) := by
  obtain ⟨hx, hst, htlb, hmem⟩ := acquire_frame h hcore hfork
  obtain ⟨hdest, hothers, -, -⟩ := wrote_result t.acquire d v
  have hmem' : (t.acquire.result d v).mem = t.acquire.mem := by simp [State.result]
  refine ⟨by simp [State.result, hx], by simp [State.result, hst], ⟨hdest, fun r hr => (hothers r hr).trans ?_⟩, fun q hq => ?_,
    by simpa [State.result] using htlb⟩
  · rw [State.getS, State.getS, hx]
  · rw [State.memByte, hmem']
    exact hmem q hq

theorem loadAcquire : Sys2Proof.Parts.LoadAcquire := by
  intro s d a w scope x hw hscope u n hreqs hfail hplain hro v
  have hs : s.st.place ≠ .saved := (kept_acquiredFrom s scope).place ▸ (core_of_master hplain.core).2
  have hspec : s.spec = false := (forkStays_acquiredFrom s scope).spec_eq_false hplain.alone.1
  have hexec : exec (.ldacq d a w scope) s = .next ((u.atRead x n).acquire.result d
      (if w.toNat < 4 then v else (v.setWidth (8 * n)).signExtend 64)) := by
    rw [exec_ldacq_of_acquiredFrom hs hspec hscope (sysWait_of_none_failed hreqs hfail), show s.acquiredFrom scope = u from rfl,
      loadW_of_plain hplain hro, loadedWord_eq]
    rfl
  exact ⟨_, hexec, acquired_result (linesMove_atRead u x n) hplain.core hplain.alone.1 d _⟩

/-- Settles O11: the load reads what the strand sees and moves lines alone; with an acquire, the strand's accesses are performed before
it and the die's log is applied after it. -/
theorem scalarLoads : Obligations.ScalarLoads := ⟨scalarLoad, loadAcquire⟩

end Sys2Proof.Machine

/-! What the checks of FORK and FORKT refuse (05 R102, R131). -/

namespace Sys2Proof.Machine

/-! ## Fork descriptors (R101, R102) -/

theorem bits_eq_zero_iff {x : Word} {lo n : Nat} : bits x lo n = 0 ↔ ∀ i, lo ≤ i → i < lo + n → x.getLsbD i = false := by
  constructor
  · intro h i hlo hhi
    have hbit := testBit_bits x lo n (i - lo)
    rw [h, Nat.zero_testBit, decide_eq_true (show i - lo < n by omega), Bool.true_and, Nat.add_sub_cancel' hlo] at hbit
    exact hbit.symm
  · intro h
    refine Nat.eq_of_testBit_eq fun i => ?_
    rw [testBit_bits, Nat.zero_testBit]
    by_cases hi : i < n
    · simp [h (lo + i) (by omega) (by omega)]
    · simp [hi]

/-- The masks of an odd word (R101): the live registers in its low half, the induction registers in its high half. -/
theorem getLsbD_mask (x : Word) (i : Nat) : (x.setWidth 32).getLsbD i = (bits x 0 32).testBit i := by
  simp [testBit_bits]

theorem bits_ushiftRight_32 (x : Word) : bits (x >>> 32) 0 32 = bits x 32 32 := by
  simp [bits, nbits, Nat.shiftRight_eq_div_pow]

/-- What a good descriptor meets (R102). -/
theorem good_of_descriptorOk {even odd : Word} {rows cols : Nat} (h : descriptorOk even odd rows cols = true) :
    (∀ i, (i = 16 ∨ 19 ≤ i ∧ i < 32 ∨ 48 ≤ i ∧ i < 64) → even.getLsbD i = false) ∧
      (odd.setWidth 32).getLsbD 0 = false ∧ ((odd >>> 32).setWidth 32).getLsbD 0 = false ∧
      (∀ i, ((odd >>> 32).setWidth 32).getLsbD i = true → (odd.setWidth 32).getLsbD i = true) ∧
      (List.range 32).countP (fun i => ((odd >>> 32).setWidth 32).getLsbD i) ≤ 4 ∧ rows * cols < 2 ^ 32 := by
  simp only [descriptorOk, Bool.and_eq_true, beq_iff_eq, bits_eq_zero_iff, Bool.not_eq_true', decide_eq_true_eq, bit, popc32,
    ← List.countP_eq_length_filter] at h
  obtain ⟨⟨⟨⟨⟨⟨⟨htop, hmid⟩, hlow⟩, hlive⟩, hind⟩, hsub⟩, hcount⟩, hsize⟩ := h
  simp only [getLsbD_mask, bits_ushiftRight_32]
  refine ⟨fun i hi => ?_, (testBit_bits odd 0 32 0).trans hlive, (testBit_bits odd 32 32 0).trans hind, fun i hi => ?_, hcount, hsize⟩
  · obtain rfl | ⟨hlo, hhi⟩ | ⟨hlo, hhi⟩ := hi
    · exact hlow 16 (by omega) (by omega)
    · exact hmid i hlo (by omega)
    · exact htop i hlo (by omega)
  · rw [← hsub, Nat.testBit_and, Bool.and_eq_true] at hi
    exact hi.2

/-- FORK and FORKT outside an inline loop stop at a bad descriptor. -/
theorem forkWith_of_bad {s : State} (hcore : s.st.place.master? ≠ none) (hinline : s.x.inline = none) {b : BitVec 5} {rows cols : Nat}
    {tiled : Bool} (hbad : descriptorOk (s.getS b) (s.getS (b + 1)) rows (if tiled then cols else 1) = false) (i : Instr) :
    forkWith i tiled rows cols b s = .next (s.trapS 0x40 (s.getS b)) := by
  have hgate : gate i Need.strand s = .ok () := gate_admits _ _ _ (admits_core hcore)
  simp only [forkWith, hgate, hinline, hbad]
  simp [bind, Except.bind]

/-- Settles O18: a descriptor with one of the faults fails its check, which comes before the snapshot. -/
theorem badForkDescriptor : Obligations.BadForkDescriptor := by
  intro s d a b hcore hinline even odd live ind bad
  have refuses (rows cols : Nat) (h : bad ∨ 2 ^ 32 ≤ rows * cols) : descriptorOk even odd rows cols = false := by
    by_contra hok
    obtain ⟨heven, hlive, hind, hsub, hcount, hsize⟩ := good_of_descriptorOk (Bool.eq_true_of_not_eq_false hok)
    obtain (⟨i, hi, hset⟩ | hset | hset | ⟨i, hset, hclear⟩ | hmany) | hlarge := h
    · exact Bool.eq_false_iff.mp (heven i hi) hset
    · exact Bool.eq_false_iff.mp hlive hset
    · exact Bool.eq_false_iff.mp hind hset
    · exact Bool.eq_false_iff.mp hclear (hsub i hset)
    · exact absurd hcount (Nat.not_le.mpr hmany)
    · exact absurd hsize (Nat.not_lt.mpr hlarge)
  refine ⟨fun h => forkWith_of_bad hcore hinline (refuses _ 1 (.inl h)) _, fun h => forkWith_of_bad hcore hinline ?_ _⟩
  rw [if_pos rfl, bits_lowest, bits_lowest]
  exact refuses _ _ h

end Sys2Proof.Machine

/-! Where a fork or the start of a chunk does more than its statement says: it performs additions that pend (05 R103, R105, R106). -/

namespace Sys2Proof.Machine

/-! ## Concrete answers -/

/-- The instruction answers a next state of which `p` holds. -/
def answers (r : Host.Outcome State Fault Refusal) (p : State → Bool) : Bool :=
  match r with
  | .next t => p t
  | .fault _ => false
  | .refused _ => false

theorem of_answers {r : Host.Outcome State Fault Refusal} {p : State → Bool} (h : answers r p = true) {t : State} (ht : r = .next t) :
    p t = true := by
  subst ht
  exact h

/-! ## FORK with an addition pending (R103, R270) -/

/-- A strand at a FORK of one iteration whose own addition of 1 to the four bytes at 0 pends at their memory port. -/
def forkingWhileAdding : State :=
  { State.reset with
    x := { Ctx.zero with sreg := vset Ctx.zero.sreg 10 1 }
    st := { Strand.zero with place := .ring 0 }
    scatter := [{ pa := 0, vc := 0, wide := false, op := 0, value := 1, owner := 0 }] }

/-- The fork orders the strand's accesses for its chunks, which applies the addition. -/
theorem fork_applies_addition : answers (exec (.fork 10 12) forkingWhileAdding) (fun t => t.mem == [(0, 1)]) = true := by
  decide +kernel

/-- Refutes O19: FORK performs the strand's additions that pend at the memory ports, so bytes of memory change. -/
theorem not_forksBegin : ¬ Obligations.ForksBegin := by
  rintro ⟨hbegins, -, -⟩
  obtain ⟨hfork, -⟩ := hbegins forkingWhileAdding 0 10 12 (by decide) rfl (fun _ h => nomatch h)
  obtain ⟨t, ht, -, -, -, -, -, -, -, -, -, -, -, -, -, -, -, hmem⟩ := hfork (by decide +kernel) (by decide +kernel)
  have hadded : t.mem = [(0, 1)] := by simpa using of_answers fork_applies_addition ht
  rw [hadded] at hmem
  exact List.cons_ne_nil _ _ hmem

/-! ## CHUNK_START where chunks run one at a time (R61, R106, R112) -/

/-- A serial fork at the start of chunk 1, chunk 0 having committed. A finished chunk in the focus, numbered 2, has read the line at
0, on which additions of its own strand and of another pend, with a vector store buffered behind them. A fork that starts its chunks
in order has no chunk 2 before chunk 1 starts, but the statement is about every state. -/
def startingSerially : State :=
  let f : Fork :=
    { forkPc := 0, endiPc := none, even := 0, odd := 0, tiled := false, rows := 9, cols := 0, high := 1, wide := 0, count := 9,
      nchunks := 9, posBase := 0, snap := Ctx.zero.snap, level := 0, snapAt := 2#8, chunks := [], next := 1, committed := 1,
      passing := true, squashCount := [], anns := [], chain := [], arrived := [], confirms := [], updated := 0, posts := [],
      breaking := none, combines := [] }
  { State.reset with
    x := { Ctx.zero with
      phase := .finished, cnum := 2
      vers := [{ word := 0, data := 0, exposed := true, src := none, written := false, wseq := 0 }] }
    st := { Strand.zero with
      place := .ring 0, active := true, serial := true, fork := some f, vbuf := [{ pa := 64, data := [1], vcache := 0 }] }
    scatter := [{ pa := 0, vc := 0, wide := false, op := 0, value := 1, owner := 0 },
      { pa := 0, vc := 0, wide := false, op := 0, value := 1, owner := 1 }] }

/-- Draining the vector store applies the additions as one store that is not the strand's own, which squashes its reader. -/
theorem chunkStart_squashes_reader :
    answers (exec .chunkStart startingSerially) (fun t => t.x.phase == .idle) = true := by
  decide +kernel

/-- Refutes O23: a chunk that starts as the head drains the store buffers, and the additions performed with them may squash the chunk
in the focus. -/
theorem not_chunkEvents : ¬ Obligations.ChunkEvents := by
  rintro ⟨hstarts, -⟩
  obtain ⟨-, -, hstart, -⟩ := hstarts startingSerially _ 0 rfl
  obtain ⟨t, f', c, ht, -, hx, -⟩ := hstart (by decide +kernel)
  have hidle : t.x.phase = .idle := by simpa using of_answers chunkStart_squashes_reader ht
  rw [hx] at hidle
  cases hidle

end Sys2Proof.Machine

/-! What the instructions of a loop read, wait for and post (05 R117, R125, R127, R131, R132), and the queries, the priority and the
yield of a strand (03 R78 to R80). -/

namespace Sys2Proof.Machine

/-! ## Gates of loop and strand instructions -/

section
variable {s : State} (hcore : s.st.place.master? ≠ none)
include hcore

/-- On a ring or a gateway core an instruction that needs nothing more begins. -/
theorem finish_gate_strand (i : Instr) (k : Unit → Run State) : finish (gate i Need.strand s >>= k) = finish (k ()) := by
  rw [gate_admits i Need.strand s (admits_core hcore)]
  rfl

/-- In a fork an instruction that needs one begins. -/
theorem finish_gate_loop (hactive : s.st.active = true) (i : Instr) (k : Unit → Run State) :
    finish (gate i Need.strand s >>= fun _ => needFork i s >>= k) = finish (k ()) := by
  have hneed : needFork i s = .ok () := by simp [needFork, State.inFork, hactive]
  rw [finish_gate_strand hcore, hneed]
  rfl

end

/-- A wait lets the instruction go on, or stalls it. -/
theorem finish_check (b : Bool) (t : State) (k : Unit → Run State) :
    finish (check b t >>= k) = if b then finish (k ()) else .next t := by
  cases b <;> rfl

/-- An instruction that only passes on. -/
theorem wrote_advance (s : State) : s.Wrote s.advance 0 0 (s.x.pc + 4) := wrote_of_goto s _

/-! ## ITER, CSPEC, HEADW and CHAINW (R117, R127, R131, R132) -/

theorem iterIndex_of_inline {s : State} {l : Inline} (h : s.x.inline = some l) (hcols : 0 < l.cols) :
    s.iterIndex 0 = l.index ∧ s.iterIndex 1 = l.index / l.cols ∧ s.iterIndex 2 = l.index % l.cols := by
  simp [State.iterIndex, h, hcols.ne']

/-- The indices in the fork's own loop. -/
theorem iterIndex_of_fork {s : State} {f : Fork} (h : s.x.inline = none) (hfork : s.st.fork = some f) :
    s.iterIndex 0 = s.x.citer.toNat ∧ s.iterIndex 1 = (f.rowCol s.x.cnum.toNat s.x.citer.toNat).1 ∧
      s.iterIndex 2 = (f.rowCol s.x.cnum.toNat s.x.citer.toNat).2 := by
  simp [State.iterIndex, h, hfork]

theorem exec_iter {s : State} (hcore : s.st.place.master? ≠ none) (hactive : s.st.active = true) (d : BitVec 5) (sel : BitVec 6) :
    exec (.iter d sel) s = .next (s.result d (BitVec.ofNat 64 (s.iterIndex sel.toNat))) := finish_gate_loop hcore hactive _ _

/-- The distance from the head, where no head is passing. -/
theorem ofInt_sub_headNum {f : Fork} (h : f.passing = false) (k : BitVec 32) :
    BitVec.ofInt 64 ((k.toNat : Int) - f.headNum) = k.setWidth 64 - BitVec.ofNat 64 f.committed := by
  rw [Fork.headNum, h, if_neg Bool.false_ne_true, Int.sub_eq_add_neg, BitVec.ofInt_add, BitVec.ofInt_neg, BitVec.ofInt_natCast,
    BitVec.ofInt_natCast, BitVec.ofNat_toNat, ← BitVec.sub_eq_add_neg]

theorem exec_cspec {s : State} {f : Fork} (hcore : s.st.place.master? ≠ none) (hactive : s.st.active = true)
    (hfork : s.st.fork = some f) (hpassing : f.passing = false) (d : BitVec 5) :
    exec (.cspec d) s = .next (s.result d (s.x.cnum.setWidth 64 - BitVec.ofNat 64 f.committed)) := by
  refine (finish_gate_strand hcore _ _).trans ?_
  simp only [hfork, State.inFork, hactive, if_true, ofInt_sub_headNum hpassing, finish_ok]

theorem exec_headw {s : State} (hcore : s.st.place.master? ≠ none) :
    exec .headw s = .next (if s.spec then s else s.advance) := by
  refine (finish_gate_strand hcore _ _).trans ?_
  cases hspec : s.spec with
  | true => rw [headWait_spec s hspec]; rfl
  | false => rw [headWait_head s hspec]; rfl

theorem exec_chainw {s : State} {f : Fork} (hcore : s.st.place.master? ≠ none) (hfork : s.st.fork = some f) (a : BitVec 5) :
    exec (.chainw a) s =
      .next (if s.spec && s.x.cnum != 0 && f.odd.getLsbD a.toNat && !s.x.confirmed then s else s.advance) := by
  refine (finish_gate_strand hcore _ _).trans ?_
  have stalls (b : Bool) : finish (check (!b) s >>= fun _ => .ok s.advance) = .next (if b then s else s.advance) := by cases b <;> rfl
  rw [hfork]
  exact stalls _

theorem forkQueries : Sys2Proof.Parts.ForkQueries := by
  intro s d a sel f hcore hactive hfork
  refine ⟨⟨_, exec_iter hcore hactive d sel, wrote_result s d _⟩, fun hinline htiled => ?_, fun hinline htiled => ?_,
    fun l hl hcols => iterIndex_of_inline hl hcols, fun hpassing => ⟨_, exec_cspec hcore hactive hfork hpassing d, wrote_result s d _⟩,
    fun hhead => ⟨_, exec_headw hcore, ?_⟩, fun hspec => ?_, fun hpass => ⟨_, exec_chainw hcore hfork a, ?_⟩,
    fun hspec hk hlive hopen => ?_⟩
  · obtain ⟨h0, h1, h2⟩ := iterIndex_of_fork hinline hfork
    simp only [Fork.rowCol, htiled, Bool.false_eq_true, if_false] at h1 h2
    exact ⟨h0, h1, h2⟩
  · obtain ⟨h0, h1, h2⟩ := iterIndex_of_fork hinline hfork
    simp only [Fork.rowCol, htiled, if_true] at h1 h2
    exact ⟨h0, h1, h2⟩
  · rw [hhead]
    exact wrote_advance s
  · rw [exec_headw hcore, hspec]
    rfl
  · have hgo : (s.spec && s.x.cnum != 0 && f.odd.getLsbD a.toNat && !s.x.confirmed) = false := by
      obtain h | h | h | h := hpass <;> simp [h]
    rw [hgo]
    exact wrote_advance s
  · have hstay : (s.spec && s.x.cnum != 0 && f.odd.getLsbD a.toNat && !s.x.confirmed) = true := by
      rw [hspec, bne_iff_ne.mpr hk, hlive, hopen]
      rfl
    rw [exec_chainw hcore hfork, hstay]
    rfl

/-! ## IPOST and IWAIT (R125) -/

theorem postTag_of_posted {s : State} {iter tag : Nat} (h : s.x.posts.contains (iter, tag) = true) : s.postTag iter tag = s := if_pos h

theorem postTag_of_new {s : State} {f : Fork} {iter tag : Nat} (h : s.x.posts.contains (iter, tag) = false) (hfork : s.st.fork = some f) :
    s.postTag iter tag = { s with
      x := { s.x with posts := s.x.posts ++ [(iter, tag)] }
      st := { s.st with fork := some { f with posts := f.posts ++ [{ iter := iter, tag := tag, cnum := s.x.cnum.toNat }] } } } := by
  rw [State.postTag, if_neg (Bool.eq_false_iff.mp h), hfork]

theorem exec_ipost {s : State} (hcore : s.st.place.master? ≠ none) (hactive : s.st.active = true) (g : BitVec 6) :
    exec (.ipost g) s = .next (s.postTag s.x.citer.toNat g.toNat).advance := finish_gate_loop hcore hactive _ _

/-- IWAIT refuses an iteration that is not older, and goes on once the tag is known to have been posted. -/
theorem exec_iwait {s : State} {f : Fork} (hcore : s.st.place.master? ≠ none) (hactive : s.st.active = true)
    (hfork : s.st.fork = some f) (a : BitVec 5) (g : BitVec 6) :
    let i := (s.getS a).toNat % 2 ^ 32
    exec (.iwait a g) s =
      if i < s.x.citer.toNat then
        .next (if f.chunkStart s.x.cnum.toNat ≤ i ∨ i < f.chunkStart f.committed ∨ s.x.seen.contains (i, g.toNat) = true then s.advance
          else s)
      else .next (s.trapS 0x42 (BitVec.ofNat 64 i)) := by
  intro i
  refine (finish_gate_loop hcore hactive _ _).trans ?_
  simp only [finish_check, hfork, bits_lowest, decide_eq_true_eq, Bool.or_eq_true, or_assoc, finish_ok, ← apply_ite Host.Outcome.next]
  rfl

theorem iterationTags : Sys2Proof.Parts.IterationTags := by
  intro s a g f hcore hactive hfork it i
  refine ⟨fun hnew => ?_, fun hposted => ⟨_, exec_ipost hcore hactive g, ?_⟩, fun hi => ?_, fun hi hgo => ⟨_, ?_, wrote_advance s⟩,
    fun hi hown hhead hseen => ?_⟩
  · rw [exec_ipost hcore hactive, postTag_of_new hnew hfork]
    exact ⟨_, rfl, rfl, rfl, rfl, rfl, rfl⟩
  · rw [postTag_of_posted hposted]
    exact wrote_advance s
  · exact (exec_iwait hcore hactive hfork a g).trans (if_neg (Nat.not_lt.mpr hi))
  · refine (exec_iwait hcore hactive hfork a g).trans ((if_pos hi).trans ?_)
    rw [if_pos hgo]
  · refine (exec_iwait hcore hactive hfork a g).trans ((if_pos hi).trans ?_)
    rw [if_neg (not_or.mpr ⟨Nat.not_le.mpr hown, not_or.mpr ⟨Nat.not_lt.mpr hhead, Bool.eq_false_iff.mp hseen⟩⟩)]

/-! ## RINGID, STRIDX, GRPQ, SPRIO and YIELD (R78 to R80) -/

theorem exec_ringid {s : State} {m : Nat} (h : s.st.place.master? = some m) (d : BitVec 5) :
    exec (.ringid d) s = .next (s.result d (BitVec.ofNat 64 m)) := by
  refine (finish_gate_strand (h ▸ Option.some_ne_none m) _ _).trans ?_
  rw [State.ringid, h]
  rfl

theorem exec_stridx {s : State} (hcore : s.st.place.master? ≠ none) (d : BitVec 5) :
    exec (.stridx d) s = .next (s.result d ((s.st.id.setWidth 32).setWidth 64)) := by
  refine (finish_gate_strand hcore _ _).trans ?_
  rw [idIndex, BitVec.ofNat_toNat]
  rfl

/-- The map of a group of the strand's launch, 0 for one that it has not declared. -/
def State.groupMap (s : State) (n : Nat) : Word :=
  match s.cp.groups.find? (fun g => g.handle == idHandle s.st.id && g.index == n) with
  | some g => g.map
  | none => 0

theorem exec_grpq {s : State} (hcore : s.st.place.master? ≠ none) (d a : BitVec 5) :
    exec (.grpq d a) s = .next (s.result d (s.groupMap (s.getS a).toNat)) := finish_gate_strand hcore _ _

theorem exec_sprio {s : State} (hcore : s.st.place.master? ≠ none) (a : BitVec 5) :
    let p := BitVec.ofNat 2 (max ((s.getS a).toNat % 4) s.st.prio.toNat)
    exec (.sprio a) s = .next (if s.spec then { s with x := { s.x with sprio := some p } }
      else { s with x := { s.x with sprio := none }, st := { s.st with runPrio := p } } : State).advance := by
  intro p
  refine (finish_gate_strand hcore _ _).trans ?_
  rw [bits_lowest]
  rfl

theorem exec_yield {s : State} (hcore : s.st.place.master? ≠ none) :
    exec .yield s = .next (if s.spec || !s.yieldFor then s.advance else s.advance.preempt s.st.id true) := by
  refine (finish_gate_strand hcore _ _).trans ?_
  cases s.spec || !s.yieldFor <;> rfl

theorem strandQueriesAndYield : Sys2Proof.Parts.StrandQueriesAndYield := by
  intro s d a hcore p
  refine ⟨fun r hr => ⟨_, exec_ringid (by rw [hr]; rfl) d, wrote_result s d _⟩,
    fun g hg => ⟨_, exec_ringid (by rw [hg]; rfl) d, wrote_result s d _⟩, ⟨_, exec_stridx hcore d, wrote_result s d _⟩,
    fun g hg => ⟨_, exec_grpq hcore d a, ?_⟩, fun hnone => ⟨_, exec_grpq hcore d a, ?_⟩, fun hhead => ?_, fun hspec => ?_,
    fun hstay => ⟨_, exec_yield hcore, ?_⟩, fun hhead hfor => ?_, fun hfork hfor hrun hgang => ?_⟩
  · rw [State.groupMap, hg]
    exact wrote_result s d _
  · have hmissing : s.cp.groups.find? (fun g => g.handle == idHandle s.st.id && g.index == (s.getS a).toNat) = none :=
      List.find?_eq_none.mpr (by simpa using hnone)
    rw [State.groupMap, hmissing]
    exact wrote_result s d _
  · rw [exec_sprio hcore, hhead]
    rfl
  · rw [exec_sprio hcore, hspec]
    rfl
  · have hno : (s.spec || !s.yieldFor) = true := by obtain h | h := hstay <;> simp [h]
    rw [hno]
    exact wrote_advance s
  · rw [exec_yield hcore, hhead, hfor]
    rfl
  · have hstops : s.advance.preempt s.st.id true = _ := preempt_focus (s := s.advance) hrun hfork hcore hgang true
    rw [exec_yield hcore, spec_of_no_fork hfork, hfor]
    exact ⟨_, congrArg _ hstops, rfl, rfl, rfl, rfl⟩

/-- Settles O20: each of the instructions passes its gate, and then does one thing or stalls; what it writes is the index, the
distance or the name that the rules give. -/
theorem loopQueriesAndTags : Obligations.LoopQueriesAndTags := ⟨forkQueries, iterationTags, strandQueriesAndYield⟩

end Sys2Proof.Machine

/-! How iterations and chunks end: ENDI, FBREAK and JOIN, of a fork and of an inline loop (05 R114, R116, R126, R129 to R131). -/

namespace Sys2Proof.Machine

/-! ## Tags posted at the end of an iteration (R125) -/

/-- From `s`, whose fork it keeps, to `t` tags have been posted and nothing else. -/
def TagsPosted (s t : State) : Prop :=
  ∀ f, s.st.fork = some f → ∃ posts tags, t = { s with
    x := { s.x with posts := posts }, st := { s.st with fork := some { f with posts := tags } } }

namespace TagsPosted

theorem refl (s : State) : TagsPosted s s := fun f hfork => ⟨s.x.posts, f.posts, by rw [← hfork]⟩

theorem trans {s t u : State} (h : TagsPosted s t) (k : TagsPosted t u) : TagsPosted s u := fun f hfork => by
  obtain ⟨_, _, rfl⟩ := h f hfork
  obtain ⟨posts, tags, rfl⟩ := k _ rfl
  exact ⟨posts, tags, rfl⟩

theorem postTag (s : State) (iter tag : Nat) : TagsPosted s (s.postTag iter tag) := fun f hfork => by
  cases hposted : s.x.posts.contains (iter, tag) with
  | true => rw [postTag_of_posted hposted]; exact refl s f hfork
  | false => exact ⟨_, _, postTag_of_new hposted hfork⟩

theorem postAll (s : State) : TagsPosted s s.postAll := foldl_keeps refl trans (fun s t => postTag s _ t) _ s

end TagsPosted

/-! ## Finishing and committing a chunk (R107, R114, R116) -/

/-- What finishing a chunk leaves: its context has finished, its tags are posted and its live-ins sent. -/
theorem finishChunk_eq {s : State} {f : Fork} (hfork : s.st.fork = some f) : ∃ posts tags chain, s.finishChunk = { s with
    x := { s.x with posts := posts, phase := .finished }
    st := { s.st with fork := some { f with posts := tags, chain := chain } } } := by
  obtain ⟨posts, tags, hposted⟩ := TagsPosted.postAll s f hfork
  unfold State.finishChunk
  rw [hposted]
  dsimp only
  split_ifs
  · exact ⟨posts, tags, _, rfl⟩
  · exact ⟨posts, tags, f.chain, rfl⟩

theorem applySprio_eq (st : Strand) (x : Ctx) : ∃ prio, st.applySprio x = { st with runPrio := prio } := by
  unfold Strand.applySprio
  cases x.sprio with
  | none => exact ⟨st.runPrio, rfl⟩
  | some p => exact ⟨p, rfl⟩

/-- What the commit of the head leaves: one more chunk is committed, and head is passing on. -/
theorem commitHead_eq {s : State} {f : Fork} (hfork : s.st.fork = some f) : ∃ prio combines tags, s.commitHead = { s with
    x := { s.x with partials := [], vers := [], sprio := none }
    st := { s.st with runPrio := prio, fork := some { f with
      committed := f.committed + 1, passing := true, combines := combines, posts := tags } } } := by
  obtain ⟨prio, hprio⟩ := applySprio_eq s.st s.x
  unfold State.commitHead
  rw [hfork]
  dsimp only
  rw [hprio]
  exact ⟨prio, _, _, rfl⟩

/-- A change of the context and the fork that leaves alone what head is decided by. -/
theorem spec_of_head {s t : State} {f g : Fork} (hf : s.st.fork = some f) (hg : t.st.fork = some g) (hn : g.nchunks = f.nchunks)
    (hc : g.committed = f.committed) (hp : g.passing = f.passing) (hk : t.x.cnum = s.x.cnum) : t.spec = s.spec := by
  simp only [State.spec, headOf, hf, hg, hn, hc, hp, hk]

theorem headWait_bind {s : State} (h : s.spec = false) (k : Unit → Run State) : headWait s >>= k = k () := by
  rw [headWait_head s h]
  rfl

theorem commitWait_bind {s : State} (h : s.x.owed = .nothing) (k : Unit → Run State) : s.commitWait >>= k = k () := by
  rw [State.commitWait, h]
  rfl

/-! ## ENDI (R129, R131, R132) -/

theorem markEndi_of_running {s : State} (h : s.st.phase = .running) : s.markEndi = s := by
  rw [State.markEndi, h]

section
variable {s : State} (hcore : s.st.place.master? ≠ none) (hactive : s.st.active = true)
include hcore hactive

theorem exec_endi_of_inline {l : Inline} (hinline : s.x.inline = some l) :
    exec .endi s = finish (endInlineIter l s >>= fun t => .ok t.markEndi) := by
  refine (finish_gate_loop hcore hactive _ _).trans ?_
  rw [hinline]

theorem exec_endi_of_fork {f : Fork} (hinline : s.x.inline = none) (hfork : s.st.fork = some f) :
    exec .endi s = finish (endIteration f s >>= fun t => .ok t.markEndi) := by
  refine (finish_gate_loop hcore hactive _ _).trans ?_
  rw [hinline, hfork]

end

/-- The fork once it is known where its ENDI stands. -/
def Fork.endingAt (f : Fork) (pc : BitVec 54) : Fork := { f with endiPc := some pc }

/-- `s` once its fork has recorded that its ENDI stands at pc. -/
def State.atEndi (s : State) (f : Fork) : State := { s with st := { s.st with fork := some (f.endingAt s.x.pc) } }

/-- A finished chunk, once it is the head and owes nothing, commits: the last of its fork goes on to JOIN, another leaves its context
(R114, R129). -/
def closeChunk (nchunks : Nat) (u : State) : Run State := do
  headWait u
  u.commitWait
  let t := u.commitHead
  if u.x.cnum.toNat + 1 = nchunks then .ok ({ t with x := { t.x with phase := .running } }.toJoin .outer (t.x.pc + 4))
  else .ok { t with retired := true, x := { idleCtx t.x.pos with cnum := t.x.cnum } }

/-- The context of the focus once it has finished. -/
def State.onceFinished (s : State) : State := if (s.x.phase == .finished) = true then s else s.finishChunk

theorem onceFinished_of_running {s : State} (h : s.x.phase = .running) : s.onceFinished = s.finishChunk := by
  rw [State.onceFinished, h]
  exact if_neg (by decide)

theorem cnum_onceFinished {s : State} {f : Fork} (hfork : s.st.fork = some f) : s.onceFinished.x.cnum = s.x.cnum := by
  unfold State.onceFinished
  split_ifs
  · rfl
  · obtain ⟨_, _, _, h⟩ := finishChunk_eq hfork
    rw [h]

/-- ENDI goes to the next iteration, or finishes the chunk and closes it. -/
theorem endIteration_eq (s : State) (f : Fork) : endIteration f s =
    check (f.endiPc.all (· == s.x.pc)) (s.trapS 0x41 (s.x.pc.setWidth 64)) >>= fun _ =>
      if (s.x.phase != .finished) = true ∧ s.x.citer.toNat + 1 < (f.endingAt s.x.pc).chunkStart s.x.cnum.toNat +
          (f.endingAt s.x.pc).chunkLen s.x.cnum.toNat then
        .ok (State.goto { (s.atEndi f).postAll with
          x := { (s.atEndi f).postAll.x with citer := (s.atEndi f).postAll.x.citer + 1 } } (f.forkPc + 4))
      else check (s.x.phase == .finished || (s.atEndi f).drained) (s.atEndi f) >>= fun _ =>
        closeChunk f.nchunks (s.atEndi f).onceFinished := by
  rw [closeChunk, cnum_onceFinished rfl]
  unfold endIteration State.onceFinished State.atEndi Fork.endingAt
  cases f.endiPc <;> rfl

theorem all_of_known {o : Option (BitVec 54)} {pc : BitVec 54} (h : o = none ∨ o = some pc) : o.all (· == pc) = true := by
  obtain rfl | rfl := h <;> simp

theorem endIteration_of_other {s : State} {f : Fork} {e : BitVec 54} (hend : f.endiPc = some e) (he : e ≠ s.x.pc) :
    endIteration f s = .error (s.trapS 0x41 (s.x.pc.setWidth 64)) := by
  rw [endIteration_eq, hend, Option.all_some, beq_false_of_ne he]
  rfl

theorem bind_check_true {b : Bool} (h : b = true) (t : State) (k : Unit → Run State) : check b t >>= k = k () := by
  rw [h]
  rfl

section
variable {s : State} {f : Fork} (hend : f.endiPc = none ∨ f.endiPc = some s.x.pc) (hrun : s.x.phase = .running)
include hend hrun

theorem endIteration_of_more (hmore : s.x.citer.toNat + 1 < f.chunkStart s.x.cnum.toNat + f.chunkLen s.x.cnum.toNat) :
    endIteration f s = .ok (State.goto { (s.atEndi f).postAll with
      x := { (s.atEndi f).postAll.x with citer := (s.atEndi f).postAll.x.citer + 1 } } (f.forkPc + 4)) := by
  rw [endIteration_eq, bind_check_true (all_of_known hend), if_pos ⟨by rw [hrun]; rfl, hmore⟩]

/-- After the last iteration a chunk that has done all it must finishes and closes. -/
theorem endIteration_of_last (hlast : f.chunkStart s.x.cnum.toNat + f.chunkLen s.x.cnum.toNat ≤ s.x.citer.toNat + 1)
    (hfork : s.st.fork = some f) (hdrained : s.drained = true) :
    endIteration f s = closeChunk f.nchunks (s.atEndi f).finishChunk := by
  have hready : (s.atEndi f).drained = true := by
    rw [← hdrained]
    unfold State.drained State.spec headOf
    rw [hfork]
    rfl
  rw [endIteration_eq, bind_check_true (all_of_known hend), if_neg fun h => absurd hlast (Nat.not_le.mpr h.2),
    bind_check_true (by rw [hready, Bool.or_true]), onceFinished_of_running (s := s.atEndi f) hrun]

end

/-- The head that owes nothing commits at once. -/
theorem closeChunk_of_head {u : State} (hspec : u.spec = false) (howed : u.x.owed = .nothing) (nchunks : Nat) :
    closeChunk nchunks u = .ok (if u.x.cnum.toNat + 1 = nchunks then
      State.toJoin .outer (u.commitHead.x.pc + 4) { u.commitHead with x := { u.commitHead.x with phase := .running } }
      else { u.commitHead with retired := true, x := { idleCtx u.commitHead.x.pos with cnum := u.commitHead.x.cnum } }) := by
  rw [closeChunk, headWait_bind hspec, commitWait_bind howed]
  dsimp only
  split_ifs <;> rfl

theorem endInlineIter_eq {s : State} {l : Inline} (hend : l.endiPc = none ∨ l.endiPc = some s.x.pc) :
    endInlineIter l s = .ok (if l.index + 1 < l.count then
      State.goto { s with x := { s.x with inline := some { l with endiPc := some s.x.pc, index := l.index + 1 } } } (l.forkPc + 4)
      else State.toJoin .inline (s.x.pc + 4) { s with x := { s.x with inline := some { l with endiPc := some s.x.pc } } }) := by
  unfold endInlineIter
  obtain h | h := hend
  all_goals
    simp only [h, beq_self_eq_true, check_true, bind, Except.bind]
    split_ifs <;> rfl

theorem joinHere_toJoin (k : JoinKind) (pc : BitVec 54) (s : State) : (s.toJoin k pc).joinHere = some k := by
  simp [State.joinHere, State.toJoin, State.goto]

theorem nextIteration : Sys2Proof.Parts.NextIteration := by
  intro s f hcore hactive hfork hrunning
  refine ⟨fun hinline hend hrun hmore => ?_, fun hinline e hend he => ?_, fun l hinline hend => ?_⟩
  · obtain ⟨posts, tags, hposted⟩ := TagsPosted.postAll (s.atEndi f) _ rfl
    rw [exec_endi_of_fork hcore hactive hinline hfork, endIteration_of_more hend hrun hmore, hposted]
    refine ⟨_, congrArg _ (markEndi_of_running ?_), ?_⟩
    · exact hrunning
    · exact ⟨rfl, rfl, rfl, rfl, rfl, _, rfl, rfl, rfl⟩
  · rw [exec_endi_of_fork hcore hactive hinline hfork, endIteration_of_other hend he]
    rfl
  · rw [exec_endi_of_inline hcore hactive hinline, endInlineIter_eq hend]
    split_ifs with hmore
    · refine ⟨_, congrArg _ (markEndi_of_running ?_), rfl, rfl, rfl, fun _ => ⟨rfl, rfl⟩, fun h => absurd hmore (Nat.not_lt.mpr h)⟩
      exact hrunning
    · refine ⟨_, congrArg _ (markEndi_of_running ?_), rfl, rfl, rfl, fun h => absurd h hmore, fun _ => ⟨rfl, joinHere_toJoin _ _ _⟩⟩
      exact hrunning

/-! ## JOIN (R129 to R131) -/

theorem exec_join_of_inline {s : State} (hcore : s.st.place.master? ≠ none) (h : s.joinHere = some .inline) :
    exec .join s = .next (State.advance { s with x := { s.x with inline := none, joinDue := none } }) := by
  refine (finish_gate_strand hcore _ _).trans ?_
  rw [h]
  rfl

theorem exec_join_of_outer {s : State} (hcore : s.st.place.master? ≠ none) (h : s.joinHere = some .outer)
    (hcombines : ∀ g, s.st.fork = some g → g.combines = []) : exec .join s = .next s.joined.advance := by
  refine (finish_gate_strand hcore _ _).trans ?_
  rw [h]
  cases hfork : s.st.fork with
  | none => rfl
  | some g =>
    change finish (check g.combines.isEmpty s >>= fun _ => .ok s.joined.advance) = _
    rw [hcombines g hfork]
    rfl

theorem commitAndJoin : Sys2Proof.Parts.CommitAndJoin := by
  intro s f hcore hactive
  refine ⟨fun hfork hrunning hinline hend hrun hlast hdrained hspec howed hcnum hmore => ?_, fun hjoin hcombines => ?_, fun hjoin => ?_⟩
  · obtain ⟨posts, tags, chain, hfin⟩ := finishChunk_eq (s := s.atEndi f) rfl
    have hhead : (s.atEndi f).finishChunk.spec = false := by
      rw [← hspec, hfin]
      exact spec_of_head hfork rfl rfl rfl rfl rfl
    obtain ⟨prio, combines, left, hcommit⟩ := commitHead_eq (s := (s.atEndi f).finishChunk) (by rw [hfin])
    have hnum : (s.atEndi f).finishChunk.x.cnum.toNat = f.committed := by rw [hfin]; exact hcnum.symm
    rw [exec_endi_of_fork hcore hactive hinline hfork, endIteration_of_last hend hrun hlast hfork hdrained,
      closeChunk_of_head hhead (by rw [hfin]; exact howed), hnum]
    by_cases hk : f.committed + 1 = f.nchunks
    · rw [if_pos hk, hcommit, hfin]
      refine ⟨_, congrArg _ (markEndi_of_running ?_), rfl, ⟨_, rfl, rfl, rfl⟩, fun _ => ⟨rfl, rfl, joinHere_toJoin _ _ _⟩,
        fun h => absurd hk h⟩
      exact hrunning
    · rw [if_neg hk, hcommit, hfin]
      refine ⟨_, congrArg _ (markEndi_of_running ?_), rfl, ⟨_, rfl, rfl, rfl⟩, fun h => absurd h hk, fun _ => rfl⟩
      exact hrunning
  · rw [exec_join_of_outer hcore hjoin hcombines]
    exact ⟨_, rfl, rfl, rfl, rfl, rfl, rfl, rfl, rfl, rfl, rfl, rfl, rfl, rfl, rfl⟩
  · rw [exec_join_of_inline hcore hjoin]
    exact ⟨_, rfl, rfl, rfl, rfl⟩

/-! ## FBREAK (R126, R131) -/

/-- What a discard without charge of the chunks from k on leaves, where the focus runs an older one. -/
theorem discardFrom_of_younger {r : Runner} {f : Fork} {k : Nat} (hfork : r.st.fork = some f) (hk : r.x.cnum.toNat < k) :
    ∃ g, discardFrom k false r = { x := r.x, st := { r.st with fork := some g } } ∧ g.committed = f.committed ∧
      ∀ c ∈ g.chunks, c.phase = .idle ∨ c.cnum.toNat < k := by
  have hx : (decide (k ≤ r.x.cnum.toNat) && r.x.phase != .idle) = false := by simp [hk]
  unfold discardFrom
  rw [hfork]
  dsimp only
  simp only [hx, Bool.false_and, Bool.or_false, Bool.false_eq_true, if_false]
  refine ⟨_, rfl, rfl, fun c hc => ?_⟩
  have hkept := (List.mem_filter.mp hc).2
  simp only [Bool.or_eq_true, decide_eq_true_eq, beq_iff_eq] at hkept
  exact hkept.symm

/-- The break of a finished chunk stands in its context and in the fork until the chunk is the head (R126). -/
def State.breaking (s : State) : State :=
  { s with x := { s.x with broke := true }, st := { s.st with fork := s.st.fork.map (fun f =>
    { f with breaking := some (match f.breaking with | some b => min b s.x.cnum.toNat | none => s.x.cnum.toNat) }) } }

/-- The younger chunks are discarded, the head commits, and the loop is left for its JOIN. -/
def State.leaveLoop (s : State) (e : BitVec 54) : State :=
  let r := discardFrom (s.x.cnum.toNat + 1) false { x := s.x, st := s.st }
  let t := ({ s with x := r.x, st := r.st } : State).commitHead
  State.toJoin .outer (e + 4) { t with
    x := { t.x with phase := .running }
    st := { t.st with
      fork := t.st.fork.map (fun f => { f with nchunks := f.committed, endiPc := some e, breaking := none }), broke := true } }

theorem breakFork_eq {s : State} {f : Fork} {e : BitVec 54} (hend : f.endiPc = some e) : breakFork f s =
    check (s.x.phase == .finished || s.drained) s >>= fun _ => headWait s.onceFinished.breaking >>= fun _ =>
      s.onceFinished.breaking.commitWait >>= fun _ => .ok (s.onceFinished.breaking.leaveLoop e) := by
  unfold breakFork
  rw [hend]
  rfl

/-- Leaving the loop: what the head's commit leaves, and no younger chunk. -/
theorem leaveLoop_eq {s : State} {f : Fork} (hfork : s.st.fork = some f) (e : BitVec 54) :
    ∃ x prio g, s.leaveLoop e = State.toJoin .outer (e + 4) { s with
        x := x, st := { s.st with runPrio := prio, fork := some g, broke := true } } ∧
      x.sreg = s.x.sreg ∧ g.nchunks = f.committed + 1 ∧ g.committed = f.committed + 1 ∧
      ∀ c ∈ g.chunks, c.phase = .idle ∨ c.cnum.toNat ≤ s.x.cnum.toNat := by
  obtain ⟨g, hdiscard, hcommitted, hyoung⟩ :=
    discardFrom_of_younger (r := { x := s.x, st := s.st }) hfork (Nat.lt_succ_self s.x.cnum.toNat)
  obtain ⟨prio, combines, tags, hcommit⟩ := commitHead_eq (s := { s with st := { s.st with fork := some g } }) rfl
  unfold State.leaveLoop
  rw [hdiscard]
  dsimp only
  rw [hcommit]
  exact ⟨_, prio, _, rfl, rfl, congrArg (· + 1) hcommitted, congrArg (· + 1) hcommitted,
    fun c hc => (hyoung c hc).imp_right Nat.le_of_lt_succ⟩

theorem exec_fbreak_of_inline {s : State} {l : Inline} {e : BitVec 54} (hcore : s.st.place.master? ≠ none)
    (hactive : s.st.active = true) (hinline : s.x.inline = some l) (hend : l.endiPc = some e) :
    exec .fbreak s = .next (State.toJoin .inline (e + 4) { s with x := { s.x with inline := some { l with endiPc := some e } } }) := by
  refine (finish_gate_loop hcore hactive _ _).trans ?_
  rw [hinline]
  dsimp only
  rw [hend]
  rfl

theorem exec_fbreak_of_fork {s : State} {f : Fork} (hcore : s.st.place.master? ≠ none) (hactive : s.st.active = true)
    (hinline : s.x.inline = none) (hfork : s.st.fork = some f) : exec .fbreak s = finish (breakFork f s) := by
  refine (finish_gate_loop hcore hactive _ _).trans ?_
  rw [hinline, hfork]

theorem forkBreak : Sys2Proof.Parts.ForkBreak := by
  intro s f e hcore hactive hfork
  refine ⟨fun hinline hrun hdrained hspec howed hend hcnum _ => ?_, fun l hinline hend => ?_⟩
  · obtain ⟨posts, tags, chain, hfin⟩ := finishChunk_eq hfork
    have hhead : s.finishChunk.breaking.spec = false := by
      rw [← hspec, hfin]
      exact spec_of_head hfork rfl rfl rfl rfl rfl
    have hnothing : s.finishChunk.breaking.x.owed = .nothing := by rw [hfin]; exact howed
    obtain ⟨x, prio, g, hleave, hsreg, hn, hc, hyoung⟩ := leaveLoop_eq (s := s.finishChunk.breaking) (by rw [hfin]; rfl) e
    rw [exec_fbreak_of_fork hcore hactive hinline hfork, breakFork_eq hend, bind_check_true (by rw [hdrained, Bool.or_true]),
      onceFinished_of_running hrun, headWait_bind hhead, commitWait_bind hnothing, hleave]
    rw [hfin] at hsreg hyoung ⊢
    exact ⟨_, rfl, rfl, rfl, rfl, rfl, hsreg, joinHere_toJoin _ _ _, g, rfl, hn, hc, fun c h => hcnum ▸ hyoung c h⟩
  · rw [exec_fbreak_of_inline hcore hactive hinline hend]
    exact ⟨_, rfl, rfl, joinHere_toJoin _ _ _, rfl, rfl, rfl⟩

/-- Settles O21: posting the tags, finishing and committing each change only the context and the fork; the head that owes nothing
stays the head until its commit, and goes to the word where JOIN must stand. -/
theorem iterationsEnd : Obligations.IterationsEnd := ⟨nextIteration, commitAndJoin, forkBreak⟩

end Sys2Proof.Machine

/-! Merge regions: what RDECL declares and refuses, and a combine at its bank (05 R119, R122, 11 R269). -/

namespace Sys2Proof.Machine

/-! ## RDECL (R119) -/

/-- A region declared under another number than d has bytes in common with the one at `base`. -/
def State.clashes (s : State) (d base len : Nat) : Bool :=
  (List.range 4).any (fun j => j != d && (match vget s.st.regions none j with
    | some r => decide (base < r.base + r.len) && decide (r.base < base + len)
    | none => false))

theorem clashes_eq_false_iff {s : State} {d base len : Nat} : s.clashes d base len = false ↔
    ∀ j r, j < 4 → j ≠ d → vget s.st.regions none j = some r → r.base + r.len ≤ base ∨ base + len ≤ r.base := by
  simp only [State.clashes, List.any_eq_false, List.mem_range, Bool.and_eq_true, bne_iff_ne, not_and]
  refine forall_congr' fun j => ⟨fun h r hj hd hr => ?_, fun h hj hd => ?_⟩
  · have hclash := h hj hd
    rw [hr] at hclash
    simp only [Bool.and_eq_true, decide_eq_true_eq] at hclash
    omega
  · cases hr : vget s.st.regions none j with
    | none => exact Bool.false_ne_true
    | some r =>
      have := h r hj hd hr
      simp only [Bool.and_eq_true, decide_eq_true_eq]
      omega

/-- The declaration that a word makes of a region at `base` is one that R119 allows. -/
def State.declares (s : State) (d base : Nat) (w : Word) : Bool :=
  bits w 48 16 == 0 && base % 64 == 0 && bits w 0 40 % 64 == 0 && decide (base + bits w 0 40 ≤ 2 ^ 54) &&
    regionOk (bits w 45 3) (bits w 40 5) && !s.clashes d base (bits w 0 40)

theorem regionOk_iff (op fmt : Nat) : regionOk op fmt = true ↔
    (op = 0 ∨ op = 2 ∨ op = 3) ∧ fmt ∈ [2, 3, 6, 7] ∨ op = 1 ∧ fmt = 9 ∨ op = 4 ∧ fmt ∈ [6, 7] := by
  unfold regionOk
  split <;> simp_all [or_assoc]

theorem declares_iff {s : State} {d base : Nat} {w : Word} : s.declares d base w = true ↔
    w.toNat < 2 ^ 48 ∧ base % 64 = 0 ∧ w.toNat % 2 ^ 40 % 64 = 0 ∧ base + w.toNat % 2 ^ 40 ≤ 2 ^ 54 ∧
      ((w.toNat / 2 ^ 45 % 8 = 0 ∨ w.toNat / 2 ^ 45 % 8 = 2 ∨ w.toNat / 2 ^ 45 % 8 = 3) ∧ w.toNat / 2 ^ 40 % 32 ∈ [2, 3, 6, 7] ∨
        w.toNat / 2 ^ 45 % 8 = 1 ∧ w.toNat / 2 ^ 40 % 32 = 9 ∨ w.toNat / 2 ^ 45 % 8 = 4 ∧ w.toNat / 2 ^ 40 % 32 ∈ [6, 7]) ∧
      ∀ j r, j < 4 → j ≠ d → vget s.st.regions none j = some r → r.base + r.len ≤ base ∨ base + w.toNat % 2 ^ 40 ≤ r.base := by
  have hhigh : bits w 48 16 = 0 ↔ w.toNat < 2 ^ 48 := by
    have := w.isLt
    rw [bits, nbits]
    omega
  rw [← clashes_eq_false_iff, ← regionOk_iff, ← hhigh, ← bits_lowest]
  simp only [State.declares, Bool.and_eq_true, beq_iff_eq, decide_eq_true_eq, Bool.not_eq_true', and_assoc]
  rfl

/-- RDECL of the focus outside a fork declares the region, clears it, or refuses. -/
theorem exec_rdecl {s : State} (hcore : s.st.place.master? ≠ none) (d a b : BitVec 5) :
    let base := (s.getS a).toNat
    let w := s.getS b
    let put := fun (r : Option Region) => (State.advance { s with st := { s.st with regions := vset s.st.regions d.toNat r } })
    exec (.rdecl d a b) s =
      if s.st.active then .next (s.trapS 0x44 (s.getS a))
      else if bits w 0 40 = 0 then .next (put none)
      else if s.declares d.toNat base w then
        .next (put (some { base := base, len := bits w 0 40, op := bits w 45 3, fmt := bits w 40 5 }))
      else .next (s.trapS 0x44 (s.getS a)) := by
  intro base w put
  refine (finish_gate_strand hcore _ _).trans ?_
  rw [finish_check]
  unfold State.inFork
  cases s.st.active with
  | true => rfl
  | false =>
    by_cases hlen : bits w 0 40 = 0
    · exact (congrArg finish (if_pos hlen)).trans (if_pos hlen).symm
    · refine (congrArg finish (if_neg hlen)).trans (Eq.trans ?_ (if_neg hlen).symm)
      exact finish_check _ _ _

theorem mergeRegionDeclaration : Sys2Proof.Parts.MergeRegionDeclaration := by
  intro s d a b hcore _ base w len fmt op allowed apart good declares
  have hlen : bits w 0 40 = len := bits_lowest w 40
  have hgood : s.declares d.toNat base w = true ↔ good := declares_iff
  have hexec := exec_rdecl hcore d a b
  refine ⟨fun hout hzero => ⟨_, ?_, rfl⟩, fun hout hsome hmay => ⟨_, ?_, rfl⟩, fun hbars => ?_⟩
  · exact hexec.trans ((if_neg (by simp [hout])).trans (if_pos (hlen.trans hzero)))
  · refine hexec.trans ((if_neg (by simp [hout])).trans ((if_neg (hlen ▸ hsome)).trans ((if_pos (hgood.mpr hmay)).trans ?_)))
    rw [hlen]
    rfl
  · rw [hexec]
    obtain hin | ⟨hsome, hbad⟩ := hbars
    · exact if_pos hin
    · split_ifs with hin hzero hmay
      · rfl
      · exact absurd (hlen ▸ hzero) hsome
      · exact absurd (hgood.mp hmay) hbad
      · rfl

/-! ## What the steps of the strand's own stores leave of its chunk -/

/-- The focus runs the same chunk of the same fork. -/
def ChunkStays (s t : State) : Prop := t.x = s.x ∧ t.st.fork = s.st.fork

theorem x_fabOut (s : State) (ep : Nat) (a : Word) (p : List Byte) : (s.fabOut ep a p).x = s.x := by
  unfold State.fabOut
  split_ifs
  · rfl
  · split <;> rfl

theorem x_log (s : State) (d c : Nat) : (s.log d c).x = s.x := by
  unfold State.log State.logEntry
  rfl

theorem x_hubSend (s : State) (r : Except Nat Receiver) (m : Msg) : (s.hubSend r m).x = s.x := by
  unfold State.hubSend
  split
  · exact x_log s 0 0
  · rfl
  · exact x_fabOut _ _ _ _

theorem x_bankAdd (s : State) (v k n : Nat) : (s.bankAdd v k n).x = s.x := by
  unfold State.bankAdd State.tellSupervisor
  dsimp only
  split_ifs
  · rfl
  · rfl
  · exact x_hubSend _ _ _
  · rfl

namespace ChunkStays

theorem refl (s : State) : ChunkStays s s := ⟨rfl, rfl⟩

theorem trans {s t u : State} (h : ChunkStays s t) (k : ChunkStays t u) : ChunkStays s u := ⟨k.1.trans h.1, k.2.trans h.2⟩

theorem foldl {α : Type} {f : State → α → State} (hf : ∀ s a, ChunkStays s (f s a)) (l : List α) (s : State) :
    ChunkStays s (l.foldl f s) := foldl_keeps refl trans hf l s

theorem of_linesMove {s t : State} (h : LinesMove s t) : ChunkStays s t := by
  obtain ⟨_, _, _, _, _, _, rfl⟩ := h
  exact ⟨rfl, rfl⟩

theorem countBank (s : State) (ev vc : Nat) (req : Option Nat) : ChunkStays s (s.countBank ev vc req) := by
  unfold State.countBank
  split
  · exact refl s
  · refine foldl (fun s k => ?_) _ s
    split_ifs
    · exact ⟨x_bankAdd s _ k 1, congrArg Strand.fork (st_bankAdd s _ k 1)⟩
    · exact refl s

theorem mapStrand {f : Strand → Strand} (hf : ∀ a, (f a).fork = a.fork) (s : State) (id : StrandId) :
    ChunkStays s (s.mapStrand id f) := by
  unfold State.mapStrand
  split_ifs
  · exact ⟨rfl, hf s.st⟩
  · exact refl s

theorem disturb (s : State) (l : Nat) : ChunkStays s (s.disturb l) := by
  unfold State.disturb State.releaseAt
  split_ifs
  · exact trans (t := { s with waiters := _ }) ⟨rfl, rfl⟩ (foldl (fun s w => mapStrand (fork_releaseWait _ _) s _) _ _)
  · exact refl s

/-- A store of the strand's own squashes none of its chunks. -/
theorem perform (s : State) (pa : Nat) (bs : List Byte) : ChunkStays s (s.perform true pa bs) :=
  trans (t := s.pokeBytes pa bs) ⟨rfl, rfl⟩ (foldl (fun s l => trans (t := s.writeSeen true l) ⟨rfl, rfl⟩ (disturb _ l)) _ _)

end ChunkStays

/-! ## A combine at its bank (R122, R269) -/

theorem drainTo_of_none {s : State} {v : Bool} {sel : BufStore → Bool} (h : ∀ e ∈ s.buffer v, sel e = false) : s.drainTo v sel = s := by
  have hnone : (s.buffer v).reverse.dropWhile (fun e => !sel e) = [] :=
    List.dropWhile_eq_nil_iff.mpr fun e he => by simp [h e (List.mem_reverse.mp he)]
  rw [State.drainTo, hnone]
  rfl

theorem settleScatter_of_none {s : State} (h : ∀ c ∈ s.scatter, c.owner ≠ s.st.id) (pa n : Nat) : s.settleScatter pa n = s := by
  have hnone : s.scatter.filter (fun c => c.owner == s.st.id && decide (c.pa < pa + n) &&
      decide (pa < c.pa + (if c.wide then 8 else 4))) = [] :=
    List.filter_eq_nil_iff.mpr fun c hc => by simp [h c hc]
  rw [State.settleScatter, hnone]
  rfl

theorem memBytes_of_mem {s t : State} (h : t.mem = s.mem) (pa n : Nat) : t.memBytes pa n = s.memBytes pa n := by
  rw [State.memBytes, h, State.memBytes]

/-- What a step at the bank leaves: its bytes hold the result, and no other byte of memory has changed. -/
theorem bankApply_spec {s : State} {vc pa n op x new : Nat} (hwf : s.memWf = true)
    (hnew : atomicNew op (8 * n) (leNat (s.memBytes pa n)) x 0 = some new) :
    let t := s.bankApply true vc pa n op x
    ChunkStays s t ∧ t.memBytes pa n = leBytes n new ∧ ∀ q, q < pa ∨ pa + n ≤ q → t.memByte q = s.memByte q := by
  intro t
  have ht : t = (s.atBank vc pa n).perform true pa (leBytes n new) := by
    change s.bankApply true vc pa n op x = _
    rw [State.bankApply, hnew]
  have hmem : (s.atBank vc pa n).mem = s.mem := mem_atBank s vc pa n
  rw [ht]
  refine ⟨(ChunkStays.of_linesMove (LinesMove.atBank s vc pa n)).trans (ChunkStays.perform _ _ _), ?_, fun q hq => ?_⟩
  · refine List.ext_getElem (by simp [State.memBytes, Memory.readBytes]) fun i _ hi => ?_
    have hread := memByte_perform_in (s.atBank vc pa n) true pa i (leBytes n new) (wf_of_mem hmem hwf) hi
    simp only [State.memBytes, Memory.readBytes, List.getElem_map, List.getElem_range]
    exact hread
  · rw [memByte_perform_out _ _ _ _ _ (by rwa [length_leBytes]), State.memByte, hmem, State.memByte]

/-- With no earlier access of the strand to the element, a combine is counted and made at the bank. -/
theorem combineAt_of_apart {s : State} {pa n : Nat} (hstores : ∀ e ∈ s.st.sbuf ++ s.st.vbuf, e.overlaps pa n = false)
    (hadds : ∀ c ∈ s.scatter, c.owner ≠ s.st.id) (vc op x : Nat) :
    s.combineAt vc pa n op x = (s.countBank 4 vc s.ownFunction).bankApply true vc pa n op x := by
  have hscalar : s.drainTo false (·.overlaps pa n) = s := drainTo_of_none fun e he => hstores e (List.mem_append_left _ he)
  have hvector : s.drainTo true (·.overlaps pa n) = s := drainTo_of_none fun e he => hstores e (List.mem_append_right _ he)
  rw [State.combineAt, hscalar, hvector, settleScatter_of_none hadds]

theorem exec_mergeCombine {s : State} {f : Fork} {c : Combine} {rest : List Combine} (hfork : s.st.fork = some f)
    (hcombines : f.combines = c :: rest) : exec .mergeCombine s =
      .next ((s.setFork { f with combines := rest }).combineAt c.vc c.pa (fmtWidth c.fmt / 8) c.op c.value.toNat) := by
  simp only [exec, execMergeCombine, onFork, hfork, hcombines, Option.getD_some]

theorem mergeCombinePerformed : Sys2Proof.Parts.MergeCombinePerformed := by
  intro s f c rest hwf hfork hcombines n hstores hadds new hnew
  let u := s.setFork { f with combines := rest }
  let v := u.countBank 4 c.vc u.ownFunction
  have hmem : v.mem = s.mem := mem_countBank u 4 c.vc u.ownFunction
  obtain ⟨hstays, hbytes, hrest⟩ := bankApply_spec (vc := c.vc) (wf_of_mem hmem hwf) ((memBytes_of_mem hmem c.pa n).symm ▸ hnew)
  obtain ⟨hx, hforked⟩ := (ChunkStays.countBank u 4 c.vc u.ownFunction).trans hstays
  refine ⟨_, (exec_mergeCombine hfork hcombines).trans (congrArg _ (combineAt_of_apart (s := u) hstores hadds _ _ _)), hx, hforked, ?_,
    fun q hq => (hrest q hq).trans (congrArg (Memory.read · unlisted q) hmem)⟩
  exact (congrArg leNat hbytes).trans (by rw [leNat_leBytes, Nat.pow_mul])

/-- Settles O22: the checks of a declaration are those that R119 lists; with none of the strand's own stores or additions before it, a
combine is the one step at the bank, and its store is the strand's own. -/
theorem mergeRegions : Obligations.MergeRegions := ⟨mergeRegionDeclaration, mergeCombinePerformed⟩

end Sys2Proof.Machine

/-! Vector registers (R158, R162): the elements of a group as fields of one bit string, and what the writing rules leave of them. -/

namespace Sys2Proof.Machine

/-! ## Fields of a bit string -/

theorem testBit_nbits (x lo n i : Nat) : (nbits x lo n).testBit i = (decide (i < n) && x.testBit (lo + i)) := by
  rw [nbits, Nat.testBit_mod_two_pow, Nat.testBit_div_two_pow, Nat.add_comm]

theorem testBit_putField (g lo w v i : Nat) :
    (putField g lo w v).testBit i = if lo ≤ i ∧ i < lo + w then v.testBit (i - lo) else g.testBit i := by
  rw [putField, Nat.testBit_xor, Nat.testBit_mul_two_pow]
  by_cases hlo : lo ≤ i
  · have hback : lo + (i - lo) = i := by omega
    by_cases hhi : i < lo + w
    · simp [hlo, hhi, testBit_nbits, hback, show i - lo < w by omega]
    · simp [hlo, hhi, testBit_nbits, show ¬ i - lo < w by omega]
  · simp [hlo]

/-- Two elements of one width are the same or lie apart. -/
theorem element_apart {w i j p : Nat} (hij : i ≠ j) (hp : p < w) : w * i + p < w * j ∨ w * j + w ≤ w * i + p := by
  obtain h | h := Nat.lt_or_gt_of_ne hij
  · have := Nat.mul_le_mul_left w h
    rw [Nat.mul_succ] at this
    omega
  · have := Nat.mul_le_mul_left w h
    rw [Nat.mul_succ] at this
    omega

/-- An element after one of the same width has been written. -/
theorem element_putField (g w i j v : Nat) :
    nbits (putField g (w * i) w v) (w * j) w = if i = j then v % 2 ^ w else nbits g (w * j) w := by
  refine Nat.eq_of_testBit_eq fun p => ?_
  rw [testBit_nbits, testBit_putField]
  by_cases hp : p < w
  · split_ifs with h hij hij
    · subst hij; simp [Nat.testBit_mod_two_pow, hp]
    · have := element_apart (Ne.symm hij) hp; omega
    · subst hij; omega
    · simp [testBit_nbits, hp]
  · split_ifs <;> simp [Nat.testBit_mod_two_pow, testBit_nbits, hp]

/-- An element after a range of elements has been zeroed (R162). -/
theorem element_zeroTail (tp : Bool) (g w lo cap j : Nat) (hj : j < cap) :
    nbits (zeroTail tp g w lo cap) (w * j) w = if tp ∧ lo ≤ j then 0 else nbits g (w * j) w := by
  rw [zeroTail]
  by_cases htp : tp ∧ lo < cap
  · rw [if_pos htp]
    refine Nat.eq_of_testBit_eq fun p => ?_
    rw [testBit_nbits, testBit_putField]
    have hcap : w * lo + w * (cap - lo) = w * cap := by rw [← Nat.mul_add]; congr 1; omega
    have hend : w * j + w ≤ w * cap := by rw [← Nat.mul_succ]; exact Nat.mul_le_mul_left w hj
    by_cases hp : p < w
    · by_cases hlo : lo ≤ j
      · have := Nat.mul_le_mul_left w hlo
        rw [if_pos (by omega), if_pos ⟨htp.1, hlo⟩]
        simp
      · have hbefore : w * j + w ≤ w * lo := by rw [← Nat.mul_succ]; exact Nat.mul_le_mul_left w (by omega)
        rw [if_neg (by omega), if_neg (by omega), testBit_nbits]
    · split_ifs <;> simp [testBit_nbits, hp]
  · rw [if_neg htp, if_neg (fun h => htp ⟨h.1, by omega⟩)]

/-- The listed elements are those that `u` gives. -/
def Lists (els : List (Nat × Nat)) (u : Nat → Option Nat) : Prop := ∀ i v, (i, v) ∈ els ↔ u i = some v

theorem element_putAll_of_agree {u : Nat → Option Nat} (w j : Nat) (els : List (Nat × Nat)) (g : Nat)
    (hu : ∀ e ∈ els, u e.1 = some e.2) :
    nbits (putAll g w els) (w * j) w = if j ∈ els.map (·.1) then (u j).getD 0 % 2 ^ w else nbits g (w * j) w := by
  induction els generalizing g with
  | nil => rfl
  | cons e els ih =>
    have hrest := ih (putField g (w * e.1) w e.2) fun e he => hu e (List.mem_cons_of_mem _ he)
    rw [element_putField] at hrest
    refine hrest.trans ?_
    by_cases hin : j ∈ els.map (·.1)
    · exact (if_pos hin).trans (if_pos (List.mem_cons_of_mem _ hin)).symm
    · by_cases he : e.1 = j
      · subst he
        rw [if_neg hin, if_pos rfl, if_pos (by simp), hu e (by simp), Option.getD_some]
      · rw [if_neg hin, if_neg he, if_neg (by simpa [Ne.symm he] using hin)]

/-- An element after listed elements have been written. -/
theorem element_putAll {els : List (Nat × Nat)} {u : Nat → Option Nat} (hu : Lists els u) (g w j : Nat) :
    nbits (putAll g w els) (w * j) w = ((u j).map (· % 2 ^ w)).getD (nbits g (w * j) w) := by
  rw [element_putAll_of_agree w j els g fun e he => (hu e.1 e.2).mp he]
  cases huj : u j with
  | none =>
    refine if_neg fun hj => ?_
    obtain ⟨e, he, rfl⟩ := List.mem_map.mp hj
    have := (hu e.1 e.2).mp he
    rw [huj] at this
    cases this
  | some v => exact if_pos (List.mem_map.mpr ⟨(j, v), (hu j v).mpr huj, rfl⟩)

/-- One element for each listed index that `f` gives a value. -/
theorem lists_filterMap {l : List Nat} {f : Nat → Option Nat} {u : Nat → Option Nat} (hu : ∀ i, u i = if i ∈ l then f i else none) :
    Lists (l.filterMap fun i => (f i).map (i, ·)) u := by
  intro i v
  rw [hu, List.mem_filterMap]
  constructor
  · rintro ⟨j, hj, hfj⟩
    obtain ⟨x, hx, hjx⟩ := Option.map_eq_some_iff.mp hfj
    cases hjx
    rw [if_pos hj, hx]
  · intro h
    by_cases hi : i ∈ l
    · rw [if_pos hi] at h
      exact ⟨i, hi, by rw [h]; rfl⟩
    · rw [if_neg hi] at h
      cases h

/-- The values of a list, from element 0 up. -/
theorem lists_zip_range (l : List Nat) : Lists ((List.range l.length).zip l) (l[·]?) := by
  intro i v
  rw [List.mem_iff_getElem?]
  constructor
  · rintro ⟨j, hj⟩
    rw [List.getElem?_zip_eq_some] at hj
    obtain ⟨hi, hv⟩ := hj
    obtain ⟨_, rfl⟩ := List.getElem?_eq_some_iff.mp hi
    simpa using hv
  · intro h
    refine ⟨i, List.getElem?_zip_eq_some.mpr ⟨?_, h⟩⟩
    exact List.getElem?_range (List.getElem?_eq_some_iff.mp h).1

theorem mem_span {lo hi i : Nat} : i ∈ span lo hi ↔ lo ≤ i ∧ i < hi := by
  simp only [span, List.mem_map, List.mem_range]
  exact ⟨fun ⟨j, hj, h⟩ => by omega, fun h => ⟨i - lo, by omega⟩⟩

/-! ## Groups of registers (R158) -/

theorem testBit_concat {W : Nat} (n : Nat) (x : Nat → BitVec W) (i : Nat) :
    ((List.range n).foldr (fun j acc => (x j).toNat + 2 ^ W * acc) 0).testBit i = (decide (i < W * n) && (x (i / W)).getLsbD (i % W)) := by
  induction n generalizing x i with
  | zero => simp
  | succ n ih =>
    rw [List.range_succ_eq_map, List.foldr_cons, List.foldr_map, Nat.add_comm, Nat.testBit_two_pow_mul_add _ (x 0).isLt,
      ih fun j => x (j + 1)]
    obtain hW | rfl : 0 < W ∨ W = 0 := by omega
    · rw [Nat.mul_succ]
      split_ifs with hi
      · simp [Nat.div_eq_of_lt hi, Nat.mod_eq_of_lt hi, BitVec.getLsbD, show i < W * n + W by omega]
      · have hsub : i = i - W + W := by omega
        have hdiv : i / W = (i - W) / W + 1 := by rw [hsub, Nat.add_div_right _ hW, Nat.add_sub_cancel]
        have hmod : i % W = (i - W) % W := by rw [hsub, Nat.add_mod_right, Nat.add_sub_cancel]
        rw [hdiv, hmod, decide_eq_decide.mpr (show i - W < W * n ↔ i < W * n + W by omega)]
    · simp

theorem testBit_vgroup (s : State) (base n i : Nat) :
    (s.vgroup base n).testBit i = (decide (i < 16384 * n) && (vget s.x.vreg 0 (base + i / 16384)).getLsbD (i % 16384)) :=
  testBit_concat n (fun j => vget s.x.vreg 0 (base + j)) i

theorem vget_setVgroup (s : State) (base n g j : Nat) (hb : base + n ≤ 32) :
    vget (s.setVgroup base n g).x.vreg 0 j =
      if base ≤ j ∧ j < base + n then BitVec.ofNat 16384 (g / 2 ^ (16384 * (j - base))) else vget s.x.vreg 0 j := by
  change vget ((List.range n).foldl (fun v k => vset v (base + k) (BitVec.ofNat 16384 (g / 2 ^ (16384 * k)))) s.x.vreg) 0 j = _
  induction n with
  | zero => rw [if_neg (by omega)]; rfl
  | succ n ih =>
    rw [List.range_succ, List.foldl_concat]
    by_cases hj : j = base + n
    · subst hj
      rw [vget_vset_same _ _ _ _ (by omega), if_pos (by omega), Nat.add_sub_cancel_left]
    · rw [vget_vset_ne _ _ _ _ _ (Ne.symm hj), ih (by omega)]
      exact if_congr (by omega) rfl rfl

/-- A group reads back as far as it reaches what was written to it. -/
theorem testBit_vgroup_setVgroup (s : State) (base n g i : Nat) (hb : base + n ≤ 32) :
    ((s.setVgroup base n g).vgroup base n).testBit i = (decide (i < 16384 * n) && g.testBit i) := by
  rw [testBit_vgroup]
  by_cases hi : i < 16384 * n
  · have hreg : i / 16384 < n := Nat.div_lt_of_lt_mul hi
    rw [vget_setVgroup _ _ _ _ _ hb, if_pos (by omega), Nat.add_sub_cancel_left, BitVec.getLsbD_ofNat, Nat.testBit_div_two_pow,
      Nat.add_comm, Nat.div_add_mod]
    simp [Nat.mod_lt]
  · simp [hi]

/-- Registers that hold the same make the same group. -/
theorem vgroup_congr {s t : State} {base n : Nat} (h : ∀ j, base ≤ j → j < base + n → vget t.x.vreg 0 j = vget s.x.vreg 0 j) :
    t.vgroup base n = s.vgroup base n := by
  refine Nat.eq_of_testBit_eq fun i => ?_
  rw [testBit_vgroup, testBit_vgroup]
  by_cases hi : i < 16384 * n
  · rw [h _ (by omega) (by have : i / 16384 < n := Nat.div_lt_of_lt_mul hi; omega)]
  · simp [hi]

theorem elemOf_setVgroup (s : State) (base n w g i : Nat) (hb : base + n ≤ 32) (hi : i < n * 16384 / w) :
    (s.setVgroup base n g).elemOf base n w i = nbits g (w * i) w := by
  have hend : w * i + w ≤ 16384 * n := by
    have := Nat.mul_le_of_le_div w (i + 1) (n * 16384) hi
    rw [Nat.mul_comm, Nat.mul_succ] at this
    omega
  refine Nat.eq_of_testBit_eq fun p => ?_
  rw [State.elemOf, testBit_nbits, testBit_nbits, testBit_vgroup_setVgroup s base n g _ hb]
  by_cases hp : p < w
  · simp [hp, show w * i + p < 16384 * n by omega]
  · simp [hp]

end Sys2Proof.Machine

/-! What the writing rules of vector and mask registers leave (R162, R173 to R183), and the checks before them (R163). -/

namespace Sys2Proof.Machine

theorem legal_of_mem {vt : Word} {o : Opd} : ∀ {l : List Opd}, groupsLegal vt l = true → o ∈ l → o.legal vt = true
  | p :: l, h, hm => by
    rw [groupsLegal, Bool.and_eq_true, Bool.and_eq_true] at h
    obtain ⟨⟨hp, _⟩, hl⟩ := h
    obtain rfl | hm := List.mem_cons.mp hm
    · exact hp
    · exact legal_of_mem hl hm

/-- A legal group lies within the register file. -/
theorem group_within {vt : Word} {o : Opd} {l : List Opd} (h : groupsLegal vt l = true) (hm : o ∈ l) :
    o.base + groupRegs vt o.width + (if o.block then 1 else 0) ≤ 32 := by
  have hlegal := legal_of_mem h hm
  rw [Opd.legal, Opd.len, Bool.and_eq_true] at hlegal
  exact (Nat.add_assoc _ _ _).trans_le (of_decide_eq_true hlegal.2)

/-! ## What a write of vector registers leaves -/

/-- Between `s` and `t` vector registers of the listed ranges have been written, and vbeg. -/
structure VregsWritten (ranges : List (Nat × Nat)) (s t : State) : Prop where
  apart : ∀ j, (∀ r ∈ ranges, j < r.1 ∨ r.1 + r.2 ≤ j) → vget t.x.vreg 0 j = vget s.x.vreg 0 j
  rest : t = { s with x := { s.x with vreg := t.x.vreg, vbeg := t.x.vbeg } }

namespace VregsWritten

variable {ranges : List (Nat × Nat)}

theorem vbegZero (s : State) : VregsWritten ranges s s.vbegZero := ⟨fun _ _ => rfl, rfl⟩

theorem setVgroup {base n : Nat} (hmem : (base, n) ∈ ranges) (hb : base + n ≤ 32) (s : State) (g : Nat) :
    VregsWritten ranges s (s.setVgroup base n g) := by
  refine ⟨fun j hj => ?_, rfl⟩
  have : j < base ∨ base + n ≤ j := hj _ hmem
  rw [vget_setVgroup _ _ _ _ _ hb, if_neg (by omega)]

theorem trans {s t u : State} (h : VregsWritten ranges s t) (k : VregsWritten ranges t u) : VregsWritten ranges s u := by
  refine ⟨fun j hj => (k.apart j hj).trans (h.apart j hj), k.rest.trans ?_⟩
  rw [h.rest]

/-- The instruction completes. -/
theorem vectored {s t : State} (h : VregsWritten ranges s t) (hvbeg : t.x.vbeg = 0) : s.Vectored t.advance ranges := by
  refine ⟨h.apart, ?_⟩
  rw [h.rest, hvbeg]
  rfl

/-- A group apart from those written is as it was. -/
theorem vgroup_apart {s t : State} (h : VregsWritten ranges s t) {base n : Nat}
    (hapart : ∀ r ∈ ranges, base + n ≤ r.1 ∨ r.1 + r.2 ≤ base) : t.vgroup base n = s.vgroup base n :=
  vgroup_congr fun j hlo hhi => h.apart j fun r hr => by have := hapart r hr; omega

theorem mono {more : List (Nat × Nat)} {s t : State} (h : VregsWritten ranges s t) (hsub : ranges ⊆ more) : VregsWritten more s t :=
  ⟨fun j hj => h.apart j fun r hr => hj r (hsub hr), h.rest⟩

section
variable {s t u : State} (h : VregsWritten ranges s u)
include h

theorem vtype : u.x.vtype = s.x.vtype := by rw [h.rest]
theorem vl : u.vl = s.vl := by rw [h.rest]; rfl
theorem tp : u.tp = s.tp := by rw [State.tp, h.vtype, State.tp]

/-- What a group apart from those written holds after more has been written, it holds of the state before. -/
theorem holds_of_holds {base n w : Nat} {v : Nat → Option Nat} (hapart : ∀ r ∈ ranges, base + n ≤ r.1 ∨ r.1 + r.2 ≤ base)
    (k : u.Holds t base n w v) : s.Holds t base n w v := fun i hi => by
  rw [k i hi, State.elemOf, h.vgroup_apart hapart, State.elemOf]

end

end VregsWritten

/-- What a group holds it holds still when others have been written. -/
theorem holds_trans {ranges : List (Nat × Nat)} {s t u : State} {base n w : Nat} {v : Nat → Option Nat} (k : s.Holds u base n w v)
    (h : VregsWritten ranges u t) (hapart : ∀ r ∈ ranges, base + n ≤ r.1 ∨ r.1 + r.2 ≤ base) : s.Holds t base n w v := by
  intro i hi
  rw [← k i hi, State.elemOf, h.vgroup_apart hapart, State.elemOf]

theorem holds_none {s t : State} {base n w : Nat} {v : Nat → Option Nat} (h : t.vgroup base n = s.vgroup base n)
    (hv : ∀ i, v i = none) : s.Holds t base n w v := fun i _ => by
  rw [hv, State.elemOf, State.elemOf, h]
  rfl

theorem holds_setVgroup {s t u : State} {base n w g : Nat} {v : Nat → Option Nat} (hb : base + n ≤ 32)
    (hu : u.x.vreg = (t.setVgroup base n g).x.vreg)
    (h : ∀ i, i < n * 16384 / w → nbits g (w * i) w = (v i).getD (s.elemOf base n w i)) : s.Holds u base n w v := fun i hi => by
  have hgroup : u.vgroup base n = (t.setVgroup base n g).vgroup base n := vgroup_congr fun j _ _ => by rw [hu]
  rw [← h i hi, ← elemOf_setVgroup t base n w g i hb hi, State.elemOf, hgroup, State.elemOf]

/-! ## vector_apply (R162) -/

/-- What a body element at or past vbeg receives: f i where its bit is set, zero where masked elements are zeroed. -/
def bodyValue (mask : BitVec 2048) (mp : Bool) (f : Nat → Nat) (i : Nat) : Option Nat :=
  if mask.getLsbD i then some (f i) else if mp then some 0 else none

theorem map_bodyValue (mask : BitVec 2048) (mp : Bool) (f : Nat → Nat) (i w : Nat) : (bodyValue mask mp f i).map (· % 2 ^ w) =
    if mask.getLsbD i then some (f i % 2 ^ w) else if mp then some 0 else none := by
  unfold bodyValue
  split_ifs
  · rfl
  · rw [Option.map_some, Nat.zero_mod]
  · rfl

theorem foldl_body_eq_putAll (w : Nat) (mask : BitVec 2048) (mp : Bool) (f : Nat → Nat) (l : List Nat) (g : Nat) :
    l.foldl (fun g i => if mask.getLsbD i then putField g (w * i) w (f i) else if mp then putField g (w * i) w 0 else g) g =
      putAll g w (l.filterMap fun i => (bodyValue mask mp f i).map (i, ·)) := by
  induction l generalizing g with
  | nil => rfl
  | cons i l ih =>
    rw [List.foldl_cons, ih, List.filterMap_cons, bodyValue]
    split_ifs <;> rfl

theorem applyBits_eq (g w cap vl vbeg : Nat) (mask : BitVec 2048) (mp tp : Bool) (f : Nat → Nat) :
    applyBits g w cap vl vbeg mask mp tp f =
      zeroTail tp (putAll g w ((span vbeg vl).filterMap fun i => (bodyValue mask mp f i).map (i, ·))) w vl cap := by
  rw [applyBits, foldl_body_eq_putAll]
  rfl

theorem element_applyBits (s : State) (w : Nat) (mask : BitVec 2048) (f : Nat → Nat) (hvl : s.vl ≠ 0) (g : Nat)
    {cap j : Nat} (hj : j < cap) :
    nbits (applyBits g w cap s.vl s.vbeg mask s.mp s.tp f) (w * j) w = (s.applied w mask f j).getD (nbits g (w * j) w) := by
  have hbody : Lists ((span s.vbeg s.vl).filterMap fun i => (bodyValue mask s.mp f i).map (i, ·)) fun i =>
      if i ∈ span s.vbeg s.vl then bodyValue mask s.mp f i else none := lists_filterMap fun _ => rfl
  rw [applyBits_eq, element_zeroTail _ _ _ _ _ _ hj, element_putAll hbody, State.applied, if_neg hvl]
  by_cases htail : s.vl ≤ j
  · have hout : j ∉ span s.vbeg s.vl := fun h => by have := (mem_span.mp h).2; omega
    rw [if_pos htail, if_neg hout]
    cases s.tp <;> simp [htail]
  · rw [if_neg fun h => htail h.2, if_neg htail]
    by_cases hbeg : j < s.vbeg
    · have hout : j ∉ span s.vbeg s.vl := fun h => by have := (mem_span.mp h).1; omega
      rw [if_neg hout, if_pos hbeg]
      rfl
    · rw [if_pos (mem_span.mpr ⟨by omega, by omega⟩), if_neg hbeg, map_bodyValue]

theorem filled_vectorApply {s : State} {d : BitVec 5} {w : Nat} (hb : d.toNat + groupRegs s.x.vtype w ≤ 32)
    (k : BitVec 3) (f : Nat → Nat) :
    s.Filled (s.vectorApply d w k f).advance d.toNat w (s.applied w (s.kmask k.toNat) f) := by
  by_cases hvl : s.vl = 0
  · rw [State.vectorApply, if_pos hvl]
    exact ⟨holds_none rfl fun i => if_pos hvl, (VregsWritten.vbegZero s).vectored rfl⟩
  · rw [State.vectorApply, if_neg hvl]
    exact ⟨holds_setVgroup hb rfl fun i hi => element_applyBits s w _ f hvl _ hi,
      ((VregsWritten.setVgroup (by simp) hb s _).trans (VregsWritten.vbegZero _)).vectored rfl⟩

theorem kmask_setK_same {s : State} {m : Nat} (hm : m ≠ 0) (hm8 : m < 8) (v : BitVec 2048) : (s.setK m v).kmask m = v := by
  rw [State.setK, if_neg hm, State.kmask, if_neg hm]
  exact vget_vset_same _ _ _ _ hm8

theorem kmask_setK_ne (s : State) {m j : Nat} (hj : j ≠ m) (v : BitVec 2048) : (s.setK m v).kmask j = s.kmask j := by
  unfold State.setK State.kmask
  split_ifs
  any_goals rfl
  exact vget_vset_ne _ _ _ _ _ (Ne.symm hj)

theorem nbits_one_eq (x i : Nat) : nbits x i 1 = if x.testBit i then 1 else 0 := by
  rw [nbits, Nat.testBit_eq_decide_div_mod_eq]
  have := Nat.mod_two_eq_zero_or_one (x / 2 ^ i)
  simp only [pow_one, decide_eq_true_eq]
  split_ifs <;> omega

/-- An element of width 1 is a bit. -/
theorem bit_of_element {a b : Bool} {o : Option Nat} (h : (if a then 1 else 0) = o.getD (if b then 1 else 0)) :
    a = (o.map (· == 1)).getD b := by
  cases o with
  | none => cases a <;> cases b <;> simp_all
  | some v =>
    change (if a then 1 else 0) = v at h
    subst h
    cases a <;> rfl

theorem setK_frame (s : State) (m : Nat) (v : BitVec 2048) : s.setK m v = { s with x := { s.x with kreg := (s.setK m v).x.kreg } } := by
  unfold State.setK
  split_ifs <;> rfl

theorem masked_setK (s : State) {m : Nat} (hm : m ≠ 0) (hm8 : m < 8) {g : Nat} {v : Nat → Option Nat}
    (h : ∀ i, i < 2048 → nbits g i 1 = (v i).getD (nbits (s.kmask m).toNat i 1)) :
    s.Masked (s.setK m (BitVec.ofNat 2048 g)).vbegZero.advance m v := by
  refine ⟨fun i hi => ?_, fun j hj => kmask_setK_ne s hj _, ?_⟩
  · have helem := h i hi
    rw [nbits_one_eq, nbits_one_eq] at helem
    refine Eq.trans ?_ (bit_of_element helem)
    change ((s.setK m (BitVec.ofNat 2048 g)).kmask m).getLsbD i = _
    rw [kmask_setK_same hm hm8, BitVec.getLsbD_ofNat, decide_eq_true hi, Bool.true_and]
  · rw [setK_frame]
    rfl

/-- A mask register as the destination of vector_apply. -/
theorem masked_maskApply (s : State) {m : Nat} (hm : m ≠ 0) (hm8 : m < 8) (k : BitVec 3) (f : Nat → Bool) :
    s.Masked (s.maskApply m k f).advance m (s.applied 1 (s.kmask k.toNat) fun i => if f i then 1 else 0) := by
  by_cases hvl : s.vl = 0
  · rw [State.maskApply, if_pos hvl]
    refine ⟨fun i _ => ?_, fun j _ => rfl, rfl⟩
    rw [State.applied, if_pos hvl]
    rfl
  · rw [State.maskApply, if_neg hvl]
    refine masked_setK s hm hm8 fun i hi => ?_
    simpa only [Nat.one_mul] using element_applyBits s 1 (s.kmask k.toNat) (fun i => if f i then 1 else 0) hvl (s.kmask m).toNat hi

/-! ## Writing rules of their own (R173 to R183) -/

/-- What elements listed by `u`, with a tail from `lo`, give element i. -/
def State.listed (s : State) (w : Nat) (u : Nat → Option Nat) (lo i : Nat) : Option Nat :=
  if s.vl = 0 then none else if s.tp ∧ lo ≤ i then some 0 else (u i).map (· % 2 ^ w)

theorem element_listed {s : State} {els : List (Nat × Nat)} {u : Nat → Option Nat} (hu : Lists els u) (hvl : s.vl ≠ 0) (g w lo : Nat)
    {cap j : Nat} (hj : j < cap) :
    nbits (zeroTail s.tp (putAll g w els) w lo cap) (w * j) w = (s.listed w u lo j).getD (nbits g (w * j) w) := by
  rw [element_zeroTail _ _ _ _ _ _ hj, element_putAll hu, State.listed, if_neg hvl]
  split_ifs <;> rfl

theorem holds_putElems {s : State} {base w : Nat} {els : List (Nat × Nat)} {u : Nat → Option Nat} (hu : Lists els u)
    (hb : base + groupRegs s.x.vtype w ≤ 32) (lo : Nat) :
    s.Holds (s.putElems base w els lo) base (groupRegs s.x.vtype w) w (s.listed w u lo) := by
  by_cases hvl : s.vl = 0
  · rw [State.putElems, if_pos hvl]
    exact holds_none rfl fun i => if_pos hvl
  · rw [State.putElems, if_neg hvl]
    exact holds_setVgroup hb rfl fun i hi => element_listed hu hvl _ w lo hi

theorem vregsWritten_putElems {ranges : List (Nat × Nat)} {s : State} {base w : Nat} (hmem : (base, groupRegs s.x.vtype w) ∈ ranges)
    (hb : base + groupRegs s.x.vtype w ≤ 32) (els : List (Nat × Nat)) (lo : Nat) :
    VregsWritten ranges s (s.putElems base w els lo) := by
  unfold State.putElems
  split_ifs
  · exact .vbegZero s
  · exact (VregsWritten.setVgroup hmem hb s _).trans (.vbegZero _)

theorem putElems_x_vbeg (s : State) (base w : Nat) (els : List (Nat × Nat)) (lo : Nat) : (s.putElems base w els lo).x.vbeg = 0 := by
  unfold State.putElems
  split_ifs <;> rfl

theorem filled_putElems {s : State} {base w : Nat} {els : List (Nat × Nat)} {u : Nat → Option Nat} (hu : Lists els u)
    (hb : base + groupRegs s.x.vtype w ≤ 32) (lo : Nat) : s.Filled (s.putElems base w els lo).advance base w (s.listed w u lo) :=
  ⟨holds_putElems hu hb lo, (vregsWritten_putElems (by simp) hb els lo).vectored (putElems_x_vbeg s base w els lo)⟩

/-- Where no element of the tail is listed. -/
theorem listed_eq (s : State) (w : Nat) {u : Nat → Option Nat} {lo i : Nat} (hu : lo ≤ i → u i = none) : s.listed w u lo i =
    if s.vl = 0 then none else if lo ≤ i then (if s.tp then some 0 else none) else (u i).map (· % 2 ^ w) := by
  rw [State.listed]
  by_cases htail : lo ≤ i
  · rw [if_pos htail, hu htail]
    cases s.tp <;> simp [htail]
  · rw [if_neg htail, if_neg (c := s.tp ∧ lo ≤ i) fun h => htail h.2]

theorem listed_eq_packed (s : State) (w : Nat) (l : List Nat) : s.listed w (l[·]?) l.length = s.packed w l := by
  funext i
  rw [listed_eq s w List.getElem?_eq_none, State.packed]
  refine ite_congr rfl (fun _ => rfl) fun _ => ?_
  cases h : l[i]? with
  | some v => rw [if_neg (Nat.not_le.mpr (List.getElem?_eq_some_iff.mp h).1)]; rfl
  | none => exact if_pos (List.getElem?_eq_none_iff.mp h)

theorem filled_packed {s : State} {base w : Nat} (hb : base + groupRegs s.x.vtype w ≤ 32) (l : List Nat) :
    s.Filled (s.putElems base w ((List.range l.length).zip l) l.length).advance base w (s.packed w l) := by
  rw [← listed_eq_packed]
  exact filled_putElems (lists_zip_range l) hb _

/-! ## The checks before the effect (R163) -/

theorem fdCheck_ready {s : State} {f : BitVec 5} {d : FD} {used : List Nat} {opds : List Opd} (h : s.Ready f d used opds)
    {ok : FD → Bool} {uses : FD → List Nat} (hok : ok d = true) (huses : uses d = used) : fdCheck s f ok uses = .ok d := by
  unfold fdCheck
  simp only [← h.fd, h.legal, hok, huses, Bool.not_true, Bool.or_self, Bool.false_eq_true, if_false]
  by_cases hx : used.contains 0x16
  · obtain ⟨hf, hscale⟩ := h.scale (List.contains_iff_mem.mp hx)
    rw [if_pos hx, if_neg hf, if_neg (by simp [hscale])]
  · rw [if_neg hx]

theorem vcheck_ok {s : State} {groupsOk vbegTraps : Bool} (i : Instr) (hvill : vill s.x.vtype = false) (hgroups : groupsOk = true)
    (hvbeg : vbegTraps = true → s.x.vbeg = 0) : vcheck i s groupsOk vbegTraps = .ok () := by
  unfold vcheck
  rw [hvill, hgroups]
  cases vbegTraps with
  | false => rfl
  | true => simp [hvbeg rfl]

/-- A vector instruction with a format descriptor, its checks passed. -/
theorem vectorOp_ready {s : State} {f : BitVec 5} {d : FD} {used : List Nat} {opds : List Opd} (h : s.Ready f d used opds)
    {ok : FD → Bool} {uses : FD → List Nat} {os : FD → List Opd} {vbegTraps : Bool} {i : Instr} {need : Need} {effect : FD → State}
    (hneed : s.admits need) (hok : ok d = true) (huses : uses d = used) (hos : os d = opds) (hvbeg : vbegTraps = true → s.x.vbeg = 0) :
    finish (vectorOp i need f ok uses os vbegTraps s effect) = .next (effect d).advance := by
  rw [vectorOp, gate_admits _ _ _ hneed, fdCheck_ready h hok huses]
  simp only [bind, Except.bind, hos, vcheck_ok i h.vtype h.groups hvbeg, finish_ok]

/-- A move, its checks passed. -/
theorem moveOp_ready {s : State} {regs : List (BitVec 5)} (h : s.ReadyEw regs) {vbegTraps : Bool}
    (hvbeg : vbegTraps = true → s.x.vbeg = 0) (i : Instr) (effect : State) : finish (moveOp i regs vbegTraps s effect) = .next effect.advance := by
  rw [moveOp, gate_admits _ _ _ (admits_core h.core)]
  simp only [bind, Except.bind, vcheck_ok i h.vtype h.groups hvbeg, finish_ok]

end Sys2Proof.Machine

/-! Page 1: arithmetic, conversion and bitwise operations (R164 to R170). -/

namespace Sys2Proof.Machine

/-! ## Two sources and one -/

theorem page1Opds_two (a b r : BitVec 5) (vs : BitVec 1) (d : FD) : page1Opds a b true vs (some r) d =
    [opdOf a d.fa] ++ (if vs = 0 then [opdOf b d.fb] else []) ++ [opdOf r d.fdst] := by
  simp [page1Opds]

/-- The destination of an instruction whose groups are legal. -/
theorem State.Ready.within {s : State} {f : BitVec 5} {d : FD} {used : List Nat} {opds : List Opd} (h : s.Ready f d used opds)
    {r : BitVec 5} {c : Nat} (hm : opdOf r c ∈ opds) : r.toNat + groupRegs s.x.vtype (fmtWidth c) ≤ 32 :=
  (Nat.le_add_right _ _).trans (group_within h.groups hm)

/-- A page-1 instruction, its checks passed: element i of the destination is `elem d i` (R162, R164). -/
theorem page1_filled {s : State} {r a b f : BitVec 5} {two : Bool} {vs : BitVec 1} {d : FD}
    (h : s.Ready f d (if two then [d.fa, d.fb] else [d.fa]) (page1Opds a b two vs (some r) d)) {ok : FD → Bool} (hok : ok d = true)
    (k : BitVec 3) (i : Instr) (elem : FD → Nat → Nat) :
    ∃ t, page1 i k r a b f two vs ok elem s = .next t ∧
      s.Filled t r.toNat (fmtWidth d.fdst) (s.applied (fmtWidth d.fdst) (s.kmask k.toNat) (elem d)) := by
  have huses : (if two then usesAB else usesA) d = if two then [d.fa, d.fb] else [d.fa] := by cases two <;> rfl
  exact ⟨_, vectorOp_ready h (admits_core h.core) hok huses rfl nofun, filled_vectorApply (h.within (by simp [page1Opds])) k _⟩

/-- The quotient of VDIV: on integers R167, else rounded once (R166). -/
theorem div_element (d : FD) (a b : XVal) : (if isInt d.fdst then divElem d a b else d.round (XVal.div a b)) =
    if 8 ≤ d.fdst then roundTo d.fdst d.rm d.sat d.ftz (XVal.div a b)
    else if b.scaled 0 = 0 then 2 ^ fmtWidth d.fdst - 1
    else roundTo d.fdst 0 d.sat false (.ofInt ((a.scaled 0).tdiv (b.scaled 0))) := by
  by_cases hint : d.fdst < 8
  · rw [isInt, if_pos (decide_eq_true hint), if_neg (by omega)]
    rfl
  · rw [isInt, if_neg (by simpa using hint), if_pos (by omega)]
    rfl

theorem vectorTwoSource : Sys2Proof.Parts.VectorArithmetic := by
  intro s k r a b f vs d h hok A B C z out
  rw [← page1Opds_two] at h
  have fills (i : Instr) (g : Bool → XVal → XVal → XVal → XVal) : ∃ t, arith2 i k r a b f vs g s = .next t ∧
      s.Filled t r.toNat (fmtWidth d.fdst)
        (s.applied (fmtWidth d.fdst) (s.kmask k.toNat) fun j => out (g z (A j) (B j) (C j))) :=
    page1_filled (two := true) h hok k i _
  simp only [List.forall_mem_cons, List.not_mem_nil, false_implies, implies_true, and_true]
  refine ⟨fills _ fun z a b _ => XVal.add z a b, fills _ fun z a b _ => XVal.add z a b.neg, fills _ fun _ a b _ => XVal.mul a b,
    fills _ fun z a b c => XVal.add z (XVal.mul a b) c, fills _ fun z a b c => XVal.add z (XVal.mul a b) c.neg,
    fills _ fun z a b c => XVal.add z c (XVal.mul a b).neg, ?_, fills _ fun _ a b _ => XVal.minOf a b,
    fills _ fun _ a b _ => XVal.maxOf a b⟩
  obtain ⟨t, ht, hfill⟩ : ∃ t, exec (.vdiv k r a b f vs) s = .next t ∧
      s.Filled t r.toNat (fmtWidth d.fdst) (s.applied (fmtWidth d.fdst) (s.kmask k.toNat) fun j =>
        if isInt d.fdst then divElem d (A j) (B j) else d.round (XVal.div (A j) (B j))) :=
    page1_filled (two := true) h hok k _ _
  exact ⟨t, ht, by simpa only [div_element] using hfill⟩

theorem vectorOneSource : Sys2Proof.Parts.VectorOneSource := by
  intro s k r a f d h A w done
  have fills {ok : FD → Bool} (hok : ok d = true) (i : Instr) (g : XVal → XVal) : ∃ t, arith1 i k r a f ok g s = .next t ∧
      s.Filled t r.toNat w (s.applied w (s.kmask k.toNat) fun j => roundTo d.fdst d.rm d.sat d.ftz (g (A j))) :=
    page1_filled (two := false) h hok k _ _
  refine ⟨fun hok => ⟨fills hok _ XVal.abs, fills hok _ XVal.neg⟩, fun hreal hfloat => ?_, fun hfrom hto => ?_, fun hfrom hto => ?_⟩
  · have hok : funcFormats d = true := by rw [funcFormats, hreal, hfloat]; rfl
    exact ⟨fills hok _ sqrtX, fills hok _ exp2X, fills hok _ log2X, fills hok _ rcpX, fills hok _ rsqrtX⟩
  · exact fills (ok := convFormats) (by rw [convFormats, hfrom, hto]; rfl) _ fun x => x
  · refine ⟨_, vectorOp_ready h (admits_core h.core) ?_ rfl rfl nofun, filled_vectorApply (h.within (by simp)) k _⟩
    rw [hfrom, hto]
    rfl

/-- Settles O46: once the checks have passed, a page-1 instruction is vector_apply of its exact results rounded; on integers the
quotient of VDIV is that of R167. -/
theorem vectorArithmetic : Obligations.VectorArithmetic := ⟨vectorTwoSource, vectorOneSource⟩

/-! ## Patterns (R170) -/

theorem applied_congr (s : State) (w : Nat) (mask : BitVec 2048) {f g : Nat → Nat} (h : ∀ i, f i % 2 ^ w = g i % 2 ^ w) :
    s.applied w mask f = s.applied w mask g := by
  funext i
  rw [State.applied, State.applied, h i]

/-- Formats of one width (R170). -/
theorem width_of_bitFormats {two : Bool} {d : FD} (h : bitFormats two d = true) : fmtWidth d.fdst = fmtWidth d.fa := by
  simp only [bitFormats, Bool.and_eq_true, beq_iff_eq] at h
  exact h.1.2

theorem width_of_shiftFormats {d : FD} (h : shiftFormats d = true) : fmtWidth d.fdst = fmtWidth d.fa := by
  simp only [shiftFormats, Bool.and_eq_true, beq_iff_eq] at h
  exact h.1.2

theorem sraBits_eq (w x n : Nat) : sraBits w x n = (sextN x w / 2 ^ (n % w) % 2 ^ w).toNat := by
  rw [sraBits, Int.fdiv_eq_ediv_of_nonneg _ (by positivity)]

/-- Settles O47: the operations act on the patterns that the sources hold, whose width is the destination's. -/
theorem vectorBitwise : Obligations.VectorBitwise := by
  intro s k r a b f vs d w A B done
  refine ⟨fun h => ?_, fun h hok => ?_⟩
  · rw [← page1Opds_two] at h
    have hB : s.patternB d b vs = B := by
      funext j
      rw [State.patternB]
      exact apply_ite (fun g : Nat → Nat => g j) _ _ _
    have fills {ok : FD → Bool} (hok : ok d = true) (hw : w = fmtWidth d.fa) (i : Instr) (g : Nat → Nat → Nat → Nat) :
        ∃ t, bitwise i k r a b f true vs ok g s = .next t ∧
          s.Filled t r.toNat w (s.applied w (s.kmask k.toNat) fun j => g w (A j) (B j)) := by
      obtain ⟨t, ht, hfill⟩ : ∃ t, bitwise i k r a b f true vs ok g s = .next t ∧
          s.Filled t r.toNat w (s.applied w (s.kmask k.toNat) fun j => g (fmtWidth d.fa) (A j) (s.patternB d b vs j)) :=
        page1_filled (two := true) h hok k i _
      exact ⟨t, ht, by rwa [hB, ← hw] at hfill⟩
    simp only [List.forall_mem_cons, List.not_mem_nil, false_implies, implies_true, and_true]
    refine ⟨fun hok => ?_, fun hok => ?_⟩
    · have hw := width_of_bitFormats hok
      exact ⟨fills hok hw _ fun _ x y => x &&& y, fills hok hw _ fun _ x y => x ||| y, fills hok hw _ fun _ x y => x ^^^ y⟩
    · have hw := width_of_shiftFormats hok
      obtain ⟨t, ht, hfill⟩ := fills hok hw (.vshl k r a b f vs) shlBits
      refine ⟨⟨t, ht, ?_⟩, fills hok hw _ shrBits, ?_⟩
      · rwa [applied_congr s w _ fun j => (Nat.mod_mod _ _).symm]
      · obtain ⟨t, ht, hfill⟩ := fills hok hw (.vsra k r a b f vs) sraBits
        exact ⟨t, ht, by simpa only [sraBits_eq] using hfill⟩
  · obtain ⟨t, ht, hfill⟩ : ∃ t, exec (.vnot k r a f) s = .next t ∧
        s.Filled t r.toNat w (s.applied w (s.kmask k.toNat) fun j => 2 ^ fmtWidth d.fa - 1 - A j) :=
      page1_filled (two := false) h hok k _ _
    exact ⟨t, ht, by rwa [← width_of_bitFormats hok] at hfill⟩

end Sys2Proof.Machine

/-! VSETVL and VSETVLI (R157), VCMP (R171) and the dispatch traps of vector instructions (R163). -/

namespace Sys2Proof.Machine

/-! ## VSETVL, VSETVLI -/

theorem got_setS (s : State) (d : BitVec 5) (v : Word) : s.Got (s.setS d v) d v :=
  ⟨fun h => getS_setS_same s d v h, fun r h => getS_setS_ne s d r v h⟩

/-- A register write changes the register and what awaits a chain value. -/
theorem setS_frame (s : State) (d : BitVec 5) (v : Word) :
    s.setS d v = { s with x := { s.x with sreg := (s.setS d v).x.sreg, await := (s.setS d v).x.await } } := by
  unfold State.setS
  split_ifs <;> rfl

/-- The reserved bits of a requested vtype are zero (R157). -/
theorem bits_reserved (v : Word) : (bits v 6 58 != 0) = !decide (v.toNat < 64) := by
  have hlt := v.isLt
  rw [bits, nbits, Nat.mod_eq_of_lt (by omega)]
  by_cases h : v.toNat < 64
  · simp [h, Nat.div_eq_of_lt]
  · simp [h]

/-- What VSETVL and VSETVLI leave for a requested vtype (R157). -/
theorem setVl_spec (s : State) (d a : BitVec 5) (v : Word) :
    let vlmax := min (vgmOf v * 16384 / ewOf v) 2048
    let ok : Bool := decide (v.toNat < 64)
    let vl : Word := if !ok then 0 else if a = 0 then BitVec.ofNat 64 vlmax else BitVec.ofNat 64 (min (s.getS a).toNat vlmax)
    s.Got (s.setVl d a v) d vl ∧ s.setVl d a v = { s with
      retired := true
      x := { s.x with
        pc := s.x.pc + 4, sreg := (s.setVl d a v).x.sreg, await := (s.setVl d a v).x.await, replies := [], pipe := none
        vl := vl, vbeg := 0, vtype := if ok then v else 0x8000000000000000 } } := by
  intro vlmax ok vl
  have hset : s.setVl d a v =
      { s with x := { s.x with vtype := if ok then v else villValue, vl := vl, vbeg := 0 } }.result d vl := by
    rw [State.setVl, bits_reserved]
    by_cases hok : v.toNat < 64
    · have hvl : vl = BitVec.ofNat 64 (min (if a = 0 then vlmaxOf v else (s.getS a).toNat) (vlmaxOf v)) := by
        simp only [vl, ok, hok, decide_true, Bool.not_true, Bool.false_eq_true, if_false]
        by_cases ha : a = 0
        · rw [if_pos ha, if_pos ha, Nat.min_self]
          rfl
        · rw [if_neg ha, if_neg ha]
          rfl
      simp only [hvl, ok, hok, decide_true, Bool.not_true, Bool.false_eq_true, if_false, if_true]
    · have hvl : vl = 0 := by simp [vl, ok, hok]
      simp only [hvl, ok, hok, decide_false, Bool.not_false, if_true, Bool.false_eq_true, if_false]
  rw [hset]
  exact ⟨got_setS _ d vl, by rw [State.result, setS_frame]; rfl⟩

theorem vectorLengthSetting : Sys2Proof.Parts.VectorLengthSetting := by
  intro s d a b m hcore
  simp only [List.forall_mem_cons, List.not_mem_nil, false_implies, implies_true, and_true]
  constructor
  · refine ⟨s.setVl d a (s.getS b), ?_, setVl_spec s d a _⟩
    simp only [exec, execVsetvl, gate_admits _ _ _ (admits_core hcore)]
    rfl
  · refine ⟨s.setVl d a (m.setWidth 64), ?_, setVl_spec s d a _⟩
    simp only [exec, execVsetvli, gate_admits _ _ _ (admits_core hcore)]
    rfl

/-! ## VCMP -/

theorem vectorCompare : Sys2Proof.Parts.VectorCompare := by
  intro s k m a b f vs d hm h hok A B un
  have hopds : page1Opds a b true vs none d = [opdOf a d.fa] ++ (if vs = 0 then [opdOf b d.fb] else []) := by simp [page1Opds]
  have hm0 : m.toNat ≠ 0 := fun h0 => hm (BitVec.eq_of_toNat_eq h0)
  have masks (c : BitVec 3) : ∃ t, exec (.vcmp k m a b f vs c) s = .next t ∧
      s.Masked t m.toNat (s.applied 1 (s.kmask k.toNat) fun j => if vcmpHolds c (A j) (B j) then 1 else 0) :=
    ⟨_, vectorOp_ready h (admits_core h.core) hok rfl hopds nofun, masked_maskApply s hm0 m.isLt k _⟩
  simp only [List.forall_mem_cons, List.not_mem_nil, false_implies, implies_true, and_true]
  exact ⟨masks 0, masks 1, masks 2, masks 3, masks 4, masks 5, masks 6, masks 7⟩

/-! ## Dispatch traps -/

theorem vectorOp_of_illegal {s : State} {f : BitVec 5} (hcore : s.st.place.master? ≠ none) (hfd : fdLegal (s.getS f) = false) (i : Instr)
    (ok : FD → Bool) (used : FD → List Nat) (opds : FD → List Opd) (vbegTraps : Bool) (effect : FD → State) :
    finish (vectorOp i {} f ok used opds vbegTraps s effect) = .next (s.trapS 0x61 (s.getS f)) := by
  have hcheck : fdCheck s f ok used = .error (s.trapS 0x61 (s.getS f)) := by simp [fdCheck, hfd]
  rw [vectorOp, gate_admits _ _ _ (admits_core hcore), hcheck]
  rfl

theorem finish_moveOp {s : State} (hcore : s.st.place.master? ≠ none) (i : Instr) (regs : List (BitVec 5)) (vbegTraps : Bool)
    (effect : State) : finish (moveOp i regs vbegTraps s effect) =
      finish (vcheck i s (groupsLegal s.x.vtype (regs.map fun r => opdW r s.ew)) vbegTraps >>= fun _ => .ok effect.advance) := by
  rw [moveOp, gate_admits _ _ _ (admits_core hcore)]
  rfl

/-- The traps of a move, in their order (R163). -/
theorem moveOp_traps {s : State} (hcore : s.st.place.master? ≠ none) (i : Instr) (regs : List (BitVec 5)) (vbegTraps : Bool)
    (effect : State) :
    let legal := groupsLegal s.x.vtype (regs.map fun q => opdW q s.ew)
    let e := finish (moveOp i regs vbegTraps s effect)
    (vill s.x.vtype = true → e = .next (s.trapS 0x62 s.x.vtype)) ∧
    (vill s.x.vtype = false → legal = false → e = .next (s.trapS 0x60 ((encode i).setWidth 64))) ∧
    (vill s.x.vtype = false → legal = true → vbegTraps = true → s.x.vbeg ≠ 0 → e = .next (s.trapS 0x63 s.x.vbeg)) := by
  intro legal e
  have stops {t : State} (h : vcheck i s legal vbegTraps = .error t) : e = .next t :=
    (finish_moveOp hcore i regs vbegTraps effect).trans (finish_bind_of_error h _)
  refine ⟨fun hvill => stops ?_, fun hvill hlegal => stops ?_, fun hvill hlegal htraps hvbeg => stops ?_⟩
  · rw [vcheck, if_pos hvill]
  · rw [vcheck, hvill, hlegal]
    rfl
  · rw [vcheck, hvill, hlegal, htraps, bne_iff_ne.mpr hvbeg]
    rfl

theorem vectorDispatchTraps : Sys2Proof.Parts.VectorDispatchTraps := by
  intro s k m r a b f vs c hcore
  refine ⟨fun hfd => ?_, ?_⟩
  · simp only [List.forall_mem_cons, List.not_mem_nil, false_implies, implies_true, and_true]
    and_intros
    all_goals exact vectorOp_of_illegal hcore hfd _ _ _ _ _ _
  · intro plain
    repeat refine List.forall_mem_cons.mpr ⟨moveOp_traps hcore _ _ _ _, ?_⟩
    exact List.forall_mem_nil _

/-- Settles O48: bits [63:6] of a requested vtype are zero exactly below 64; VCMP is vector_apply of its condition to a mask register; each
check stands before the effect, and the first that fails ends the instruction. -/
theorem vectorLengthAndCompare : Obligations.VectorLengthAndCompare := ⟨vectorLengthSetting, vectorCompare, vectorDispatchTraps⟩

end Sys2Proof.Machine

/-! Reductions and scan (R173, R174), sort and top-k (R175, R176). -/

namespace Sys2Proof.Machine

/-! ## Reductions and scan -/

/-- With vbeg 0 the active elements are those below vl whose bit is set. -/
theorem active_of_vbeg {s : State} (hvbeg : s.x.vbeg = 0) (k : BitVec 3) (i : Nat) :
    s.active k i = (decide (i < s.vl) && (s.kmask k.toNat).getLsbD i) := by
  have h0 : s.vbeg = 0 := congrArg BitVec.toNat hvbeg
  simp [State.active, h0]

theorem actives_of_vbeg {s : State} (hvbeg : s.x.vbeg = 0) (k : BitVec 3) :
    s.actives k = (List.range s.vl).filter fun i => (s.kmask k.toNat).getLsbD i :=
  List.filter_congr fun i hi => by rw [active_of_vbeg hvbeg, decide_eq_true (List.mem_range.mp hi), Bool.true_and]

/-- A reduction writes its one value to element 0, and a tail (R173). -/
theorem reduce_filled {s : State} {r a f : BitVec 5} {d : FD} (h : s.Ready f d [d.fa] [opdOf a d.fa, opdOf r d.fdst])
    (hok : reduceFormats d = true) (hvbeg : s.x.vbeg = 0) (k : BitVec 3) (i : Instr) (ordered : Bool) (g : Bool → XVal → XVal → XVal)
    (e0 : FD → XVal) :
    let A := s.valueOf a d.fa d f
    let join (x y : XVal × Nat) : XVal × Nat := (reread d ordered (d.round (g (d.rm == 2) x.1 y.1)), d.round (g (d.rm == 2) x.1 y.1))
    let act := (List.range s.vl).filter fun i => (s.kmask k.toNat).getLsbD i
    ∃ t, reduce i k r a f ordered g e0 s = .next t ∧ s.Filled t r.toNat (fmtWidth d.fdst) (s.packed (fmtWidth d.fdst)
      [((reduceTree join 12 (act.map fun i => (A i, d.round (A i)))).getD (e0 d, d.round (e0 d))).2]) := by
  intro A join act
  refine ⟨_, vectorOp_ready h (admits_core h.core) hok rfl rfl fun _ => hvbeg, ?_⟩
  rw [actives_of_vbeg hvbeg]
  exact filled_packed (h.within (by simp)) [_]

/-- The indices stay those of the list. -/
theorem prefixes_keys (d : FD) (p : Option XVal) (l : List (Nat × XVal)) : (prefixes d p l).map (·.1) = l.map (·.1) := by
  induction l generalizing p with
  | nil => rfl
  | cons e l ih => exact congrArg (e.1 :: ·) (ih _)

theorem lookupD_eq_getD (x : Nat) (l : List (Nat × Nat)) : lookupD 0 x l = (l.map (·.2)).getD ((l.map (·.1)).idxOf x) 0 := by
  induction l with
  | nil => rfl
  | cons e l ih =>
    rw [lookupD, ih]
    by_cases he : e.1 = x
    · simp [he]
    · simp [he, List.idxOf_cons_ne]

/-- Each partial sum but the first adds an element to the one before, as later elements read it (R174). -/
theorem prefixes_succ (d : FD) (p : Option XVal) (l : List (Nat × XVal)) (j : Nat) (hj : j + 1 < l.length) :
    ((prefixes d p l).map (·.2)).getD (j + 1) 0 =
      d.round (XVal.add (d.rm == 2) (reread d false (((prefixes d p l).map (·.2)).getD j 0)) (l[j + 1].2)) := by
  induction l generalizing p j with
  | nil => simp at hj
  | cons e l ih =>
    cases j with
    | zero =>
      cases l with
      | nil => simp at hj
      | cons e' l => rfl
    | succ j => exact ih _ j (by simpa using hj)

theorem scan_filled {s : State} {r a f : BitVec 5} {d : FD} (h : s.Ready f d [d.fa] [opdOf a d.fa, opdOf r d.fdst])
    (hok : reduceFormats d = true) (hvbeg : s.x.vbeg = 0) (k : BitVec 3) :
    let A := s.valueOf a d.fa d f
    let act := (List.range s.vl).filter fun i => (s.kmask k.toNat).getLsbD i
    ∃ (t : State) (ps : List Nat), exec (.vscan k r a f) s = .next t ∧ ps.length = act.length ∧
      (∀ i ∈ act.head?, ps.head? = some (d.round (A i))) ∧
      (∀ j, j + 1 < act.length → ps.getD (j + 1) 0 =
        d.round (XVal.add (d.rm == 2) (reread d false (ps.getD j 0)) (A (act.getD (j + 1) 0)))) ∧
      s.Filled t r.toNat (fmtWidth d.fdst)
        (s.applied (fmtWidth d.fdst) (s.kmask k.toNat) fun i => ps.getD (act.idxOf i) 0) := by
  intro A act
  let l := prefixes d none (act.map fun i => (i, A i))
  have hkeys : l.map (·.1) = act := by
    rw [prefixes_keys, List.map_map]
    exact List.map_id act
  refine ⟨_, l.map (·.2), vectorOp_ready h (admits_core h.core) hok rfl rfl fun _ => hvbeg, ?_, ?_, ?_, ?_⟩
  · rw [List.length_map, ← List.length_map (f := (·.1)), hkeys]
  · intro i hi
    cases hact : act with
    | nil => rw [hact] at hi; cases hi
    | cons j rest =>
      rw [hact] at hi
      cases hi
      simp only [l, hact]
      rfl
  · intro j hj
    have := prefixes_succ d none (act.map fun i => (i, A i)) j (by simpa using hj)
    rw [List.getElem_map] at this
    rw [List.getD_eq_getElem act 0 hj]
    exact this
  · rw [actives_of_vbeg hvbeg]
    have hlook : (fun i => (l.map (·.2)).getD (act.idxOf i) 0) = fun i => lookupD 0 i l := by
      funext i
      rw [lookupD_eq_getD, hkeys]
    rw [hlook]
    exact filled_vectorApply (h.within (by simp)) k _

theorem vectorReductions : Sys2Proof.Parts.VectorReductions := by
  intro s k r a f d h hok hvbeg A w z out act back order tree
  have reduces := reduce_filled h hok hvbeg k
  refine ⟨?_, scan_filled h hok hvbeg k⟩
  simp only [List.forall_mem_cons, List.not_mem_nil, false_implies, implies_true, and_true]
  exact ⟨reduces _ false XVal.add fun _ => .zero false,
    reduces _ true (fun _ => XVal.maxOf) fun d => if isInt d.fdst then .ofInt (smallestInt d.fdst) else .inf true,
    reduces _ true (fun _ => XVal.minOf) fun d => if isInt d.fdst then .ofInt (largestInt d.fdst) else .inf false⟩

/-! ## Sort and top-k -/

theorem insertKey_perm (lt : XVal → XVal → Bool) (x : XVal × Nat) (l : List (XVal × Nat)) : (insertKey lt x l).Perm (x :: l) := by
  induction l with
  | nil => exact .refl _
  | cons y l ih =>
    rw [insertKey]
    split_ifs
    · exact .refl _
    · exact (ih.cons y).trans (.swap x y l)

theorem foldl_insertKey_perm (lt : XVal → XVal → Bool) (key : Nat → XVal) (is : List Nat) (l : List (XVal × Nat)) :
    ((is.foldl (fun l i => insertKey lt (key i, i) l) l).map (·.2)).Perm (l.map (·.2) ++ is) := by
  induction is generalizing l with
  | nil => simp
  | cons i is ih =>
    refine (ih _).trans ?_
    have hfirst := ((insertKey_perm lt (key i, i) l).map (·.2)).append_right is
    exact hfirst.trans List.perm_middle.symm

/-- The order is a permutation of the active elements (R175). -/
theorem sorted_perm {s : State} (hvbeg : s.x.vbeg = 0) (k : BitVec 3) (a : BitVec 5) (c : Nat) (lt : XVal → XVal → Bool) :
    (s.sorted k a c lt).Perm ((List.range s.vl).filter fun i => (s.kmask k.toNat).getLsbD i) := by
  rw [← actives_of_vbeg hvbeg]
  simpa [State.sorted] using foldl_insertKey_perm lt ((s.src (opdOf a c)).value c false (.ofInt 1)) (s.actives k) []

/-- Keys packed into the group at `base`, and their companions into the one after it (R175). -/
theorem pair_packed {s : State} {base w v : Nat} (hw : base + groupRegs s.x.vtype w ≤ 32)
    (hv : base + groupRegs s.x.vtype w + groupRegs s.x.vtype v ≤ 32) {ks vs : List Nat} {m : Nat}
    (hks : ks.length = m) (hvs : vs.length = m) :
    let n := groupRegs s.x.vtype w
    let t := (s.putElems base w ((List.range m).zip ks) m).putElems (base + n) v ((List.range m).zip vs) m
    s.Holds t.advance base n w (s.packed w ks) ∧ s.Holds t.advance (base + n) (groupRegs s.x.vtype v) v (s.packed v vs) ∧
      s.Vectored t.advance [(base, n), (base + n, groupRegs s.x.vtype v)] := by
  subst hks
  intro n t
  let u := s.putElems base w ((List.range ks.length).zip ks) ks.length
  let p := groupRegs s.x.vtype v
  have hu : VregsWritten [(base, n)] s u := vregsWritten_putElems (by simp [n]) hw _ _
  have ht : VregsWritten [(base + n, p)] u t := vregsWritten_putElems (by simp [hu.vtype, p]) (hu.vtype ▸ hv) _ _
  have hboth : VregsWritten [(base, n), (base + n, p)] s t := (hu.mono (by simp)).trans (ht.mono (by simp))
  have hfirst : s.Holds t base n w (s.packed w ks) := holds_trans (u := u) (filled_packed hw ks).1 ht (by simp)
  have hsecond : u.Holds t (base + n) p v (s.packed v vs) := by
    have := (filled_packed (s := u) (base := base + n) (w := v) (hu.vtype ▸ hv) vs).1
    rw [hvs, hu.vtype] at this
    have hpacked : u.packed v vs = s.packed v vs := by
      funext i
      rw [State.packed, hu.vl, hu.tp, State.packed]
    exact hpacked ▸ this
  exact ⟨hfirst, hu.holds_of_holds (by simp) hsecond, hboth.vectored (putElems_x_vbeg _ _ _ _ _)⟩

theorem vectorSort : Sys2Proof.Parts.VectorSort := by
  intro s k r a b f d hvbeg hfa act w n A next pair
  refine ⟨sorted_perm hvbeg k a, fun h hfb => ?_, fun h hfdst => ?_⟩
  · intro order
    refine ⟨_, vectorOp_ready h (admits_core h.core) ?_ rfl rfl fun _ => hvbeg,
      pair_packed (h.within (by simp)) (group_within h.groups (o := next d.fb) (by simp)) ?_ ?_⟩
    · rw [hfa, hfb]
      rfl
    · exact List.length_map _
    · exact List.length_map _
  · intro order
    refine ⟨_, vectorOp_ready h (admits_core h.core) ?_ rfl rfl fun _ => hvbeg,
      pair_packed (h.within (by simp)) (group_within h.groups (o := next d.fdst) (by simp)) ?_ rfl⟩
    · rw [hfa]
      obtain hc | hc := hfdst <;> rw [hc] <;> rfl
    · exact List.length_map _

/-- Settles O49: a reduction is the tree over the active elements, one value to write; each partial sum of VSCAN reads the one before it;
insertion keeps the elements, and the keys and their companions go to groups that lie apart. -/
theorem vectorReductionsAndSort : Obligations.VectorReductionsAndSort := ⟨vectorReductions, vectorSort⟩

end Sys2Proof.Machine

/-! The moves at the width of vtype's ew (R177 to R179) and the mask instructions (R180). -/

namespace Sys2Proof.Machine

/-! ## Moves -/

theorem State.ReadyEw.within {s : State} {regs : List (BitVec 5)} (h : s.ReadyEw regs) {r : BitVec 5} (hm : r ∈ regs) :
    r.toNat + groupRegs s.x.vtype s.ew ≤ 32 :=
  (Nat.le_add_right _ _).trans (group_within h.groups (List.mem_map_of_mem hm))

/-- A move that is vector_apply of a function of its sources. -/
theorem moveOp_filled {s : State} {regs : List (BitVec 5)} (h : s.ReadyEw regs) {vbegTraps : Bool}
    (hvbeg : vbegTraps = true → s.x.vbeg = 0) {r : BitVec 5} (hm : r ∈ regs) (i : Instr) (k : BitVec 3) (f : Nat → Nat) :
    ∃ t, finish (moveOp i regs vbegTraps s (s.vectorApply r s.ew k f)) = .next t ∧
      s.Filled t r.toNat s.ew (s.applied s.ew (s.kmask k.toNat) f) :=
  ⟨_, moveOp_ready h hvbeg i _, filled_vectorApply (h.within hm) k f⟩

/-- VINS writes one element and no tail. -/
theorem filled_insert {s : State} {r : BitVec 5} (hb : r.toNat + groupRegs s.x.vtype s.ew ≤ 32) (n x : Nat) :
    let g := groupRegs s.x.vtype s.ew
    s.Filled (if n < s.vl then (s.setVgroup r.toNat g (putField (s.vgroup r.toNat g) (s.ew * n) s.ew x)).vbegZero else s.vbegZero).advance
      r.toNat s.ew fun i => if i < s.vl ∧ i = n then some (x % 2 ^ s.ew) else none := by
  intro g
  split_ifs with hn
  · refine ⟨holds_setVgroup hb rfl fun i _ => ?_, ((VregsWritten.setVgroup (by simp) hb s _).trans (.vbegZero _)).vectored rfl⟩
    rw [element_putField]
    by_cases hi : n = i
    · subst hi
      rw [if_pos rfl, if_pos ⟨hn, rfl⟩]
      rfl
    · rw [if_neg hi, if_neg fun h => hi h.2.symm]
      rfl
  · exact ⟨holds_none rfl fun i => if_neg fun ⟨hi, hin⟩ => hn (hin ▸ hi), (VregsWritten.vbegZero s).vectored rfl⟩

/-- VSLUP writes the body elements from the offset on, and a tail. -/
theorem slup_filled {s : State} {r a b : BitVec 5} (h : s.ReadyEw [a, r]) (hvbeg : s.x.vbeg = 0) (k : BitVec 3) :
    let n := (s.getS b).toNat
    ∃ t, exec (.vslup k r a b) s = .next t ∧ s.Filled t r.toNat s.ew fun i =>
      if i < n ∧ i < s.vl then none else s.applied s.ew (s.kmask k.toNat) (fun i => s.elemEw a (i - n)) i := by
  intro n
  let f (i : Nat) : Nat := s.elemEw a (i - n)
  let u (i : Nat) : Option Nat := if i ∈ span (min n s.vl) s.vl then bodyValue (s.kmask k.toNat) s.mp f i else none
  have hbody : (span (min n s.vl) s.vl).filterMap (fun i => if s.active k i then some (i, f i) else if s.mp then some (i, 0) else none) =
      (span (min n s.vl) s.vl).filterMap fun i => (bodyValue (s.kmask k.toNat) s.mp f i).map (i, ·) := by
    refine List.filterMap_congr fun i hi => ?_
    rw [active_of_vbeg hvbeg, decide_eq_true (mem_span.mp hi).2, Bool.true_and, bodyValue]
    split_ifs <;> rfl
  have hlisted : s.listed s.ew u s.vl = fun i => if i < n ∧ i < s.vl then none else s.applied s.ew (s.kmask k.toNat) f i := by
    have h0 : s.vbeg = 0 := congrArg BitVec.toNat hvbeg
    have hout {i : Nat} (h : i < n ∨ s.vl ≤ i) : u i = none := if_neg fun hi => by have := mem_span.mp hi; omega
    funext i
    rw [listed_eq s s.ew fun h => hout (.inr h), State.applied, h0, if_neg (Nat.not_lt_zero i)]
    by_cases hlow : i < n ∧ i < s.vl
    · rw [if_pos hlow, if_neg (Nat.not_le.mpr hlow.2), hout (.inl hlow.1), Option.map_none, ite_self]
    · rw [if_neg hlow]
      refine ite_congr rfl (fun _ => rfl) fun _ => ite_congr rfl (fun _ => rfl) fun htail => ?_
      have hin : u i = bodyValue (s.kmask k.toNat) s.mp f i := if_pos (mem_span.mpr (by omega))
      rw [hin, map_bodyValue]
  refine ⟨_, moveOp_ready h (fun _ => hvbeg) _ _, ?_⟩
  have := filled_putElems (s := s) (base := r.toNat) (w := s.ew) (u := u) (lists_filterMap fun _ => rfl) (h.within (by simp)) s.vl
  rw [hlisted, ← hbody] at this
  exact this

/-- An instruction whose result is one scalar register, vbeg left 0. -/
theorem scalar_result (s : State) (r : BitVec 5) {v x : Word} (hv : v = x) :
    s.Got (s.vbegZero.setS r v).advance r x ∧ (s.vbegZero.setS r v).advance = { s with
      retired := true
      x := { s.x with
        pc := s.x.pc + 4, sreg := (s.vbegZero.setS r v).advance.x.sreg, await := (s.vbegZero.setS r v).advance.x.await, vbeg := 0
        replies := [], pipe := none } } :=
  hv ▸ ⟨got_setS s.vbegZero r v, by rw [setS_frame]; rfl⟩

theorem vectorMoves : Sys2Proof.Parts.VectorMoves := by
  intro s k r a b K A B n below done all
  refine ⟨fun h => ⟨?_, ?_, ?_⟩, fun h => ⟨?_, fun hvbeg => ⟨?_, ?_, ?_⟩⟩, fun h => ⟨?_, fun hvbeg => ?_⟩, fun h => ?_⟩
  · exact moveOp_filled (r := r) (vbegTraps := false) h nofun (by simp) _ 0 _
  · exact moveOp_filled (r := r) (vbegTraps := false) h nofun (by simp) _ k _
  · exact ⟨_, moveOp_ready (vbegTraps := false) h nofun _ _, filled_insert (h.within (by simp)) n _⟩
  · exact moveOp_filled (r := r) (vbegTraps := false) h nofun (by simp) _ k _
  · exact ⟨_, moveOp_ready h (fun _ => hvbeg) _ _, filled_packed (h.within (by simp)) _⟩
  · exact slup_filled h hvbeg k
  · exact moveOp_filled (r := r) h (fun _ => hvbeg) (by simp) _ k _
  · exact moveOp_filled (r := r) (vbegTraps := false) h nofun (by simp) _ 0 _
  · exact moveOp_filled (r := r) h (fun _ => hvbeg) (by simp) _ k _
  · exact ⟨_, moveOp_ready (vbegTraps := false) h nofun _ _, scalar_result s r (apply_ite _ _ _ _)⟩

/-! ## Mask instructions -/

/-- A mask instruction has no operand group: it needs a core of strands and a legal vtype. -/
theorem readyEw_nil {s : State} (hcore : s.st.place.master? ≠ none) (hvill : vill s.x.vtype = false) : s.ReadyEw [] :=
  ⟨hcore, hvill, rfl⟩

/-- What a mask instruction leaves: bits 0 to vl − 1 of the result, then the tail, whatever vbeg held. -/
theorem masked_putMask (s : State) {r : BitVec 5} (hr : 0 < r.toNat) (hr8 : r.toNat < 8) (v : BitVec 2048) :
    s.Masked (s.putMask r v).advance r.toNat fun i =>
      if s.vl = 0 then none else if i < s.vl then some (if v.getLsbD i then 1 else 0) else if s.tp then some 0 else none := by
  obtain ⟨hbits, hothers, hrest⟩ := masked_maskApply s.vbegZero hr.ne' hr8 0 fun i => v.getLsbD i
  refine ⟨fun i hi => (hbits i hi).trans ?_, hothers, hrest⟩
  have hall : (s.vbegZero.kmask (0 : BitVec 3).toNat).getLsbD i = true := by
    change (~~~(0#2048)).getLsbD i = true
    rw [BitVec.getLsbD_not, BitVec.getLsbD_zero, decide_eq_true hi]
    rfl
  have happlied : s.vbegZero.applied 1 (s.vbegZero.kmask (0 : BitVec 3).toNat) (fun i => if v.getLsbD i then 1 else 0) i =
      if s.vl = 0 then none else if i < s.vl then some (if v.getLsbD i then 1 else 0) else if s.tp then some 0 else none := by
    rw [State.applied, hall, if_neg (c := i < s.vbegZero.vbeg) (Nat.not_lt_zero i)]
    change (if s.vl = 0 then none else if s.vl ≤ i then (if s.tp then some 0 else none)
      else some ((if v.getLsbD i then 1 else 0) % 2 ^ 1)) = _
    by_cases hbody : i < s.vl
    · rw [if_neg (Nat.not_le.mpr hbody), if_pos hbody]
      cases v.getLsbD i <;> rfl
    · rw [if_pos (Nat.not_lt.mp hbody), if_neg hbody]
  rw [happlied]
  rfl

theorem maskInstructions : Sys2Proof.Parts.MaskInstructions := by
  intro s r a b hcore hvill A B act
  have passes := moveOp_ready (readyEw_nil hcore hvill) (vbegTraps := false) nofun
  refine ⟨fun hr hr8 => ?_, ?_⟩
  · simp only [List.forall_mem_cons, List.not_mem_nil, false_implies, implies_true, and_true]
    exact ⟨⟨_, passes _ _, masked_putMask s hr hr8 _⟩, ⟨_, passes _ _, masked_putMask s hr hr8 _⟩,
      ⟨_, passes _ _, masked_putMask s hr hr8 _⟩, ⟨_, passes _ _, masked_putMask s hr hr8 _⟩⟩
  · simp only [List.forall_mem_cons, List.not_mem_nil, false_implies, implies_true, and_true]
    refine ⟨⟨_, passes _ _, scalar_result s r rfl⟩, ⟨_, passes _ _, scalar_result s r ?_⟩⟩
    rw [← List.head?_filter]
    change (match act.head? with | some i => BitVec.ofNat 64 i | none => BitVec.ofNat 64 (2 ^ 64 - 1)) = _
    cases act <;> rfl

/-- Settles O50: most moves are vector_apply of a function of their sources; VCOMP packs, VSLUP starts its body at the offset and VINS
writes one element; a mask instruction runs with vbeg 0. -/
theorem vectorMovesAndMasks : Obligations.VectorMovesAndMasks := ⟨vectorMoves, maskInstructions⟩

end Sys2Proof.Machine

/-! VRAND and VPWL (R181, R182), VQUANT and VBADDQ (R183, R185). -/

namespace Sys2Proof.Machine

/-! ## VRAND, VPWL -/

/-- A float element has no scale (R137). -/
theorem elemValue_of_isFloat {c : Nat} (h : isFloat c = true) (ftz : Bool) (p sb : Nat) (t t' : XVal) :
    elemValue c ftz p sb t = elemValue c ftz p sb t' := by
  have hint : isInt c = false := by
    simp only [isFloat, Bool.and_eq_true, decide_eq_true_eq] at h
    simp only [isInt, decide_eq_false_iff_not]
    omega
  rw [elemValue, elemValue, hint, h]
  rfl

theorem vectorApply_x_rngctr (s : State) (r : BitVec 5) (w : Nat) (k : BitVec 3) (f : Nat → Nat) :
    (s.vectorApply r w k f).x.rngctr = s.x.rngctr := by
  unfold State.vectorApply
  split_ifs <;> rfl

/-- The counter moves on, and nothing else than vector_apply changes. -/
theorem filled_setRngctr {s t : State} {base w : Nat} {v : Nat → Option Nat} (h : s.Filled t.advance base w v)
    (hctr : t.x.rngctr = s.x.rngctr) (c : Word) :
    let u := ({ t with x := { t.x with rngctr := c } } : State).advance
    s.Filled { u with x := { u.x with rngctr := s.x.rngctr } } base w v := by
  rw [← hctr]
  exact h

theorem vectorRandomAndTable : Sys2Proof.Parts.VectorRandomAndTable := by
  intro s k r a c f d w out
  refine ⟨fun h hok => ?_, fun h hfa hfd => ?_⟩
  · exact ⟨_, vectorOp_ready h (admits_core h.core) hok rfl rfl nofun, rfl,
      filled_setRngctr (filled_vectorApply (h.within (by simp)) k _) (vectorApply_x_rngctr _ _ _ _ _) _⟩
  · refine ⟨_, vectorOp_ready h (admits_core h.core) (by rw [hfa, hfd]; rfl) rfl rfl nofun, ?_⟩
    have hvalue : (s.src (opdOf a d.fa)).value d.fa d.ftz (.ofInt 1) = s.valueOf a d.fa d f :=
      funext fun i => elemValue_of_isFloat hfa _ _ _ _ _
    rw [hvalue]
    exact filled_vectorApply (h.within (by simp)) k _

/-! ## Quantisation -/

/-- A quantised block has as many elements as it was given (R146). -/
theorem quantBlock_length {c rm : Nat} {sat : Bool} {t : XVal} {vs : List (Option XVal)} {q : Nat × List (Option Nat)}
    (h : quantBlock c rm sat t vs = some q) : q.2.length = vs.length := by
  unfold quantBlock at h
  dsimp only at h
  split_ifs at h <;> cases h <;> simp

/-- What a body element of a quantised block receives: its pattern, or zero where masked elements are zeroed. -/
def blockValue (mp : Bool) (o : Option Nat) : Option Nat :=
  match o with
  | some p => some p
  | none => if mp then some 0 else none

/-- The elements of block b that are written. -/
def blockElems (vl : Nat) (mp : Bool) (b : Nat) (ps : List (Option Nat)) : List (Nat × Nat) :=
  (((List.range 32).map (· + 32 * b)).zip ps).filterMap fun e => if vl ≤ e.1 then none else (blockValue mp e.2).map (e.1, ·)

theorem mem_blockElems {vl : Nat} {mp : Bool} {b : Nat} {ps : List (Option Nat)} (hlen : ps.length = 32) (i v : Nat) :
    (i, v) ∈ blockElems vl mp b ps ↔ i / 32 = b ∧ i < vl ∧ blockValue mp (ps.getD (i % 32) none) = some v := by
  rw [blockElems, List.mem_filterMap]
  constructor
  · rintro ⟨⟨j, o⟩, hzip, hv⟩
    obtain ⟨e, he⟩ := List.mem_iff_getElem?.mp hzip
    obtain ⟨hj, ho⟩ := List.getElem?_zip_eq_some.mp he
    have he32 : e < 32 := hlen ▸ (List.getElem?_eq_some_iff.mp ho).1
    rw [List.getElem?_map, List.getElem?_range he32] at hj
    obtain rfl : e + 32 * b = j := Option.some.inj hj
    split_ifs at hv with hvl
    obtain ⟨p, hp, hpair⟩ := Option.map_eq_some_iff.mp hv
    obtain ⟨rfl, rfl⟩ := Prod.mk.inj hpair
    have hmod : (e + 32 * b) % 32 = e := by omega
    refine ⟨by omega, Nat.not_le.mp hvl, ?_⟩
    rw [hmod, List.getD_eq_getElem?_getD, ho]
    exact hp
  · rintro ⟨rfl, hi, hv⟩
    refine ⟨(i, ps.getD (i % 32) none), List.mem_iff_getElem?.mpr ⟨i % 32, List.getElem?_zip_eq_some.mpr ⟨?_, ?_⟩⟩, ?_⟩
    · rw [List.getElem?_map, List.getElem?_range (by omega)]
      exact congrArg some (Nat.mod_add_div i 32)
    · rw [List.getD_eq_getElem _ _ (by omega), List.getElem?_eq_getElem]
    · rw [if_neg (Nat.not_le.mpr hi), hv]
      rfl

theorem foldl_append_pair {α β γ : Type} (f : α → List β) (g : α → List γ) (l : List α) (acc : List β × List γ) :
    l.foldl (fun acc b => (acc.1 ++ f b, acc.2 ++ g b)) acc = (acc.1 ++ l.flatMap f, acc.2 ++ l.flatMap g) := by
  induction l generalizing acc with
  | nil => simp
  | cons b l ih => simp [ih]

/-- Block b of the values x, quantised (R183). -/
def State.blockOf (s : State) (k : BitVec 3) (d : FD) (t : XVal) (x : Nat → XVal) (b : Nat) : Option (Nat × List (Option Nat)) :=
  quantBlock d.fdst d.rm d.sat t (((List.range 32).map (· + 32 * b)).map fun i => if s.active k i then some (x i) else none)

theorem quantised_eq (s : State) (k : BitVec 3) (d : FD) (t : XVal) (x : Nat → XVal) :
    let blocks := List.range ((s.vl + 31) / 32)
    s.quantised k d t x = (blocks.flatMap fun b => (s.blockOf k d t x b).elim [] fun q => blockElems s.vl s.mp b q.2,
      blocks.flatMap fun b => (s.blockOf k d t x b).elim [] fun q => [(b, q.1)]) := by
  intro blocks
  refine Eq.trans (congrArg (fun f => blocks.foldl f ([], [])) ?_) (foldl_append_pair _ _ blocks ([], []))
  funext acc b
  cases h : s.blockOf k d t x b with
  | none =>
    rw [State.blockOf] at h
    simp only [h, Option.elim_none, List.append_nil]
  | some q =>
    rw [State.blockOf] at h
    simp only [h, Option.elim_some, blockElems]
    congr 3
    funext e
    cases e.2 with
    | some p => rfl
    | none => cases s.mp <;> rfl

/-- What body element i receives where the values x are quantised: its pattern, zero where masked elements are zeroed, nothing in a
block with no active element. -/
def State.quantElem (s : State) (k : BitVec 3) (d : FD) (t : XVal) (x : Nat → XVal) (i : Nat) : Option Nat :=
  if i < s.vl then (s.blockOf k d t x (i / 32)).bind fun q => blockValue s.mp (q.2.getD (i % 32) none) else none

/-- The scale byte of block j of the body, if it has an active element. -/
def State.quantScale (s : State) (k : BitVec 3) (d : FD) (t : XVal) (x : Nat → XVal) (j : Nat) : Option Nat :=
  if j < (s.vl + 31) / 32 then (s.blockOf k d t x j).map (·.1) else none

theorem lists_quantElem (s : State) (k : BitVec 3) (d : FD) (t : XVal) (x : Nat → XVal) :
    Lists (s.quantised k d t x).1 (s.quantElem k d t x) := by
  intro i v
  have hblock (b : Nat) : (i, v) ∈ (s.blockOf k d t x b).elim [] (fun q => blockElems s.vl s.mp b q.2) ↔
      i / 32 = b ∧ i < s.vl ∧ ((s.blockOf k d t x b).bind fun q => blockValue s.mp (q.2.getD (i % 32) none)) = some v := by
    cases h : s.blockOf k d t x b with
    | none => simp
    | some q => exact mem_blockElems ((quantBlock_length h).trans (by simp)) i v
  rw [quantised_eq, List.mem_flatMap, State.quantElem]
  simp only [hblock, List.mem_range]
  constructor
  · rintro ⟨b, _, rfl, hi, hv⟩
    rwa [if_pos hi]
  · intro h
    split_ifs at h with hi
    exact ⟨i / 32, by omega, rfl, hi, h⟩

theorem lists_quantScale (s : State) (k : BitVec 3) (d : FD) (t : XVal) (x : Nat → XVal) :
    Lists (s.quantised k d t x).2 (s.quantScale k d t x) := by
  intro j v
  have hblock (b : Nat) : (j, v) ∈ (s.blockOf k d t x b).elim [] (fun q => [(b, q.1)]) ↔
      j = b ∧ (s.blockOf k d t x b).map (·.1) = some v := by
    cases s.blockOf k d t x b <;> simp [eq_comm]
  rw [quantised_eq, List.mem_flatMap, State.quantScale]
  simp only [hblock, List.mem_range]
  constructor
  · rintro ⟨b, hb, rfl, hv⟩
    rwa [if_pos hb]
  · intro h
    split_ifs at h with hj
    exact ⟨j, hj, rfl, h⟩

theorem vgroup_one (s : State) (base : Nat) : s.vgroup base 1 = (vget s.x.vreg 0 base).toNat := by
  rw [State.vgroup, List.range_one, List.foldr_cons, List.foldr_nil, Nat.mul_zero]
  rfl

/-- A quantised operand: elements and their tail, scale bytes and theirs (R183). -/
theorem putQuantised_written {s : State} {r : BitVec 5} {d : FD}
    (hb : r.toNat + groupRegs s.x.vtype (fmtWidth d.fdst) + 1 ≤ 32) (k : BitVec 3) (t : XVal) (x : Nat → XVal) :
    let w := fmtWidth d.fdst
    let n := groupRegs s.x.vtype w
    let u := (s.putQuantised k r d t x).advance
    s.Holds u r.toNat n w (s.listed w (s.quantElem k d t x) s.vl) ∧
      s.Holds u (r.toNat + n) 1 8 (s.listed 8 (s.quantScale k d t x) ((s.vl + 31) / 32)) ∧
      s.Vectored u [(r.toNat, n), (r.toNat + n, 1)] := by
  intro w n u
  by_cases hvl : s.vl = 0
  · have hu : u = s.vbegZero.advance := by simp only [u, State.putQuantised, if_pos hvl]
    rw [hu]
    exact ⟨holds_none rfl fun i => if_pos hvl, holds_none rfl fun i => if_pos hvl, (VregsWritten.vbegZero s).vectored rfl⟩
  · let e := s.putElems r.toNat w (s.quantised k d t x).1 s.vl
    let g := zeroTail s.tp (putAll (vget s.x.vreg 0 (r.toNat + n)).toNat 8 (s.quantised k d t x).2) 8 ((s.vl + 31) / 32) 2048
    have hu : u = (e.setVgroup (r.toNat + n) 1 g).advance := by
      simp only [u, State.putQuantised, if_neg hvl]
      rfl
    have hgroup : r.toNat + n ≤ 32 := Nat.le_of_succ_le hb
    have hfirst : VregsWritten [(r.toNat, n)] s e := vregsWritten_putElems (List.mem_singleton.mpr rfl) hgroup _ _
    have hsecond : VregsWritten [(r.toNat + n, 1)] e (e.setVgroup (r.toNat + n) 1 g) :=
      .setVgroup (List.mem_singleton.mpr rfl) hb e g
    have helems : s.Holds (e.setVgroup (r.toNat + n) 1 g) r.toNat n w (s.listed w (s.quantElem k d t x) s.vl) :=
      holds_trans (holds_putElems (lists_quantElem s k d t x) hgroup s.vl) hsecond (by simp)
    rw [hu]
    refine ⟨helems, holds_setVgroup hb rfl fun j hj => ?_,
      ((hfirst.mono (by simp)).trans (hsecond.mono (by simp))).vectored (putElems_x_vbeg _ _ _ _ _)⟩
    rw [State.elemOf, vgroup_one]
    exact element_listed (lists_quantScale s k d t x) hvl _ 8 _ hj

theorem vectorQuantise : Sys2Proof.Parts.VectorQuantise := by
  intro s k r a b f d hvbeg w n act block written
  have hblock (x : Nat → XVal) (j : Nat) : s.blockOf k d (s.tscale f) x j = block x j := by
    rw [State.blockOf, List.map_map]
    refine congrArg (quantBlock d.fdst d.rm d.sat (s.tscale f)) (List.map_congr_left fun e _ => ?_)
    simp only [Function.comp, active_of_vbeg hvbeg, act, Nat.add_comm e, Bool.and_comm (decide _)]
  have writes (hb : r.toNat + n + 1 ≤ 32) (x : Nat → XVal) : written x (s.putQuantised k r d (s.tscale f) x).advance := by
    obtain ⟨helems, hscales, hrest⟩ := putQuantised_written hb k (s.tscale f) x
    refine ⟨fun i hi => (helems i hi).trans (congrArg (Option.getD · _) ?_),
      fun j hj => (hscales j hj).trans (congrArg (Option.getD · _) ?_), hrest⟩
    · rw [listed_eq s w fun h => if_neg (Nat.not_lt.mpr h)]
      refine ite_congr rfl (fun _ => rfl) fun _ => ite_congr rfl (fun _ => rfl) fun htail => ?_
      rw [State.quantElem, if_pos (Nat.not_le.mp htail), hblock]
      cases block x (i / 32) with
      | none => rfl
      | some q =>
        simp only [Option.bind_some]
        cases q.2.getD (i % 32) none with
        | some p => rfl
        | none => cases s.mp <;> simp [blockValue]
    · rw [listed_eq s 8 fun h => if_neg (Nat.not_lt.mpr h)]
      refine ite_congr rfl (fun _ => rfl) fun _ => ite_congr rfl (fun _ => rfl) fun htail => ?_
      rw [State.quantScale, if_pos (Nat.not_le.mp htail), hblock, Option.map_map]
      rfl
  have hwithin {opds : List Opd} (h : groupsLegal s.x.vtype opds = true) (hm : opdOf r d.fdst ∈ opds) (hblk : isBlock d.fdst = true) :
      r.toNat + n + 1 ≤ 32 := by
    have := group_within h hm
    rwa [opdOf, if_pos hblk] at this
  refine ⟨fun h hfa => ?_, fun h hfeat hfa hfb hfd => ?_⟩
  · have hvalue : (s.src (opdOf a d.fa)).value d.fa d.ftz (.ofInt 1) = s.valueOf a d.fa d f :=
      funext fun i => elemValue_of_isFloat hfa _ _ _ _ _
    refine ⟨fun hblk => ?_, fun hscale => ?_⟩
    · have hplain : isE8M0 d.fdst = false := by
        simp only [isBlock, Bool.and_eq_true, decide_eq_true_eq] at hblk
        simp only [isE8M0, beq_eq_false_iff_ne]
        omega
      refine ⟨_, vectorOp_ready h (admits_core h.core) (by rw [hfa, hblk]; rfl) rfl rfl fun _ => hvbeg, ?_⟩
      rw [hplain, hvalue]
      exact writes (hwithin h.groups (by simp) hblk) _
    · have hwidth : fmtWidth d.fdst = 8 := by rw [beq_iff_eq.mp hscale]; rfl
      refine ⟨_, vectorOp_ready h (admits_core h.core) (by rw [hfa, hscale]; exact Bool.or_true _) rfl rfl fun _ => hvbeg, ?_⟩
      rw [hscale, hvalue]
      exact filled_vectorApply (hwidth ▸ h.within (by simp)) k _
  · have hneed : s.admits { feat := some 3 } := by
      obtain ⟨_, hlvl, hruns⟩ := admits_core h.core
      exact ⟨fun b hb => by cases hb; exact hfeat, hlvl, hruns⟩
    refine ⟨_, vectorOp_ready h hneed ?_ rfl rfl fun _ => hvbeg, ?_⟩
    · rw [hfa, hfb, hfd]
      simp
    · exact writes (hwithin h.groups (by simp) (hfd ▸ hfa)) _

/-- Settles O51: VRAND and VPWL are vector_apply of the generator and of the table; quantising lists for each block with an active element
its scale and its body elements, and both are written with their tails into groups that lie apart. -/
theorem vectorRandomTableAndQuantise : Obligations.VectorRandomTableAndQuantise := ⟨vectorRandomAndTable, vectorQuantise⟩

end Sys2Proof.Machine

/-! A vector load that faults in a trap handler (08 R197, 18 R393, R405): the strand freezes with the record of its access. -/

namespace Sys2Proof.Machine

/-- A strand in a trap handler at a load of one byte at 2^54, past the last virtual address. -/
def loadingInHandler : State :=
  { State.reset with
    x := { Ctx.zero with vl := 1, sreg := vset Ctx.zero.sreg 4 0x40000000000000 }
    st := { Strand.zero with place := .ring 0, trap := { Strand.zero.trap with status := 0x20 } } }

/-- The second trap freezes the strand, whose context still holds what the address pipeline has done. -/
theorem faulting_load_keeps_pipe : answers (exec (.vld 0 8 4 0 0) loadingInHandler) (fun t => t.x.pipe.isSome) = true := by
  decide +kernel

theorem x_freeze (s : State) (r : TrapRec) : (s.freeze r).x = s.x := by
  have hmail (u : State) (e : Nat) : (u.mailEvent e).x = u.x := by
    unfold State.mailEvent
    dsimp only
    split <;> rfl
  have htell (u : State) (v e : Nat) : (u.tellSupervisor v e).x = u.x := by
    unfold State.tellSupervisor
    dsimp only
    split
    · rfl
    · exact x_hubSend _ _ _
  unfold State.freeze
  split
  · rfl
  · rw [State.sendEvent, hmail, htell]
    split <;> rfl

/-- Refutes O52: after a fault in a trap handler the frozen strand keeps the address pipeline's record, where a trap raised in the
state before the access leaves none. -/
theorem not_vectorLoadsAndStores : ¬ Obligations.VectorLoadsAndStores := by
  rintro ⟨-, -, hfaults, -⟩
  have halone : loadingInHandler.Alone := ⟨by decide, ⟨rfl, rfl⟩, ⟨rfl, rfl⟩, fun _ h => nomatch h⟩
  obtain ⟨t, u, ht, hst, -, hx, hraise⟩ := hfaults loadingInHandler 0 8 4 0 0 0 0 halone (by decide +kernel) (by decide +kernel)
    (by decide +kernel) (by decide +kernel) (fun j _ hj => absurd hj (Nat.not_lt_zero j)) _ (List.mem_cons_self ..)
    (by decide +kernel) 0x20 (.inl ⟨by decide +kernel, rfl⟩)
  have hhead : u.spec = false := spec_of_no_fork (by rw [hst]; rfl)
  have hhandler : bit u.st.trap.status 5 = true := by rw [hst]; rfl
  have hpipe : t.x.pipe.isSome = true := of_answers faulting_load_keeps_pipe ht
  rw [hraise, raise_head _ _ (by decide) hhead, take_double _ _ _ (by decide) hhandler, x_freeze, hx] at hpipe
  cases hpipe

end Sys2Proof.Machine

/-! Accesses of the vector class to local memory, outside a fork (08 R193, R203, 10 R240, R241): a translation that changes nothing comes
from the buffer; lines move, loads read the strand's vector view, stores join its vector store buffer. -/

namespace Sys2Proof.Machine

/-! ## Translations that change nothing (R282, R285) -/

theorem tlbFind_tlbFill (s : State) (m : Nat) (asid : Word) (va : Nat) (l : Leaf) :
    ∃ e, (s.tlbFill m asid va l).tlbFind m asid va = some e ∧ e.entry = l.entry := by
  refine ⟨{ master := m, asid := asid.setWidth 16, vpage := if l.large then va / 2 ^ 29 else va / 2 ^ 16, large := l.large
            entry := l.entry }, ?_, rfl⟩
  have hdropped : (s.tlbDrop m asid va).tlb.find? (fun e => e.covers m asid va) = none := by
    simp [State.tlbDrop, List.find?_eq_none]
  rw [State.tlbFind, State.tlbFill, List.find?_append, hdropped]
  simp [TlbEntry.covers]

/-- The a and d bits permit no access. -/
theorem checkPte_or_adMask (e : Word) (k : Acc) (user : Bool) : checkPte (e ||| adMask k e) k user = checkPte e k user := by
  have hbit (i : Nat) (hi : i < 6) : bit (e ||| adMask k e) i = bit e i := by
    have hmask : (adMask k e).getLsbD i = false := by
      unfold adMask
      have : i = 0 ∨ i = 1 ∨ i = 2 ∨ i = 3 ∨ i = 4 ∨ i = 5 := by omega
      split_ifs <;> rcases this with rfl | rfl | rfl | rfl | rfl | rfl <;> rfl
    simp [bit, hmask]
  simp only [checkPte, pteR, pteW, pteX, pteU, hbit _ (show 1 < 6 by decide), hbit _ (show 2 < 6 by decide),
    hbit _ (show 3 < 6 by decide), hbit _ (show 4 < 6 by decide)]

/-- A walk leaves the entry that it has used in the buffer. -/
theorem tlbFind_of_xlateWalk {s t : State} {rd : Nat → Option Word} {sp : Space} {k : Acc} {va m : Nat} {x : Xl}
    (hm : sp.master = some m) (h : s.xlateWalk rd sp k va = (t, .ok x)) :
    ∃ e, t.tlbFind m sp.asid va = some e ∧ checkPte e.entry k sp.user = true := by
  unfold State.xlateWalk at h
  simp only [hm] at h
  split at h
  · cases h
  next l _ =>
    split at h
    · cases h
    next hperm =>
      split at h
      · cases h
      · cases h
        obtain ⟨e, he, hentry⟩ := tlbFind_tlbFill _ m sp.asid va { l with entry := l.entry ||| adMask k l.entry }
        refine ⟨e, he, ?_⟩
        rw [hentry, checkPte_or_adMask]
        simpa using hperm

/-- A translation on a ring or gateway core that leaves the state as it was is a hit: a walk would have put its entry in the buffer,
which then had answered. -/
theorem hits_of_xlate {s : State} {rd : Nat → Option Word} {k : Acc} {va : Nat} {x : Xl} (hcore : s.st.place.master? ≠ none)
    (h : s.xlate rd s.space k va = (s, .ok x)) : s.hits k va x = true := by
  obtain ⟨m, hm⟩ := Option.ne_none_iff_exists'.mp hcore
  have hmaster : s.space.master = some m := hm
  unfold State.xlate at h
  unfold State.hits
  rw [hmaster, Option.bind_some] at h ⊢
  split at h
  · cases h
  next hva =>
    cases hfind : s.tlbFind m s.space.asid va with
    | none =>
      obtain ⟨e, he, -⟩ := tlbFind_of_xlateWalk hmaster (by simpa only [hfind] using h)
      rw [hfind] at he
      cases he
    | some e =>
      simp only [hfind] at h
      split at h
      next hperm =>
        split at h
        · cases h
        next hvc =>
          cases h
          simp [hperm, hvc]
          omega
      next hperm =>
        obtain ⟨e', he, hperm'⟩ := tlbFind_of_xlateWalk hmaster h
        rw [hfind] at he
        cases he
        exact absurd hperm' hperm

/-! ## Lines that the host holds -/

/-- From `s` to `t` the host has come to hold no line. -/
def HostKeeps (s t : State) : Prop := ∀ c ∈ t.cache.lines, c.holder = .host → c ∈ s.cache.lines

namespace HostKeeps

theorem refl (s : State) : HostKeeps s s := fun _ hc _ => hc

theorem trans {s t u : State} (h : HostKeeps s t) (k : HostKeeps t u) : HostKeeps s u := fun c hc hh => h c (k c hc hh) hh

theorem of_lines {s t : State} (h : t.cache.lines = s.cache.lines) : HostKeeps s t := fun _ hc _ => h ▸ hc

theorem foldl {α : Type} {f : State → α → State} (hf : ∀ s a, HostKeeps s (f s a)) (l : List α) (s : State) :
    HostKeeps s (l.foldl f s) := foldl_keeps refl trans hf l s

/-- Another holder's line leaves it. -/
theorem evictLine {c : CLine} (hc : c.holder ≠ .host) (s : State) : HostKeeps s (s.evictLine c) := by
  intro q hq hhost
  unfold State.evictLine at hq
  split_ifs at hq
  · obtain ⟨r, hr, hrq⟩ := List.mem_map.mp hq
    dsimp only at hrq
    split_ifs at hrq with hsame
    · subst hrq
      exact absurd hhost hc
    · exact hrq ▸ hr
  · exact hq
  · exact (List.mem_filter.mp hq).1

theorem evictAll {p : CLine → Bool} (hp : ∀ c, p c = true → c.holder ≠ .host) (s : State) : HostKeeps s (s.evictAll p) := by
  have key (l : List CLine) (hl : ∀ c ∈ l, c.holder ≠ .host) (s : State) : HostKeeps s (l.foldl State.evictLine s) := by
    induction l generalizing s with
    | nil => exact refl s
    | cons c l ih => exact trans (evictLine (hl c (by simp)) s) (ih (fun q hq => hl q (by simp [hq])) _)
  exact key _ (fun c hc => hp c (List.mem_filter.mp hc).2) s

theorem emptyPage (s : State) (p : Nat) : HostKeeps s (s.emptyPage p) :=
  trans (evictAll (fun c hc => by simp only [Bool.and_eq_true, bne_iff_ne] at hc; exact hc.2) s) (of_lines rfl)

theorem dirEvict (s : State) (p : Nat) : HostKeeps s (s.dirEvict p) := by
  unfold State.dirEvict
  split
  · exact refl s
  · exact trans (emptyPage s _) (of_lines rfl)

theorem dirRoom (s : State) (p n : Nat) : HostKeeps s (s.dirRoom p n) :=
  foldl (fun s _ => by
    split_ifs
    · exact refl s
    · exact dirEvict s p) _ s

theorem dirEnter (s : State) (a : Agent) (l : Nat) (w k : Bool) : HostKeeps s (s.dirEnter a l w k) := by
  unfold State.dirEnter
  dsimp only
  split
  · exact trans (dirRoom s _ _) (of_lines rfl)
  · exact trans (dirRoom s _ _) (of_lines rfl)

theorem reclassify (s : State) (p r : Nat) : HostKeeps s (s.reclassify p r) := by
  unfold State.reclassify
  refine (trans (evictAll (fun c hc hhost => ?_) s) (of_lines rfl)).trans (foldl (fun s k => dirEnter s _ _ _ _) _ _)
  rw [hhost] at hc
  cases hc

theorem touch (s : State) (r : Option Nat) (pa : Nat) : HostKeeps s (s.touch r pa) := by
  unfold State.touch
  split_ifs
  · exact refl s
  · split
    · exact of_lines rfl
    · exact refl s
    · exact refl s
    · split_ifs
      · exact refl s
      · exact reclassify s _ _
    · exact reclassify s _ _

theorem loadPackets (s : State) (vc pa n : Nat) : HostKeeps s (s.loadPackets vc pa n) :=
  foldl (fun s l => by
    split
    · exact of_lines rfl
    · exact refl s) _ s

theorem hostLines_eq_nil {s t : State} (h : HostKeeps s t) {w : Bool} {pa n : Nat} (hs : s.hostLines w pa n = []) :
    t.hostLines w pa n = [] := by
  simp only [State.hostLines, List.filter_eq_nil_iff, List.any_eq_true, Bool.and_eq_true, beq_iff_eq] at hs ⊢
  rintro l hl ⟨c, hc, ⟨hline, hhost⟩, hstate⟩
  exact hs l hl ⟨c, h c hc hhost, ⟨hline, hhost⟩, hstate⟩

end HostKeeps

/-! ## An instruction of the vector class under way -/

/-- `t` is `s` later in an instruction of the vector class outside a fork: lines and packets have moved, stores may have joined the vector
store buffer, and the instruction keeps a record of its accesses. -/
structure Underway (s t : State) : Prop where
  form : ∃ (u : State) (undef stores : Nat) (vbuf : List BufStore) (pipe : Option Pipe), LinesMove s u ∧
    t = { u with undef := undef, st := { u.st with vbuf := vbuf, stores := stores }, x := { u.x with pipe := pipe } }
  quiet : Undisturbed s t
  host : HostKeeps s t

namespace Underway

theorem of_linesMove {s t : State} (h : LinesMove s t) (hq : Undisturbed s t) (hh : HostKeeps s t) : Underway s t :=
  ⟨⟨t, _, _, _, _, h, rfl⟩, hq, hh⟩

theorem refl (s : State) : Underway s s := of_linesMove (.refl s) (.refl s) (.refl s)

theorem trans {s t u : State} (h : Underway s t) (k : Underway t u) : Underway s u := by
  refine ⟨?_, h.quiet.trans k.quiet, h.host.trans k.host⟩
  obtain ⟨_, _, _, _, _, ⟨_, _, _, _, _, _, rfl⟩, rfl⟩ := h.form
  obtain ⟨_, undef, stores, vbuf, pipe, ⟨net, classes, lines, uses, dir, backInv, rfl⟩, rfl⟩ := k.form
  exact ⟨_, undef, stores, vbuf, pipe, ⟨net, classes, lines, uses, dir, backInv, rfl⟩, rfl⟩

/-- What the strand's own instruction changes beside lines and packets. -/
theorem own (s : State) (undef stores : Nat) (vbuf : List BufStore) (pipe : Option Pipe) :
    Underway s { s with undef := undef, st := { s.st with vbuf := vbuf, stores := stores }, x := { s.x with pipe := pipe } } :=
  ⟨⟨s, _, _, _, _, .refl s, rfl⟩, ⟨rfl, rfl⟩, .of_lines rfl⟩

section
variable {s t : State} (h : Underway s t)
include h

theorem st : t.st = { s.st with vbuf := t.st.vbuf, stores := t.st.stores } := by
  obtain ⟨_, _, _, _, _, ⟨_, _, _, _, _, _, rfl⟩, rfl⟩ := h.form; rfl

theorem x : t.x = { s.x with pipe := t.x.pipe } := by
  obtain ⟨_, _, _, _, _, ⟨_, _, _, _, _, _, rfl⟩, rfl⟩ := h.form; rfl

theorem place : t.st.place = s.st.place := by rw [h.st]
theorem fork : t.st.fork = s.st.fork := by rw [h.st]
theorem active : t.st.active = s.st.active := by rw [h.st]
theorem id : t.st.id = s.st.id := by rw [h.st]
theorem sbuf : t.st.sbuf = s.st.sbuf := by rw [h.st]

theorem vtype : t.x.vtype = s.x.vtype := by rw [h.x]
theorem vbeg : t.x.vbeg = s.x.vbeg := by rw [h.x]
theorem vreg : t.x.vreg = s.x.vreg := by rw [h.x]
theorem sreg : t.x.sreg = s.x.sreg := by rw [h.x]
theorem vl : t.vl = s.vl := by rw [State.vl, State.vl, h.x]
theorem tp : t.tp = s.tp := by rw [State.tp, State.tp, h.vtype]

theorem scatter : t.scatter = s.scatter := by obtain ⟨_, _, _, _, _, ⟨_, _, _, _, _, _, rfl⟩, rfl⟩ := h.form; rfl
theorem mem : t.mem = s.mem := by obtain ⟨_, _, _, _, _, ⟨_, _, _, _, _, _, rfl⟩, rfl⟩ := h.form; rfl

theorem hits (k : Acc) (va : Nat) (x : Xl) : t.hits k va x = s.hits k va x := by
  obtain ⟨_, _, _, _, _, ⟨_, _, _, _, _, _, rfl⟩, rfl⟩ := h.form; rfl
theorem policy (vc : Nat) : t.policy vc = s.policy vc := by obtain ⟨_, _, _, _, _, ⟨_, _, _, _, _, _, rfl⟩, rfl⟩ := h.form; rfl
theorem uncached (vc pa : Nat) : t.uncached vc pa = s.uncached vc pa := by
  obtain ⟨_, _, _, _, _, ⟨_, _, _, _, _, _, rfl⟩, rfl⟩ := h.form; rfl
theorem inDoubt (pa n : Nat) : t.inDoubt pa n = s.inDoubt pa n := by
  obtain ⟨_, _, _, _, _, ⟨_, _, _, _, _, _, rfl⟩, rfl⟩ := h.form; rfl

theorem poisonedFor (pa : Nat) : t.poisonedFor pa = s.poisonedFor pa := by
  have hret := h.quiet.1
  obtain ⟨u, _, _, _, _, hmove, rfl⟩ := h.form
  exact poisonedFor_of_linesMove hmove hret pa

/-- A vector access sees what it saw while no store has joined the vector store buffer. -/
theorem viewByte (hvbuf : t.st.vbuf = s.st.vbuf) (q : Nat) : t.viewByte true q = s.viewByte true q := by
  rw [viewByte_vector, viewByte_vector, hvbuf, h.sbuf, State.memByte, h.mem, State.memByte]

end

end Underway

/-! ## Places in local memory -/

/-- An access of n bytes at pa through vcache vc goes on at once: nothing holds it, the host neither holds nor gives up a line of it, no
line of it is poisoned, and its page is cached. -/
structure State.Accessible (s : State) (write : Bool) (vc pa n : Nat) : Prop where
  clean : ∀ l ∈ linesOf pa n, s.poisonedFor (l * 64) = false
  doubt : s.inDoubt pa n = false
  host : s.hostLines write pa n = []
  waits : s.hostWaits pa n = false
  cached : ∀ l ∈ linesOf pa n, s.uncached vc (l * 64) = false
  policy : s.policy vc ≠ 3

theorem accessible_of_local {s : State} {k : Acc} {va : Word} {n : Nat} {x : Xl} (h : s.Local k va n x) :
    s.Accessible (k != .read) x.vc x.pa n :=
  ⟨h.clean.2, h.quiet.1, h.quiet.2.1, h.quiet.2.2, h.cached.1, h.cached.2⟩

section
variable {s t : State} {write : Bool} {vc pa n : Nat}

theorem mem_linesOf {l : Nat} : l ∈ linesOf pa n ↔ n ≠ 0 ∧ pa / 64 ≤ l ∧ l ≤ (pa + n - 1) / 64 := by
  unfold linesOf
  split_ifs with hn
  · simp [hn]
  · simp only [List.mem_map, List.mem_range]
    constructor
    · rintro ⟨i, hi, rfl⟩
      omega
    · rintro ⟨-, hlo, hhi⟩
      exact ⟨l - pa / 64, by omega, by omega⟩

namespace State.Accessible

theorem underway (h : s.Accessible write vc pa n) (k : Underway s t) : t.Accessible write vc pa n where
  clean l hl := (k.poisonedFor _).trans (h.clean l hl)
  doubt := (k.inDoubt _ _).trans h.doubt
  host := k.host.hostLines_eq_nil h.host
  waits := (hostWaits_of_undisturbed k.quiet pa n).trans h.waits
  cached l hl := (k.uncached _ _).trans (h.cached l hl)
  policy := by rw [k.policy]; exact h.policy

/-- What may be written may be read. -/
theorem read (h : s.Accessible true vc pa n) : s.Accessible false vc pa n := by
  refine { h with host := List.filter_eq_nil_iff.mpr fun l hl hheld => List.filter_eq_nil_iff.mp h.host l hl ?_ }
  simp only [List.any_eq_true, Bool.and_eq_true] at hheld ⊢
  obtain ⟨c, hc, hhost, -⟩ := hheld
  exact ⟨c, hc, hhost, rfl⟩

/-- Bytes among others. -/
theorem within (h : s.Accessible write vc pa n) {pa' n' : Nat} (hlo : pa ≤ pa') (hhi : pa' + n' ≤ pa + n) :
    s.Accessible write vc pa' n' := by
  have hsub : ∀ l ∈ linesOf pa' n', l ∈ linesOf pa n := fun l hl => by rw [mem_linesOf] at hl ⊢; omega
  have hhas : ∀ l, (linesOf pa' n').contains l = true → (linesOf pa n).contains l = true := fun l hl =>
    List.contains_iff_mem.mpr (hsub l (List.contains_iff_mem.mp hl))
  refine ⟨fun l hl => h.clean l (hsub l hl), ?_, ?_, ?_, fun l hl => h.cached l (hsub l hl), h.policy⟩
  · have := h.doubt
    simp only [State.inDoubt, ← Bool.not_eq_true, List.any_eq_true, Bool.and_eq_true] at this ⊢
    rintro ⟨g, hg, hst, p, hp, l, hl, hc⟩
    exact this ⟨g, hg, hst, p, hp, l, hl, hhas l hc⟩
  · exact List.filter_eq_nil_iff.mpr fun l hl => List.filter_eq_nil_iff.mp h.host l (hsub l hl)
  · have := h.waits
    simp only [State.hostWaits, ← Bool.not_eq_true, List.any_eq_true, Bool.and_eq_true] at this ⊢
    rintro ⟨b, hb, hans, hc⟩
    exact this ⟨b, hb, hans, hhas _ hc⟩

theorem blocked (h : s.Accessible write vc pa n) : s.blocked write pa n = false := by
  simp [State.blocked, h.doubt, h.host]

theorem settled (h : s.Accessible write vc pa n) : s.settled write pa n = .ok () := by
  simp [State.settled, h.blocked]

theorem windowOpen (h : s.Accessible write vc pa n) : s.windowOpen vc pa n = true :=
  List.all_eq_true.mpr fun l hl => by simp [h.cached l hl]

theorem lostRead (h : s.Accessible write vc pa n) : s.lostRead vc pa n = false := by
  have : (linesOf pa n).any (fun l => s.uncached vc (l * 64) && s.net.lostAhead s.die (s.serveDie vc (l * 64))) = false :=
    List.any_eq_false.mpr fun l hl => by simp [h.cached l hl]
  simp [State.lostRead, this]

end State.Accessible

/-! ## Loads (R203, R240) -/

theorem underway_touch (s : State) (r : Option Nat) (pa : Nat) : Underway s (s.touch r pa) :=
  .of_linesMove (.touch s r pa) (.touch s r pa) (.touch s r pa)

theorem hostDone_of_not_hostWaits (h : s.hostWaits pa n = false) : s.hostDone pa n = s := by
  have hkeep : s.cache.backInv.filter (fun b => !(b.answered && (linesOf pa n).contains b.line)) = s.cache.backInv :=
    List.filter_eq_self.mpr fun b hb => by simpa [or_iff_not_imp_left] using List.any_eq_false.mp h b hb
  rw [State.hostDone, hkeep]

theorem underway_atRead {x : Xl} (h : s.Accessible false x.vc x.pa n) : Underway s (s.atRead x n) := by
  have hquiet := (Undisturbed.touch s s.ring? x.pa).trans (Undisturbed.loadPackets _ x.vc x.pa n)
  rw [State.atRead, hostDone_of_not_hostWaits ((hostWaits_of_undisturbed hquiet _ _).trans h.waits)]
  exact .of_linesMove ((LinesMove.touch s _ _).trans (linesMove_loadPackets _ _ _ _)) hquiet
    ((HostKeeps.touch s _ _).trans (HostKeeps.loadPackets _ _ _ _))

theorem vbuf_of_linesMove (h : LinesMove s t) : t.st.vbuf = s.st.vbuf := by
  obtain ⟨_, _, _, _, _, _, rfl⟩ := h
  rfl

theorem pipe_of_linesMove (h : LinesMove s t) : t.x.pipe = s.x.pipe := by
  obtain ⟨_, _, _, _, _, _, rfl⟩ := h
  rfl

/-- A load outside a fork reads the bytes that the strand's accesses of its class see (R238, R240). -/
theorem loadLocal_of_accessible (hfork : s.st.fork = none) {x : Xl} (h : s.Accessible false x.vc x.pa n) (v : Bool) :
    s.loadLocal v x n = .ok (s.atRead x n, s.viewBytes v x.pa n) := by
  have hmove := linesMove_atRead s x n
  have hfork' : (s.atRead x n).st.fork = none := (underway_atRead h).fork.trans hfork
  unfold State.loadLocal
  rw [h.settled, h.windowOpen]
  have hdef : ((s.touch s.ring? x.pa).loadPackets x.vc x.pa n).hostDone x.pa n = s.atRead x n := rfl
  simp only [hdef, spec_of_no_fork hfork', hfork', viewBytes_of_linesMove hmove, policy_of_linesMove hmove, h.policy, bind, Except.bind,
    check_true, if_false, Option.isSome_none, Bool.false_eq_true]

/-- No addition of the strand's own pends at a memory port. -/
def State.Settled (s : State) : Prop := ∀ c ∈ s.scatter, c.owner ≠ s.st.id

theorem settleScatter_of_settled (h : s.Settled) (pa n : Nat) : s.settleScatter pa n = s := by
  have hnone : s.scatter.filter (fun c =>
      c.owner == s.st.id && decide (c.pa < pa + n) && decide (pa < c.pa + (if c.wide then 8 else 4))) = [] :=
    List.filter_eq_nil_iff.mpr fun c hc => by simp [h c hc]
  rw [State.settleScatter, hnone]
  rfl

theorem Underway.settled (h : Underway s t) (hs : s.Settled) : t.Settled := by
  unfold State.Settled
  rw [h.scatter, h.id]
  exact hs

/-- Items that go on at once are all loaded, from the strand's vector view (R203). -/
theorem loadItems_of_accessible (ps : List PipeItem) (hfork : s.st.fork = none) (hset : s.Settled)
    (h : ∀ p ∈ ps, s.Accessible false p.vc p.pa p.n) :
    ∃ t, State.loadItems ps s = .ok (t, ps.map (fun p => (p, s.viewBytes true p.pa p.n)), none) ∧ Underway s t ∧ LinesMove s t := by
  induction ps generalizing s with
  | nil => exact ⟨s, rfl, .refl s, .refl s⟩
  | cons p ps ih =>
    have hp := h p List.mem_cons_self
    have hstep : Underway s (s.atRead p.xl p.n) := underway_atRead hp
    have hmove := linesMove_atRead s p.xl p.n
    obtain ⟨t, ht, hunder, hlines⟩ := ih (hstep.fork.trans hfork) (hstep.settled hset)
      fun q hq => (h q (List.mem_cons_of_mem _ hq)).underway hstep
    have hclean : (s.atRead p.xl p.n).itemPoisoned p = false :=
      List.any_eq_false.mpr fun l hl => by simp [(hp.underway hstep).clean l hl]
    refine ⟨t, ?_, hstep.trans hunder, hmove.trans hlines⟩
    simp only [State.loadItems, settleScatter_of_settled hset, loadLocal_of_accessible (x := p.xl) hfork hp, hp.lostRead, hclean, ht,
      viewBytes_of_linesMove hmove, bind, Except.bind, Bool.or_self, Bool.false_eq_true, if_false, List.map_cons]
    rfl

end

section
variable {s t u : State} {write : Bool} {vc pa n : Nat}

/-! ## Stores (R241) -/

/-- The listed stores (place, bytes, vcache) have joined the vector store buffer in their order, none of them performed with respect to
the core. -/
def Joined (s t : State) (l : List (Nat × List Byte × Nat)) : Prop :=
  ∃ new, t.st.vbuf = s.st.vbuf ++ new ∧ new.map (fun e => (e.pa, e.data, e.vcache)) = l ∧ ∀ e ∈ new, e.joined = false

namespace Joined

theorem of_vbuf (h : t.st.vbuf = s.st.vbuf) : Joined s t [] := ⟨[], by rw [h, List.append_nil], rfl, by simp⟩

theorem trans {l m : List (Nat × List Byte × Nat)} : Joined s t l → Joined t u m → Joined s u (l ++ m) := by
  rintro ⟨new, ht, rfl, hnew⟩ ⟨more, hu, rfl, hmore⟩
  refine ⟨new ++ more, by rw [hu, ht, List.append_assoc], List.map_append, fun e he => ?_⟩
  exact (List.mem_append.mp he).elim (hnew e) (hmore e)

end Joined

/-- The state once a store outside a fork has joined the vector store buffer. -/
def State.vbuffered (s : State) (e : BufStore) : State :=
  { s with st := { s.st with vbuf := s.st.vbuf ++ [e], stores := s.st.stores + 1 } }

theorem bufferStore_vector_of_no_fork (hfork : s.st.fork = none) (x : Xl) (bs : List Byte) :
    s.bufferStore true x.pa x.vc bs = s.vbuffered (s.nextStore x bs) := by
  simp [State.bufferStore, State.setBuffer, State.buffer, hfork, State.vbuffered, State.nextStore]

theorem underway_vbuffered (s : State) (e : BufStore) : Underway s (s.vbuffered e) :=
  .own s _ _ _ _

/-- A store outside a fork joins the buffer of its class (R241). -/
theorem storeLocal_of_accessible (hfork : s.st.fork = none) {x : Xl} {bs : List Byte} (h : s.Accessible true x.vc x.pa bs.length) :
    ∃ t, s.storeLocal true x bs = .ok t ∧ Underway s t ∧ Joined s t [(x.pa, bs, x.vc)] := by
  have htouch := underway_touch s s.ring? x.pa
  have hfork' : (s.touch s.ring? x.pa).st.fork = none := htouch.fork.trans hfork
  have hunder (e : BufStore) : Underway s ((s.touch s.ring? x.pa).vbuffered e) := htouch.trans (underway_vbuffered _ e)
  refine ⟨_, ?_, hunder ((s.touch s.ring? x.pa).nextStore x bs), [(s.touch s.ring? x.pa).nextStore x bs], ?_, rfl,
    by simp [State.nextStore]⟩
  · unfold State.storeLocal
    rw [h.settled, h.windowOpen]
    simp only [spec_of_no_fork hfork', hfork', bind, Except.bind, check_true, if_false, Option.isSome_none, Bool.false_eq_true,
      foldl_announce_of_no_fork hfork', bufferStore_vector_of_no_fork hfork', (h.underway (hunder _)).waits]
  · rw [← vbuf_of_linesMove (LinesMove.touch s s.ring? x.pa)]
    rfl

/-- Stores to places that are not poisoned join the buffer one after the other. -/
theorem storeItems_of_accessible (all ws : List (PipeItem × List Byte)) (hfork : s.st.fork = none) (hset : s.Settled)
    (h : ∀ w ∈ ws, s.Accessible true w.1.vc w.1.pa w.2.length) :
    ∃ t, State.storeItems [] all ws s = .ok t ∧ Underway s t ∧ Joined s t (ws.map (fun w => (w.1.pa, w.2, w.1.vc))) := by
  induction ws generalizing s with
  | nil => exact ⟨s, rfl, .refl s, .of_vbuf rfl⟩
  | cons w ws ih =>
    obtain ⟨u, hu, hstep, hjoin⟩ := storeLocal_of_accessible (x := w.1.xl) hfork (h w List.mem_cons_self)
    obtain ⟨t, ht, hunder, hrest⟩ := ih (hstep.fork.trans hfork) (hstep.settled hset)
      fun q hq => (h q (List.mem_cons_of_mem _ hq)).underway hstep
    refine ⟨t, ?_, hstep.trans hunder, hjoin.trans hrest⟩
    simp only [State.storeItems, settleScatter_of_settled hset, hu, ht, bind, Except.bind, List.contains_nil, Bool.false_and,
      Bool.false_eq_true, if_false]

/-- Items that go on at once are all stored, in ascending order where the store is ordered (R194). -/
theorem storeLocals_of_accessible (ws : List (PipeItem × List Byte)) (hfork : s.st.fork = none) (hset : s.Settled)
    (hlen : ∀ w ∈ ws, w.2.length = w.1.n) (h : ∀ w ∈ ws, s.Accessible true w.1.vc w.1.pa w.1.n) :
    ∃ t, s.storeLocals true ws = .ok (t, none) ∧ Underway s t ∧ Joined s t (ws.map (fun w => (w.1.pa, w.2, w.1.vc))) := by
  have hclean : ∀ p ∈ ws.map (·.1), ∀ l ∈ linesOf p.pa p.n, s.poisonedFor (l * 64) = false := fun p hp => by
    obtain ⟨w, hw, rfl⟩ := List.mem_map.mp hp
    exact (h w hw).clean
  have hpartial : s.partialPoison (ws.map (·.1)) = none := by
    refine List.find?_eq_none.mpr fun p hp hbad => ?_
    obtain ⟨l, hl, hbad⟩ := List.any_eq_true.mp hbad
    rw [hclean p hp l hl] at hbad
    cases hbad
  have hwhole : (((ws.map (·.1)).flatMap (fun p => linesOf p.pa p.n)).eraseDups).filter (fun l => s.poisonedFor (l * 64)) = [] := by
    refine List.filter_eq_nil_iff.mpr fun l hl => ?_
    obtain ⟨p, hp, hl⟩ := List.mem_flatMap.mp (List.mem_eraseDups.mp hl)
    simp [hclean p hp l hl]
  have hfree : Underway s { s with undef := s.undef + 1 } := .own s _ _ _ _
  obtain ⟨t, ht, hunder, hjoin⟩ := storeItems_of_accessible (s := { s with undef := s.undef + 1 }) ws ws hfork hset
    fun w hw => by rw [hlen w hw]; exact (h w hw).underway hfree
  refine ⟨t, ?_, hfree.trans hunder, hjoin⟩
  simp only [State.storeLocals, State.poisonCut, hpartial, hwhole, ht, bind, Except.bind, if_true]

/-! ## The address pipeline (R195, R196) -/

/-- The item of an element with one field. -/
def localItem (i : Nat) (va : Word) (n : Nat) (x : Xl) : PipeItem :=
  { i := i, f := 0, va := va, n := n, pa := x.pa, vc := x.vc, kind := x.kind }

/-- An access that the translation buffer answers passes, outside a fork. -/
theorem plainCheck_of_hits (hcore : s.st.place.master? ≠ none) (hactive : s.st.active = false) {k : Acc} {va : Word} {x : Xl}
    (h : s.hits k va.toNat x = true) {align : Nat} (halign : va.toNat % align = 0) (done : List PipeItem) (i n : Nat) :
    plainCheck k align s done i va n = (s, .ok x) := by
  have hbound : va.toNat < 2 ^ 54 := by
    simp only [State.hits, Bool.and_eq_true, decide_eq_true_eq] at h
    exact h.1
  have hloc : s.locate k va.toNat = (s, .ok (.mem x)) := by
    rw [State.locate, if_neg (core_of_master hcore).1, xlate_of_hits s _ k _ x h]
  have hpiece : s.pieceXl k align va = (s, .ok x) := by
    rw [State.pieceXl, if_neg (by omega), if_neg (by omega), hloc]
  have hregion : s.regionAt va.toNat n = none := by simp [State.regionAt, State.inFork, hactive]
  simp [plainCheck, hpiece, hregion]

/-- Elements that each pass their check all pass. -/
theorem checkElems_of_pass {chk : PieceCheck} {size : Nat} {y : Nat → Xl} (l : List (Nat × Word)) (done : List PipeItem)
    (h : ∀ p ∈ l, ∀ done, chk s done p.1 p.2 size = (s, .ok (y p.1))) :
    checkElems chk (l.map (fun p => (p.1, [(p.2, size)]))) done s =
      (s, { items := done.reverse ++ l.map (fun p => localItem p.1 p.2 size (y p.1)), fault := none }) := by
  induction l generalizing done with
  | nil => simp [checkElems]
  | cons p l ih =>
    have hfield : checkFields chk done p.1 0 [(p.2, size)] [] s = (s, .ok [localItem p.1 p.2 size (y p.1)]) := by
      simp only [checkFields, h p List.mem_cons_self done, List.any_nil, Bool.false_eq_true, if_false]
      rfl
    simp only [List.map_cons, checkElems, hfield, ih _ fun q hq => h q (List.mem_cons_of_mem _ hq)]
    simp

theorem settledAll_of_accessible {ps : List PipeItem} (h : ∀ p ∈ ps, s.Accessible write p.vc p.pa p.n) :
    s.settledAll write ps = .ok () := by
  have hnone : (ps.filter (fun p => !p.fabric)).any (fun p => s.blocked write p.pa p.n) = false :=
    List.any_eq_false.mpr fun p hp => by simp [(h p (List.mem_filter.mp hp).1).blocked]
  simp [State.settledAll, hnone]

end

end Sys2Proof.Machine

/-! The memory queues (08 R192, R205 to R208): what VLDSQ and VCAPP do where the record and the elements of the queue lie in local
memory, outside a fork. -/

namespace Sys2Proof.Machine

/-! ## The record of a queue (R205) -/

/-- The strand, outside a fork, reads q in the record of a memory queue at va. -/
structure State.QueueAt (s : State) (e : BitVec 2) (va : Word) (x : Xl) (q : QueueRec) : Prop where
  alone : s.Alone
  place : s.Local .both va 64 x
  aligned : va.toNat % 64 = 0
  line : x.pa % 64 = 0
  fields : readQueue e (s.viewBytes true x.pa 64) = some q

section
variable {s u : State} {e : BitVec 2} {va : Word} {x : Xl} {q : QueueRec}

theorem hits_of_local {k : Acc} {n : Nat} (hcore : s.st.place.master? ≠ none) (h : s.Local k va n x) : s.hits k va.toNat x = true :=
  hits_of_xlate hcore h.maps

theorem State.QueueAt.accessible (h : s.QueueAt e va x q) : s.Accessible true x.vc x.pa 64 := accessible_of_local h.place

theorem State.QueueAt.fabric (h : s.QueueAt e va x q) : x.fabric = false := by simp [Xl.fabric, h.place.loc]

/-- The context keeps the translation of the record and none of an element. -/
def KeepsRecord (s : State) : Prop := ∃ p : PipeItem, s.x.pipe = some { items := [p], fault := none } ∧ p.n = 0

theorem queueHead_of_no_fork (h : s.st.fork = none) (as : List Word) : s.queueHead as = .ok () := by
  simp [State.queueHead, spec_of_no_fork h]

/-- The record is translated once, and read. -/
theorem queueRecord_of_queueAt (h : s.QueueAt e va x q) (t : Transfer) :
    ∃ u, s.queueRecord t va e = .ok (u, x, q) ∧ Underway s u ∧ u.st.vbuf = s.st.vbuf ∧ KeepsRecord u := by
  have hfork := h.alone.alone.1
  have hkept : s.keptXl va.toNat = none := by simp [State.keptXl, h.alone.fresh.1]
  have hxl : s.queueXl va = (s.keepXl va.toNat x, .ok x) := by
    rw [State.queueXl, hkept, plainCheck_of_hits h.alone.core h.alone.alone.2 (hits_of_local h.alone.core h.place) h.aligned]
  have hkeep : Underway s (s.keepXl va.toNat x) := .own s _ _ _ _
  have hacc := (h.accessible.underway hkeep).read
  have hmove := linesMove_atRead (s.keepXl va.toNat x) x 64
  have hunder := hkeep.trans (underway_atRead hacc)
  have hclean : ((s.keepXl va.toNat x).atRead x 64).poisonedFor x.pa = false := by
    have hfirst := h.accessible.clean (x.pa / 64) (mem_linesOf.mpr (by omega))
    rw [hunder.poisonedFor]
    rwa [Nat.div_mul_cancel (Nat.dvd_of_mod_eq_zero h.line)] at hfirst
  have hbytes : (s.keepXl va.toNat x).viewBytes true x.pa 64 = s.viewBytes true x.pa 64 := rfl
  refine ⟨_, ?_, hunder, (vbuf_of_linesMove hmove).trans rfl, ⟨_, (pipe_of_linesMove hmove).trans rfl, rfl⟩⟩
  unfold State.queueRecord
  simp only [h.place.bound, h.aligned, queueHead_of_no_fork hfork, hxl, h.fabric, (h.accessible.underway hkeep).settled,
    settleScatter_of_settled (hkeep.settled h.alone.settled), loadLocal_of_accessible (hkeep.fork.trans hfork) hacc, allOrStall,
    hacc.lostRead, hclean, hbytes, h.fields, bind, Except.bind, check_true, decide_true, Bool.not_false, Bool.and_self,
    Bool.false_eq_true, if_false]

/-! ## The elements of a queue (R206, R207) -/

/-- The items of m elements of the queue from count c on, element j at y j. -/
def QueueRec.items (q : QueueRec) (e : BitVec 2) (c m : Nat) (y : Nat → Xl) : List PipeItem :=
  (List.range m).map (fun j => localItem j (q.addr (c + j) (2 ^ e.toNat)) (2 ^ e.toNat) (y j))

theorem forall_mem_items {P : PipeItem → Prop} {c m : Nat} {y : Nat → Xl} :
    (∀ p ∈ q.items e c m y, P p) ↔ ∀ j, j < m → P (localItem j (q.addr (c + j) (2 ^ e.toNat)) (2 ^ e.toNat) (y j)) := by
  simp [QueueRec.items]

/-- The elements pass all, outside a fork. -/
theorem queuePipe_of_hits (hcore : s.st.place.master? ≠ none) (hfork : s.st.fork = none) (hactive : s.st.active = false)
    (hkeeps : KeepsRecord s) {c m : Nat} {y : Nat → Xl} (t : Transfer)
    (h : ∀ j, j < m → s.hits .both (q.addr (c + j) (2 ^ e.toNat)).toNat (y j) = true ∧
      (q.addr (c + j) (2 ^ e.toNat)).toNat % 2 ^ e.toNat = 0) :
    ∃ u, s.queuePipe t (2 ^ e.toNat) ((List.range m).map (fun j => q.addr (c + j) (2 ^ e.toNat))) =
        .ok (u, { items := q.items e c m y, fault := none }) ∧
      Underway s u ∧ u.st.vbuf = s.st.vbuf := by
  obtain ⟨p, hp, hn⟩ := hkeeps
  generalize has : (List.range m).map (fun j => q.addr (c + j) (2 ^ e.toNat)) = as
  have hels : (List.range as.length).zip (as.map (fun a => [(a, 2 ^ e.toNat)])) =
      ((List.range m).map (fun j => (j, q.addr (c + j) (2 ^ e.toNat)))).map (fun p => (p.1, [(p.2, 2 ^ e.toNat)])) := by
    rw [← has, List.length_map, List.length_range, List.map_map, List.map_map]
    exact List.map_prod_left_eq_zip.symm
  have hchecks : checkElems (plainCheck .both (2 ^ e.toNat)) ((List.range as.length).zip (as.map (fun a => [(a, 2 ^ e.toNat)]))) [] s =
      (s, { items := q.items e c m y, fault := none }) := by
    rw [hels, checkElems_of_pass (y := y)]
    · simp [QueueRec.items]
    · intro p hp done
      obtain ⟨j, hj, rfl⟩ := List.mem_map.mp hp
      obtain ⟨hhit, halign⟩ := h j (List.mem_range.mp hj)
      exact plainCheck_of_hits hcore hactive hhit halign _ _ _
  refine ⟨_, ?_, .own s s.undef s.st.stores s.st.vbuf (some { items := [p] ++ q.items e c m y, fault := none }), rfl⟩
  unfold State.queuePipe
  simp only [queueHead_of_no_fork hfork, hp, hn, hchecks, bind, Except.bind, List.filter_cons, List.filter_nil, bne_self_eq_false,
    List.isEmpty_nil, Bool.not_true, Bool.false_eq_true, if_false]

theorem queueAsk_of_local (t : Transfer) (x : Xl) {ps : List PipeItem} (h : ∀ p ∈ ps, p.fabric = false) (v : VSend) (size : Nat) :
    s.queueAsk t x { items := ps, fault := none } v size = .ok [] := by
  have hnone : ps.filter PipeItem.fabric = [] := List.filter_eq_nil_iff.mpr fun p hp => by simp [h p hp]
  simp only [State.queueAsk, hnone]
  rfl

theorem filter_local {ps : List PipeItem} (h : ∀ p ∈ ps, p.fabric = false) : ps.filter (fun p => !p.fabric) = ps :=
  List.filter_eq_self.mpr fun p hp => by simp [h p hp]

/-- A word of the record is written behind the elements. -/
theorem queuePut_of_accessible (hfork : s.st.fork = none) (hx : x.fabric = false) (h : s.Accessible true x.vc x.pa 64) {off : Nat}
    (hoff : off + 8 ≤ 64) (a : Word) (v : Nat) :
    ∃ t, s.queuePut x a off v = .ok t ∧ Underway s t ∧ Joined s t [(x.pa + off, leBytes 8 v, x.vc)] := by
  obtain ⟨t, ht, hrest⟩ := storeLocal_of_accessible (x := { x with pa := x.pa + off }) (bs := leBytes 8 v) hfork
    (h.within (by simp) (by simp; omega))
  exact ⟨t, by simp only [State.queuePut, hx, ht, Bool.false_eq_true, if_false], hrest⟩

end

section
variable {s t u w : State}

/-! ## What a memory queue instruction leaves (R206, R207) -/

/-- `t` is `s` after a memory queue instruction outside a fork: registers and the vector store buffer apart, lines and packets have
moved and nothing else. -/
def QueueDone (s t : State) : Prop :=
  t = { s with
    retired := true, classes := t.classes, cache := t.cache, net := t.net, undef := t.undef
    st := { s.st with vbuf := t.st.vbuf, stores := t.st.stores }
    x := { s.x with
      pc := s.x.pc + 4, sreg := t.x.sreg, await := t.x.await, vreg := t.x.vreg, vbeg := 0, replies := [], pipe := none } }

theorem queueDone_result (h : Underway s u) (hw : w = { u with x := { u.x with vreg := w.x.vreg, vbeg := 0 } })
    (d : BitVec 5) (v : Word) :
    QueueDone s (w.result d v) := by
  obtain ⟨_, _, _, _, _, ⟨_, _, _, _, _, _, rfl⟩, rfl⟩ := h.form
  rw [QueueDone, hw, State.result, setS_frame]
  rfl

theorem st_result (s : State) (d : BitVec 5) (v : Word) : (s.result d v).st = s.st := by
  rw [State.result, setS_frame]
  rfl

theorem vreg_result (s : State) (d : BitVec 5) (v : Word) : (s.result d v).x.vreg = s.x.vreg := by
  rw [State.result, setS_frame]
  rfl

theorem joined_of_st {l : List (Nat × List Byte × Nat)} (h : Joined s u l) (hst : t.st = u.st) : Joined s t l := by
  rw [Joined, hst]
  exact h

theorem got_result (h : Underway s u) (hw : w.x.sreg = u.x.sreg) (d : BitVec 5) (v : Word) : s.Got (w.result d v) d v := by
  refine ⟨fun hd => getS_setS_same w d v hd, fun r hr => ?_⟩
  refine (getS_setS_ne w d r v hr).trans ?_
  rw [State.getS, hw, h.sreg, State.getS]

/-- The loaded elements and the count are written (R207). -/
theorem putElems_result_leaves (h : Underway s u) {base width m : Nat} (hb : base + groupRegs s.x.vtype width ≤ 32) {l : List Nat}
    (hl : l.length = m) (d : BitVec 5) (v : Word) :
    let t := (u.putElems base width ((List.range m).zip l) m).result d v
    QueueDone s t ∧ s.Got t d v ∧ s.Holds t base (groupRegs s.x.vtype width) width (s.packed width l) ∧
      (∀ j, j < base ∨ base + groupRegs s.x.vtype width ≤ j → vget t.x.vreg 0 j = vget s.x.vreg 0 j) ∧ t.st = u.st := by
  intro t
  subst hl
  rw [← h.vtype] at hb ⊢
  let w := u.putElems base width ((List.range l.length).zip l) l.length
  have hw : VregsWritten [(base, groupRegs u.x.vtype width)] u w := vregsWritten_putElems (List.mem_singleton.mpr rfl) hb _ _
  have hrest : w = { u with x := { u.x with vreg := w.x.vreg, vbeg := 0 } } :=
    hw.rest.trans (by rw [putElems_x_vbeg])
  have hsreg : w.x.sreg = u.x.sreg := by rw [hrest]
  have hst : w.st = u.st := by rw [hrest]
  have hvreg : t.x.vreg = w.x.vreg := vreg_result w d v
  refine ⟨queueDone_result h hrest d v, got_result h hsreg d v, fun i hi => ?_, fun j hj => ?_, (st_result w d v).trans hst⟩
  · have hbefore : u.elemOf base (groupRegs u.x.vtype width) width i = s.elemOf base (groupRegs u.x.vtype width) width i :=
      congrArg (nbits · _ _) (vgroup_congr fun j _ _ => by rw [h.vreg])
    have hafter : t.elemOf base (groupRegs u.x.vtype width) width i = w.elemOf base (groupRegs u.x.vtype width) width i :=
      congrArg (nbits · _ _) (vgroup_congr fun j _ _ => by rw [hvreg])
    rw [hafter, holds_putElems (lists_zip_range l) hb l.length i hi, listed_eq_packed, hbefore, State.packed, State.packed, h.vl, h.tp]
  · rw [hvreg, hw.apart j (by simpa using hj), h.vreg]

end

section
variable {s : State} {k : BitVec 3} {v a b : BitVec 5} {e : BitVec 2} {x : Xl} {q : QueueRec} {y : Nat → Xl}

/-- With vl 0 neither instruction accesses anything (R192). -/
theorem memoryQueues_empty (hcore : s.st.place.master? ≠ none) (hvill : vill s.x.vtype = false) (hvbeg : s.x.vbeg = 0)
    (hgroups : groupsLegal s.x.vtype [opdW v (8 * 2 ^ e.toNat)] = true) (hvl : s.vl = 0) :
    exec (.vcapp k v a b e) s = .next s.advance ∧ exec (.vldsq v a b e) s = .next (s.result b 0) := by
  have hchecks (i : Instr) : vcheck i s (groupsLegal s.x.vtype [opdW v (8 * sizeOf_ e)]) true = .ok () :=
    vcheck_ok i hvill hgroups fun _ => hvbeg
  constructor
  · simp only [exec, execVcapp, gate_admits _ _ _ (admits_core hcore), hchecks, hvl]
    rfl
  · simp only [exec, execVldsq, gate_admits _ _ _ (admits_core hcore), hchecks, hvl]
    rfl

/-- Element j of the queue, from count c on, lies in local memory at y j. -/
def State.ElemsAt (s : State) (q : QueueRec) (e : BitVec 2) (c m : Nat) (y : Nat → Xl) : Prop :=
  ∀ j, j < m → s.Local .both (q.addr (c + j) (2 ^ e.toNat)) (2 ^ e.toNat) (y j) ∧
    (q.addr (c + j) (2 ^ e.toNat)).toNat % 2 ^ e.toNat = 0

theorem fabric_of_elemsAt {c m : Nat} (h : s.ElemsAt q e c m y) :
    ∀ p ∈ q.items e c m y, p.fabric = false :=
  forall_mem_items.mpr fun j hj => beq_eq_false_iff_ne.mpr (h j hj).1.loc

theorem accessible_of_elemsAt {u : State} {c m : Nat} (h : s.ElemsAt q e c m y) (hu : Underway s u) :
    ∀ p ∈ q.items e c m y, u.Accessible true p.vc p.pa p.n :=
  forall_mem_items.mpr fun j hj => (accessible_of_local (h j hj).1).underway hu

/-- The record is read and the elements pass, whichever of them the instruction takes. -/
theorem queue_issued (hq : s.QueueAt e (s.getS a) x q) {c m : Nat} (hy : s.ElemsAt q e c m y) (t : Transfer) :
    ∃ u₁ u₂, s.queueRecord t (s.getS a) e = .ok (u₁, x, q) ∧ Underway s u₁ ∧
      u₁.queuePipe t (2 ^ e.toNat) ((List.range m).map (fun j => q.addr (c + j) (2 ^ e.toNat))) =
        .ok (u₂, { items := q.items e c m y, fault := none }) ∧
      Underway s u₂ ∧ u₂.st.vbuf = s.st.vbuf := by
  obtain ⟨u₁, hrec, h₁, hvbuf₁, hkeeps⟩ := queueRecord_of_queueAt hq t
  have hcore : u₁.st.place.master? ≠ none := h₁.place ▸ hq.alone.core
  obtain ⟨u₂, hpipe, h₂, hvbuf₂⟩ := queuePipe_of_hits hcore (h₁.fork.trans hq.alone.alone.1) (h₁.active.trans hq.alone.alone.2) hkeeps t
    fun j hj => ⟨(h₁.hits _ _ _).trans (hits_of_local hq.alone.core (hy j hj).1), (hy j hj).2⟩
  exact ⟨u₁, u₂, hrec, h₁, hpipe, h₁.trans h₂, hvbuf₂.trans hvbuf₁⟩

/-- VLDSQ loads the oldest elements and moves head past them. -/
theorem exec_vldsq_of_queueAt (hq : s.QueueAt e (s.getS a) x q) (hvill : vill s.x.vtype = false) (hvbeg : s.x.vbeg = 0)
    (hgroups : groupsLegal s.x.vtype [opdW v (8 * 2 ^ e.toNat)] = true) (hvl : s.vl ≠ 0)
    {m : Nat} (hm : min s.vl q.wait = m) (hy : s.ElemsAt q e q.head m y) :
    ∃ u, exec (.vldsq v a b e) s = .next ((u.putElems v.toNat (8 * 2 ^ e.toNat)
        ((List.range m).zip ((List.range m).map (fun j => s.viewNum (y j).pa (2 ^ e.toNat)))) m).result b (BitVec.ofNat 64 m)) ∧
      Underway s u ∧ Joined s u [(x.pa + 24, leBytes 8 ((q.head + m) % 2 ^ 64), x.vc)] := by
  obtain ⟨u₁, u₂, hrec, h₁, hpipe, h₂, hvbuf₂⟩ :=
    queue_issued hq hy { acc := .both, akind := 1, tstride := BitVec.ofNat 64 (2 ^ e.toNat), total := s.vl }
  have hfork₂ := h₂.fork.trans hq.alone.alone.1
  have hacc := accessible_of_elemsAt hy h₂
  have hlocal := fabric_of_elemsAt hy
  obtain ⟨u₃, hload, h₃, hmove⟩ := loadItems_of_accessible _ hfork₂ (h₂.settled hq.alone.settled) fun p hp => (hacc p hp).read
  obtain ⟨u₄, hput, h₄, hjoin⟩ := queuePut_of_accessible (h₃.fork.trans hfork₂) hq.fabric
    (hq.accessible.underway (h₂.trans h₃)) (off := 24) (by decide) (u₂.getS a) ((q.head + m) % 2 ^ 64)
  have hview : ∀ pa n, leNat (u₂.viewBytes true pa n) = s.viewNum pa n := fun pa n =>
    congrArg leNat (List.map_congr_left fun i _ => h₂.viewByte hvbuf₂ (pa + i))
  have hels : ((q.items e q.head m y).map (fun p => (p, u₂.viewBytes true p.pa p.n)) ++
      ([] : List (VReq × Reply)).flatMap answered).map (fun r => (r.1.i, leNat r.2)) =
      (List.range m).zip ((List.range m).map (fun j => s.viewNum (y j).pa (2 ^ e.toNat))) := by
    rw [List.flatMap_nil, List.append_nil, QueueRec.items, List.map_map, List.map_map, ← List.map_prod_left_eq_zip]
    exact List.map_congr_left fun j _ => congrArg (Prod.mk j) (hview _ _)
  refine ⟨u₄, ?_, (h₂.trans h₃).trans h₄, (Joined.of_vbuf ((vbuf_of_linesMove hmove).trans hvbuf₂)).trans hjoin⟩
  have hmin : min u₁.vl q.wait = m := by rw [h₁.vl, hm]
  simp only [exec, execVldsq, gate_admits _ _ _ (admits_core hq.alone.core), sizeOf_, vcheck_ok _ hvill hgroups fun _ => hvbeg,
    bne_iff_ne.mpr hvl, check_true, hrec, hmin, hpipe, settledAll_of_accessible fun p hp => (hacc p hp).read,
    queueAsk_of_local _ x hlocal, filter_local hlocal, hload, hput, hels, allOrStall, bind, Except.bind, finish_ok]

/-- The active elements that VCAPP appends, in ascending order. -/
def State.appended (s : State) (k : BitVec 3) (v : BitVec 5) (e : BitVec 2) : List Nat :=
  ((List.range s.vl).filter (fun i => (s.kmask k.toNat).getLsbD i)).map
    (s.elemOf v.toNat (groupRegs s.x.vtype (8 * 2 ^ e.toNat)) (8 * 2 ^ e.toNat))

theorem appended_of_underway {u : State} (h : Underway s u) :
    ((List.range u.vl).filter (fun i => (u.kmask k.toNat).getLsbD i)).map (u.src (opdW v (8 * 2 ^ e.toNat))).at_ = s.appended k v e := by
  obtain ⟨_, _, _, _, _, ⟨_, _, _, _, _, _, rfl⟩, rfl⟩ := h.form
  rfl

/-- VCAPP answers −1 where its elements do not fit, and stores nothing. -/
theorem exec_vcapp_of_full (hq : s.QueueAt e (s.getS a) x q) (hvill : vill s.x.vtype = false) (hvbeg : s.x.vbeg = 0)
    (hgroups : groupsLegal s.x.vtype [opdW v (8 * 2 ^ e.toNat)] = true) (hvl : s.vl ≠ 0)
    (hfull : q.cap - q.wait < (s.appended k v e).length) :
    ∃ u, exec (.vcapp k v a b e) s = .next (u.result b (BitVec.ofNat 64 (2 ^ 64 - 1))) ∧ Underway s u ∧ u.st.vbuf = s.st.vbuf := by
  obtain ⟨u, hrec, hu, hvbuf, -⟩ :=
    queueRecord_of_queueAt hq { acc := .both, akind := 2, tstride := BitVec.ofNat 64 (2 ^ e.toNat), total := s.vl }
  refine ⟨u, ?_, hu, hvbuf⟩
  simp only [exec, execVcapp, gate_admits _ _ _ (admits_core hq.alone.core), sizeOf_, vcheck_ok _ hvill hgroups fun _ => hvbeg,
    bne_iff_ne.mpr hvl, check_true, hrec, appended_of_underway hu, gt_iff_lt, hfull, if_true, bind, Except.bind, finish_ok]

/-- VCAPP stores its elements behind the last, and then tail. -/
theorem exec_vcapp_of_room (hq : s.QueueAt e (s.getS a) x q) (hvill : vill s.x.vtype = false) (hvbeg : s.x.vbeg = 0)
    (hgroups : groupsLegal s.x.vtype [opdW v (8 * 2 ^ e.toNat)] = true) (hvl : s.vl ≠ 0) {src : List Nat} (hsrc : s.appended k v e = src)
    (hroom : src.length ≤ q.cap - q.wait) (hy : s.ElemsAt q e q.tail src.length y) :
    ∃ u, exec (.vcapp k v a b e) s = .next (u.result b (BitVec.ofNat 64 (q.wait + src.length))) ∧ Underway s u ∧
      Joined s u ((List.range src.length).map (fun j => ((y j).pa, leBytes (2 ^ e.toNat) (src.getD j 0), (y j).vc)) ++
        [(x.pa + 16, leBytes 8 ((q.tail + src.length) % 2 ^ 64), x.vc)]) := by
  obtain ⟨u₁, u₂, hrec, h₁, hpipe, h₂, hvbuf₂⟩ :=
    queue_issued hq hy { acc := .both, akind := 2, tstride := BitVec.ofNat 64 (2 ^ e.toNat), total := s.vl }
  have hfork₂ := h₂.fork.trans hq.alone.alone.1
  have hacc := accessible_of_elemsAt hy h₂
  have hlocal := fabric_of_elemsAt hy
  let ws := withData (fun p => leBytes (2 ^ e.toNat) (src.getD p.i 0))
    (q.items e q.tail src.length y)
  have hws {P : PipeItem × List Byte → Prop} (h : ∀ p ∈ q.items e q.tail src.length y,
      P (p, leBytes (2 ^ e.toNat) (src.getD p.i 0))) : ∀ w ∈ ws, P w := List.forall_mem_map.mpr h
  obtain ⟨u₃, hstore, h₃, hjoin₃⟩ := storeLocals_of_accessible ws hfork₂ (h₂.settled hq.alone.settled)
    (hws (forall_mem_items.mpr fun j _ => length_leBytes _ _)) (hws hacc)
  obtain ⟨u₄, hput, h₄, hjoin₄⟩ := queuePut_of_accessible (h₃.fork.trans hfork₂) hq.fabric
    (hq.accessible.underway (h₂.trans h₃)) (off := 16) (by decide) (u₂.getS a) ((q.tail + src.length) % 2 ^ 64)
  have hplaces : ws.map (fun w => (w.1.pa, w.2, w.1.vc)) =
      (List.range src.length).map (fun j => ((y j).pa, leBytes (2 ^ e.toNat) (src.getD j 0), (y j).vc)) := by
    simp only [ws, withData, QueueRec.items, List.map_map]
    rfl
  refine ⟨u₄, ?_, (h₂.trans h₃).trans h₄, hplaces ▸ ((Joined.of_vbuf hvbuf₂).trans hjoin₃).trans hjoin₄⟩
  simp only [exec, execVcapp, gate_admits _ _ _ (admits_core hq.alone.core), sizeOf_, vcheck_ok _ hvill hgroups fun _ => hvbeg,
    bne_iff_ne.mpr hvl, check_true, hrec, appended_of_underway h₁, hsrc, gt_iff_lt, Nat.not_lt.mpr hroom, if_false, hpipe,
    settledAll_of_accessible hacc, queueAsk_of_local _ x hlocal, filter_local hlocal, hstore, ws, hput, allOrStall, bind, Except.bind,
    finish_ok]

end

/-- Settles O53: the record and the elements are translated by the buffer, so that no access disturbs the next; loads read the strand's
vector view, and stores join the vector store buffer, the record's last. -/
theorem memoryQueues : Obligations.MemoryQueues := by
  intro s k v a b e x q y halone hvill hvbeg size w n hgroups
  refine ⟨memoryQueues_empty halone.core hvill hvbeg hgroups, ?_⟩
  intro hvl hplace haligned hline hfields src took put stored frame
  have hq : s.QueueAt e (s.getS a) x q := ⟨halone, hplace, haligned, hline, hfields⟩
  have hvbegStays {u : State} (hu : Underway s u) : u = { u with x := { u.x with vreg := u.x.vreg, vbeg := 0 } } := by
    rw [← hu.vbeg.trans hvbeg]
  refine ⟨fun hy => ?_, fun hfull => ?_, fun hroom hy _ => ?_⟩
  · obtain ⟨u, hexec, hu, hjoin⟩ := exec_vldsq_of_queueAt (b := b) hq hvill hvbeg hgroups hvl rfl hy
    obtain ⟨hframe, hgot, hholds, hothers, hst⟩ := putElems_result_leaves hu (group_within hgroups (List.mem_singleton.mpr rfl))
      (l := (List.range took).map (fun j => s.viewNum (y j).pa size)) (m := took)
      (by rw [List.length_map, List.length_range]) b (BitVec.ofNat 64 took)
    exact ⟨_, hexec, hframe, hgot, hholds, hothers, joined_of_st hjoin hst⟩
  · obtain ⟨u, hexec, hu, hvbuf⟩ := exec_vcapp_of_full (b := b) hq hvill hvbeg hgroups hvl hfull
    exact ⟨_, hexec, queueDone_result hu (hvbegStays hu) b _, got_result hu rfl b _, (vreg_result u b _).trans hu.vreg,
      by rw [st_result, hvbuf]⟩
  · obtain ⟨u, hexec, hu, hjoin⟩ := exec_vcapp_of_room (b := b) hq hvill hvbeg hgroups hvl rfl hroom hy
    exact ⟨_, hexec, queueDone_result hu (hvbegStays hu) b _, got_result hu rfl b _, (vreg_result u b _).trans hu.vreg,
      joined_of_st hjoin (st_result u b _)⟩

end Sys2Proof.Machine

/-! The rows of accumulators and slots (09 R210 to R213, R236): what a read and a write of one leave, and loops over rows. -/

namespace Sys2Proof.Machine

/-! ## Listed rows and their poison bits -/

/-- The value that a list has for a key, none where it has none. -/
def listedRow {w : Nat} (l : List (Nat × BitVec w)) (k : Nat) : Option Nat := (l.find? (fun e => e.1 == k)).map (fun e => e.2.toNat)

theorem State.accVal_eq (s : State) (j r : Nat) : s.accVal j r = listedRow s.x.acc (256 * j + r) := rfl

theorem State.slotVal_eq (s : State) (q r : Nat) : s.slotVal q r = listedRow s.x.slot (256 * q + r) := rfl

theorem listedRow_update {w : Nat} (k : Nat) (v : BitVec w) (l : List (Nat × BitVec w)) (i : Nat) :
    listedRow (update k v l) i = if i = k then some v.toNat else listedRow l i := by
  induction l with
  | nil => by_cases h : k = i <;> simp [listedRow, update, h, eq_comm (a := i)]
  | cons p l ih =>
    unfold listedRow at ih ⊢
    by_cases hp : p.1 = k
    · by_cases h : k = i <;> simp [update, hp, h, eq_comm (a := i)]
    · by_cases hi : p.1 = i
      · simp [update, hi, show i ≠ k from hi ▸ hp]
      · simpa [update, hp, hi] using ih

/-- Of a list whose entries of some keys have been dropped, no other key has changed. -/
theorem listedRow_filter {w : Nat} (keep : Nat → Bool) (l : List (Nat × BitVec w)) (i : Nat) :
    listedRow (l.filter (fun e => keep e.1)) i = if keep i then listedRow l i else none := by
  induction l with
  | nil => simp [listedRow]
  | cons p l ih =>
    unfold listedRow at ih ⊢
    by_cases hi : p.1 = i
    · by_cases hk : keep i
      · simp [hi, hk]
      · simpa [hi, hk] using ih
    · by_cases hk : keep p.1 <;> simpa [hk, hi] using ih

/-- A row written: its value, or, poisoned, none. -/
theorem listedRow_write {w : Nat} (k v : Nat) (bad : Bool) (l : List (Nat × BitVec w)) (i : Nat) :
    listedRow (if bad then l.filter (fun e => e.1 != k) else update k (BitVec.ofNat w v) l) i =
      if i = k then (if bad then none else some (v % 2 ^ w)) else listedRow l i := by
  cases bad with
  | true =>
    refine (listedRow_filter (fun i => i != k) l i).trans ?_
    by_cases h : i = k <;> simp [h]
  | false => exact (listedRow_update k _ l i).trans (by rw [BitVec.toNat_ofNat]; rfl)

theorem getLsbD_one_shiftLeft {n r i : Nat} (hi : i < n) : ((1#n) <<< r).getLsbD i = decide (i = r) := by
  refine (BitVec.getLsbD_twoPow r i).trans ?_
  by_cases h : r = i
  · simp [h, hi]
  · simp [h, Ne.symm h]

theorem rowPoison_putPoison (v : BitVec 256) (r i : Nat) (p : Bool) (hi : i < 256) :
    rowPoison (putPoison v r p) i = if i = r then p else rowPoison v i := by
  have hone := getLsbD_one_shiftLeft (n := 256) (r := r) hi
  unfold putPoison rowPoison
  cases p with
  | true => by_cases h : i = r <;> simp_all
  | false =>
    rw [if_neg Bool.false_ne_true, BitVec.getLsbD_and, BitVec.getLsbD_not, hone]
    by_cases h : i = r <;> simp [h, hi]

/-- A row of one resource and a row of another have different keys. -/
theorem rowKey_inj {j r j' r' : Nat} (hr : r < 256) (hr' : r' < 256) : 256 * j' + r' = 256 * j + r ↔ j' = j ∧ r' = r := by omega

/-! ## Reads and writes of a row -/

section
variable {s t u : State} {j q r v : Nat} {bad : Bool}

theorem accVal_putAcc (s : State) (v : Nat) (bad : Bool) (hr : r < 256) {j' r' : Nat} (hr' : r' < 256) :
    (s.putAcc j r v bad).accVal j' r' = if j' = j ∧ r' = r then (if bad then none else some (v % 2 ^ 8192)) else s.accVal j' r' := by
  rw [State.accVal_eq, State.accVal_eq]
  exact (listedRow_write _ v bad s.x.acc _).trans (if_congr (rowKey_inj hr hr') rfl rfl)

theorem slotVal_putSlot (s : State) (v : Nat) (bad : Bool) (hr : r < 256) {q' r' : Nat} (hr' : r' < 256) :
    (s.putSlot q r v bad).slotVal q' r' = if q' = q ∧ r' = r then (if bad then none else some (v % 2 ^ 4096)) else s.slotVal q' r' := by
  rw [State.slotVal_eq, State.slotVal_eq]
  exact (listedRow_write _ v bad s.x.slot _).trans (if_congr (rowKey_inj hr hr') rfl rfl)

theorem accBad_putAcc (s : State) (v : Nat) (bad : Bool) (hj : j < 8) {j' r' : Nat} (hr' : r' < 256) :
    (s.putAcc j r v bad).accBad j' r' = if j' = j ∧ r' = r then bad else s.accBad j' r' := by
  unfold State.accBad State.putAcc
  by_cases h : j' = j
  · subst h
    rw [vget_vset_same _ _ _ _ hj, rowPoison_putPoison _ _ _ _ hr']
    simp
  · rw [vget_vset_ne _ _ _ _ _ (Ne.symm h), if_neg fun hh => h hh.1]

theorem slotBad_putSlot (s : State) (v : Nat) (bad : Bool) (hq : q < 16) {q' r' : Nat} (hr' : r' < 256) :
    (s.putSlot q r v bad).slotBad q' r' = if q' = q ∧ r' = r then bad else s.slotBad q' r' := by
  unfold State.slotBad State.putSlot
  by_cases h : q' = q
  · subst h
    rw [vget_vset_same _ _ _ _ hq, rowPoison_putPoison _ _ _ _ hr']
    simp
  · rw [vget_vset_ne _ _ _ _ _ (Ne.symm h), if_neg fun hh => h hh.1]

theorem accRow_putAcc (s : State) (v : Nat) (bad : Bool) (hj : j < 8) (hr : r < 256) :
    (s.putAcc j r v bad).AccRow j r bad (v % 2 ^ 8192) :=
  ⟨(accBad_putAcc s v bad hj hr).trans (if_pos ⟨rfl, rfl⟩), (accVal_putAcc s v bad hr hr).trans (if_pos ⟨rfl, rfl⟩)⟩

theorem slotRow_putSlot (s : State) (v : Nat) (bad : Bool) (hq : q < 16) (hr : r < 256) :
    (s.putSlot q r v bad).SlotRow q r bad (v % 2 ^ 4096) :=
  ⟨(slotBad_putSlot s v bad hq hr).trans (if_pos ⟨rfl, rfl⟩), (slotVal_putSlot s v bad hr hr).trans (if_pos ⟨rfl, rfl⟩)⟩

/-- A read of a row gives its value where it has one, and uses up a free value at most. -/
theorem accRow_reads (s : State) (j r : Nat) :
    ∃ n v, s.accRow j r = ({ s with undef := n }, v) ∧ ∀ w, s.accVal j r = some w → v = w := by
  unfold State.accRow State.accVal
  cases s.x.acc.find? (fun e => e.1 == 256 * j + r) with
  | some e => exact ⟨s.undef, _, rfl, fun w hw => Option.some_inj.mp hw⟩
  | none => exact ⟨_, _, rfl, nofun⟩

theorem slotRow_reads (s : State) (q r : Nat) :
    ∃ n v, s.slotRow q r = ({ s with undef := n }, v) ∧ ∀ w, s.slotVal q r = some w → v = w := by
  unfold State.slotRow State.slotVal
  cases s.x.slot.find? (fun e => e.1 == 256 * q + r) with
  | some e => exact ⟨s.undef, _, rfl, fun w hw => Option.some_inj.mp hw⟩
  | none => exact ⟨_, _, rfl, nofun⟩

theorem accRow_of_accVal (h : s.accVal j r = some v) : s.accRow j r = (s, v) := by
  unfold State.accVal at h
  unfold State.accRow
  cases hf : s.x.acc.find? (fun e => e.1 == 256 * j + r) with
  | some e => rw [hf] at h; exact congrArg (Prod.mk s) (Option.some_inj.mp h)
  | none => rw [hf] at h; cases h

end

/-- Rows read one after the other: each gives its value where it has one. -/
theorem readRows_reads {read : State → Nat → State × Nat} {val : State → Nat → Option Nat}
    (hread : ∀ s r, ∃ n v, read s r = ({ s with undef := n }, v) ∧ ∀ w, val s r = some w → v = w)
    (hval : ∀ s n r, val { s with undef := n } r = val s r) (rs : List Nat) (hrs : rs.Nodup) (s : State) :
    ∃ n f, readRows read rs s = ({ s with undef := n }, rs.map f) ∧ ∀ r ∈ rs, ∀ w, val s r = some w → f r = w := by
  induction rs generalizing s with
  | nil => exact ⟨s.undef, id, rfl, by simp⟩
  | cons r rs ih =>
    obtain ⟨hr, hrs⟩ := List.nodup_cons.mp hrs
    obtain ⟨n, v, hv, hvw⟩ := hread s r
    obtain ⟨m, f, hf, hfw⟩ := ih hrs { s with undef := n }
    have happart : ∀ i ∈ rs, Function.update f r v i = f i := fun i hi => Function.update_of_ne (ne_of_mem_of_not_mem hi hr) _ _
    refine ⟨m, Function.update f r v, ?_, fun i hi w hw => ?_⟩
    · rw [readRows, hv, List.map_cons, Function.update_self, List.map_congr_left happart]
      exact congrArg (fun p : State × List Nat => (p.1, v :: p.2)) hf
    · obtain rfl | hi := List.mem_cons.mp hi
      · rw [Function.update_self]
        exact hvw w hw
      · rw [happart i hi]
        exact hfw i hi w ((hval s n i).trans hw)

theorem accRows_reads (s : State) (j : Nat) {rs : List Nat} (hrs : rs.Nodup) :
    ∃ n f, s.accRows j rs = ({ s with undef := n }, rs.map f) ∧ ∀ r ∈ rs, ∀ w, s.accVal j r = some w → f r = w :=
  readRows_reads (val := fun s r => s.accVal j r) (fun s r => accRow_reads s j r) (fun _ _ _ => rfl) rs hrs s

theorem slotRows_reads (s : State) (q : Nat) {rs : List Nat} (hrs : rs.Nodup) :
    ∃ n f, s.slotRows q rs = ({ s with undef := n }, rs.map f) ∧ ∀ r ∈ rs, ∀ w, s.slotVal q r = some w → f r = w :=
  readRows_reads (val := fun s r => s.slotVal q r) (fun s r => slotRow_reads s q r) (fun _ _ _ => rfl) rs hrs s

/-- Rows that all have a value use up no free one. -/
theorem accRows_of_accVal {s : State} {j : Nat} {f : Nat → Nat} (rs : List Nat) (h : ∀ r ∈ rs, s.accVal j r = some (f r)) :
    s.accRows j rs = (s, rs.map f) := by
  unfold State.accRows
  induction rs with
  | nil => rfl
  | cons r rs ih =>
    rw [readRows, accRow_of_accVal (h r List.mem_cons_self)]
    exact congrArg (fun p : State × List Nat => (p.1, f r :: p.2)) (ih fun i hi => h i (List.mem_cons_of_mem _ hi))

/-! ## What an instruction of the array leaves (R236) -/

/-- From `s` to `t` the rows named have been written, and nothing else but the dirty bits of what they belong to and the model's records
of page classes, lines, packets, free values and accesses under way. -/
structure RowsWritten (acc slot : Nat → Nat → Prop) (s t : State) : Prop where
  accs : ∀ j r, j < 8 → r < 256 → ¬ acc j r → t.accVal j r = s.accVal j r ∧ t.accBad j r = s.accBad j r
  slots : ∀ q r, q < 16 → r < 256 → ¬ slot q r → t.slotVal q r = s.slotVal q r ∧ t.slotBad q r = s.slotBad q r
  accDirty : ∀ j, j < 8 → (∀ r, ¬ acc j r) → t.x.dirty.getLsbD j = s.x.dirty.getLsbD j
  slotDirty : ∀ q, q < 16 → (∀ r, ¬ slot q r) → t.x.dirty.getLsbD (8 + q) = s.x.dirty.getLsbD (8 + q)
  rest : t = { s with
    classes := t.classes, cache := t.cache, net := t.net, undef := t.undef
    x := { s.x with
      acc := t.x.acc, accPoison := t.x.accPoison, slot := t.x.slot, slotPoison := t.x.slotPoison, dirty := t.x.dirty, pipe := t.x.pipe } }

/-- `t` has in row r of every accumulator and slot what `s` has. -/
structure SameRow (r : Nat) (s t : State) : Prop where
  accVal : ∀ j, j < 8 → t.accVal j r = s.accVal j r
  accBad : ∀ j, j < 8 → t.accBad j r = s.accBad j r
  slotVal : ∀ q, q < 16 → t.slotVal q r = s.slotVal q r
  slotBad : ∀ q, q < 16 → t.slotBad q r = s.slotBad q r

theorem SameRow.refl (r : Nat) (s : State) : SameRow r s s := ⟨fun _ _ => rfl, fun _ _ => rfl, fun _ _ => rfl, fun _ _ => rfl⟩

theorem SameRow.trans {r : Nat} {s t u : State} (h : SameRow r s t) (k : SameRow r t u) : SameRow r s u where
  accVal j hj := (k.accVal j hj).trans (h.accVal j hj)
  accBad j hj := (k.accBad j hj).trans (h.accBad j hj)
  slotVal q hq := (k.slotVal q hq).trans (h.slotVal q hq)
  slotBad q hq := (k.slotBad q hq).trans (h.slotBad q hq)

namespace RowsWritten

variable {acc slot : Nat → Nat → Prop} {s t u : State}

theorem of_undef (s : State) (n : Nat) : RowsWritten acc slot s { s with undef := n } :=
  ⟨fun _ _ _ _ _ => ⟨rfl, rfl⟩, fun _ _ _ _ _ => ⟨rfl, rfl⟩, fun _ _ _ => rfl, fun _ _ _ => rfl, rfl⟩

theorem refl (s : State) : RowsWritten acc slot s s := of_undef s s.undef

theorem of_linesMove (h : LinesMove s t) : RowsWritten acc slot s t := by
  obtain ⟨_, _, _, _, _, _, rfl⟩ := h
  exact ⟨fun _ _ _ _ _ => ⟨rfl, rfl⟩, fun _ _ _ _ _ => ⟨rfl, rfl⟩, fun _ _ _ => rfl, fun _ _ _ => rfl, rfl⟩

theorem of_pipe (s : State) (p : Option Pipe) : RowsWritten acc slot s { s with x := { s.x with pipe := p } } :=
  ⟨fun _ _ _ _ _ => ⟨rfl, rfl⟩, fun _ _ _ _ _ => ⟨rfl, rfl⟩, fun _ _ _ => rfl, fun _ _ _ => rfl, rfl⟩

theorem trans (h : RowsWritten acc slot s t) (k : RowsWritten acc slot t u) : RowsWritten acc slot s u where
  accs j r hj hr ha := ⟨(k.accs j r hj hr ha).1.trans (h.accs j r hj hr ha).1, (k.accs j r hj hr ha).2.trans (h.accs j r hj hr ha).2⟩
  slots q r hq hr ha := ⟨(k.slots q r hq hr ha).1.trans (h.slots q r hq hr ha).1, (k.slots q r hq hr ha).2.trans (h.slots q r hq hr ha).2⟩
  accDirty j hj ha := (k.accDirty j hj ha).trans (h.accDirty j hj ha)
  slotDirty q hq ha := (k.slotDirty q hq ha).trans (h.slotDirty q hq ha)
  rest := k.rest.trans (by rw [h.rest])

theorem mono {acc' slot' : Nat → Nat → Prop} (h : RowsWritten acc slot s t) (ha : ∀ j r, acc j r → acc' j r)
    (hs : ∀ q r, slot q r → slot' q r) : RowsWritten acc' slot' s t where
  accs j r hj hr hn := h.accs j r hj hr fun hh => hn (ha j r hh)
  slots q r hq hr hn := h.slots q r hq hr fun hh => hn (hs q r hh)
  accDirty j hj hn := h.accDirty j hj fun r hh => hn r (ha j r hh)
  slotDirty q hq hn := h.slotDirty q hq fun r hh => hn r (hs q r hh)
  rest := h.rest

/-- The dirty bit of an accumulator set. -/
theorem of_accDirty {j r : Nat} (hj : j < 8) (hacc : acc j r) (s : State) :
    RowsWritten acc slot s { s with x := { s.x with dirty := s.x.dirty ||| ((1#24) <<< j) } } where
  accs _ _ _ _ _ := ⟨rfl, rfl⟩
  slots _ _ _ _ _ := ⟨rfl, rfl⟩
  accDirty j' _ hn := by
    have hne : j' ≠ j := by rintro rfl; exact hn r hacc
    simp [getLsbD_one_shiftLeft (n := 24) (show j' < 24 by omega), hne]
  slotDirty q _ _ := by
    simp [getLsbD_one_shiftLeft (n := 24) (show 8 + q < 24 by omega), show 8 + q ≠ j by omega]
  rest := rfl

theorem of_slotDirty {q r : Nat} (hslot : slot q r) (s : State) :
    RowsWritten acc slot s { s with x := { s.x with dirty := s.x.dirty ||| ((1#24) <<< (8 + q)) } } where
  accs _ _ _ _ _ := ⟨rfl, rfl⟩
  slots _ _ _ _ _ := ⟨rfl, rfl⟩
  accDirty j _ _ := by
    simp [getLsbD_one_shiftLeft (n := 24) (show j < 24 by omega), show j ≠ 8 + q by omega]
  slotDirty q' _ hn := by
    have hne : q' ≠ q := by rintro rfl; exact hn r hslot
    simp [getLsbD_one_shiftLeft (n := 24) (show 8 + q' < 24 by omega), hne]
  rest := rfl

theorem putAcc {j r : Nat} (hacc : acc j r) (hj : j < 8) (hr : r < 256) (s : State) (v : Nat) (bad : Bool) :
    RowsWritten acc slot s (s.putAcc j r v bad) where
  accs j' r' _ hr' hn := by
    have hne : ¬ (j' = j ∧ r' = r) := by rintro ⟨rfl, rfl⟩; exact hn hacc
    rw [accVal_putAcc s v bad hr hr', accBad_putAcc s v bad hj hr', if_neg hne, if_neg hne]
    exact ⟨rfl, rfl⟩
  slots _ _ _ _ _ := ⟨rfl, rfl⟩
  accDirty := (of_accDirty (slot := slot) hj hacc s).accDirty
  slotDirty := (of_accDirty (slot := slot) hj hacc s).slotDirty
  rest := rfl

theorem putSlot {q r : Nat} (hslot : slot q r) (hq : q < 16) (hr : r < 256) (s : State) (v : Nat) (bad : Bool) :
    RowsWritten acc slot s (s.putSlot q r v bad) where
  accs _ _ _ _ _ := ⟨rfl, rfl⟩
  slots q' r' _ hr' hn := by
    have hne : ¬ (q' = q ∧ r' = r) := by rintro ⟨rfl, rfl⟩; exact hn hslot
    rw [slotVal_putSlot s v bad hr hr', slotBad_putSlot s v bad hq hr', if_neg hne, if_neg hne]
    exact ⟨rfl, rfl⟩
  accDirty := (of_slotDirty (acc := acc) hslot s).accDirty
  slotDirty := (of_slotDirty (acc := acc) hslot s).slotDirty
  rest := rfl

theorem sameRow {r : Nat} (h : RowsWritten acc slot s t) (hr : r < 256) (ha : ∀ j, ¬ acc j r) (hs : ∀ q, ¬ slot q r) : SameRow r s t where
  accVal j hj := (h.accs j r hj hr (ha j)).1
  accBad j hj := (h.accs j r hj hr (ha j)).2
  slotVal q hq := (h.slots q r hq hr (hs q)).1
  slotBad q hq := (h.slots q r hq hr (hs q)).2

theorem vbeg (h : RowsWritten acc slot s t) : t.x.vbeg = s.x.vbeg := by rw [h.rest]

/-- The instruction completes, with vbeg as it was or 0. -/
theorem arrayed (h : RowsWritten acc slot s t) : s.Arrayed t.advance acc slot :=
  ⟨h.accs, h.slots, h.accDirty, h.slotDirty, by rw [h.rest]; rfl⟩

theorem arrayed_vbegZero (h : RowsWritten acc slot s t) : s.Arrayed t.vbegZero.advance acc slot :=
  ⟨h.accs, h.slots, h.accDirty, h.slotDirty, by rw [h.rest]; rfl⟩

end RowsWritten

/-- A loop over rows, each pass of which writes resources in its own row: what a pass has done in its row, `Done`, stands at the end. -/
theorem foldl_rows {J Q : Nat → Prop} {f : State → Nat → State} {Done : Nat → State → Prop} {l : List Nat} (s : State)
    (hlt : ∀ r ∈ l, r < 256) (hnodup : l.Nodup)
    (hstep : ∀ u, ∀ r ∈ l, SameRow r s u →
      RowsWritten (fun j i => J j ∧ i = r) (fun q i => Q q ∧ i = r) u (f u r) ∧ Done r (f u r))
    (hdone : ∀ r ∈ l, ∀ t u, SameRow r t u → Done r t → Done r u) :
    RowsWritten (fun j r => J j ∧ r ∈ l) (fun q r => Q q ∧ r ∈ l) s (l.foldl f s) ∧ ∀ r ∈ l, Done r (l.foldl f s) := by
  induction l generalizing s with
  | nil => exact ⟨.refl s, by simp⟩
  | cons r l ih =>
    obtain ⟨hr, hl⟩ := List.nodup_cons.mp hnodup
    obtain ⟨hfirst, hfirstDone⟩ := hstep s r List.mem_cons_self (.refl r s)
    have hkeep : ∀ i ∈ l, SameRow i s (f s r) := fun i hi =>
      hfirst.sameRow (hlt i (List.mem_cons_of_mem _ hi)) (fun j h => hr (h.2 ▸ hi)) (fun q h => hr (h.2 ▸ hi))
    obtain ⟨hrest, hrestDone⟩ := ih (f s r) (fun i hi => hlt i (List.mem_cons_of_mem _ hi)) hl
      (fun u i hi hu => hstep u i (List.mem_cons_of_mem _ hi) ((hkeep i hi).trans hu))
      (fun i hi => hdone i (List.mem_cons_of_mem _ hi))
    refine ⟨(hfirst.mono (fun j i h => ⟨h.1, by simp [h.2]⟩) fun q i h => ⟨h.1, by simp [h.2]⟩).trans
      (hrest.mono (fun j i h => ⟨h.1, by simp [h.2]⟩) fun q i h => ⟨h.1, by simp [h.2]⟩), fun i hi => ?_⟩
    obtain rfl | hi := List.mem_cons.mp hi
    · exact hdone i List.mem_cons_self _ _ (hrest.sameRow (hlt i List.mem_cons_self) (fun j h => hr h.2) fun q h => hr h.2) hfirstDone
    · exact hrestDone i hi

end Sys2Proof.Machine

/-! The checks that come before an instruction of the array (09 R214, R215, R219), and the traps of its dispatch. -/

namespace Sys2Proof.Machine

theorem gate_array {s : State} {accs slots : List Nat} (h : s.Array accs slots) (i : Instr) : gate i matrixNeed s = .ok () := by
  obtain ⟨_, r, hr⟩ := h.ring
  refine gate_admits _ _ _ ⟨?_, Nat.zero_le _, by rw [hr]; rfl⟩
  rintro b ⟨⟩
  exact h.feature

/-! ## The claim check (R214) -/

/-- The mask of the resources that an instruction needs (R214). -/
def claimNeed (accs slots : List Nat) : Nat :=
  (accs.map (fun j => 2 ^ j) ++ (slots.filter (· ≤ 15)).map (fun q => 2 ^ (8 + q))).foldl (· ||| ·) 0

theorem claimCheck_eq (s : State) (accs slots : List Nat) : claimCheck s accs slots =
    check (claimNeed accs slots &&& s.x.claim.toNat == claimNeed accs slots) (s.trapS 0x65 (BitVec.ofNat 64 (claimNeed accs slots))) := rfl

theorem testBit_foldl_or (l : List Nat) (a i : Nat) : (l.foldl (· ||| ·) a).testBit i = (a.testBit i || l.any (·.testBit i)) := by
  induction l generalizing a with
  | nil => simp
  | cons b l ih => rw [List.foldl_cons, ih, Nat.testBit_or, List.any_cons, Bool.or_assoc]

theorem testBit_claimNeed {accs slots : List Nat} {i : Nat} :
    (claimNeed accs slots).testBit i = true ↔ i ∈ accs ∨ ∃ q ∈ slots, q ≤ 15 ∧ i = 8 + q := by
  simp [claimNeed, testBit_foldl_or, Nat.testBit_two_pow, eq_comm (b := i)]

theorem claimCheck_of_claimed {s : State} {accs slots : List Nat} (haccs : ∀ j ∈ accs, s.x.claim.getLsbD j = true)
    (hslots : ∀ q ∈ slots, s.x.claim.getLsbD (8 + q) = true) : claimCheck s accs slots = .ok () := by
  have hall : claimNeed accs slots &&& s.x.claim.toNat = claimNeed accs slots := by
    refine Nat.eq_of_testBit_eq fun i => ?_
    rw [Nat.testBit_and]
    cases hi : (claimNeed accs slots).testBit i with
    | false => rfl
    | true =>
      rw [Bool.true_and]
      obtain hj | ⟨q, hq, -, rfl⟩ := testBit_claimNeed.mp hi
      · exact haccs i hj
      · exact hslots q hq
  rw [claimCheck_eq, hall, beq_self_eq_true, check_true]

theorem claimCheck_of_array {s : State} {accs slots : List Nat} (h : s.Array accs slots) : claimCheck s accs slots = .ok () :=
  claimCheck_of_claimed h.claimed.1 h.claimed.2

/-- One resource that is needed and not claimed stops the instruction. -/
theorem claimCheck_of_unclaimed {s : State} {accs slots : List Nat} {i : Nat} (hi : (claimNeed accs slots).testBit i = true)
    (hunclaimed : s.x.claim.getLsbD i = false) :
    claimCheck s accs slots = .error (s.trapS 0x65 (BitVec.ofNat 64 (claimNeed accs slots))) := by
  have hsome : (claimNeed accs slots &&& s.x.claim.toNat == claimNeed accs slots) = false := by
    refine beq_eq_false_iff_ne.mpr fun h => ?_
    rw [← h, Nat.testBit_and, show s.x.claim.toNat.testBit i = false from hunclaimed, Bool.and_false] at hi
    cases hi
  rw [claimCheck_eq, hsome, check_false]

/-! ## Dispatch traps (R214, R215, R219) -/

theorem shapeCheck_of_illegal {s : State} (h : shapeLegal s.x.shape = false) : shapeCheck s = .error (s.trapS 0x64 s.x.shape) := by
  rw [shapeCheck, h, check_false]

theorem shapeCheck_of_legal {s : State} (h : shapeLegal s.x.shape = true) : shapeCheck s = .ok () := by rw [shapeCheck, h, check_true]

/-- The first check after the gate stops an instruction of the array. -/
theorem finish_array_of_error {s t : State} {accs slots : List Nat} (h : s.Array accs slots) {α : Type} {m : Run α} (hm : m = .error t)
    (i : Instr) (k : α → Run State) : finish (gate i matrixNeed s >>= fun _ => m >>= k) = .next t := by
  rw [gate_array h, hm]
  rfl

theorem issueLoad_of_unclaimed {s t : State} {accs slots claimed slots' : List Nat} (h : s.Array claimed slots')
    (hclaim : claimCheck s accs slots = .error t) (i : Instr) (y z w : BitVec 5) (e maxLen : Nat) :
    issueLoad i accs slots y z w e maxLen s = .error t := by
  rw [issueLoad, gate_array h, hclaim]
  rfl

theorem issueSta_of_unclaimed {s t : State} {accs slots : List Nat} (h : s.Array accs slots) {x : BitVec 5}
    (hclaim : claimCheck s [x.toNat] [] = .error t) (y z w : BitVec 5) : issueSta x y z w s = .error t := by
  rw [issueSta, gate_array h, hclaim]
  rfl

theorem unclaimed_accumulator_traps {s : State} (h : s.Array [] []) {x : BitVec 5} (hx : s.x.claim.getLsbD x.toNat = false)
    (y z : BitVec 5) : ∀ i ∈ [Instr.mzero x, .mclr x y, .mlda x y z z, .msta x y z z, .mrowvToAccumulator x y z],
      exec i s = .next (s.trapS 0x65 (BitVec.ofNat 64 (2 ^ x.toNat))) := by
  have hneed : claimNeed [x.toNat] [] = 2 ^ x.toNat := Nat.zero_or _
  have hclaim := claimCheck_of_unclaimed (accs := [x.toNat]) (slots := []) (testBit_claimNeed.mpr (.inl List.mem_cons_self)) hx
  rw [hneed] at hclaim
  simp only [List.forall_mem_cons]
  exact ⟨finish_array_of_error h hclaim _ _, finish_array_of_error h hclaim _ _,
    finish_bind_of_error (issueLoad_of_unclaimed h hclaim _ _ _ _ _ _) _, finish_bind_of_error (issueSta_of_unclaimed h hclaim _ _ _) _,
    finish_array_of_error h hclaim _ _, List.forall_mem_nil _⟩

theorem unclaimed_pair_traps {s : State} (h : s.Array [] []) {x y : BitVec 5} (hx : s.x.claim.getLsbD x.toNat = false)
    (z : BitVec 5) (o : BitVec 2) : ∀ i ∈ [Instr.mew x y z o, .mpwl x y z],
      exec i s = .next (s.trapS 0x65 (BitVec.ofNat 64 (2 ^ x.toNat) ||| BitVec.ofNat 64 (2 ^ y.toNat))) := by
  have hneed : claimNeed [x.toNat, y.toNat] [] = 2 ^ x.toNat ||| 2 ^ y.toNat := congrArg (· ||| _) (Nat.zero_or _)
  have hclaim := claimCheck_of_unclaimed (accs := [x.toNat, y.toNat]) (slots := []) (testBit_claimNeed.mpr (.inl List.mem_cons_self)) hx
  rw [hneed, BitVec.ofNat_or] at hclaim
  simp only [List.forall_mem_cons]
  exact ⟨finish_array_of_error h hclaim _ _, finish_array_of_error h hclaim _ _, List.forall_mem_nil _⟩

theorem unclaimed_slot_traps {s : State} (h : s.Array [] []) {x : BitVec 5} (hx15 : x.toNat ≤ 15)
    (hx : s.x.claim.getLsbD (8 + x.toNat) = false) (y z : BitVec 5) :
    exec (.mlds x y z z) s = .next (s.trapS 0x65 (BitVec.ofNat 64 (2 ^ (8 + x.toNat)))) := by
  have hneed : claimNeed [] [x.toNat] = 2 ^ (8 + x.toNat) := by
    rw [claimNeed, List.filter_cons_of_pos (by simpa using hx15)]
    exact Nat.zero_or _
  have hclaim := claimCheck_of_unclaimed (accs := []) (slots := [x.toNat])
    (testBit_claimNeed.mpr (.inr ⟨x.toNat, List.mem_cons_self, hx15, rfl⟩)) hx
  rw [hneed] at hclaim
  exact finish_bind_of_error (issueLoad_of_unclaimed h hclaim _ _ _ _ _ _) _

theorem illegal_shape_traps {s : State} {x y : BitVec 5} (h : s.Array [x.toNat, y.toNat] []) (hshape : shapeLegal s.x.shape = false)
    (z : BitVec 5) (o : BitVec 2) : ∀ i ∈ [Instr.mew x y z o, .mpwl x y z], exec i s = .next (s.trapS 0x64 s.x.shape) := by
  have hchecks (k : Unit → Run State) : (claimCheck s [x.toNat, y.toNat] [] >>= fun _ => shapeCheck s >>= k) =
      .error (s.trapS 0x64 s.x.shape) := by
    rw [claimCheck_of_array h, shapeCheck_of_illegal hshape]
    rfl
  have hstops (i : Instr) (k : Unit → Run State) :
      finish (gate i matrixNeed s >>= fun _ => claimCheck s [x.toNat, y.toNat] [] >>= fun _ => shapeCheck s >>= k) =
        .next (s.trapS 0x64 s.x.shape) := by
    rw [gate_array h]
    exact congrArg finish (hchecks k)
  simp only [List.forall_mem_cons]
  exact ⟨hstops _ _, hstops _ _, List.forall_mem_nil _⟩

theorem curve_in_fork_traps {s : State} (h : s.Array [] []) (hfork : s.st.active = true) (x y : BitVec 5) :
    exec (.mcurv x y) s = .next (s.trapS 0x67 (wordOf (.mcurv x y))) := by
  refine finish_bind_of_error (m := issueCurv x y s) ?_ _
  rw [issueCurv, gate_array h, hfork]
  rfl

theorem matrixDispatchTraps : Sys2Proof.Parts.MatrixDispatchTraps := by
  intro s x y z o h hx _ bitOf
  refine ⟨fun hunclaimed => ⟨unclaimed_accumulator_traps h hunclaimed y z, unclaimed_pair_traps h hunclaimed z o⟩,
    fun hunclaimed => unclaimed_slot_traps h (by omega) hunclaimed y z, fun hcx hcy hshape => ?_,
    fun hfork => curve_in_fork_traps h hfork x y⟩
  exact illegal_shape_traps ⟨h.ring, h.feature, by simp [hcx, hcy], by simp⟩ hshape z o

end Sys2Proof.Machine

/-! MSHAPE, MCLAIM and MREL (09 R215, R223), MROWV and MWAIT (R232, R235). -/

namespace Sys2Proof.Machine

section
variable {s : State} {accs slots : List Nat}

theorem finish_array (h : s.Array accs slots) (i : Instr) (k : Unit → Run State) : finish (gate i matrixNeed s >>= k) = finish (k ()) := by
  rw [gate_array h]
  rfl

theorem finish_claimed (h : s.Array accs slots) (i : Instr) (k : Unit → Run State) :
    finish (gate i matrixNeed s >>= fun _ => claimCheck s accs slots >>= k) = finish (k ()) := by
  rw [gate_array h, claimCheck_of_array h]
  rfl

/-! ## The shape (R215, R223) -/

theorem exec_mshape (h : s.Array accs slots) (d a : BitVec 5) : exec (.mshape d a) s =
    if shapeLegal (s.getS a) then .next (State.result { s with x := { s.x with shape := s.getS a } } d s.x.shape)
    else .next (s.trapS 0x64 (s.getS a)) :=
  (finish_array h _ _).trans (finish_check _ _ _)

/-! ## Claims (R223) -/

theorem bits_above_claims (v : Word) : (bits v 24 40 != 0) = decide (2 ^ 24 ≤ v.toNat) := by
  have hlt := v.isLt
  rw [bits, nbits, Nat.mod_eq_of_lt (by omega)]
  by_cases h : v.toNat < 2 ^ 24
  · rw [Nat.div_eq_of_lt h, decide_eq_false (Nat.not_le.mpr h)]
    rfl
  · rw [decide_eq_true (Nat.not_lt.mp h), bne_iff_ne]
    omega

theorem claimMask_eq (s : State) (y : BitVec 5) : claimMask s y =
    if 2 ^ 24 ≤ (s.getS y).toNat then .error (s.trapS 0x65 (s.getS y)) else .ok ((s.getS y).setWidth 24) := by
  simp only [claimMask, bits_above_claims, decide_eq_true_eq]

/-- The contents of the resources of a mask are undefined. -/
theorem listedRow_forgotten {w : Nat} (m : BitVec 24) (base : Nat) (l : List (Nat × BitVec w)) {j r : Nat} (hr : r < 256) :
    listedRow (l.filter (fun e => !m.getLsbD (base + e.1 / 256))) (256 * j + r) =
      if m.getLsbD (base + j) then none else listedRow l (256 * j + r) := by
  refine (listedRow_filter (fun k => !m.getLsbD (base + k / 256)) l _).trans ?_
  rw [show (256 * j + r) / 256 = j by omega]
  cases m.getLsbD (base + j) <;> rfl

theorem accVal_forget (s : State) (m : BitVec 24) (j : Nat) {r : Nat} (hr : r < 256) :
    State.accVal { s with x := s.x.forget m } j r = if m.getLsbD j then none else s.accVal j r := by
  have hrow := listedRow_forgotten m 0 s.x.acc (j := j) hr
  simp only [Nat.zero_add] at hrow
  exact hrow

theorem slotVal_forget (s : State) (m : BitVec 24) (q : Nat) {r : Nat} (hr : r < 256) :
    State.slotVal { s with x := s.x.forget m } q r = if m.getLsbD (8 + q) then none else s.slotVal q r :=
  listedRow_forgotten m 8 s.x.slot hr

theorem vget_clear {n : Nat} (p : Nat → Bool) (v : Vector (BitVec 256) n) (k j : Nat) (hj : j < n) :
    vget ((List.range k).foldl (fun v i => if p i then vset v i 0 else v) v) 0 j = if j < k ∧ p j then 0 else vget v 0 j := by
  induction k with
  | zero => simp
  | succ k ih =>
    rw [List.range_succ, List.foldl_concat]
    by_cases hjk : j = k
    · subst hjk
      cases hp : p j
      · simpa [hp] using ih
      · simp [hj]
    · rw [← if_congr (and_congr_left fun _ => show j < k ↔ j < k + 1 by omega) rfl rfl, ← ih]
      cases p k
      · rfl
      · exact vget_vset_ne _ _ _ _ _ (Ne.symm hjk)

theorem accBad_unpoison (s : State) (m : BitVec 24) {j : Nat} (hj : j < 8) (r : Nat) :
    State.accBad { s with x := s.x.unpoison m } j r = if m.getLsbD j then false else s.accBad j r := by
  unfold State.accBad
  refine (congrArg (rowPoison · r) (vget_clear (fun i => m.getLsbD i) s.x.accPoison 8 j hj)).trans ?_
  cases m.getLsbD j <;> simp [hj, rowPoison]

theorem slotBad_unpoison (s : State) (m : BitVec 24) {q : Nat} (hq : q < 16) (r : Nat) :
    State.slotBad { s with x := s.x.unpoison m } q r = if m.getLsbD (8 + q) then false else s.slotBad q r := by
  unfold State.slotBad
  refine (congrArg (rowPoison · r) (vget_clear (fun i => m.getLsbD (8 + i)) s.x.slotPoison 16 q hq)).trans ?_
  cases m.getLsbD (8 + q) <;> simp [hq, rowPoison]

/-- The rows of the resources of a mask. -/
abbrev accsOf (m : BitVec 24) : Nat → Nat → Prop := fun j _ => m.getLsbD j = true
abbrev slotsOf (m : BitVec 24) : Nat → Nat → Prop := fun q _ => m.getLsbD (8 + q) = true

theorem rowsWritten_forget (s : State) (m : BitVec 24) : RowsWritten (accsOf m) (slotsOf m) s { s with x := s.x.forget m } where
  accs j r _ hr hj := ⟨(accVal_forget s m j hr).trans (if_neg hj), rfl⟩
  slots q r _ hr hq := ⟨(slotVal_forget s m q hr).trans (if_neg hq), rfl⟩
  accDirty j hj hm := by
    rw [Ctx.forget, BitVec.getLsbD_and, BitVec.getLsbD_not, Bool.eq_false_iff.mpr (hm 0)]
    simp [show j < 24 by omega]
  slotDirty q hq hm := by
    rw [Ctx.forget, BitVec.getLsbD_and, BitVec.getLsbD_not, Bool.eq_false_iff.mpr (hm 0)]
    simp [show 8 + q < 24 by omega]
  rest := rfl

theorem rowsWritten_unpoison (s : State) (m : BitVec 24) : RowsWritten (accsOf m) (slotsOf m) s { s with x := s.x.unpoison m } where
  accs _ r hj _ hm := ⟨rfl, (accBad_unpoison s m hj r).trans (if_neg hm)⟩
  slots _ r hq _ hm := ⟨rfl, (slotBad_unpoison s m hq r).trans (if_neg hm)⟩
  accDirty _ _ _ := rfl
  slotDirty _ _ _ := rfl
  rest := rfl

/-- `s` with other claims. -/
def State.claiming (s : State) (c : BitVec 24) : State := { s with x := { s.x with claim := c } }

theorem exec_mclaim (h : s.Array accs slots) {a : BitVec 5} (hsmall : (s.getS a).toNat < 2 ^ 24) :
    let fresh := (s.getS a).setWidth 24 &&& ~~~s.x.claim
    exec (.mclaim a) s = .next (State.advance { s with x := { (s.x.forget fresh).unpoison fresh with claim := s.x.claim ||| fresh } }) := by
  intro fresh
  refine (finish_array h _ _).trans ?_
  rw [claimMask_eq, if_neg (Nat.not_le.mpr hsmall)]
  rfl

theorem exec_mrel (h : s.Array accs slots) {a : BitVec 5} (hsmall : (s.getS a).toNat < 2 ^ 24) :
    let c := (s.getS a).setWidth 24
    exec (.mrel a) s = .next (State.advance { s with x := { s.x.forget (c &&& s.x.claim) with claim := s.x.claim &&& ~~~c } }) := by
  intro c
  refine (finish_array h _ _).trans ?_
  rw [claimMask_eq, if_neg (Nat.not_le.mpr hsmall)]
  rfl

end

theorem matrixShapeAndClaims : Sys2Proof.Parts.MatrixShapeAndClaims := by
  intro s d a h v c fresh gone
  refine ⟨fun hbad => (exec_mshape h d a).trans (if_neg (by simp [v, hbad])), fun hlegal => ?_, fun hbig => ⟨?_, ?_⟩, fun hsmall => ⟨?_, ?_⟩⟩
  · have hwrote := wrote_result { s with x := { s.x with shape := v } } d s.x.shape
    refine ⟨_, (exec_mshape h d a).trans (if_pos hlegal), ⟨hwrote.dest, hwrote.others⟩, ?_⟩
    rw [State.result, setS_frame]
    rfl
  · exact finish_array_of_error h ((claimMask_eq s a).trans (if_pos hbig)) _ _
  · exact finish_array_of_error h ((claimMask_eq s a).trans (if_pos hbig)) _ _
  · have hclaim : s.x.claim ||| fresh = s.x.claim ||| c := by
      refine BitVec.eq_of_getLsbD_eq fun i hi => ?_
      simp only [fresh, BitVec.getLsbD_or, BitVec.getLsbD_and, BitVec.getLsbD_not]
      cases s.x.claim.getLsbD i <;> simp [hi]
    have hrows := (rowsWritten_forget (s.claiming (s.x.claim ||| fresh)) fresh).trans (rowsWritten_unpoison _ fresh)
    refine ⟨_, exec_mclaim h hsmall, hclaim, rfl, rfl, fun j r hj hr hf => ⟨?_, ?_⟩, fun q r hq hr hf => ⟨?_, ?_⟩, hrows.arrayed⟩
    · exact (accBad_unpoison _ fresh hj r).trans (if_pos hf)
    · exact (accVal_forget s fresh j hr).trans (if_pos hf)
    · exact (slotBad_unpoison _ fresh hq r).trans (if_pos hf)
    · exact (slotVal_forget s fresh q hr).trans (if_pos hf)
  · have hrows := rowsWritten_forget (s.claiming (s.x.claim &&& ~~~c)) gone
    refine ⟨_, exec_mrel h hsmall, rfl, rfl, rfl, fun j r _ hr hf => ?_, fun q r _ hr hf => ?_, hrows.arrayed⟩
    · exact (accVal_forget s gone j hr).trans (if_pos hf)
    · exact (slotVal_forget s gone q hr).trans (if_pos hf)

/-! ## Cells of a row (R210) -/

theorem cellOf_lt (row n : Nat) : cellOf row n < 2 ^ 32 := Nat.mod_lt _ (by positivity)

/-- The cells of a row are those of the bits that it has. -/
theorem cellOf_ofNat {w n : Nat} (v : Nat) (h : 32 * n + 32 ≤ w) : cellOf (BitVec.ofNat w v).toNat n = cellOf v n := by
  refine Nat.eq_of_testBit_eq fun p => ?_
  rw [cellOf, cellOf, testBit_nbits, testBit_nbits, BitVec.toNat_ofNat, Nat.testBit_mod_two_pow]
  by_cases hp : p < 32
  · simp [hp, show 32 * n + p < w by omega]
  · simp [hp]

theorem cellOf_putField_low (g v : Nat) {n w : Nat} (h : 32 * n + 32 ≤ w) : cellOf (putField g 0 w v) n = cellOf v n := by
  refine Nat.eq_of_testBit_eq fun p => ?_
  rw [cellOf, cellOf, testBit_nbits, testBit_nbits, testBit_putField]
  by_cases hp : p < 32
  · rw [if_pos (by omega), Nat.sub_zero]
  · simp [hp]

theorem cellOf_putField_high (g v : Nat) {n w : Nat} (h : w ≤ 32 * n) : cellOf (putField g 0 w v) n = cellOf g n := by
  refine Nat.eq_of_testBit_eq fun p => ?_
  rw [cellOf, cellOf, testBit_nbits, testBit_nbits, testBit_putField, if_neg (by omega)]

theorem cellOf_putCells (row N : Nat) (f : Nat → Nat) (n : Nat) :
    cellOf (putCells row ((List.range N).map f)) n = if n < N then f n % 2 ^ 32 else cellOf row n := by
  have hlists := lists_zip_range ((List.range N).map f)
  refine (element_putAll hlists row 32 n).trans ?_
  by_cases hn : n < N
  · simp [hn]
  · simp [hn, cellOf]

/-! ## MROWV (R232) -/

section
variable {s : State} {accs slots : List Nat}

theorem rowIndex_eq (s : State) (z : BitVec 5) :
    rowIndex s z = if 255 < (s.getS z).toNat then .error (s.trapS 0x66 (s.getS z)) else .ok (s.getS z).toNat := rfl

theorem exec_mrowvToVector_of_beyond {y z : BitVec 5} (h : s.Array [y.toNat] []) (hr : 255 < (s.getS z).toNat) (d : BitVec 5) :
    exec (.mrowvToVector d y z) s = .next (s.trapS 0x66 (s.getS z)) :=
  (finish_claimed h _ _).trans (finish_bind_of_error ((rowIndex_eq s z).trans (if_pos hr)) _)

theorem exec_mrowvToAccumulator_of_beyond {x z : BitVec 5} (h : s.Array [x.toNat] []) (hr : 255 < (s.getS z).toNat) (d : BitVec 5) :
    exec (.mrowvToAccumulator x d z) s = .next (s.trapS 0x66 (s.getS z)) :=
  (finish_claimed h _ _).trans (finish_bind_of_error ((rowIndex_eq s z).trans (if_pos hr)) _)

theorem exec_mrowvToVector_of_poisoned {y z : BitVec 5} (h : s.Array [y.toNat] []) (hr : (s.getS z).toNat ≤ 255)
    (hbad : s.accBad y.toNat (s.getS z).toNat = true) (d : BitVec 5) :
    exec (.mrowvToVector d y z) s = .next (s.trapA 0xC0 1 (s.getS z)) := by
  refine (finish_claimed h _ _).trans ?_
  rw [rowIndex_eq, if_neg (Nat.not_lt.mpr hr)]
  refine (finish_check _ _ _).trans (if_neg ?_)
  rw [hbad]
  exact Bool.false_ne_true

/-- The low half of a vector register replaced by a row. -/
def State.rowToVector (s : State) (d : BitVec 5) (row : Nat) : State :=
  { s with x := { s.x with
      vreg := vset s.x.vreg d.toNat (BitVec.ofNat 16384 (putField (vget s.x.vreg 0 d.toNat).toNat 0 8192 row)) } }

theorem exec_mrowvToVector {y z : BitVec 5} (h : s.Array [y.toNat] []) (hr : (s.getS z).toNat ≤ 255)
    (hbad : s.accBad y.toNat (s.getS z).toNat = false) {v : Nat} (hv : s.accVal y.toNat (s.getS z).toNat = some v) (d : BitVec 5) :
    exec (.mrowvToVector d y z) s = .next (s.rowToVector d v).advance := by
  refine (finish_claimed h _ _).trans ?_
  rw [rowIndex_eq, if_neg (Nat.not_lt.mpr hr)]
  refine (finish_check _ _ _).trans ((if_pos (by rw [hbad]; rfl)).trans ?_)
  rw [accRow_of_accVal hv]
  rfl

theorem vget_rowToVector_same (s : State) (d : BitVec 5) (row : Nat) : vget (s.rowToVector d row).x.vreg 0 d.toNat =
    BitVec.ofNat 16384 (putField (vget s.x.vreg 0 d.toNat).toNat 0 8192 row) := vget_vset_same _ _ _ _ d.isLt

theorem exec_mrowvToAccumulator {x z : BitVec 5} (h : s.Array [x.toNat] []) (hr : (s.getS z).toNat ≤ 255) (d : BitVec 5) :
    exec (.mrowvToAccumulator x d z) s =
      .next (s.putAcc x.toNat (s.getS z).toNat ((vget s.x.vreg 0 d.toNat).toNat % 2 ^ 8192) false).advance := by
  refine (finish_claimed h _ _).trans ?_
  rw [rowIndex_eq, if_neg (Nat.not_lt.mpr hr)]
  rfl

/-! ## MWAIT (R235) -/

/-- The sum of powers of two from 2^k up, one for each index that `p` picks, above a smaller number. -/
def bitSum (p : Nat → Bool) (k a n : Nat) : Nat := (List.range n).foldl (fun m j => m + b2n (p j) (2 ^ (k + j))) a

theorem bitSum_succ (p : Nat → Bool) (k a n : Nat) : bitSum p k a (n + 1) = 2 ^ (k + n) * (p n).toNat + bitSum p k a n := by
  unfold bitSum
  rw [List.range_succ, List.foldl_concat, Nat.add_comm]
  cases p n <;> simp [b2n]

theorem bitSum_lt (p : Nat → Bool) {k a : Nat} (ha : a < 2 ^ k) (n : Nat) : bitSum p k a n < 2 ^ (k + n) := by
  induction n with
  | zero => exact ha
  | succ n ih =>
    rw [bitSum_succ, ← Nat.add_assoc, Nat.pow_succ]
    have : 2 ^ (k + n) * (p n).toNat ≤ 2 ^ (k + n) * 1 := Nat.mul_le_mul_left _ (p n).toNat_le
    omega

theorem testBit_bitSum (p : Nat → Bool) {k a : Nat} (ha : a < 2 ^ k) (n i : Nat) :
    (bitSum p k a n).testBit i = if i < k then a.testBit i else decide (i < k + n) && p (i - k) := by
  induction n with
  | zero =>
    refine (ite_eq_left_iff.mpr fun hi => ?_).symm
    simp [bitSum, hi, Nat.testBit_lt_two_pow (ha.trans_le (Nat.pow_le_pow_right (by decide) (Nat.not_lt.mp hi)))]
  | succ n ih =>
    rw [bitSum_succ, Nat.testBit_two_pow_mul_add _ (bitSum_lt p ha n), ih, Nat.testBit_bool_toNat]
    by_cases hlow : i < k
    · simp [hlow, show i < k + n by omega]
    · obtain hi | rfl | hi := Nat.lt_trichotomy i (k + n)
      · simp [hlow, hi, show i < k + (n + 1) by omega]
      · simp
      · simp [hlow, show ¬ i < k + n by omega, show ¬ i < k + (n + 1) by omega, show i - (k + n) ≠ 0 by omega]

theorem foldl_add_start (f : Nat → Nat) (l : List Nat) (a b : Nat) :
    l.foldl (fun m j => m + f j) (a + b) = a + l.foldl (fun m j => m + f j) b := by
  induction l generalizing b with
  | nil => rfl
  | cons j l ih => rw [List.foldl_cons, Nat.add_assoc, ih, List.foldl_cons]

theorem poisoned_iff (v : BitVec 256) : (v != 0) = true ↔ ∃ m, m < 256 ∧ rowPoison v m = true := by
  rw [bne_iff_ne]
  constructor
  · intro h
    by_contra hnone
    push Not at hnone
    exact h (BitVec.eq_of_getLsbD_eq fun i hi => by simpa [rowPoison] using hnone i hi)
  · rintro ⟨m, -, hm⟩ rfl
    simp [rowPoison] at hm

/-- The resources of an array that hold a poisoned row, one bit for each (R235). -/
def State.poisonMap (s : State) : Nat :=
  (List.range 8).foldl (fun n j => n + b2n (vget s.x.accPoison 0 j != 0) (2 ^ j)) 0 +
    (List.range 16).foldl (fun n q => n + b2n (vget s.x.slotPoison 0 q != 0) (2 ^ (8 + q))) 0

theorem poisonMap_eq (s : State) : s.poisonMap =
    bitSum (fun q => vget s.x.slotPoison 0 q != 0) 8 (bitSum (fun j => vget s.x.accPoison 0 j != 0) 0 0 8) 16 := by
  unfold State.poisonMap bitSum
  rw [← foldl_add_start, Nat.add_zero]
  simp only [Nat.zero_add]

theorem testBit_poisonMap (s : State) (i : Nat) : s.poisonMap.testBit i =
    if i < 8 then vget s.x.accPoison 0 i != 0 else decide (i < 24) && (vget s.x.slotPoison 0 (i - 8) != 0) := by
  rw [poisonMap_eq, testBit_bitSum _ (bitSum_lt _ (by decide) 8), testBit_bitSum _ (by decide)]
  refine ite_congr rfl (fun hi => ?_) fun _ => rfl
  simp [hi]

theorem exec_mwait (h : s.Array accs slots) (hqueue : s.st.mqueue = []) (d : BitVec 5) :
    exec (.mwait d) s = .next (s.result d (BitVec.ofNat 64 (s.poisonMap &&& s.x.claim.toNat))) := by
  refine (finish_array h _ _).trans ((finish_check _ _ _).trans (if_pos ?_))
  rw [hqueue]
  rfl

/-- The value of MWAIT has the bit of a resource that is claimed and holds a poisoned row. -/
theorem getLsbD_poisonMap (s : State) {i : Nat} (hi : i < 64) :
    (BitVec.ofNat 64 (s.poisonMap &&& s.x.claim.toNat)).getLsbD i = (s.poisonMap.testBit i && s.x.claim.getLsbD i) := by
  rw [BitVec.getLsbD_ofNat, decide_eq_true hi, Bool.true_and, Nat.testBit_and]
  rfl

end

theorem matrixRowsAndWait : Sys2Proof.Parts.MatrixRowsAndWait := by
  intro s x y z d hx hy r
  refine ⟨fun h => ⟨fun hr => exec_mrowvToVector_of_beyond h hr d, fun hr hbad => exec_mrowvToVector_of_poisoned h hr hbad d,
    fun v hr hbad hv => ?_⟩, fun h => ⟨fun hr => exec_mrowvToAccumulator_of_beyond h hr d, fun hr => ?_⟩, fun h hqueue => ?_⟩
  · refine ⟨_, exec_mrowvToVector h hr hbad hv d, fun n hn => ?_, fun n hlo hhi => ?_, fun j hj => vget_vset_ne _ _ _ _ _ (Ne.symm hj), rfl⟩
    all_goals
      refine (congrArg (fun v : BitVec 16384 => cellOf v.toNat n) (vget_rowToVector_same s d v)).trans ((cellOf_ofNat _ (by omega)).trans ?_)
    · exact cellOf_putField_low _ _ (by omega)
    · exact cellOf_putField_high _ _ (by omega)
  · refine ⟨_, exec_mrowvToAccumulator h hr d, rfl, (RowsWritten.putAcc ⟨rfl, rfl⟩ hx (by omega) s _ false).arrayed, ?_⟩
    have hrow := accRow_putAcc s ((vget s.x.vreg 0 d.toNat).toNat % 2 ^ 8192) false hx (show r < 256 by omega)
    rw [Nat.mod_mod] at hrow
    exact hrow
  · refine ⟨_, _, exec_mwait h hqueue d, wrote_result s d _, fun j hj => ?_, fun q hq => ?_, fun i hi => ?_⟩
    · rw [getLsbD_poisonMap s (by omega), testBit_poisonMap, if_pos hj, Bool.and_eq_true, poisoned_iff, and_comm]
      rfl
    · rw [getLsbD_poisonMap s (by omega), testBit_poisonMap, if_neg (by omega), decide_eq_true (by omega), Bool.true_and,
        Nat.add_sub_cancel_left, Bool.and_eq_true, poisoned_iff, and_comm]
      rfl
    · by_cases h64 : i < 64
      · rw [getLsbD_poisonMap s h64, BitVec.getLsbD_of_ge _ _ hi, Bool.and_false]
      · exact BitVec.getLsbD_of_ge _ _ (Nat.not_lt.mp h64)

end Sys2Proof.Machine

/-! Element operations and renormalisation of accumulators, MZERO and MCLR (09 R229, R230, R236). -/

namespace Sys2Proof.Machine

/-- The bounds of a legal shape (R215). -/
theorem shape_bounds {v : Word} (h : shapeLegal v = true) : 32 ≤ shapeM v ∧ shapeM v ≤ 256 ∧ 32 ≤ shapeN v ∧ shapeN v ≤ 256 := by
  simp only [shapeLegal, Bool.and_eq_true, decide_eq_true_eq] at h
  tauto

section
variable {s t u : State} {j m N : Nat} {bad : Bool} {f : Nat → Nat}

theorem accCells_of_same (h : s.AccCells t j m N bad f) (hval : u.accVal j m = t.accVal j m) (hbad : u.accBad j m = t.accBad j m) :
    s.AccCells u j m N bad f := by
  unfold State.AccCells
  rw [hval, hbad]
  exact h

theorem accRow_of_same {r v : Nat} (h : t.AccRow j r bad v) (hval : u.accVal j r = t.accVal j r) (hbad : u.accBad j r = t.accBad j r) :
    u.AccRow j r bad v := by
  unfold State.AccRow
  rw [hval, hbad]
  exact h

theorem accCells_of_sameRow (h : s.AccCells t j m N bad f) (hj : j < 8) (hrow : SameRow m t u) : s.AccCells u j m N bad f :=
  accCells_of_same h (hrow.accVal j hj) (hrow.accBad j hj)

/-- The first cells of a row written over what it held. -/
theorem accCells_putAcc (hj : j < 8) (hm : m < 256) (hN : N ≤ 256) {old : Nat} (hold : ∀ o, s.accVal j m = some o → old = o)
    {g : Nat → Nat} (hg : bad = false → ∀ n, n < N → g n = f n) :
    s.AccCells (u.putAcc j m (putCells old ((List.range N).map g)) bad) j m N bad f := by
  obtain ⟨hbad, hval⟩ := accRow_putAcc u (putCells old ((List.range N).map g)) bad hj hm
  refine ⟨hbad, fun hb => by rw [hval, hb]; rfl, fun hb => ⟨_, by rw [hval, hb]; rfl, fun n hn => ?_, fun o ho n hlo hhi => ?_⟩⟩
  all_goals
    rw [← BitVec.toNat_ofNat, cellOf_ofNat _ (by omega), cellOf_putCells]
  · rw [if_pos hn, hg hb n hn]
  · rw [if_neg (Nat.not_lt.mpr hlo), hold o ho]

end

/-! ## MEW and MPWL (R230) -/

/-- Row m of State.mapCells. -/
def State.mapRow (s : State) (x y N : Nat) (f : Nat → Nat → Nat) (m : Nat) : State :=
  let (s, src) := s.accRow y m
  let (s, old) := if x = y then (s, src) else s.accRow x m
  s.putAcc x m (putCells old ((List.range N).map (fun n => f n (cellOf src n)))) (s.accBad y m)

theorem mapCells_eq (s : State) (x y : Nat) (f : Nat → Nat → Nat) :
    s.mapCells x y f = (List.range (shapeM s.x.shape)).foldl (fun u m => u.mapRow x y (shapeN s.x.shape) f m) s := rfl

theorem mapRow_puts (s : State) (x y N : Nat) (f : Nat → Nat → Nat) (m : Nat) :
    ∃ n old src, s.mapRow x y N f m =
        State.putAcc { s with undef := n } x m (putCells old ((List.range N).map (fun n => f n (cellOf src n)))) (s.accBad y m) ∧
      (∀ w, s.accVal y m = some w → src = w) ∧ ∀ w, s.accVal x m = some w → old = w := by
  obtain ⟨n, src, hsrc, hsrcVal⟩ := accRow_reads s y m
  by_cases hxy : x = y
  · subst hxy
    exact ⟨n, src, src, by rw [State.mapRow, hsrc]; simp only [if_true]; rfl, hsrcVal, hsrcVal⟩
  · obtain ⟨k, old, hold, holdVal⟩ := accRow_reads { s with undef := n } x m
    exact ⟨k, old, src, by rw [State.mapRow, hsrc]; simp only [if_neg hxy, hold]; rfl, hsrcVal, holdVal⟩

theorem mapCells_rows {s : State} {x y : Nat} (hx : x < 8) (hy : y < 8) (hlegal : shapeLegal s.x.shape = true) {c : Nat → Nat}
    (hc : ∀ m, m < shapeM s.x.shape → s.accBad y m = false → s.accVal y m = some (c m)) (f : Nat → Nat → Nat) :
    RowsWritten (fun j m => j = x ∧ m < shapeM s.x.shape) (fun _ _ => False) s (s.mapCells x y f) ∧
      ∀ m, m < shapeM s.x.shape →
        s.AccCells (s.mapCells x y f) x m (shapeN s.x.shape) (s.accBad y m) (fun n => f n (cellOf (c m) n)) := by
  obtain ⟨-, hM, -, hN⟩ := shape_bounds hlegal
  rw [mapCells_eq]
  obtain ⟨hrows, hcells⟩ := foldl_rows (J := fun j => j = x) (Q := fun _ => False)
    (f := fun u m => u.mapRow x y (shapeN s.x.shape) f m) (l := List.range (shapeM s.x.shape))
    (Done := fun m t => s.AccCells t x m (shapeN s.x.shape) (s.accBad y m) (fun n => f n (cellOf (c m) n))) s
    (fun m hm => (List.mem_range.mp hm).trans_le hM) List.nodup_range
    (fun u m hm hrow => by
      have hm := List.mem_range.mp hm
      obtain ⟨n, old, src, hput, hsrc, hold⟩ := mapRow_puts u x y (shapeN s.x.shape) f m
      rw [hput, hrow.accBad y hy]
      refine ⟨(RowsWritten.of_undef u n).trans (.putAcc ⟨rfl, rfl⟩ hx (by omega) _ _ _), accCells_putAcc hx (by omega) hN
        (fun o ho => hold o ((hrow.accVal x hx).trans ho)) fun hbad i _ => ?_⟩
      rw [hsrc (c m) ((hrow.accVal y hy).trans (hc m hm hbad))])
    (fun m _ t u hrow hcells => accCells_of_sameRow hcells hx hrow)
  exact ⟨hrows.mono (fun j m h => ⟨h.1, List.mem_range.mp h.2⟩) fun q m h => h.1, fun m hm => hcells m (List.mem_range.mpr hm)⟩

theorem finish_elementwise {s : State} {x y : BitVec 5} (h : s.Array [x.toNat, y.toNat] []) (hlegal : shapeLegal s.x.shape = true)
    (i : Instr) (f : Nat → Nat → Nat) :
    finish (gate i matrixNeed s >>= fun _ => claimCheck s [x.toNat, y.toNat] [] >>= fun _ => shapeCheck s >>= fun _ =>
      .ok (s.mapCells x.toNat y.toNat f).advance) = .next (s.mapCells x.toNat y.toNat f).advance := by
  refine (finish_claimed h _ _).trans ?_
  rw [shapeCheck_of_legal hlegal]
  rfl

/-- The operation of MEW (R230). -/
def mewOp (o : BitVec 2) (u w : XVal) : XVal :=
  if o = 0 then XVal.add false u w else if o = 1 then XVal.mul u w else if o = 2 then XVal.maxOf u w else XVal.minOf u w

theorem exec_mew {s : State} {x y : BitVec 5} (h : s.Array [x.toNat, y.toNat] []) (hlegal : shapeLegal s.x.shape = true)
    (z : BitVec 5) (o : BitVec 2) : exec (.mew x y z o) s = .next (s.mapCells x.toNat y.toNat (fun n c =>
      roundTo 9 0 false false (mewOp o (readFloat 9 c) (readFloat 9 (cellOf (vget s.x.vreg 0 z.toNat).toNat n))))).advance :=
  finish_elementwise h hlegal _ _

theorem exec_mpwl {s : State} {x y : BitVec 5} (h : s.Array [x.toNat, y.toNat] []) (hlegal : shapeLegal s.x.shape = true)
    (z : BitVec 5) : exec (.mpwl x y z) s =
      .next (s.mapCells x.toNat y.toNat (fun _ c => curveEval (vget s.st.tables 0 z.toNat) (readFloat 9 c))).advance :=
  finish_elementwise h hlegal _ _

/-- What an element operation that maps each cell does to the cells of row m. -/
theorem elementwise_leaves {s : State} {x y : BitVec 5} {c : Nat → Nat} (hx : x.toNat < 8) (hy : y.toNat < 8)
    (hlegal : shapeLegal s.x.shape = true)
    (hc : ∀ m, m < shapeM s.x.shape → s.accBad y.toNat m = false → s.accVal y.toNat m = some (c m))
    (p : Instr × (Nat → Nat → Nat)) {f : Nat → Nat → Nat} (hp : exec p.1 s = .next (s.mapCells x.toNat y.toNat f).advance)
    (hf : ∀ m n, f n (cellOf (c m) n) = p.2 m n) :
    ∃ t, exec p.1 s = .next t ∧ s.Arrayed t (fun j m => j = x.toNat ∧ m < shapeM s.x.shape) (fun _ _ => False) ∧ t.x.vbeg = s.x.vbeg ∧
      ∀ m, m < shapeM s.x.shape → s.AccCells t x.toNat m (shapeN s.x.shape) (s.accBad y.toNat m) (p.2 m) := by
  obtain ⟨hrows, hcells⟩ := mapCells_rows hx hy hlegal hc f
  simp only [hf] at hcells
  exact ⟨_, hp, hrows.arrayed, hrows.vbeg, hcells⟩

/-! ## MRNORM (R229, R153) -/

/-- Row m of a pair renormalised. -/
def State.normRow (s : State) (j N m : Nat) : State :=
  let (s, hi) := s.accRow j m
  let (s, lo) := s.accRow (j + 1) m
  let ps := (List.range N).map (fun n => pairSplit (XVal.add false (readFloat 9 (cellOf hi n)) (readFloat 9 (cellOf lo n))))
  let bad := s.accBad j m || s.accBad (j + 1) m
  (s.putAcc j m (putCells hi (ps.map (·.1))) bad).putAcc (j + 1) m (putCells lo (ps.map (·.2))) bad

/-- A cell of a renormalised pair. -/
def normCell (hi lo n : Nat) : Nat × Nat := pairSplit (XVal.add false (readFloat 9 (cellOf hi n)) (readFloat 9 (cellOf lo n)))

theorem exec_mrnorm {s : State} {x : BitVec 5} (h : s.Array [x.toNat, x.toNat + 1] []) (hlegal : shapeLegal s.x.shape = true) :
    exec (.mrnorm x) s = .next ((List.range (shapeM s.x.shape)).foldl (fun u m => u.normRow x.toNat (shapeN s.x.shape) m) s).advance := by
  refine (finish_claimed h _ _).trans ?_
  rw [shapeCheck_of_legal hlegal]
  rfl

theorem normRow_puts (s : State) (j N m : Nat) :
    ∃ n hi lo, s.normRow j N m =
        (State.putAcc { s with undef := n } j m (putCells hi ((List.range N).map fun n => (normCell hi lo n).1))
          (s.accBad j m || s.accBad (j + 1) m)).putAcc (j + 1) m (putCells lo ((List.range N).map fun n => (normCell hi lo n).2))
            (s.accBad j m || s.accBad (j + 1) m) ∧
      (∀ w, s.accVal j m = some w → hi = w) ∧ ∀ w, s.accVal (j + 1) m = some w → lo = w := by
  obtain ⟨n, hi, hhi, hhiVal⟩ := accRow_reads s j m
  obtain ⟨k, lo, hlo, hloVal⟩ := accRow_reads { s with undef := n } (j + 1) m
  refine ⟨k, hi, lo, ?_, hhiVal, hloVal⟩
  rw [State.normRow, hhi]
  simp only [hlo, List.map_map]
  rfl

/-- The first cells of a row of each of two accumulators written. -/
theorem accCells_putPair {s u : State} {j m N : Nat} {badHi badLo : Bool} {f g f' g' : Nat → Nat} (hj : j + 1 < 8) (hm : m < 256)
    (hN : N ≤ 256) {hi lo : Nat} (hhi : ∀ o, s.accVal j m = some o → hi = o) (hlo : ∀ o, s.accVal (j + 1) m = some o → lo = o)
    (hf : badHi = false → ∀ n, n < N → f' n = f n) (hg : badLo = false → ∀ n, n < N → g' n = g n) :
    let t := (u.putAcc j m (putCells hi ((List.range N).map f')) badHi).putAcc (j + 1) m (putCells lo ((List.range N).map g')) badLo
    RowsWritten (fun i r => (i = j ∨ i = j + 1) ∧ r = m) (fun _ _ => False) u t ∧
      s.AccCells t j m N badHi f ∧ s.AccCells t (j + 1) m N badLo g := by
  have hne : ¬ (j = j + 1 ∧ m = m) := by omega
  refine ⟨(RowsWritten.putAcc ⟨.inl rfl, rfl⟩ (by omega) hm u _ _).trans (.putAcc ⟨.inr rfl, rfl⟩ hj hm _ _ _), ?_,
    accCells_putAcc hj hm hN hlo hg⟩
  exact accCells_of_same (accCells_putAcc (by omega) hm hN hhi hf) ((accVal_putAcc _ _ _ hm hm).trans (if_neg hne))
    ((accBad_putAcc _ _ _ hj hm).trans (if_neg hne))

theorem normRows {s : State} {j : Nat} (hj : j + 1 < 8) (hlegal : shapeLegal s.x.shape = true) {c lo : Nat → Nat}
    (hc : ∀ m, m < shapeM s.x.shape → s.accBad j m = false → s.accVal j m = some (c m))
    (hlo : ∀ m, m < shapeM s.x.shape → s.accBad (j + 1) m = false → s.accVal (j + 1) m = some (lo m)) :
    let t := (List.range (shapeM s.x.shape)).foldl (fun u m => u.normRow j (shapeN s.x.shape) m) s
    RowsWritten (fun i m => (i = j ∨ i = j + 1) ∧ m < shapeM s.x.shape) (fun _ _ => False) s t ∧
      ∀ m, m < shapeM s.x.shape →
        s.AccCells t j m (shapeN s.x.shape) (s.accBad j m || s.accBad (j + 1) m) (fun n => (normCell (c m) (lo m) n).1) ∧
        s.AccCells t (j + 1) m (shapeN s.x.shape) (s.accBad j m || s.accBad (j + 1) m) (fun n => (normCell (c m) (lo m) n).2) := by
  obtain ⟨-, hM, -, hN⟩ := shape_bounds hlegal
  obtain ⟨hrows, hcells⟩ := foldl_rows (J := fun i => i = j ∨ i = j + 1) (Q := fun _ => False)
    (f := fun u m => u.normRow j (shapeN s.x.shape) m) (l := List.range (shapeM s.x.shape))
    (Done := fun m t =>
      s.AccCells t j m (shapeN s.x.shape) (s.accBad j m || s.accBad (j + 1) m) (fun n => (normCell (c m) (lo m) n).1) ∧
      s.AccCells t (j + 1) m (shapeN s.x.shape) (s.accBad j m || s.accBad (j + 1) m) (fun n => (normCell (c m) (lo m) n).2)) s
    (fun m hm => (List.mem_range.mp hm).trans_le hM) List.nodup_range
    (fun u m hm hrow => by
      have hm := List.mem_range.mp hm
      have hj' : j < 8 := by omega
      obtain ⟨n, hi, lo', hput, hhi, hlow⟩ := normRow_puts u j (shapeN s.x.shape) m
      rw [hput, hrow.accBad j hj', hrow.accBad (j + 1) hj]
      have hvals : (s.accBad j m || s.accBad (j + 1) m) = false → ∀ n, normCell hi lo' n = normCell (c m) (lo m) n := fun hbad n => by
        obtain ⟨hbadHi, hbadLo⟩ := Bool.or_eq_false_iff.mp hbad
        rw [hhi (c m) ((hrow.accVal j hj').trans (hc m hm hbadHi)), hlow (lo m) ((hrow.accVal (j + 1) hj).trans (hlo m hm hbadLo))]
      obtain ⟨hwritten, hcells⟩ := accCells_putPair (u := { u with undef := n }) hj (show m < 256 by omega) hN
        (fun o ho => hhi o ((hrow.accVal j hj').trans ho)) (fun o ho => hlow o ((hrow.accVal (j + 1) hj).trans ho))
        (fun hbad n _ => congrArg Prod.fst (hvals hbad n)) (fun hbad n _ => congrArg Prod.snd (hvals hbad n))
      exact ⟨(RowsWritten.of_undef u n).trans (hwritten.mono (fun _ _ h => h) fun _ _ h => h.elim), hcells⟩)
    (fun m _ t u hrow hcells => ⟨accCells_of_sameRow hcells.1 (by omega) hrow, accCells_of_sameRow hcells.2 hj hrow⟩)
  exact ⟨hrows.mono (fun j m h => ⟨h.1, List.mem_range.mp h.2⟩) fun q m h => h.1, fun m hm => hcells m (List.mem_range.mpr hm)⟩

/-! ## MZERO and MCLR (R229) -/

/-- The listed rows of an accumulator that k picks cleared. -/
def State.clearing (s : State) (j : Nat) (k : BitVec 2048) (l : List Nat) : State :=
  l.foldl (fun u r => if k.getLsbD r then u.putAcc j r 0 false else u) s

theorem clearRows_eq (s : State) (j : Nat) (k : BitVec 2048) : s.clearRows j k =
    { s.clearing j k (List.range 256) with
      x := { (s.clearing j k (List.range 256)).x with dirty := (s.clearing j k (List.range 256)).x.dirty ||| ((1#24) <<< j) } } := rfl

/-- Row r of accumulator j is +0 and not poisoned where `k` picks it, and what it was where not. -/
def ClearedRow (k : BitVec 2048) (s : State) (j r : Nat) (t : State) : Prop :=
  if k.getLsbD r then t.AccRow j r false 0 else t.accVal j r = s.accVal j r ∧ t.accBad j r = s.accBad j r

theorem clearing_rows {s : State} {j : Nat} (hj : j < 8) (k : BitVec 2048) {l : List Nat} (hl : l.Nodup) (hlt : ∀ r ∈ l, r < 256) :
    RowsWritten (fun i _ => i = j) (fun _ _ => False) s (s.clearing j k l) ∧ ∀ r ∈ l, ClearedRow k s j r (s.clearing j k l) := by
  obtain ⟨hrows, hdone⟩ := foldl_rows (J := fun i => i = j) (Q := fun _ => False)
    (f := fun u r => if k.getLsbD r then u.putAcc j r 0 false else u) (l := l) (Done := fun r t => ClearedRow k s j r t) s hlt hl
    (fun u r hr hrow => by
      cases hk : k.getLsbD r with
      | true =>
        have hzero := accRow_putAcc u 0 false hj (hlt r hr)
        rw [Nat.zero_mod] at hzero
        exact ⟨.putAcc ⟨rfl, rfl⟩ hj (hlt r hr) u 0 false, by rw [ClearedRow, hk, if_pos rfl]; exact hzero⟩
      | false => exact ⟨.refl u, by rw [ClearedRow, hk, if_neg Bool.false_ne_true]; exact ⟨hrow.accVal j hj, hrow.accBad j hj⟩⟩)
    (fun r _ t u hrow hdone => by
      rw [ClearedRow, State.AccRow, hrow.accVal j hj, hrow.accBad j hj]
      exact hdone)
  exact ⟨hrows.mono (fun _ _ h => h.1) fun _ _ h => h.1, hdone⟩

theorem clearRows_rows {s : State} {j : Nat} (hj : j < 8) (k : BitVec 2048) :
    RowsWritten (fun i _ => i = j) (fun _ _ => False) s (s.clearRows j k) ∧ ∀ r, r < 256 → ClearedRow k s j r (s.clearRows j k) := by
  obtain ⟨hrows, hdone⟩ := clearing_rows (s := s) hj k List.nodup_range (fun r hr => List.mem_range.mp hr) (l := List.range 256)
  rw [clearRows_eq]
  generalize s.clearing j k (List.range 256) = u at hrows hdone ⊢
  exact ⟨hrows.trans (.of_accDirty (r := 0) hj rfl u), fun r hr => hdone r (List.mem_range.mpr hr)⟩

theorem exec_mzero {s : State} {x : BitVec 5} (h : s.Array [x.toNat] []) :
    exec (.mzero x) s = .next (s.clearRows x.toNat (~~~0)).advance := finish_claimed h _ _

theorem exec_mclr {s : State} {x : BitVec 5} (h : s.Array [x.toNat] []) (y : BitVec 5) :
    exec (.mclr x y) s = .next (s.clearRows x.toNat (s.kmask y.toNat)).advance := finish_claimed h _ _

theorem clear_leaves {s : State} {j : Nat} (hj : j < 8) {i : Instr} {k : BitVec 2048}
    (hexec : exec i s = .next (s.clearRows j k).advance) :
    ∃ t, exec i s = .next t ∧ t.x.vbeg = s.x.vbeg ∧ s.Arrayed t (fun i _ => i = j) (fun _ _ => False) ∧
      ∀ r, r < 256 → ClearedRow k s j r t := by
  obtain ⟨hrows, hcleared⟩ := clearRows_rows (s := s) hj k
  generalize s.clearRows j k = u at hexec hrows hcleared
  exact ⟨_, hexec, hrows.vbeg, hrows.arrayed, hcleared⟩

theorem matrixElementwise : Sys2Proof.Parts.MatrixElementwise := by
  intro s x y z o c lo hx hy M N v g
  refine ⟨fun h hlegal hc => ?_, fun heven h hlegal hc hlo => ?_, fun h => ?_⟩
  · have hleaves := elementwise_leaves hx hy hlegal hc
    simp only [List.forall_mem_cons]
    exact ⟨hleaves (_, _) (exec_mew h hlegal z o) fun _ _ => rfl, hleaves (_, _) (exec_mpwl h hlegal z) fun _ _ => rfl,
      List.forall_mem_nil _⟩
  · obtain ⟨hrows, hcells⟩ := normRows (show x.toNat + 1 < 8 by omega) hlegal hc hlo
    exact ⟨_, exec_mrnorm h hlegal, hrows.vbeg, hrows.arrayed, hcells⟩
  · simp only [List.forall_mem_cons]
    exact ⟨clear_leaves hx (exec_mzero h), clear_leaves hx (exec_mclr h y), List.forall_mem_nil _⟩

end Sys2Proof.Machine

/-! MMA and MSLIDE (09 R210, R211, R227, R228, R236). -/

namespace Sys2Proof.Machine

/-! ## Operands (R228) -/

theorem span_below (lo n : Nat) : (span lo (lo + n)).filter (· < 256) = (List.range (min n (256 - lo))).map (· + lo) := by
  have hsplit : List.range n = List.range (min n (256 - lo)) ++ (List.range (n - min n (256 - lo))).map (min n (256 - lo) + ·) := by
    rw [← List.range_add, Nat.add_sub_cancel' (Nat.min_le_left _ _)]
  have hin : (List.range (min n (256 - lo))).filter ((fun i => decide (i < 256)) ∘ (· + lo)) = List.range (min n (256 - lo)) :=
    List.filter_eq_self.mpr fun i hi => by
      have := List.mem_range.mp hi
      simp only [Function.comp_apply, decide_eq_true_eq]
      omega
  have hout : ((List.range (n - min n (256 - lo))).map (min n (256 - lo) + ·)).filter ((fun i => decide (i < 256)) ∘ (· + lo)) = [] :=
    List.filter_eq_nil_iff.mpr fun i hi => by
      obtain ⟨k, hk, rfl⟩ := List.mem_map.mp hi
      have := List.mem_range.mp hk
      simp only [Function.comp_apply, decide_eq_true_eq]
      omega
  rw [span, Nat.add_sub_cancel_left, List.filter_map, hsplit, List.filter_append, hin, hout, List.append_nil]

/-- Row i of an operand of format c, f and g giving the rows of its slot and of the companion: zero above 255. -/
def operandRow (c : Nat) (ftz : Bool) (t : XVal) (K : Nat) (f g : Nat → Nat) (i : Nat) : List XVal :=
  if i < 256 then rowValues c ftz t K (f i) (if isBlock c then g i else 0) else List.replicate K (.zero false)

theorem operandRows_eq (c : Nat) (ftz : Bool) (t : XVal) (K lo n : Nat) (f g : Nat → Nat) :
    let inside := (span lo (lo + n)).filter (· < 256)
    ((inside.map f).zip (inside.map fun i => if isBlock c then g i else 0)).map (fun p => rowValues c ftz t K p.1 p.2) ++
        List.replicate (n - inside.length) (List.replicate K (.zero false)) =
      (List.range n).map fun m => operandRow c ftz t K f g (m + lo) := by
  intro inside
  have hin : inside = (List.range (min n (256 - lo))).map (· + lo) := span_below lo n
  have hn : n = min n (256 - lo) + (n - min n (256 - lo)) := by omega
  conv_rhs => rw [hn, List.range_add, List.map_append]
  rw [List.zip_map', List.map_map, hin, List.map_map, List.length_map, List.length_range]
  congr 1
  · refine List.map_congr_left fun m hm => ?_
    have := List.mem_range.mp hm
    simp only [Function.comp_apply, operandRow, if_pos (show m + lo < 256 by omega)]
  · symm
    refine List.eq_replicate_iff.mpr ⟨by simp, fun v hv => ?_⟩
    simp only [List.map_map, List.mem_map, List.mem_range, Function.comp_apply] at hv
    obtain ⟨m, hm, rfl⟩ := hv
    exact if_neg (by omega)

theorem operand_reads (s : State) (q c : Nat) (ftz : Bool) (t : XVal) (K lo n : Nat) :
    ∃ u f g, s.operand q c ftz t K lo n = ({ s with undef := u }, (List.range n).map fun m => operandRow c ftz t K f g (m + lo)) ∧
      ∀ m, m < n → m + lo < 256 → (∀ w, s.slotVal q (m + lo) = some w → f (m + lo) = w) ∧
        (isBlock c = true → ∀ w, s.slotVal (q + 1) (m + lo) = some w → g (m + lo) = w) := by
  have hnodup : ((span lo (lo + n)).filter (· < 256)).Nodup := by
    rw [span_below]
    exact List.nodup_range.map fun a b h => Nat.add_right_cancel h
  have hmem : ∀ m, m < n → m + lo < 256 → m + lo ∈ (span lo (lo + n)).filter (· < 256) := fun m hm hlt =>
    List.mem_filter.mpr ⟨mem_span.mpr ⟨by omega, by omega⟩, by simpa using hlt⟩
  obtain ⟨k, f, hf, hfVal⟩ := slotRows_reads s q hnodup
  cases hb : isBlock c with
  | true =>
    obtain ⟨u, g, hg, hgVal⟩ := slotRows_reads { s with undef := k } (q + 1) hnodup
    refine ⟨u, f, g, ?_, fun m hm hlt => ⟨hfVal _ (hmem m hm hlt), fun _ => hgVal _ (hmem m hm hlt)⟩⟩
    have hrows := operandRows_eq c ftz t K lo n f g
    simp only [hb, if_true] at hrows
    simp only [State.operand, hf, hb, if_true, hg, ← hrows]
  | false =>
    refine ⟨k, f, fun _ => 0, ?_, fun m hm hlt => ⟨hfVal _ (hmem m hm hlt), nofun⟩⟩
    have hrows := operandRows_eq c ftz t K lo n f fun _ => 0
    simp only [ite_self] at hrows
    simp only [State.operand, hf, hb, Bool.false_eq_true, if_false, List.map_map, Function.comp_def, ← hrows]

/-! ## Rows of the product (R228) -/

/-- What a cell starts from: 0 where the product overwrites, else what it held. -/
def startCell (ow : Bool) (row n : Nat) : Nat := if ow then 0 else cellOf row n

theorem mmaRow_puts (s : State) (x : Nat) (ow int : Bool) (G m N : Nat) (as : List XVal) (B : Nat → List XVal) (bad : Bool) :
    ∃ n old, s.mmaRow x false ow int G m as ((List.range N).map B) bad =
        State.putAcc { s with undef := n } x m
          (putCells old ((List.range N).map fun n => accumulate int (startCell ow old n) (groupSums G as (B n))))
          (bad || (!ow && s.accBad x m)) ∧
      ∀ w, s.accVal x m = some w → old = w := by
  obtain ⟨n, old, hold, holdVal⟩ := accRow_reads s x m
  refine ⟨n, old, ?_, holdVal⟩
  rw [State.mmaRow, hold]
  simp only [Bool.false_eq_true, if_false, List.length_map, List.length_range, List.map_map, ← List.map_prod_left_eq_zip]
  rfl

/-- Cell n of a compensated pair whose rows were `hi` and `lo`. -/
def pairCell (ow : Bool) (G hi lo : Nat) (as : List XVal) (B : Nat → List XVal) (n : Nat) : Nat × Nat :=
  accumulatePair (startCell ow hi n, startCell ow lo n) (groupSums G as (B n))

theorem mmaRow_putsPair (s : State) (x : Nat) (ow int : Bool) (G m N : Nat) (as : List XVal) (B : Nat → List XVal) (bad : Bool) :
    ∃ n hi lo, s.mmaRow x true ow int G m as ((List.range N).map B) bad =
        (State.putAcc { s with undef := n } x m
          (putCells hi ((List.range N).map fun n => (pairCell ow G hi lo as B n).1))
          (bad || (!ow && s.accBad x m))).putAcc (x + 1) m
          (putCells lo ((List.range N).map fun n => (pairCell ow G hi lo as B n).2))
          (bad || (!ow && s.accBad (x + 1) m)) ∧
      (∀ w, s.accVal x m = some w → hi = w) ∧ ∀ w, s.accVal (x + 1) m = some w → lo = w := by
  obtain ⟨n, hi, hhi, hhiVal⟩ := accRow_reads s x m
  obtain ⟨k, lo, hlo, hloVal⟩ := accRow_reads { s with undef := n } (x + 1) m
  refine ⟨k, hi, lo, ?_, hhiVal, hloVal⟩
  rw [State.mmaRow, hhi]
  simp only [if_true, hlo, List.length_map, List.length_range, List.map_map, ← List.map_prod_left_eq_zip]
  rfl

/-- Rows 0 to M − 1 of the product of the A rows with the B rows, row m poisoned as `bad` says. -/
def State.products (s : State) (x : Nat) (pair ow int : Bool) (G M N : Nat) (A B : Nat → List XVal) (bad : Nat → Bool) : State :=
  (List.range M).foldl (fun u m => u.mmaRow x pair ow int G m (A m) ((List.range N).map B) (bad m)) s

section
variable {s : State} {x G M N : Nat} {ow int : Bool} {A B A' B' : Nat → List XVal} {bad : Nat → Bool} {hi lo : Nat → Nat}

theorem products_single (hx : x < 8) (hM : M ≤ 256) (hN : N ≤ 256)
    (hsame : ∀ m, m < M → bad m = false → ∀ n, n < N → groupSums G (A m) (B n) = groupSums G (A' m) (B' n))
    (hhi : ∀ m, m < M → ow = false → s.accBad x m = false → s.accVal x m = some (hi m)) :
    RowsWritten (fun j m => m < M ∧ j = x) (fun _ _ => False) s (s.products x false ow int G M N A B bad) ∧
      ∀ m, m < M → s.AccCells (s.products x false ow int G M N A B bad) x m N (bad m || (!ow && s.accBad x m))
        (fun n => accumulate int (startCell ow (hi m) n) (groupSums G (A' m) (B' n))) := by
  obtain ⟨hrows, hcells⟩ := foldl_rows (J := fun j => j = x) (Q := fun _ => False)
    (f := fun u m => u.mmaRow x false ow int G m (A m) ((List.range N).map B) (bad m)) (l := List.range M)
    (Done := fun m t => s.AccCells t x m N (bad m || (!ow && s.accBad x m))
      (fun n => accumulate int (startCell ow (hi m) n) (groupSums G (A' m) (B' n)))) s
    (fun m hm => (List.mem_range.mp hm).trans_le hM) List.nodup_range
    (fun u m hm hrow => by
      have hm := List.mem_range.mp hm
      obtain ⟨n, old, hput, hold⟩ := mmaRow_puts u x ow int G m N (A m) B (bad m)
      rw [hput, hrow.accBad x hx]
      refine ⟨(RowsWritten.of_undef u n).trans (.putAcc ⟨rfl, rfl⟩ hx (by omega) _ _ _), accCells_putAcc hx (by omega) hN
        (fun o ho => hold o ((hrow.accVal x hx).trans ho)) fun hgood i hi => ?_⟩
      obtain ⟨hrowGood, haccGood⟩ := Bool.or_eq_false_iff.mp hgood
      rw [hsame m hm hrowGood i hi]
      cases ow with
      | true => rfl
      | false => rw [hold _ ((hrow.accVal x hx).trans (hhi m hm rfl haccGood))])
    (fun m _ t u hrow hcells => accCells_of_sameRow hcells hx hrow)
  exact ⟨hrows.mono (fun j m h => ⟨List.mem_range.mp h.2, h.1⟩) fun q m h => h.1, fun m hm => hcells m (List.mem_range.mpr hm)⟩

/-- The cells hold what `g` gives, or, where that is not said, what they hold. -/
theorem accCells_or_held {s t : State} {j m N : Nat} {bad c : Bool} {f g : Nat → Nat} (h : s.AccCells t j m N bad f)
    (hfg : bad = false → c = false → ∀ n, n < N → f n = g n) :
    s.AccCells t j m N bad (fun n => if c then cellOf ((t.accVal j m).getD 0) n else g n) := by
  obtain ⟨hbad, hnone, hsome⟩ := h
  refine ⟨hbad, hnone, fun hgood => ?_⟩
  obtain ⟨row, hrow, hcells, hrest⟩ := hsome hgood
  refine ⟨row, hrow, fun n hn => ?_, hrest⟩
  cases c with
  | true =>
    simp only [if_true, hrow, Option.getD_some]
    exact (Nat.mod_eq_of_lt (cellOf_lt row n)).symm
  | false => exact (hcells n hn).trans (congrArg (· % 2 ^ 32) (hfg hgood rfl n hn))

/-- What a compensated pair of row m comes to: each of the two is said where the other was not poisoned, or is overwritten. -/
def PairCells (s : State) (x G N : Nat) (ow : Bool) (as : List XVal) (B : Nat → List XVal) (bad : Bool) (hi lo m : Nat) (t : State) : Prop :=
  s.AccCells t x m N (bad || (!ow && s.accBad x m))
    (fun n => if s.accBad (x + 1) m && !ow then cellOf ((t.accVal x m).getD 0) n
      else (pairCell ow G hi lo as B n).1) ∧
  s.AccCells t (x + 1) m N (bad || (!ow && s.accBad (x + 1) m))
    (fun n => if s.accBad x m && !ow then cellOf ((t.accVal (x + 1) m).getD 0) n
      else (pairCell ow G hi lo as B n).2)

theorem mmaRow_pair {u : State} {m : Nat} (hx : x + 1 < 8) (hm : m < 256) (hN : N ≤ 256) (hrow : SameRow m s u) {as as' : List XVal}
    {bad : Bool} {hi lo : Nat} (hsame : bad = false → ∀ n, n < N → groupSums G as (B n) = groupSums G as' (B' n))
    (hhi : ow = false → s.accBad x m = false → s.accVal x m = some hi)
    (hlo : ow = false → s.accBad (x + 1) m = false → s.accVal (x + 1) m = some lo) :
    RowsWritten (fun j r => (j = x ∨ j = x + 1) ∧ r = m) (fun _ _ => False) u (u.mmaRow x true ow int G m as ((List.range N).map B) bad) ∧
      PairCells s x G N ow as' B' bad hi lo m (u.mmaRow x true ow int G m as ((List.range N).map B) bad) := by
  have hx' : x < 8 := by omega
  obtain ⟨n, hi', lo', hput, hhi', hlo'⟩ := mmaRow_putsPair u x ow int G m N as B bad
  rw [hput, hrow.accBad x hx', hrow.accBad (x + 1) hx]
  obtain ⟨hwritten, hcellsHi, hcellsLo⟩ := accCells_putPair (u := { u with undef := n }) hx hm hN
    (badHi := bad || (!ow && s.accBad x m)) (badLo := bad || (!ow && s.accBad (x + 1) m))
    (f := fun i => (pairCell ow G hi' lo' as B i).1) (g := fun i => (pairCell ow G hi' lo' as B i).2)
    (fun o ho => hhi' o ((hrow.accVal x hx').trans ho)) (fun o ho => hlo' o ((hrow.accVal (x + 1) hx).trans ho))
    (fun _ _ _ => rfl) (fun _ _ _ => rfl)
  have hcell (hgood : bad = false) (hboth : ow = false → s.accBad x m = false ∧ s.accBad (x + 1) m = false) (i : Nat) (hin : i < N) :
      pairCell ow G hi' lo' as B i = pairCell ow G hi lo as' B' i := by
    rw [pairCell, pairCell, hsame hgood i hin]
    cases how : ow with
    | true => rfl
    | false =>
      rw [hhi' _ ((hrow.accVal x hx').trans (hhi how (hboth how).1)), hlo' _ ((hrow.accVal (x + 1) hx).trans (hlo how (hboth how).2))]
  refine ⟨(RowsWritten.of_undef u n).trans (hwritten.mono (fun _ _ h => h) fun _ _ h => h.elim),
    accCells_or_held hcellsHi fun hgood hother i hin => congrArg Prod.fst (hcell ?_ (fun how => ?_) i hin),
    accCells_or_held hcellsLo fun hgood hother i hin => congrArg Prod.snd (hcell ?_ (fun how => ?_) i hin)⟩
  all_goals simp_all

theorem pairCells_of_sameRow {t u : State} {m : Nat} {as : List XVal} {bad : Bool} {hi lo : Nat} (hx : x + 1 < 8) (hrow : SameRow m t u)
    (h : PairCells s x G N ow as B bad hi lo m t) : PairCells s x G N ow as B bad hi lo m u := by
  have hx' : x < 8 := by omega
  unfold PairCells State.AccCells
  rw [hrow.accVal x hx', hrow.accBad x hx', hrow.accVal (x + 1) hx, hrow.accBad (x + 1) hx]
  exact h

theorem products_pair (hx : x + 1 < 8) (hM : M ≤ 256) (hN : N ≤ 256)
    (hsame : ∀ m, m < M → bad m = false → ∀ n, n < N → groupSums G (A m) (B n) = groupSums G (A' m) (B' n))
    (hhi : ∀ m, m < M → ow = false → s.accBad x m = false → s.accVal x m = some (hi m))
    (hlo : ∀ m, m < M → ow = false → s.accBad (x + 1) m = false → s.accVal (x + 1) m = some (lo m)) :
    RowsWritten (fun j m => m < M ∧ (j = x ∨ j = x + 1)) (fun _ _ => False) s (s.products x true ow int G M N A B bad) ∧
      ∀ m, m < M → PairCells s x G N ow (A' m) B' (bad m) (hi m) (lo m) m (s.products x true ow int G M N A B bad) := by
  obtain ⟨hrows, hcells⟩ := foldl_rows (J := fun j => j = x ∨ j = x + 1) (Q := fun _ => False)
    (f := fun u m => u.mmaRow x true ow int G m (A m) ((List.range N).map B) (bad m)) (l := List.range M)
    (Done := fun m t => PairCells s x G N ow (A' m) B' (bad m) (hi m) (lo m) m t) s
    (fun m hm => (List.mem_range.mp hm).trans_le hM) List.nodup_range
    (fun u m hm hrow => by
      have hm := List.mem_range.mp hm
      obtain ⟨hwritten, hpair⟩ := mmaRow_pair (int := int) hx (by omega) hN hrow (hsame m hm) (hhi m hm) (hlo m hm)
      exact ⟨hwritten.mono (fun _ _ h => h) fun _ _ h => h.elim, hpair⟩)
    (fun m _ t u hrow => pairCells_of_sameRow hx hrow)
  exact ⟨hrows.mono (fun j m h => ⟨List.mem_range.mp h.2, h.1⟩) fun q m h => h.1, fun m hm => hcells m (List.mem_range.mpr hm)⟩

end

/-! ## MMA and MSLIDE (R227, R228) -/

/-- The checks of a product pass: the resources are claimed, the format descriptor, its scales and the shape are legal. -/
structure State.ProductReady (s : State) (x y z w : BitVec 5) (pair : Bool) (d : FD) (ta tb : XVal) : Prop where
  array : s.Array ([x.toNat] ++ (if pair then [x.toNat + 1] else []))
    ([y.toNat, z.toNat] ++ (if isBlock d.fa then [y.toNat + 1] else []) ++ (if isBlock d.fb then [z.toNat + 1] else []))
  fd : d = readFD (s.getS w)
  legal : fdLegal (s.getS w) = true
  formats : mmaFormats pair d = true
  scaleA : matrixScale s w 1 d.fa = .ok ta
  scaleB : matrixScale s w 2 d.fb = .ok tb
  shape : shapeLegal s.x.shape = true
  limit : shapeK s.x.shape ≤ min (kLimit d.fa) (kLimit d.fb)
  blockA : isBlock d.fa = true → y.toNat < 15
  blockB : isBlock d.fb = true → z.toNat < 15

theorem matrixFD_of_legal {s : State} {w : BitVec 5} {ok : FD → Bool} {d : FD} (hfd : d = readFD (s.getS w))
    (hlegal : fdLegal (s.getS w) = true) (hok : ok d = true) : matrixFD s w ok = .ok d := by
  subst hfd
  rw [matrixFD, hlegal, hok]
  rfl

/-- The poison of row m of a product, from its operands (R236). -/
def State.productBad (s : State) (qa qb N off : Nat) (blkA blkB : Bool) (m : Nat) : Bool :=
  (List.range N).any (fun n => s.slotBad qb n || (blkB && s.slotBad (qb + 1) n)) ||
    (decide (m + off < 256) && (s.slotBad qa (m + off) || (blkA && s.slotBad (qa + 1) (m + off))))

theorem matrixProduct_of_ready {s : State} {x y z w : BitVec 5} {o : BitVec 2} {d : FD} {ta tb : XVal}
    (h : s.ProductReady x y z w (o.getLsbD 0) d ta tb) (i : Instr) {slide : Bool} {M N K off : Nat} (hM : shapeM s.x.shape = M)
    (hN : shapeN s.x.shape = N) (hK : shapeK s.x.shape = K) (hoff : (if slide then shapeSlide s.x.shape else 0) = off) :
    ∃ u fa ga fb gb, matrixProduct i slide x y z w o s =
        .ok (State.products { s with undef := u } x.toNat (o.getLsbD 0) (o.getLsbD 1) (d.fdst == 2) (min (groupSize d.fa) (groupSize d.fb)) M N
          (fun m => operandRow d.fa d.ftz ta K fa ga (m + off)) (fun n => operandRow d.fb d.ftz tb K fb gb n)
          (s.productBad y.toNat z.toNat N off (isBlock d.fa) (isBlock d.fb))).advance ∧
      (∀ m, m < M → m + off < 256 → (∀ v, s.slotVal y.toNat (m + off) = some v → fa (m + off) = v) ∧
        (isBlock d.fa = true → ∀ v, s.slotVal (y.toNat + 1) (m + off) = some v → ga (m + off) = v)) ∧
      ∀ n, n < N → (∀ v, s.slotVal z.toNat n = some v → fb n = v) ∧
        (isBlock d.fb = true → ∀ v, s.slotVal (z.toNat + 1) n = some v → gb n = v) := by
  obtain ⟨-, -, -, hN256⟩ := shape_bounds h.shape
  obtain ⟨n, fa, ga, ha, haVal⟩ := operand_reads s y.toNat d.fa d.ftz ta K off M
  obtain ⟨u, fb, gb, hb, hbVal⟩ := operand_reads { s with undef := n } z.toNat d.fb d.ftz tb K 0 N
  refine ⟨u, fa, ga, fb, gb, ?_, haVal, fun m hm => hbVal m hm (by omega)⟩
  have hblock : (!((isBlock d.fa && y.toNat == 15) || (isBlock d.fb && z.toNat == 15))) = true := by
    have hA := h.blockA
    have hB := h.blockB
    cases hba : isBlock d.fa <;> cases hbb : isBlock d.fb <;> simp_all <;> omega
  have hlimit := h.limit
  rw [hK] at hlimit
  simp only [matrixProduct, gate_array h.array, ← h.fd, claimCheck_of_array h.array, matrixFD_of_legal h.fd h.legal h.formats, h.scaleA,
    h.scaleB, shapeCheck_of_legal h.shape, hblock, decide_true, check_true, bind,
    Except.bind, hlimit, hM, hN, hK, hoff, ha, hb,
    ← List.map_prod_left_eq_zip, List.foldl_map, Nat.add_zero]
  rfl

/-- The sums of products of an operand row with another depend on the rows that the operands hold alone. -/
theorem operandRow_congr {c : Nat} {ftz : Bool} {t : XVal} {K i : Nat} {f g f' g' : Nat → Nat}
    (h : i < 256 → f i = f' i ∧ (isBlock c = true → g i = g' i)) : operandRow c ftz t K f g i = operandRow c ftz t K f' g' i := by
  unfold operandRow
  split_ifs with hi hb
  · rw [(h hi).1, (h hi).2 hb]
  · rw [(h hi).1]
  · rfl

theorem exec_product (s : State) (x y z w : BitVec 5) (o : BitVec 2) :
    ∀ p ∈ [(Instr.mma x y z w o, 0), (.mslide x y z w o, shapeSlide s.x.shape)],
      ∃ slide, exec p.1 s = finish (matrixProduct p.1 slide x y z w o s) ∧ (if slide then shapeSlide s.x.shape else 0) = p.2 := by
  simp only [List.forall_mem_cons]
  exact ⟨⟨false, rfl, rfl⟩, ⟨true, rfl, rfl⟩, List.forall_mem_nil _⟩

theorem matrixProducts : Sys2Proof.Parts.MatrixProduct := by
  intro s x y z w o d ta tb a ca b cb hi lo pair ow M N K G blkA blkB qa qb hx _ _ heven hqa hqb harray hfd hlegal hformats hta htb
    hshape hlimit hhi hlo bad sums start p hp ha hca hb hcb
  have hready : s.ProductReady x y z w (o.getLsbD 0) d ta tb :=
    ⟨harray, hfd, hlegal, hformats, hta, htb, hshape, hlimit, hqa, hqb⟩
  obtain ⟨slide, hexec, hoff⟩ := exec_product s x y z w o p hp
  obtain ⟨-, hM, -, hN⟩ := shape_bounds hshape
  obtain ⟨u, fa, ga, fb, gb, hrun, hA, hB⟩ := matrixProduct_of_ready hready p.1 (M := M) (N := N) (K := K) rfl rfl rfl hoff
  have hbad (m : Nat) : s.productBad qa qb N p.2 blkA blkB m = bad p.2 m := Bool.or_comm _ _
  have hsame (m : Nat) (hm : m < M) (hgood : s.productBad qa qb N p.2 blkA blkB m = false) (n : Nat) (hn : n < N) :
      groupSums G (operandRow d.fa d.ftz ta K fa ga (m + p.2)) (operandRow d.fb d.ftz tb K fb gb n) = sums p.2 m n := by
    rw [State.productBad, Bool.or_eq_false_iff, List.any_eq_false] at hgood
    obtain ⟨hgoodB, hgoodA⟩ := hgood
    have hgoodB := hgoodB n (List.mem_range.mpr hn)
    have hrowA : operandRow d.fa d.ftz ta K fa ga (m + p.2) = operandRow d.fa d.ftz ta K a ca (m + p.2) :=
      operandRow_congr fun hlt => by
        simp only [hlt, decide_true, Bool.true_and, Bool.or_eq_false_iff, Bool.and_eq_false_imp] at hgoodA
        exact ⟨(hA m hm hlt).1 _ (ha m hm hlt hgoodA.1), fun hblk => (hA m hm hlt).2 hblk _ (hca m hm hlt hblk (hgoodA.2 hblk))⟩
    have hrowB : operandRow d.fb d.ftz tb K fb gb n = operandRow d.fb d.ftz tb K b cb n :=
      operandRow_congr fun _ => by
        simp only [Bool.not_eq_true, Bool.or_eq_false_iff, Bool.and_eq_false_imp] at hgoodB
        exact ⟨(hB n hn).1 _ (hb n hn hgoodB.1), fun hblk => (hB n hn).2 hblk _ (hcb n hn hblk (hgoodB.2 hblk))⟩
    rw [hrowA, hrowB, operandRow, operandRow, if_pos (show n < 256 by omega)]
  rw [hrun, finish_ok] at hexec
  let A' (m : Nat) : List XVal :=
    if m + p.2 < 256 then rowValues d.fa d.ftz ta K (a (m + p.2)) (if blkA then ca (m + p.2) else 0) else List.replicate K (.zero false)
  let B' (n : Nat) : List XVal := rowValues d.fb d.ftz tb K (b n) (if blkB then cb n else 0)
  obtain hpair | hpair : pair = false ∨ pair = true := (Bool.eq_false_or_eq_true pair).symm
  · rw [show o.getLsbD 0 = false from hpair] at hexec
    obtain ⟨hrows, hcells⟩ := products_single (s := { s with undef := u }) (int := d.fdst == 2) (A' := A') (B' := B') hx hM hN hsame hhi
    refine ⟨_, hexec, (RowsWritten.trans (.of_undef s u) (hrows.mono (fun j m h => ⟨h.1, .inl h.2⟩) fun _ _ h => h)).arrayed, hrows.vbeg,
      fun m hm => ⟨fun _ => ?_, fun htrue => (Bool.false_ne_true (hpair.symm.trans htrue)).elim⟩⟩
    rw [← hbad]
    exact hcells m hm
  · rw [show o.getLsbD 0 = true from hpair] at hexec
    have hx1 : x.toNat + 1 < 8 := by have := heven hpair; omega
    obtain ⟨hrows, hcells⟩ := products_pair (s := { s with undef := u }) (int := d.fdst == 2) (A' := A') (B' := B') hx1 hM hN hsame hhi
      fun m hm how => hlo m hm how hpair
    refine ⟨_, hexec, (RowsWritten.trans (.of_undef s u) (hrows.mono (fun j m h => ⟨h.1, h.2.imp_right fun h => ⟨hpair, h⟩⟩) fun _ _ h => h)).arrayed,
      hrows.vbeg, fun m hm => ⟨fun hfalse => (Bool.false_ne_true (hfalse.symm.trans hpair)).elim, fun _ => ?_⟩⟩
    rw [← hbad]
    exact hcells m hm

end Sys2Proof.Machine

/-! MACS (09 R231, R236). -/

namespace Sys2Proof.Machine

/-- The cells that MACS converts into row r of its slot, f giving the rows of the accumulator: of one row, or, transposed, of a column. -/
def macsCells (o : BitVec 1) (M N : Nat) (f : Nat → Nat) (r : Nat) : List Nat :=
  if o = 1 then (List.range M).map (fun m => cellOf (f m) r) else (List.range N).map (cellOf (f r))

/-- The poison of that row (R236). -/
def State.macsBad (s : State) (o : BitVec 1) (M j r : Nat) : Bool := if o = 1 then (List.range M).any (s.accBad j) else s.accBad j r

/-- A converted row written, its scales in the companion row. -/
def State.putConverted (s : State) (d : FD) (t : XVal) (q : Nat) (blk : Bool) (r : Nat) (cells : List Nat) (bad : Bool) : State :=
  let v := macsRow d t cells
  let s := s.putSlot q r v.1 bad
  if blk then s.putSlot (q + 1) r v.2 bad else s

/-- Row r of slot q, and of its companion, are what those cells come to. -/
def ConvertedRow (d : FD) (t0 : XVal) (q : Nat) (blk : Bool) (r : Nat) (cells : List Nat) (bad : Bool) (t : State) : Prop :=
  t.SlotRow q r bad ((macsRow d t0 cells).1 % 2 ^ 4096) ∧ (blk = true → t.SlotRow (q + 1) r bad ((macsRow d t0 cells).2 % 2 ^ 4096))

section
variable {s t u : State} {d : FD} {t0 : XVal} {q r : Nat} {blk bad : Bool} {cells : List Nat}

theorem slotRow_of_same {v : Nat} (h : t.SlotRow q r bad v) (hval : u.slotVal q r = t.slotVal q r) (hbad : u.slotBad q r = t.slotBad q r) :
    u.SlotRow q r bad v := by
  unfold State.SlotRow
  rw [hval, hbad]
  exact h

theorem convertedRow_of_sameRow (hq : q < 16) (hq1 : blk = true → q + 1 < 16) (hrow : SameRow r t u)
    (h : ConvertedRow d t0 q blk r cells bad t) : ConvertedRow d t0 q blk r cells bad u :=
  ⟨slotRow_of_same h.1 (hrow.slotVal q hq) (hrow.slotBad q hq),
    fun hblk => slotRow_of_same (h.2 hblk) (hrow.slotVal _ (hq1 hblk)) (hrow.slotBad _ (hq1 hblk))⟩

/-- Of a poisoned row the cells do not matter. -/
theorem convertedRow_congr {cells' : List Nat} (hcells : bad = false → cells = cells') (h : ConvertedRow d t0 q blk r cells bad t) :
    ConvertedRow d t0 q blk r cells' bad t := by
  cases bad with
  | true => exact h
  | false => rw [← hcells rfl]; exact h

theorem putConverted_row (hq : q < 16) (hq1 : blk = true → q + 1 < 16) (hr : r < 256) (s : State) (cells : List Nat) (bad : Bool) :
    RowsWritten (fun _ _ => False) (fun p i => (p = q ∨ (blk = true ∧ p = q + 1)) ∧ i = r) s (s.putConverted d t0 q blk r cells bad) ∧
      ConvertedRow d t0 q blk r cells bad (s.putConverted d t0 q blk r cells bad) := by
  have hfirst := RowsWritten.putSlot (acc := fun _ _ => False) (slot := fun p i => (p = q ∨ (blk = true ∧ p = q + 1)) ∧ i = r)
    ⟨.inl rfl, rfl⟩ hq hr s (macsRow d t0 cells).1 bad
  have hrow := slotRow_putSlot s (macsRow d t0 cells).1 bad hq hr
  cases hblk : blk with
  | true =>
    rw [hblk] at hfirst hq1
    have hne : ¬ (q = q + 1 ∧ r = r) := by omega
    exact ⟨hfirst.trans (.putSlot ⟨.inr ⟨rfl, rfl⟩, rfl⟩ (hq1 rfl) hr _ _ _),
      slotRow_of_same hrow ((slotVal_putSlot _ _ _ hr hr).trans (if_neg hne)) ((slotBad_putSlot _ _ _ (hq1 rfl) hr).trans (if_neg hne)),
      fun _ => slotRow_putSlot _ _ _ (hq1 rfl) hr⟩
  | false =>
    rw [hblk] at hfirst
    exact ⟨hfirst, hrow, nofun⟩

/-- Rows converted one after the other. -/
theorem putConverted_rows (hq : q < 16) (hq1 : blk = true → q + 1 < 16) {R : Nat} (hR : R ≤ 256) (s : State) {cells cells' : Nat → List Nat}
    {bad : Nat → Bool} (hcells : ∀ r, r < R → bad r = false → cells r = cells' r) :
    let t := (List.range R).foldl (fun u r => u.putConverted d t0 q blk r (cells r) (bad r)) s
    RowsWritten (fun _ _ => False) (fun p r => r < R ∧ (p = q ∨ (blk = true ∧ p = q + 1))) s t ∧
      ∀ r, r < R → ConvertedRow d t0 q blk r (cells' r) (bad r) t := by
  obtain ⟨hrows, hdone⟩ := foldl_rows (J := fun _ => False) (Q := fun p => p = q ∨ (blk = true ∧ p = q + 1))
    (f := fun u r => u.putConverted d t0 q blk r (cells r) (bad r)) (l := List.range R)
    (Done := fun r t => ConvertedRow d t0 q blk r (cells' r) (bad r) t) s
    (fun r hr => (List.mem_range.mp hr).trans_le hR) List.nodup_range
    (fun u r hr _ => by
      have hr := List.mem_range.mp hr
      obtain ⟨hrow, hconverted⟩ := putConverted_row (d := d) (t0 := t0) hq hq1 (show r < 256 by omega) u (cells r) (bad r)
      exact ⟨hrow.mono (fun _ _ h => h.elim) fun _ _ h => h, convertedRow_congr (hcells r hr) hconverted⟩)
    (fun r _ t u hrow h => convertedRow_of_sameRow hq hq1 hrow h)
  exact ⟨hrows.mono (fun _ _ h => h.1) fun _ _ h => ⟨List.mem_range.mp h.2, h.1⟩, fun r hr => hdone r (List.mem_range.mpr hr)⟩

end

theorem exec_macs {s : State} {x y w : BitVec 5} {o : BitVec 1} {d : FD} {t0 : XVal} {M N : Nat}
    (harray : s.Array [y.toNat] ([x.toNat] ++ (if isBlock d.fdst then [x.toNat + 1] else []))) (hfd : d = readFD (s.getS w))
    (hlegal : fdLegal (s.getS w) = true) (hformats : macsFormats d = true) (hscale : matrixScale s w 1 d.fdst = .ok t0)
    (hshape : shapeLegal s.x.shape = true) (hM : shapeM s.x.shape = M) (hN : shapeN s.x.shape = N)
    (hblock : isBlock d.fdst = true → x.toNat < 15) (hfits : (if o = 1 then M else N) * fmtWidth d.fdst ≤ 4096) :
    ∃ (u : Nat) (f : Nat → Nat), exec (.macs x y w o) s = .next ((List.range (if o = 1 then N else M)).foldl (fun (v : State) r =>
        v.putConverted d t0 x.toNat (isBlock d.fdst) r (macsCells o M N f r) (s.macsBad o M y.toNat r)) { s with undef := u }).advance ∧
      ∀ m, m < M → ∀ v, s.accVal y.toNat m = some v → f m = v := by
  obtain ⟨u, f, hrows, hf⟩ := accRows_reads s y.toNat (List.nodup_range (n := M))
  refine ⟨u, f, ?_, fun m hm => hf m (List.mem_range.mpr hm)⟩
  have hcompanion : (!(isBlock d.fdst && x.toNat == 15)) = true := by
    cases hb : isBlock d.fdst with
    | true => simpa using (hblock hb).ne
    | false => rfl
  simp only [exec, execMacs, gate_array harray, ← hfd, claimCheck_of_array harray, matrixFD_of_legal hfd hlegal hformats, hscale,
    shapeCheck_of_legal hshape, hcompanion, check_true, hM, hN, hfits, decide_true, hrows, bind, Except.bind, finish_ok]
  by_cases ho : o = 1
  · simp only [ho, if_true, List.foldl_map, List.map_map, macsCells, State.macsBad]
    rfl
  · simp only [ho, if_false, ← List.map_prod_left_eq_zip, List.foldl_map, List.map_map, macsCells, State.macsBad]
    rfl

theorem matrixConvert : Sys2Proof.Parts.MatrixConvert := by
  intro s x y w o d t0 c hx hy M N blk q j hblock harray hfd hlegal hformats hscale hshape hfits hc cells bad rows
  obtain ⟨-, hM, -, hN⟩ := shape_bounds hshape
  obtain ⟨u, f, hexec, hf⟩ := exec_macs (M := M) (N := N) harray hfd hlegal hformats hscale hshape rfl rfl hblock hfits
  have hcells (r : Nat) (hr : r < rows) (hgood : s.macsBad o M j r = false) : macsCells o M N f r = cells r := by
    have hrow (m : Nat) (hm : m < M) (hgood : s.accBad j m = false) : f m = c m := hf m hm _ (hc m hm hgood)
    by_cases ho : o = 1
    · simp only [State.macsBad, ho, if_true, List.any_eq_false, List.mem_range, Bool.not_eq_true] at hgood
      simp only [macsCells, cells, ho, if_true]
      exact List.map_congr_left fun m hm => by rw [hrow m (List.mem_range.mp hm) (hgood m (List.mem_range.mp hm))]
    · simp only [State.macsBad, ho, if_false] at hgood
      simp only [rows, ho, if_false] at hr
      simp only [macsCells, cells, ho, if_false, hrow r hr hgood]
  have hR : rows ≤ 256 := by
    unfold rows
    split_ifs
    · exact hN
    · exact hM
  obtain ⟨hwritten, hdone⟩ := putConverted_rows (d := d) (t0 := t0) hx (fun hb => Nat.succ_lt_succ (hblock hb)) hR { s with undef := u } hcells
  exact ⟨_, hexec, hwritten.vbeg, ((RowsWritten.of_undef s u).trans hwritten).arrayed, hdone⟩

/-- Settles O55, row by row: each pass of an instruction's loop writes its own row of the array alone, so that what it reads there is
what the row held before. -/
theorem matrixArithmetic : Obligations.MatrixArithmetic := ⟨matrixProducts, matrixElementwise, matrixConvert⟩

end Sys2Proof.Machine

/-! MLDS, MLDA, MSTA and MCURV on rows in local memory, outside a fork (09 R224, R225, R233, R234, R236). -/

namespace Sys2Proof.Machine

/-! ## Rows as accesses (R195, R224) -/

theorem pagePieces_of_page {va n : Nat} (hn : 0 < n) (hpage : va % 65536 + n ≤ 65536) : pagePieces va n = [(va, n)] := by
  have hlast : (va + n - 1) / 65536 = va / 65536 := by omega
  have hlo : max va ((va / 65536 + 0) * 65536) = va := by omega
  have hlen : min (va + n) ((va / 65536 + 0 + 1) * 65536) - va = n := by omega
  rw [pagePieces, cutAt, if_neg (by omega), hlast, Nat.sub_self, Nat.zero_add, List.range_one, List.map_singleton]
  simp only [hlo, hlen]

theorem rowPieces_of_page {s : State} (hactive : s.st.active = false) {va : Word} {n : Nat} (hn : 0 < n)
    (hpage : va.toNat % 65536 + n ≤ 65536) : s.rowPieces va.toNat n = [(va, n)] := by
  simp [State.rowPieces, State.inFork, hactive, pagePieces_of_page hn hpage]

/-- The context keeps the translated accesses of the instruction. -/
def State.piped (s : State) (p : Pipe) : State := { s with x := { s.x with pipe := some p } }

theorem underway_piped (s : State) (p : Pipe) : Underway s (s.piped p) := .own s s.undef s.st.stores s.st.vbuf (some p)

/-- Each of the listed rows, n bytes long, starts at a multiple of e and lies in one page of local memory, row r at p r. -/
def State.RowsAt (s : State) (k : Acc) (e n : Nat) (row : Nat → Word) (p : Nat → Xl) (l : List Nat) : Prop :=
  ∀ r ∈ l, (row r).toNat % e = 0 ∧ (row r).toNat % 65536 + n ≤ 65536 ∧ s.Local k (row r) n (p r)

/-- The accesses of the listed rows. -/
def rowItems (n : Nat) (row : Nat → Word) (p : Nat → Xl) (l : List Nat) : List PipeItem := l.map fun r => localItem r (row r) n (p r)

section
variable {s : State} {k : Acc} {e n : Nat} {row : Nat → Word} {p : Nat → Xl} {l : List Nat}

theorem forall_mem_rowItems {P : PipeItem → Prop} : (∀ q ∈ rowItems n row p l, P q) ↔ ∀ r ∈ l, P (localItem r (row r) n (p r)) := by
  simp [rowItems]

/-- Rows that each lie in one page and pass their check go through the address pipeline. -/
theorem pipeline_of_rowsAt (halone : s.Alone) (hn : 0 < n) (h : s.RowsAt k e n row p l) {chk : PieceCheck}
    (hchk : ∀ r ∈ l, ∀ done, chk s done r (row r) n = plainCheck k e s done r (row r) n) :
    s.pipeline k chk (l.map fun r => (r, s.rowPieces (row r).toNat n)) =
      .ok (s.piped { items := rowItems n row p l, fault := none }, { items := rowItems n row p l, fault := none }) := by
  have hpieces : (l.map fun r => (r, s.rowPieces (row r).toNat n)) = (l.map fun r => (r, row r)).map fun q => (q.1, [(q.2, n)]) := by
    rw [List.map_map]
    exact List.map_congr_left fun r hr => congrArg (Prod.mk r) (rowPieces_of_page halone.alone.2 hn (h r hr).2.1)
  have hchecks : checkElems chk (l.map fun r => (r, s.rowPieces (row r).toNat n)) [] s =
      (s, { items := rowItems n row p l, fault := none }) := by
    rw [hpieces, checkElems_of_pass (y := p)]
    · simp [rowItems]
    · intro q hq done
      obtain ⟨r, hr, rfl⟩ := List.mem_map.mp hq
      obtain ⟨halign, -, hlocal⟩ := h r hr
      rw [hchk r hr]
      exact plainCheck_of_hits halone.core halone.alone.2 (hits_of_local halone.core hlocal) halign _ _ _
  simp only [State.pipeline, halone.fresh.1, spec_of_no_fork halone.alone.1, hchecks, bind, Except.bind, Bool.false_and, Bool.not_false,
    check_true]
  rfl

theorem rowItems_local (h : s.RowsAt k e n row p l) : ∀ q ∈ rowItems n row p l, q.fabric = false :=
  forall_mem_rowItems.mpr fun r hr => beq_eq_false_iff_ne.mpr (h r hr).2.2.loc

theorem rowItems_accessible {u : State} (h : s.RowsAt k e n row p l) (hu : Underway s u) :
    ∀ q ∈ rowItems n row p l, u.Accessible (k != .read) q.vc q.pa q.n :=
  forall_mem_rowItems.mpr fun r hr => (accessible_of_local (h r hr).2.2).underway hu

theorem askParts_of_local {ps : List PipeItem} (h : ∀ q ∈ ps, q.fabric = false) (write : Bool) (data : PipeItem → List Byte)
    (bad : Nat → Bool) : s.askParts { items := ps, fault := none } write data bad = .ok [] := by
  have hnone : ps.filter PipeItem.fabric = [] := List.filter_eq_nil_iff.mpr fun q hq => by simp [h q hq]
  simp only [State.askParts, hnone]
  rfl

/-! ## Loads (R225) -/

/-- Parts of rows that go on at once are all read, from the strand's vector view. -/
theorem readParts_of_accessible (ps : List PipeItem) (hfork : s.st.fork = none) (hset : s.Settled)
    (h : ∀ q ∈ ps, s.Accessible false q.vc q.pa q.n) :
    ∃ t, State.readParts ps s = .ok (t, ps.map fun q => (q, s.viewBytes true q.pa q.n, false)) ∧ LinesMove s t := by
  induction ps generalizing s with
  | nil => exact ⟨s, rfl, .refl s⟩
  | cons q ps ih =>
    have hq := h q List.mem_cons_self
    have hstep : Underway s (s.atRead q.xl q.n) := underway_atRead hq
    have hmove := linesMove_atRead s q.xl q.n
    obtain ⟨t, ht, hlines⟩ := ih (hstep.fork.trans hfork) (hstep.settled hset) fun i hi => (h i (List.mem_cons_of_mem _ hi)).underway hstep
    have hclean : s.itemPoisoned q = false := List.any_eq_false.mpr fun l hl => by simp [hq.clean l hl]
    have hread : s.readPart q = .ok (s.atRead q.xl q.n, s.viewBytes true q.pa q.n, false) := by
      simp only [State.readPart, settleScatter_of_settled hset, loadLocal_of_accessible (x := q.xl) hfork hq, hq.lostRead, hclean,
        spec_of_no_fork (hstep.fork.trans hfork), bind, Except.bind, Bool.or_self, Bool.false_eq_true, if_false]
      rfl
    refine ⟨t, ?_, hmove.trans hlines⟩
    simp only [State.readParts, hread, ht, viewBytes_of_linesMove hmove, bind, Except.bind, List.map_cons]

/-- A row that is one part has that part's bytes. -/
theorem joinParts_rowItems (hl : l.Nodup) {r : Nat} (hr : r ∈ l) (g : PipeItem → List Byte) :
    joinParts r ((rowItems n row p l).map fun q => (q, g q, false)) = (g (localItem r (row r) n (p r)), false) := by
  have hhere : ((rowItems n row p l).map fun q => (q, g q, false)).filter (fun e => e.1.i == r) =
      [(localItem r (row r) n (p r), g (localItem r (row r) n (p r)), false)] := by
    have hone : l.filter (fun i => i == r) = [r] := by rw [List.filter_beq, List.count_eq_one_of_mem hl hr]; rfl
    rw [rowItems, List.map_map, List.filter_map]
    exact (congrArg (List.map _) hone).trans rfl
  simp only [joinParts, hhere]
  simp [localItem]

theorem viewNum_mod (s : State) (pa : Nat) {n w : Nat} (h : 8 * n ≤ w) : s.viewNum pa n % 2 ^ w = s.viewNum pa n := by
  have hlt := leNat_lt ((List.range n).map fun i => s.viewByte true (pa + i))
  rw [List.length_map, List.length_range, show (256 : Nat) = 2 ^ 8 by rfl, ← Nat.pow_mul] at hlt
  exact Nat.mod_eq_of_lt (hlt.trans_le (Nat.pow_le_pow_right (by decide) h))

end

theorem span_nodup (lo hi : Nat) : (span lo hi).Nodup := List.nodup_range.map fun _ _ h => Nat.add_right_cancel h

/-- The bounds of a legal transfer (R224). -/
theorem xfer_bounds {v : Word} {store : Bool} {maxLen : Nat} (h : xferLegal v store maxLen = true) :
    1 ≤ (readXfer v).len ∧ (readXfer v).len ≤ maxLen ∧ (readXfer v).rows ≤ 256 := by
  simp only [xferLegal, Bool.and_eq_true, decide_eq_true_eq] at h
  tauto

/-- Where row r of a transfer starts. -/
def State.rowAt (s : State) (y z : BitVec 5) (r : Nat) : Word := s.getS y + BitVec.ofNat 64 r * s.getS z

section
variable {s : State} {accs slots : List Nat} {y z w : BitVec 5} {e maxLen : Nat} {p : Nat → Xl}

theorem issueLoad_of_rowsAt (halone : s.Alone) (harray : s.Array accs slots) (hlegal : xferLegal (s.getS w) false maxLen = true)
    {d : XferDesc} (hd : readXfer (s.getS w) = d) (he : 0 < e)
    (hrows : s.RowsAt .read e (d.len * e) (s.rowAt y z) p (span s.vbeg d.rows)) (i : Instr) :
    let pipe : Pipe := { items := rowItems (d.len * e) (s.rowAt y z) p (span s.vbeg d.rows), fault := none }
    issueLoad i accs slots y z w e maxLen s = .ok (s.piped pipe, pipe) := by
  have hn : 0 < d.len * e := Nat.mul_pos (hd ▸ (xfer_bounds hlegal).1) he
  have hpipe := pipeline_of_rowsAt halone hn hrows (chk := rowCheck .read e (s.rowAt y z)) fun r _ done => by
    rw [rowCheck, if_pos rfl]
  simp only [issueLoad, gate_array harray, claimCheck_of_array harray, hlegal, check_true, hd, bind, Except.bind]
  exact hpipe

/-- A load whose accesses have been issued and all go on at once. -/
theorem matrixLoad_of_issued {v : State} {i : Instr} {ps : List PipeItem} {d : XferDesc} (hd : readXfer (s.getS w) = d)
    (hissue : issueLoad i accs slots y z w e maxLen s = .ok (v, { items := ps, fault := none })) (hfork : v.st.fork = none)
    (hset : v.Settled) (hacc : ∀ q ∈ ps, v.Accessible false q.vc q.pa q.n) (hlocal : ∀ q ∈ ps, q.fabric = false)
    (put : Nat → Nat → Bool → State → State) :
    ∃ u, matrixLoad i accs slots y z w e maxLen put s = .ok ((span v.vbeg d.rows).foldl (fun u r =>
        let q := joinParts r (ps.map fun q => (q, v.viewBytes true q.pa q.n, false))
        put r (leNat q.1) q.2 u) u).vbegZero.advance ∧ LinesMove v u := by
  obtain ⟨u, hread, hlines⟩ := readParts_of_accessible ps hfork hset hacc
  have hvbeg : u.vbeg = v.vbeg := by
    obtain ⟨_, _, _, _, _, _, rfl⟩ := hlines
    rfl
  refine ⟨u, ?_, hlines⟩
  simp only [matrixLoad, hissue, bind, Except.bind, settledAll_of_accessible hacc, askParts_of_local hlocal, List.map_nil, List.foldl_nil,
    belowStop, filter_local hlocal, hread, allOrStall, List.append_nil, hd, hvbeg]
  rfl

/-- Rows in local memory are loaded one after the other, from the strand's vector view. -/
theorem matrixLoad_of_rowsAt (halone : s.Alone) (harray : s.Array accs slots) (hlegal : xferLegal (s.getS w) false maxLen = true)
    {d : XferDesc} (hd : readXfer (s.getS w) = d) (he : 0 < e)
    (hrows : s.RowsAt .read e (d.len * e) (s.rowAt y z) p (span s.vbeg d.rows)) (i : Instr) (put : Nat → Nat → Bool → State → State) :
    ∃ u, matrixLoad i accs slots y z w e maxLen put s =
        .ok ((span s.vbeg d.rows).foldl (fun v r => put r (s.viewNum (p r).pa (d.len * e)) false v) u).vbegZero.advance ∧
      RowsWritten (fun _ _ => False) (fun _ _ => False) s u := by
  have hissue := issueLoad_of_rowsAt halone harray hlegal hd he hrows i
  have hunder := underway_piped s { items := rowItems (d.len * e) (s.rowAt y z) p (span s.vbeg d.rows), fault := none }
  obtain ⟨u, hload, hlines⟩ := matrixLoad_of_issued hd hissue (hunder.fork.trans halone.alone.1) (hunder.settled halone.settled)
    (rowItems_accessible hrows hunder) (rowItems_local hrows) put
  refine ⟨u, hload.trans (congrArg (fun v : State => (Except.ok v.vbegZero.advance : Run State)) (List.foldl_ext _ _ _ fun v r hr => ?_)),
    (RowsWritten.of_pipe s _).trans (.of_linesMove hlines)⟩
  have hr : r ∈ span s.vbeg d.rows := hr
  have hjoin := joinParts_rowItems (n := d.len * e) (row := s.rowAt y z) (p := p) (span_nodup s.vbeg d.rows) hr
    fun q => s.viewBytes true q.pa q.n
  exact congrArg (fun b : List Byte × Bool => put r (leNat b.1) b.2 v) hjoin

theorem SameRow.vbegZero (r : Nat) (t : State) : SameRow r t t.vbegZero.advance :=
  ⟨fun _ _ => rfl, fun _ _ => rfl, fun _ _ => rfl, fun _ _ => rfl⟩

/-- A load whose `put` writes its row, as `Row` says, leaves each row of the transfer with the bytes that the strand saw. -/
theorem matrixLoad_leaves (halone : s.Alone) (harray : s.Array accs slots) (hlegal : xferLegal (s.getS w) false maxLen = true)
    {d : XferDesc} (hd : readXfer (s.getS w) = d) (he : 0 < e)
    (hrows : s.RowsAt .read e (d.len * e) (s.rowAt y z) p (span s.vbeg d.rows)) (i : Instr) {put : Nat → Nat → Bool → State → State}
    {J Q : Nat → Prop} {Row : Nat → Nat → State → Prop} (hsame : ∀ r v t u, SameRow r t u → Row r v t → Row r v u)
    (hput : ∀ u r, r < 256 → let v := s.viewNum (p r).pa (d.len * e)
      RowsWritten (fun j i => J j ∧ i = r) (fun q i => Q q ∧ i = r) u (put r v false u) ∧ Row r v (put r v false u)) :
    ∃ t, finish (matrixLoad i accs slots y z w e maxLen put s) = .next t ∧ t.x.vbeg = 0 ∧
      s.Arrayed t (fun j r => J j ∧ r ∈ span s.vbeg d.rows) (fun q r => Q q ∧ r ∈ span s.vbeg d.rows) ∧
      ∀ r ∈ span s.vbeg d.rows, Row r (s.viewNum (p r).pa (d.len * e)) t := by
  obtain ⟨-, -, hmax⟩ := xfer_bounds hlegal
  rw [hd] at hmax
  have hlt : ∀ r ∈ span s.vbeg d.rows, r < 256 := fun r hr => (mem_span.mp hr).2.trans_le hmax
  obtain ⟨u, hload, hu⟩ := matrixLoad_of_rowsAt halone harray hlegal hd he hrows i put
  obtain ⟨hwritten, hdone⟩ := foldl_rows (J := J) (Q := Q) (f := fun v r => put r (s.viewNum (p r).pa (d.len * e)) false v)
    (l := span s.vbeg d.rows) (Done := fun r t => Row r (s.viewNum (p r).pa (d.len * e)) t) u hlt (span_nodup _ _)
    (fun v r hr _ => hput v r (hlt r hr)) (fun r _ t v => hsame r _ t v)
  exact ⟨_, congrArg finish hload, rfl,
    ((hu.mono (fun _ _ h => h.elim) fun _ _ h => h.elim).trans hwritten).arrayed_vbegZero, fun r hr => hsame r _ _ _ (.vbegZero _ _) (hdone r hr)⟩

/-- MLDS (R225). -/
theorem exec_mlds_leaves (halone : s.Alone) {x : BitVec 5} (harray : s.Array [] [x.toNat]) (hx : x.toNat < 16)
    (hlegal : xferLegal (s.getS w) false 512 = true) {d : XferDesc} (hd : readXfer (s.getS w) = d)
    (hrows : s.RowsAt .read 1 (d.len * 1) (s.rowAt y z) p (span s.vbeg d.rows)) :
    ∃ t, exec (.mlds x y z w) s = .next t ∧ t.x.vbeg = 0 ∧
      s.Arrayed t (fun _ r => False ∧ r ∈ span s.vbeg d.rows) (fun q r => q = x.toNat ∧ r ∈ span s.vbeg d.rows) ∧
      ∀ r ∈ span s.vbeg d.rows, t.SlotRow x.toNat r false (s.viewNum (p r).pa (d.len * 1)) := by
  have hlen := (xfer_bounds hlegal).2.1
  rw [hd] at hlen
  refine matrixLoad_leaves halone harray hlegal hd Nat.one_pos hrows (.mlds x y z w) (J := fun _ => False) (Q := fun q => q = x.toNat)
    (Row := fun r v t => t.SlotRow x.toNat r false v)
    (fun r v t u hrow h => slotRow_of_same h (hrow.slotVal _ hx) (hrow.slotBad _ hx)) fun u r hr => ⟨.putSlot ⟨rfl, rfl⟩ hx hr _ _ _, ?_⟩
  have hrow := slotRow_putSlot u (s.viewNum (p r).pa (d.len * 1)) false hx hr
  rwa [viewNum_mod s _ (by omega)] at hrow

/-- MLDA (R225). -/
theorem exec_mlda_leaves (halone : s.Alone) {x : BitVec 5} (harray : s.Array [x.toNat] []) (hx : x.toNat < 8)
    (hlegal : xferLegal (s.getS w) false 256 = true) {d : XferDesc} (hd : readXfer (s.getS w) = d)
    (hrows : s.RowsAt .read 4 (d.len * 4) (s.rowAt y z) p (span s.vbeg d.rows)) :
    ∃ t, exec (.mlda x y z w) s = .next t ∧ t.x.vbeg = 0 ∧
      s.Arrayed t (fun j r => j = x.toNat ∧ r ∈ span s.vbeg d.rows) (fun _ r => False ∧ r ∈ span s.vbeg d.rows) ∧
      ∀ r ∈ span s.vbeg d.rows, t.AccRow x.toNat r false (s.viewNum (p r).pa (d.len * 4)) := by
  have hlen := (xfer_bounds hlegal).2.1
  rw [hd] at hlen
  refine matrixLoad_leaves halone harray hlegal hd (by decide) hrows (.mlda x y z w) (J := fun j => j = x.toNat) (Q := fun _ => False)
    (Row := fun r v t => t.AccRow x.toNat r false v)
    (fun r v t u hrow h => accRow_of_same h (hrow.accVal _ hx) (hrow.accBad _ hx)) fun u r hr => ⟨.putAcc ⟨rfl, rfl⟩ hx hr _ _ _, ?_⟩
  have hrow := accRow_putAcc u (s.viewNum (p r).pa (d.len * 4)) false hx hr
  rwa [viewNum_mod s _ (by omega)] at hrow

end

/-! ## Stores (R225) -/

section
variable {s : State}

theorem storeLocal_eq_vbuffered (hfork : s.st.fork = none) {x : Xl} {bs : List Byte} (h : s.Accessible true x.vc x.pa bs.length) :
    s.storeLocal true x bs = .ok ((s.touch s.ring? x.pa).vbuffered ((s.touch s.ring? x.pa).nextStore x bs)) := by
  have htouch := underway_touch s s.ring? x.pa
  have hfork' : (s.touch s.ring? x.pa).st.fork = none := htouch.fork.trans hfork
  have hunder (e : BufStore) : Underway s ((s.touch s.ring? x.pa).vbuffered e) := htouch.trans (underway_vbuffered _ e)
  unfold State.storeLocal
  rw [h.settled, h.windowOpen]
  simp only [spec_of_no_fork hfork', hfork', bind, Except.bind, check_true, if_false, Option.isSome_none, Bool.false_eq_true,
    foldl_announce_of_no_fork hfork', bufferStore_vector_of_no_fork hfork', (h.underway (hunder _)).waits]

/-- A store outside a fork uses up no free value. -/
theorem undef_of_storeLocal {t : State} (hfork : s.st.fork = none) {x : Xl} {bs : List Byte} (h : s.Accessible true x.vc x.pa bs.length)
    (ht : s.storeLocal true x bs = .ok t) : t.undef = s.undef := by
  cases (storeLocal_eq_vbuffered hfork h).symm.trans ht
  obtain ⟨_, _, _, _, _, _, e⟩ := LinesMove.touch s s.ring? x.pa
  rw [e]
  rfl

/-- Parts of rows that go on at once all join the vector store buffer, one after the other. -/
theorem foldlM_storeLocal_of_accessible (ws : List (PipeItem × List Byte)) (hfork : s.st.fork = none) (hset : s.Settled)
    (hlen : ∀ w ∈ ws, w.2.length = w.1.n) (h : ∀ w ∈ ws, s.Accessible true w.1.vc w.1.pa w.1.n) :
    ∃ t, ws.foldlM (fun s w => (s.settleScatter w.1.pa w.1.n).storeLocal true w.1.xl w.2) s = .ok t ∧ Underway s t ∧
      t.undef = s.undef ∧ Joined s t (ws.map fun w => (w.1.pa, w.2, w.1.vc)) := by
  induction ws generalizing s with
  | nil => exact ⟨s, rfl, .refl s, rfl, .of_vbuf rfl⟩
  | cons w ws ih =>
    have hw : s.Accessible true w.1.xl.vc w.1.xl.pa w.2.length := by
      rw [hlen w List.mem_cons_self]
      exact h w List.mem_cons_self
    obtain ⟨u, hu, hstep, hjoin⟩ := storeLocal_of_accessible (x := w.1.xl) hfork hw
    obtain ⟨t, ht, hunder, hundef, hrest⟩ := ih (hstep.fork.trans hfork) (hstep.settled hset)
      (fun q hq => hlen q (List.mem_cons_of_mem _ hq)) fun q hq => (h q (List.mem_cons_of_mem _ hq)).underway hstep
    refine ⟨t, ?_, hstep.trans hunder, hundef.trans (undef_of_storeLocal hfork hw hu), hjoin.trans hrest⟩
    rw [List.foldlM_cons, settleScatter_of_settled hset, hu]
    exact ht

/-- Stores of rows that are not poisoned, to lines that are not (R387). -/
theorem storeParts_of_accessible (ws : List (PipeItem × List Byte)) {bad : Nat → Bool} (hfork : s.st.fork = none) (hset : s.Settled)
    (hlen : ∀ w ∈ ws, w.2.length = w.1.n) (h : ∀ w ∈ ws, s.Accessible true w.1.vc w.1.pa w.1.n) (hbad : ∀ w ∈ ws, bad w.1.i = false) :
    ∃ t, s.storeParts ws bad = .ok t ∧ Underway s t ∧ t.undef = s.undef ∧ Joined s t (ws.map fun w => (w.1.pa, w.2, w.1.vc)) := by
  have hclean : ((ws.flatMap (fun w => linesOf w.1.pa w.1.n)).eraseDups).filter (fun l => s.poisonedFor (l * 64)) = [] := by
    refine List.filter_eq_nil_iff.mpr fun l hl => ?_
    obtain ⟨w, hw, hl⟩ := List.mem_flatMap.mp (List.mem_eraseDups.mp hl)
    simp [(h w hw).clean l hl]
  have hgood : ws.filter (fun w => bad w.1.i) = [] := List.filter_eq_nil_iff.mpr fun w hw => by simp [hbad w hw]
  obtain ⟨t, ht, hunder, hrest⟩ := foldlM_storeLocal_of_accessible ws hfork hset hlen h
  refine ⟨t, ?_, hunder, hrest⟩
  simp only [State.storeParts, hclean, hgood, ht, List.filter_nil, List.flatMap_nil, List.eraseDups_nil,
    spec_of_no_fork (hunder.fork.trans hfork), bind, Except.bind, List.isEmpty_nil, Bool.and_self, Bool.false_eq_true, if_false, if_true]

end

theorem length_staBytes (c len row : Nat) : (staBytes c len row).length = len * (fmtWidth c / 8) := by
  simp [staBytes, List.length_flatMap]

theorem lookupD_map {α : Type} (d : α) (g : Nat → α) {l : List Nat} {k : Nat} (hk : k ∈ l) :
    lookupD d k (l.map fun r => (r, g r)) = g k := by
  induction l with
  | nil => cases hk
  | cons r l ih =>
    rw [List.map_cons, lookupD]
    by_cases h : r = k
    · rw [if_pos h, h]
    · rw [if_neg h]
      exact ih ((List.mem_cons.mp hk).resolve_left (Ne.symm h))

/-! ## MSTA -/

theorem staFormat_bytes {f : Nat} (h : staFormat f = true) : 0 < fmtWidth f / 8 := by
  simp only [staFormat, Bool.or_eq_true, beq_iff_eq] at h
  obtain ((((rfl | rfl) | rfl) | rfl) | rfl) | rfl := h <;> decide

theorem staFormat_of_xferLegal {v : Word} {maxLen : Nat} (h : xferLegal v true maxLen = true) : staFormat (readXfer v).fmt = true := by
  simp only [xferLegal, Bool.and_eq_true, if_true] at h
  tauto

/-- The bytes that MSTA stores for a part of a row, from the image of the rows. -/
def staData (ps : List PipeItem) (image : List (Nat × List Byte)) (q : PipeItem) : List Byte :=
  ((lookupD [] q.i image).drop (((ps.filter (fun o => o.i == q.i && decide (o.f < q.f))).map (·.n)).foldl (· + ·) 0)).take q.n

/-- The first part of a row that is one part stores the whole row. -/
theorem staData_of_first {ps : List PipeItem} {q : PipeItem} (hfirst : q.f = 0) {g : Nat → List Byte} {l : List Nat} (hq : q.i ∈ l)
    (hlen : (g q.i).length = q.n) : staData ps (l.map fun r => (r, g r)) q = g q.i := by
  have hbefore : ps.filter (fun o => o.i == q.i && decide (o.f < q.f)) = [] := List.filter_eq_nil_iff.mpr fun o _ => by simp [hfirst]
  rw [staData, hbefore, lookupD_map [] g hq, ← hlen]
  exact List.take_length

section
variable {s : State} {x y z w : BitVec 5} {p : Nat → Xl} {c : Nat → Nat}

theorem issueSta_of_rowsAt (halone : s.Alone) (harray : s.Array [x.toNat] []) (hlegal : xferLegal (s.getS w) true 256 = true)
    {d : XferDesc} (hd : readXfer (s.getS w) = d)
    (hrows : s.RowsAt .write (fmtWidth d.fmt / 8) (d.len * (fmtWidth d.fmt / 8)) (s.rowAt y z) p (span s.vbeg d.rows)) :
    let pipe : Pipe := { items := rowItems (d.len * (fmtWidth d.fmt / 8)) (s.rowAt y z) p (span s.vbeg d.rows), fault := none }
    issueSta x y z w s = .ok (s.piped pipe, pipe) := by
  have hn : 0 < d.len * (fmtWidth d.fmt / 8) := hd ▸ Nat.mul_pos (xfer_bounds hlegal).1 (staFormat_bytes (staFormat_of_xferLegal hlegal))
  have hpipe := pipeline_of_rowsAt halone hn hrows (chk := rowCheck .write (fmtWidth d.fmt / 8) (s.rowAt y z)) fun r _ done => by
    rw [rowCheck, if_pos rfl]
  simp only [issueSta, gate_array harray, claimCheck_of_array harray, hlegal, check_true, hd, bind, Except.bind]
  exact hpipe

/-- MSTA whose accesses have been issued, each the whole of a row, and all go on at once. -/
theorem exec_msta_of_issued {v : State} {ps : List PipeItem} {d : XferDesc} (hd : readXfer (s.getS w) = d)
    (hissue : issueSta x y z w s = .ok (v, { items := ps, fault := none })) (hfork : v.st.fork = none) (hset : v.Settled)
    (hacc : ∀ q ∈ ps, v.Accessible true q.vc q.pa q.n) (hlocal : ∀ q ∈ ps, q.fabric = false)
    (hval : ∀ r ∈ span v.vbeg d.rows, v.accVal x.toNat r = some (c r))
    (hwhole : ∀ q ∈ ps, q.f = 0 ∧ q.i ∈ span v.vbeg d.rows ∧ q.n = d.len * (fmtWidth d.fmt / 8) ∧ v.accBad x.toNat q.i = false) :
    ∃ u, exec (.msta x y z w) s = .next u.vbegZero.advance ∧ Underway v u ∧ u.undef = v.undef ∧
      Joined v u (ps.map fun q => (q.pa, staBytes d.fmt d.len (c q.i), q.vc)) := by
  have hlen (q : PipeItem) (hq : q ∈ ps) : (staBytes d.fmt d.len (c q.i)).length = q.n :=
    (length_staBytes _ _ _).trans (hwhole q hq).2.2.1.symm
  have hdata : ps.map (fun q => (q, staData ps ((span v.vbeg d.rows).map fun r => (r, staBytes d.fmt d.len (c r))) q)) =
      ps.map fun q => (q, staBytes d.fmt d.len (c q.i)) := by
    refine List.map_congr_left fun q hq => congrArg (Prod.mk q) ?_
    obtain ⟨hfirst, hrow, -, -⟩ := hwhole q hq
    exact staData_of_first (g := fun r => staBytes d.fmt d.len (c r)) hfirst hrow (hlen q hq)
  obtain ⟨u, hstore, hunder, hundef, hjoin⟩ := storeParts_of_accessible (ps.map fun q => (q, staBytes d.fmt d.len (c q.i)))
    (bad := fun r => v.accBad x.toNat r) hfork hset (List.forall_mem_map.mpr hlen) (List.forall_mem_map.mpr hacc)
    (List.forall_mem_map.mpr fun q hq => (hwhole q hq).2.2.2)
  rw [List.map_map] at hjoin
  refine ⟨u, ?_, hunder, hundef, hjoin⟩
  have himage : ((span v.vbeg d.rows).zip ((span v.vbeg d.rows).map c)).map (fun p => (p.1, staBytes d.fmt d.len p.2)) =
      (span v.vbeg d.rows).map fun r => (r, staBytes d.fmt d.len (c r)) := by
    have hzip := List.zip_map' (f := id) (g := c) (l := span v.vbeg d.rows)
    rw [List.map_id] at hzip
    rw [hzip, List.map_map]
    rfl
  refine (congrArg finish (?_ : _ = Except.ok u.vbegZero.advance)).trans rfl
  simp only [hissue, bind, Except.bind, settledAll_of_accessible hacc, hd, accRows_of_accVal _ hval, himage, askParts_of_local hlocal,
    List.map_nil, List.foldl_nil, belowStop, filter_local hlocal]
  have hrun := (congrArg (fun ws => allOrStall v (v.storeParts ws fun r => v.accBad x.toNat r)) hdata).trans (congrArg (allOrStall v) hstore)
  exact congrArg (fun m : Run State => m.bind fun u =>
    .ok (u.endTransfer { acc := .write, akind := 2, tstride := s.getS z, total := d.rows } none)) hrun

/-- What a store of rows leaves beside the vector store buffer. -/
theorem underway_piped_frame {pipe : Pipe} {u : State} (h : Underway (s.piped pipe) u) (hundef : u.undef = s.undef) :
    let t := u.vbegZero.advance
    t = { s with
      retired := true, classes := t.classes, cache := t.cache, net := t.net
      st := { s.st with vbuf := t.st.vbuf, stores := t.st.stores }
      x := { s.x with pc := s.x.pc + 4, vbeg := 0, replies := [], pipe := none } } := by
  obtain ⟨_, undef, _, _, _, ⟨_, _, _, _, _, _, rfl⟩, rfl⟩ := h.form
  obtain rfl : undef = s.undef := hundef
  rfl

/-- MSTA (R225). -/
theorem exec_msta_leaves (halone : s.Alone) (harray : s.Array [x.toNat] []) (hlegal : xferLegal (s.getS w) true 256 = true)
    {d : XferDesc} (hd : readXfer (s.getS w) = d)
    (hrows : s.RowsAt .write (fmtWidth d.fmt / 8) (d.len * (fmtWidth d.fmt / 8)) (s.rowAt y z) p (span s.vbeg d.rows))
    (hcells : ∀ r ∈ span s.vbeg d.rows, s.accBad x.toNat r = false ∧ s.accVal x.toNat r = some (c r)) :
    ∃ t, exec (.msta x y z w) s = .next t ∧
      Joined s t ((span s.vbeg d.rows).map fun r => ((p r).pa, staBytes d.fmt d.len (c r), (p r).vc)) ∧
      t = { s with
        retired := true, classes := t.classes, cache := t.cache, net := t.net
        st := { s.st with vbuf := t.st.vbuf, stores := t.st.stores }
        x := { s.x with pc := s.x.pc + 4, vbeg := 0, replies := [], pipe := none } } := by
  have hissue := issueSta_of_rowsAt halone harray hlegal hd hrows
  have hunder := underway_piped s
    { items := rowItems (d.len * (fmtWidth d.fmt / 8)) (s.rowAt y z) p (span s.vbeg d.rows), fault := none }
  obtain ⟨u, hexec, hu, hundef, hjoin⟩ := exec_msta_of_issued (c := c) hd hissue (hunder.fork.trans halone.alone.1)
    (hunder.settled halone.settled) (rowItems_accessible hrows hunder) (rowItems_local hrows) (fun r hr => (hcells r hr).2)
    (forall_mem_rowItems.mpr fun r hr => ⟨rfl, hr, rfl, (hcells r hr).1⟩)
  rw [rowItems, List.map_map] at hjoin
  exact ⟨_, hexec, hjoin, underway_piped_frame hu hundef⟩

/-! ## MCURV (R233, R234) -/

theorem issueCurv_of_local (halone : s.Alone) (harray : s.Array [] []) (halign : (s.getS y).toNat % 32 = 0)
    (hpage : (s.getS y).toNat % 65536 + 96 ≤ 65536) {u : Xl} (hlocal : s.Local .read (s.getS y) 96 u) :
    let pipe : Pipe := { items := rowItems 96 (fun _ => s.getS y) (fun _ => u) [0], fault := none }
    issueCurv x y s = .ok (s.piped pipe, pipe) := by
  have hrows : s.RowsAt .read 1 96 (fun _ => s.getS y) (fun _ => u) [0] := fun _ _ => ⟨Nat.mod_one _, hpage, hlocal⟩
  have hpipe := pipeline_of_rowsAt halone (by decide) hrows (chk := plainCheck .read 1) fun _ _ _ => rfl
  simp only [issueCurv, gate_array harray, halone.alone.2, halign, check_true, bind, Except.bind, Bool.not_false, decide_true]
  exact hpipe

/-- MCURV whose access has been issued and goes on at once. -/
theorem exec_mcurv_of_issued {v : State} {q : PipeItem} (hissue : issueCurv x y s = .ok (v, { items := [q], fault := none }))
    (hfork : v.st.fork = none) (hset : v.Settled) (hacc : v.Accessible false q.vc q.pa q.n) (hlocal : q.fabric = false)
    (hfirst : q.i = 0 ∧ q.f = 0) :
    ∃ u, exec (.mcurv x y) s = .next
        (State.advance { u with st := { u.st with tables := vset u.st.tables x.toNat (BitVec.ofNat 768 (v.viewNum q.pa q.n)) } }) ∧
      LinesMove v u := by
  have hacc : ∀ o ∈ [q], v.Accessible false o.vc o.pa o.n := List.forall_mem_singleton.mpr hacc
  have hlocal : ∀ o ∈ [q], o.fabric = false := List.forall_mem_singleton.mpr hlocal
  obtain ⟨u, hread, hlines⟩ := readParts_of_accessible [q] hfork hset hacc
  have hjoin : joinParts 0 [(q, v.viewBytes true q.pa q.n, false)] = (v.viewBytes true q.pa q.n, false) := by
    simp [joinParts, hfirst]
  refine ⟨u, (congrArg finish (?_ : _ = Except.ok _)).trans rfl, hlines⟩
  simp only [hissue, bind, Except.bind, settledAll_of_accessible hacc, askParts_of_local hlocal, List.map_nil, List.foldl_nil,
    filter_local hlocal, hread, allOrStall, List.append_nil, List.map_cons, hjoin, Bool.not_false, check_true]
  rfl

/-- MCURV (R234). -/
theorem exec_mcurv_leaves (halone : s.Alone) (harray : s.Array [] []) (hx : x.toNat < 8) (halign : (s.getS y).toNat % 32 = 0)
    (hpage : (s.getS y).toNat % 65536 + 96 ≤ 65536) {u : Xl} (hlocal : s.Local .read (s.getS y) 96 u) :
    ∃ t, exec (.mcurv x y) s = .next t ∧
      vget t.st.tables 0 x.toNat = BitVec.ofNat 768 (s.viewNum u.pa 96) ∧
      (∀ j, j ≠ x.toNat → vget t.st.tables 0 j = vget s.st.tables 0 j) ∧
      t = { s with
        retired := true, classes := t.classes, cache := t.cache, net := t.net
        st := { s.st with tables := t.st.tables }
        x := { s.x with pc := s.x.pc + 4, replies := [], pipe := none } } := by
  have hunder := underway_piped s { items := rowItems 96 (fun _ => s.getS y) (fun _ => u) [0], fault := none }
  obtain ⟨v, hexec, hlines⟩ := exec_mcurv_of_issued (issueCurv_of_local (x := x) halone harray halign hpage hlocal)
    (hunder.fork.trans halone.alone.1) (hunder.settled halone.settled) ((accessible_of_local hlocal).underway hunder)
    (beq_eq_false_iff_ne.mpr hlocal.loc) ⟨rfl, rfl⟩
  obtain ⟨_, _, _, _, _, _, rfl⟩ := hlines
  exact ⟨_, hexec, vget_vset_same _ _ _ _ hx, fun j hj => vget_vset_ne _ _ _ _ _ hj.symm, rfl⟩

end

/-! ## The transfers (R224, R225, R233, R234, R236) -/

theorem matrixTransfers : Sys2Proof.Parts.MatrixTransfers := by
  intro s x y z w p c halone hx v d row todo reads
  have hmem (r : Nat) : r ∈ span s.vbeg d.rows ↔ todo r := mem_span
  have hrows {k : Acc} {e : Nat} (h : reads k e) : s.RowsAt k e (d.len * e) (s.rowAt y z) p (span s.vbeg d.rows) :=
    fun r hr => h r ((hmem r).mp hr)
  refine ⟨fun harray hlegal h => ?_, fun hx8 harray hlegal h => ?_, fun _ harray hlegal h hcells => ?_,
    fun u hx8 harray halign hpage hlocal => exec_mcurv_leaves halone harray hx8 halign hpage hlocal⟩
  · obtain ⟨t, hexec, hvbeg, hframe, hdone⟩ := exec_mlds_leaves halone harray hx hlegal rfl (hrows h)
    simp only [mem_span, false_and] at hframe
    rw [Nat.mul_one] at hdone
    exact ⟨t, hexec, hvbeg, hframe, fun r hr => hdone r ((hmem r).mpr hr)⟩
  · obtain ⟨t, hexec, hvbeg, hframe, hdone⟩ := exec_mlda_leaves halone harray hx8 hlegal rfl (hrows h)
    simp only [mem_span, false_and] at hframe
    exact ⟨t, hexec, hvbeg, hframe, fun r hr => hdone r ((hmem r).mpr hr)⟩
  · exact exec_msta_leaves halone harray hlegal rfl (hrows h) fun r hr => hcells r ((hmem r).mp hr)

/-- Settles O56, one part for each kind of instruction: a row that lies in one page is one access, so a transfer outside a fork reads or
stores its rows one after the other and leaves what that fold leaves. -/
theorem matrixStores : Obligations.MatrixStores :=
  ⟨matrixShapeAndClaims, matrixRowsAndWait, matrixTransfers, matrixDispatchTraps⟩

end Sys2Proof.Machine

/-! What an ordering instruction leaves of a strand's store buffers: a buffer drains to memory what its class saw, and once every store
is performed with respect to the core, memory comes to hold the stores of both classes in program order (10 R240 to R243, R247, R249). -/

namespace Sys2Proof.Machine

/-! ## What leaves the waiting stores alone -/

/-- The stores of a strand that wait in its two buffers. -/
def Strand.buffers (a : Strand) : List BufStore × List BufStore := (a.sbuf, a.vbuf)

theorem buffers_countBy (a : Strand) (ev k : Nat) (user : Bool) : (a.countBy ev k user).buffers = a.buffers := by
  obtain ⟨_, _, _, h⟩ := countsOnly_countBy a ev k user
  rw [h]
  rfl

theorem buffers_discardFrom (k : Nat) (charge : Bool) (r : Runner) : (discardFrom k charge r).st.buffers = r.st.buffers := by
  unfold discardFrom
  split
  · rfl
  · cases charge with
    | false => rfl
    | true => exact buffers_countBy r.st _ _ _

theorem buffers_externalWrite (line : Nat) (r : Runner) : (externalWrite line r).st.buffers = r.st.buffers := by
  unfold externalWrite squashFrom
  split
  · rfl
  · split
    · rfl
    · split_ifs
      · rfl
      · exact buffers_discardFrom _ true r
      · rfl

theorem buffers_releaseWait (c : BitVec 8) (p : BitVec 32) (a : Strand) : (releaseWait c p a).buffers = a.buffers := by
  unfold releaseWait
  split
  · split_ifs <;> rfl
  · rfl

/-- The focus strand has the same stores waiting after as before, and no addition pends that did not. -/
def StoresStay (s t : State) : Prop := t.st.buffers = s.st.buffers ∧ t.scatter ⊆ s.scatter

theorem scatter_fabOut (s : State) (ep : Nat) (a : Word) (p : List Byte) : (s.fabOut ep a p).scatter = s.scatter := by
  unfold State.fabOut
  split_ifs
  · rfl
  · split <;> rfl

theorem scatter_bankAdd (s : State) (v k n : Nat) : (s.bankAdd v k n).scatter = s.scatter := by
  unfold State.bankAdd State.tellSupervisor State.hubSend
  dsimp only
  split_ifs
  · rfl
  · rfl
  · split
    · rfl
    · rfl
    · exact scatter_fabOut _ _ _ _
  · rfl

namespace StoresStay

theorem refl (s : State) : StoresStay s s := ⟨rfl, fun _ h => h⟩

theorem trans {s t u : State} (h : StoresStay s t) (k : StoresStay t u) : StoresStay s u :=
  ⟨k.1.trans h.1, fun _ hc => h.2 (k.2 hc)⟩

theorem foldl {α : Type} {f : State → α → State} (hf : ∀ s a, StoresStay s (f s a)) (l : List α) (s : State) :
    StoresStay s (l.foldl f s) := foldl_keeps refl trans hf l s

theorem of_eq {s t : State} (hst : t.st.buffers = s.st.buffers) (hscatter : t.scatter = s.scatter) : StoresStay s t :=
  ⟨hst, fun _ h => hscatter ▸ h⟩

theorem of_linesMove {s t : State} (h : LinesMove s t) : StoresStay s t := by
  obtain ⟨_, _, _, _, _, _, rfl⟩ := h
  exact refl s

theorem countBank (s : State) (ev vc : Nat) (req : Option Nat) : StoresStay s (s.countBank ev vc req) := by
  unfold State.countBank
  split
  · exact refl s
  · refine foldl (fun s k => ?_) _ s
    split_ifs
    · exact of_eq (congrArg Strand.buffers (st_bankAdd s _ k 1)) (scatter_bankAdd s _ k 1)
    · exact refl s

theorem writeSeen (s : State) (own : Bool) (l : Nat) : StoresStay s (s.writeSeen own l) := by
  cases own with
  | true => exact refl s
  | false => exact of_eq (buffers_externalWrite l _) rfl

theorem mapStrand {f : Strand → Strand} (hf : ∀ a, (f a).buffers = a.buffers) (s : State) (id : StrandId) :
    StoresStay s (s.mapStrand id f) := by
  unfold State.mapStrand
  split_ifs
  · exact of_eq (hf s.st) rfl
  · exact refl s

theorem disturb (s : State) (l : Nat) : StoresStay s (s.disturb l) := by
  unfold State.disturb State.releaseAt
  split_ifs
  · exact foldl (fun s w => mapStrand (buffers_releaseWait _ _) s _) _ { s with waiters := _ }
  · exact refl s

theorem perform (s : State) (own : Bool) (pa : Nat) (bs : List Byte) : StoresStay s (s.perform own pa bs) :=
  foldl (fun s l => (writeSeen s own l).trans (disturb _ l)) _ (s.pokeBytes pa bs)

theorem applyScatter (s : State) (pa : Nat) : StoresStay s (s.applyScatter pa) := by
  unfold State.applyScatter
  dsimp only
  split
  · exact refl s
  · refine ((trans ?_ (countBank _ _ _ _)).trans (of_linesMove (LinesMove.recallFrom _ _ _))).trans (perform _ _ _ _)
    exact ⟨rfl, fun _ hc => (List.mem_filter.mp hc).1⟩

theorem flushScatter (s : State) (id : StrandId) : StoresStay s (s.flushScatter id) :=
  foldl (fun s (c : Scatter) => applyScatter s c.pa) _ s

theorem drainOne (s : State) (b : BufStore) : StoresStay s (s.drainOne b) :=
  (of_linesMove (LinesMove.storePackets s _ _ _)).trans (perform _ true _ _)

theorem buffer {s t : State} (h : StoresStay s t) (v : Bool) : t.buffer v = s.buffer v := by
  cases v with
  | false => exact congrArg Prod.fst h.1
  | true => exact congrArg Prod.snd h.1

end StoresStay

/-! ## What a drain leaves in the buffers (R241) -/

theorem buffer_setBuffer (s : State) (v w : Bool) (b : List BufStore) :
    (s.setBuffer v b).buffer w = if w = v then b else s.buffer w := by
  cases v <;> cases w <;> rfl

theorem buffer_drainCount (s : State) (v w : Bool) (k : Nat) :
    (s.drainCount v k).buffer w = if w = v then (s.buffer v).drop k else s.buffer w :=
  ((StoresStay.foldl StoresStay.drainOne _ _).buffer w).trans (buffer_setBuffer s v w _)

/-- The oldest store leaves its buffer, and from the other buffer those that precede it. -/
theorem buffer_drainOldest (s : State) (v : Bool) :
    (s.drainOldest v).buffer v = (s.buffer v).tail ∧ (s.drainOldest v).buffer (!v) <:+ s.buffer (!v) := by
  unfold State.drainOldest
  cases hb : s.buffer v with
  | nil => exact ⟨hb, List.suffix_rfl⟩
  | cons b rest =>
    dsimp only
    have hstay (c : Bool) : StoresStay s (if c then s.flushScatter s.st.id else s) := by
      split_ifs
      · exact StoresStay.flushScatter s _
      · exact StoresStay.refl s
    simp only [buffer_drainCount, Bool.eq_not_self, Bool.not_eq_self, if_true, if_false, (hstay _).buffer, hb]
    exact ⟨List.drop_one, List.drop_suffix _ _⟩

theorem buffer_foldl_drainOldest (v : Bool) (l : List BufStore) (s : State) :
    (l.foldl (fun s _ => s.drainOldest v) s).buffer v = (s.buffer v).drop l.length ∧
      (l.foldl (fun s _ => s.drainOldest v) s).buffer (!v) <:+ s.buffer (!v) := by
  induction l generalizing s with
  | nil => exact ⟨rfl, List.suffix_rfl⟩
  | cons b l ih =>
    obtain ⟨hown, hother⟩ := buffer_drainOldest s v
    obtain ⟨ihown, ihother⟩ := ih (s.drainOldest v)
    exact ⟨by rw [List.foldl_cons, ihown, hown, List.drop_tail, List.length_cons], ihother.trans hother⟩

theorem buffer_drainBuffer (s : State) (v : Bool) :
    (s.drainBuffer v).buffer v = [] ∧ (s.drainBuffer v).buffer (!v) <:+ s.buffer (!v) := by
  obtain ⟨hown, hother⟩ := buffer_foldl_drainOldest v (s.buffer v) s
  exact ⟨hown.trans List.drop_length, hother⟩

theorem buffer_drainAll (s : State) (v : Bool) : s.drainAll.buffer v = [] := by
  obtain ⟨hvector, hscalar⟩ := buffer_drainBuffer s.drainScalar true
  cases v with
  | true => exact hvector
  | false => exact List.suffix_nil.mp ((buffer_drainBuffer s false).1 ▸ hscalar)

/-! ## What a drain leaves in memory -/

/-- Memory is canonical, and no addition of the focus strand pends at the memory ports. -/
structure Settled (s : State) : Prop where
  wf : s.memWf = true
  adds : ∀ c ∈ s.scatter, c.owner ≠ s.st.id

theorem flushScatter_of_none {s : State} {id : StrandId} (h : ∀ c ∈ s.scatter, c.owner ≠ id) : s.flushScatter id = s := by
  have hnone : s.scatter.filter (fun c => c.owner == id) = [] := List.filter_eq_nil_iff.mpr fun c hc => by simp [h c hc]
  rw [State.flushScatter, hnone]
  rfl

namespace Settled

theorem drainCount {s : State} (h : Settled s) (v : Bool) (k : Nat) : Settled (s.drainCount v k) where
  wf := memWf_drainCount s v k h.wf
  adds c hc := by
    have hsub : (s.drainCount v k).scatter ⊆ (s.setBuffer v _).scatter := (StoresStay.foldl StoresStay.drainOne _ _).2
    have hset (b : List BufStore) : (s.setBuffer v b).scatter = s.scatter := by cases v <;> rfl
    rw [(Kept.drainCount s v k).id]
    exact h.adds c (hset _ ▸ hsub hc)

/-- With no additions pending, the oldest store leaves its buffer after those of the other buffer that precede it. -/
theorem drainOldest_eq {s : State} (h : Settled s) {v : Bool} {b : BufStore} {rest : List BufStore} (hb : s.buffer v = b :: rest) :
    s.drainOldest v = (s.drainCount (!v) (mustPrecede b (s.buffer !v))).drainCount v 1 := by
  unfold State.drainOldest
  rw [hb]
  dsimp only
  rw [flushScatter_of_none h.adds, ite_self]

theorem drainOldest {s : State} (h : Settled s) (v : Bool) : Settled (s.drainOldest v) := by
  cases hb : s.buffer v with
  | nil => rwa [State.drainOldest, hb]
  | cons b rest =>
    rw [h.drainOldest_eq hb]
    exact (h.drainCount _ _).drainCount _ _

end Settled

theorem bufByte_cons (b : BufStore) (l : List BufStore) (q : Nat) : bufByte (b :: l) q = (bufByte l q).or (b.byteAt q) := by
  simp [bufByte, List.findSome?_append]

theorem memByte_drainOne {s : State} (h : s.memWf = true) (b : BufStore) (q : Nat) :
    (s.drainOne b).memByte q = (b.byteAt q).getD (s.memByte q) := by
  unfold State.memByte
  rw [mem_drainOne]
  by_cases hq : q < b.pa ∨ b.pa + b.data.length ≤ q
  · rw [byteAt_out b hq, Memory.read_writeBytes_out _ _ _ hq, Option.getD_none]
  · obtain ⟨i, rfl⟩ : ∃ i, q = b.pa + i := ⟨q - b.pa, by omega⟩
    have hi : i < b.data.length := by omega
    rw [byteAt_in b hi, Memory.read_writeBytes_in _ _ _ h hi, Option.getD_some]

theorem memByte_foldl_drainOne (l : List BufStore) {s : State} (h : s.memWf = true) (q : Nat) :
    (l.foldl State.drainOne s).memByte q = (bufByte l q).getD (s.memByte q) := by
  induction l generalizing s with
  | nil => rfl
  | cons b l ih =>
    rw [List.foldl_cons, ih (memWf_drainOne s b h), memByte_drainOne h, bufByte_cons]
    cases bufByte l q <;> rfl

theorem memByte_drainCount {s : State} (h : s.memWf = true) (v : Bool) (k q : Nat) :
    (s.drainCount v k).memByte q = (bufByte ((s.buffer v).take k) q).getD (s.memByte q) := by
  have hmem (b : List BufStore) : (s.setBuffer v b).mem = s.mem := mem_setBuffer s v b
  rw [State.drainCount, memByte_foldl_drainOne _ (wf_of_mem (hmem _) h), State.memByte, hmem]
  rfl

theorem Settled.memByte_drainOldest {s : State} (h : Settled s) {v : Bool} {b : BufStore} {rest : List BufStore}
    (hb : s.buffer v = b :: rest) (q : Nat) : (s.drainOldest v).memByte q =
      (b.byteAt q).getD ((bufByte ((s.buffer !v).take (mustPrecede b (s.buffer !v))) q).getD (s.memByte q)) := by
  have hown : (s.drainCount (!v) (mustPrecede b (s.buffer !v))).buffer v = b :: rest := by simp [buffer_drainCount, hb]
  rw [h.drainOldest_eq hb, memByte_drainCount (memWf_drainCount s _ _ h.wf), hown, memByte_drainCount h.wf]
  simp [bufByte]

/-! ## With nothing ordered between the classes (R240, R241) -/

theorem bufByte_eq_bufLast (l : List BufStore) (q : Nat) : bufByte l q = (bufLast l q).map (·.2) := by
  unfold bufByte bufLast
  induction l.reverse with
  | nil => rfl
  | cons b l ih =>
    rw [List.findSome?_cons, List.findSome?_cons]
    cases b.byteAt q with
    | none => exact ih
    | some v => rfl

/-- No store of the class is performed with respect to the core, so the other class does not see any. -/
def State.Unjoined (s : State) (v : Bool) : Prop := ∀ e ∈ s.buffer v, e.joined = false

theorem viewByte_of_unjoined {s : State} {v : Bool} (h : s.Unjoined !v) (q : Nat) :
    s.viewByte v q = (bufByte (s.buffer v) q).getD (s.memByte q) := by
  have hnone : (s.buffer !v).filter (·.joined) = [] := List.filter_eq_nil_iff.mpr fun e he => by simp [h e he]
  rw [State.viewByte, hnone, bufByte_eq_bufLast]
  cases bufLast (s.buffer v) q <;> rfl

theorem mustPrecede_of_unjoined {b : BufStore} {l : List BufStore} (h : ∀ e ∈ l, e.joined = false) : mustPrecede b l = 0 := by
  rw [mustPrecede, List.length_eq_zero_iff, List.dropWhile_eq_nil_iff]
  exact fun e he => by simp [h e (List.mem_reverse.mp he)]

/-- A buffer whose stores follow none of the other class drains alone, oldest first. -/
theorem foldl_drainOldest_of_unjoined {v : Bool} (l : List BufStore) {s : State} (h : Settled s) (hother : s.Unjoined !v)
    (hl : s.buffer v = l) (q : Nat) :
    (l.foldl (fun s _ => s.drainOldest v) s).memByte q = (bufByte l q).getD (s.memByte q) ∧
      Settled (l.foldl (fun s _ => s.drainOldest v) s) ∧
      (l.foldl (fun s _ => s.drainOldest v) s).buffer (!v) = s.buffer (!v) := by
  induction l generalizing s with
  | nil => exact ⟨rfl, h, rfl⟩
  | cons b l ih =>
    have hfirst := mustPrecede_of_unjoined (b := b) hother
    have hstays : (s.drainOldest v).buffer (!v) = s.buffer (!v) := by
      rw [h.drainOldest_eq hl, hfirst]
      simp [buffer_drainCount]
    have hmem : (s.drainOldest v).memByte q = (b.byteAt q).getD (s.memByte q) := by
      rw [h.memByte_drainOldest hl, hfirst]
      rfl
    have hunjoined : (s.drainOldest v).Unjoined !v := by rwa [State.Unjoined, hstays]
    obtain ⟨ihmem, ihsettled, ihstays⟩ := ih (h.drainOldest v) hunjoined ((buffer_drainOldest s v).1.trans (by rw [hl]; rfl))
    refine ⟨?_, ihsettled, ihstays.trans hstays⟩
    rw [List.foldl_cons, ihmem, hmem, bufByte_cons]
    cases bufByte l q <;> rfl

theorem drainBuffer_of_unjoined {s : State} {v : Bool} (h : Settled s) (hother : s.Unjoined !v) (q : Nat) :
    (s.drainBuffer v).memByte q = (bufByte (s.buffer v) q).getD (s.memByte q) ∧ Settled (s.drainBuffer v) ∧
      (s.drainBuffer v).buffer (!v) = s.buffer (!v) :=
  foldl_drainOldest_of_unjoined _ h hother rfl q

theorem memByte_drainAll_of_unjoined {s : State} (h : Settled s) (hvector : s.Unjoined true) (q : Nat) :
    s.drainAll.memByte q = (bufByte s.st.vbuf q).getD ((bufByte s.st.sbuf q).getD (s.memByte q)) := by
  obtain ⟨hmem, hsettled, hstays⟩ := drainBuffer_of_unjoined (v := false) h hvector q
  have hempty : s.drainScalar.Unjoined false := fun e he => absurd ((buffer_drainBuffer s false).1 ▸ he) List.not_mem_nil
  have hvbuf : s.drainScalar.buffer true = s.st.vbuf := hstays
  have hvectors := (drainBuffer_of_unjoined (s := s.drainScalar) (v := true) hsettled hempty q).1
  rw [hvbuf] at hvectors
  exact hvectors.trans (congrArg _ hmem)

/-! ## Program order between the classes (R242, R247, R249) -/

theorem laterStore_of_earlier {a b : Option (Nat × Byte)} (h : ∀ p ∈ a, ∀ r ∈ b, p.1 < r.1) : laterStore a b = b.or a := by
  cases a with
  | none => cases b <;> rfl
  | some p =>
    cases b with
    | none => rfl
    | some r => exact if_pos (h p rfl r rfl)

theorem laterStore_of_later {a b : Option (Nat × Byte)} (h : ∀ p ∈ a, ∀ r ∈ b, r.1 < p.1) : laterStore a b = a.or b := by
  cases a with
  | none => cases b <;> rfl
  | some p =>
    cases b with
    | none => rfl
    | some r => exact if_neg (Nat.not_lt.mpr (h p rfl r rfl).le)

theorem laterStore_comm {a b : Option (Nat × Byte)} (h : ∀ p ∈ a, ∀ r ∈ b, p.1 ≠ r.1) : laterStore a b = laterStore b a := by
  cases a with
  | none => cases b <;> rfl
  | some p =>
    cases b with
    | none => rfl
    | some r =>
      obtain hlt | hlt := Nat.lt_or_gt_of_ne (h p rfl r rfl)
      · exact (if_pos hlt).trans (if_neg hlt.le.not_gt).symm
      · exact (if_neg hlt.le.not_gt).trans (if_pos hlt).symm

/-- A store at place `n`, and under it the older ones of the other class, may be taken out of a join: every store that stays in its own
class is younger, and so is each of the other class that it could hide. -/
theorem laterStore_or {x y z : Option (Nat × Byte)} {o : Option Byte} {n : Nat} (hx : ∀ p ∈ x, n < p.1) (hy : ∀ r ∈ y, r.1 < n)
    (hz : o.isSome = true → ∀ r ∈ z, n < r.1) :
    laterStore (x.or (o.map fun w => (n, w))) (z.or y) = (laterStore x z).or ((o.map fun w => (n, w)).or y) := by
  cases x with
  | none =>
    cases o with
    | none => cases z <;> cases y <;> rfl
    | some w =>
      cases z with
      | none => exact laterStore_of_later fun p hp r hr => Option.mem_some_iff.mp hp ▸ hy r hr
      | some r => exact if_pos (hz rfl r rfl)
  | some p =>
    cases z with
    | none => exact laterStore_of_later fun p hp r hr => (hy r hr).trans (hx p hp)
    | some r =>
      simp only [Option.some_or, laterStore]
      split_ifs <;> rfl

theorem bufLast_cons (b : BufStore) (l : List BufStore) (q : Nat) :
    bufLast (b :: l) q = (bufLast l q).or ((b.byteAt q).map fun v => (b.seq, v)) := by
  simp [bufLast, List.findSome?_append]

theorem bufLast_append_list (l m : List BufStore) (q : Nat) : bufLast (l ++ m) q = (bufLast m q).or (bufLast l q) := by
  simp [bufLast, List.findSome?_append]

/-- The store that decides a byte is one of the list, and covers it. -/
theorem exists_of_mem_bufLast {l : List BufStore} {q : Nat} {p : Nat × Byte} (h : p ∈ bufLast l q) :
    ∃ e ∈ l, e.seq = p.1 ∧ e.byteAt q = some p.2 := by
  obtain ⟨e, he, hp⟩ := List.exists_of_findSome?_eq_some h
  obtain ⟨v, hv, rfl⟩ := Option.map_eq_some_iff.mp hp
  exact ⟨e, List.mem_reverse.mp he, rfl, hv⟩

theorem covers_of_byteAt {e : BufStore} {q : Nat} {v : Byte} (h : e.byteAt q = some v) : e.pa ≤ q ∧ q < e.pa + e.data.length := by
  by_contra hout
  rw [byteAt_out e (by omega)] at h
  cases h

theorem overlaps_of_byteAt {b e : BufStore} {q : Nat} {v w : Byte} (hb : b.byteAt q = some v) (he : e.byteAt q = some w) :
    e.overlaps b.pa b.data.length = true := by
  obtain ⟨hb1, hb2⟩ := covers_of_byteAt hb
  obtain ⟨he1, he2⟩ := covers_of_byteAt he
  simp only [BufStore.overlaps, Bool.and_eq_true, decide_eq_true_eq]
  omega

/-- The store `e` of the other class leaves before `b`. -/
def BufStore.precedes (e b : BufStore) : Bool := e.joined && decide (e.seq < b.seq) && e.overlaps b.pa b.data.length

theorem seq_lt_of_precedes {b e : BufStore} (h : e.precedes b = true) : e.seq < b.seq := by
  simp only [BufStore.precedes, Bool.and_eq_true, decide_eq_true_eq] at h
  obtain ⟨⟨-, holder⟩, -⟩ := h
  exact holder

theorem take_mustPrecede (b : BufStore) (l : List BufStore) :
    l.take (mustPrecede b l) = l.rdropWhile (fun e => !e.precedes b) := by
  have hlen : mustPrecede b l = (l.rdropWhile (fun e => !e.precedes b)).length := List.length_reverse.symm
  rw [hlen]
  exact (List.prefix_iff_eq_take.mp (List.rdropWhile_prefix _ _)).symm

theorem drop_mustPrecede (b : BufStore) (l : List BufStore) :
    l.drop (mustPrecede b l) = l.rtakeWhile (fun e => !e.precedes b) := by
  have hsplit := (List.take_append_drop (mustPrecede b l) l).trans (List.rdropWhile_append_rtakeWhile (p := fun e => !e.precedes b)).symm
  rw [take_mustPrecede] at hsplit
  exact List.append_cancel_left hsplit

/-- In program order, the stores that leave before `b` are all older than it. -/
theorem seq_lt_of_mem_take {b e : BufStore} {l : List BufStore} (hrising : l.Pairwise (fun a c => a.seq < c.seq))
    (he : e ∈ l.take (mustPrecede b l)) : e.seq < b.seq := by
  rw [take_mustPrecede] at he
  have hne := List.ne_nil_of_mem he
  have hlast : (List.getLast _ hne).precedes b = true := by simpa using List.rdropWhile_last_not _ l hne
  have hle : e.seq ≤ (List.getLast _ hne).seq :=
    ((hrising.sublist (List.rdropWhile_prefix _ _).sublist).imp Nat.le_of_lt).rel_getLast_of_rel_getLast_getLast he (Nat.le_refl _)
  exact hle.trans_lt (seq_lt_of_precedes hlast)

/-- Of the stores that stay, each that covers a byte of `b` is younger. -/
theorem seq_lt_of_mem_drop {b e : BufStore} {l : List BufStore} {q : Nat} {v w : Byte} (he : e ∈ l.drop (mustPrecede b l))
    (hjoined : e.joined = true) (hne : b.seq ≠ e.seq) (hb : b.byteAt q = some v) (hcovers : e.byteAt q = some w) : b.seq < e.seq := by
  rw [drop_mustPrecede] at he
  have hstays : e.precedes b = false := by simpa using List.mem_rtakeWhile_imp he
  simp only [BufStore.precedes, hjoined, overlaps_of_byteAt hb hcovers, Bool.true_and, Bool.and_true, decide_eq_false_iff_not] at hstays
  omega

/-- Taking out `b`, the oldest store of one class, and before it those of the other class that precede it, leaves their bytes under
those of the stores that stay. -/
theorem laterStore_cons {b : BufStore} {rest l : List BufStore} (hrest : ∀ e ∈ rest, b.seq < e.seq)
    (hrising : l.Pairwise (fun a c => a.seq < c.seq)) (hjoined : ∀ e ∈ l, e.joined = true) (hne : ∀ e ∈ l, b.seq ≠ e.seq)
    (q : Nat) : laterStore (bufLast (b :: rest) q) (bufLast l q) =
      (laterStore (bufLast rest q) (bufLast (l.drop (mustPrecede b l)) q)).or
        (((b.byteAt q).map fun v => (b.seq, v)).or (bufLast (l.take (mustPrecede b l)) q)) := by
  have hsplit : bufLast l q = (bufLast (l.drop (mustPrecede b l)) q).or (bufLast (l.take (mustPrecede b l)) q) := by
    rw [← bufLast_append_list, List.take_append_drop]
  rw [bufLast_cons, hsplit]
  refine laterStore_or (fun p hp => ?_) (fun r hr => ?_) (fun hcovers r hr => ?_)
  · obtain ⟨e, he, hseq, -⟩ := exists_of_mem_bufLast hp
    exact hseq ▸ hrest e he
  · obtain ⟨e, he, hseq, -⟩ := exists_of_mem_bufLast hr
    exact hseq ▸ seq_lt_of_mem_take hrising he
  · obtain ⟨e, he, hseq, hbyte⟩ := exists_of_mem_bufLast hr
    obtain ⟨v, hv⟩ := Option.isSome_iff_exists.mp hcovers
    have hmem := List.mem_of_mem_drop he
    exact hseq ▸ seq_lt_of_mem_drop he (hjoined e hmem) (hne e hmem) hv hbyte

/-- The focus strand's stores are all performed with respect to its core, each buffer holds them in program order, and no two of
different classes have one place in it. -/
structure InOrder (s : State) : Prop where
  joined : ∀ v, ∀ e ∈ s.buffer v, e.joined = true
  rising : ∀ v, (s.buffer v).Pairwise (fun a b => a.seq < b.seq)
  distinct : ∀ v, ∀ a ∈ s.buffer v, ∀ b ∈ s.buffer (!v), a.seq ≠ b.seq

namespace InOrder

theorem of_suffix {s t : State} (h : InOrder s) (hsub : ∀ v, t.buffer v <:+ s.buffer v) : InOrder t where
  joined v e he := h.joined v e ((hsub v).mem he)
  rising v := (h.rising v).sublist (hsub v).sublist
  distinct v a ha b hb := h.distinct v a ((hsub v).mem ha) b ((hsub _).mem hb)

theorem drainOldest {s : State} (h : InOrder s) (v : Bool) : InOrder (s.drainOldest v) := by
  obtain ⟨hown, hother⟩ := buffer_drainOldest s v
  refine h.of_suffix fun w => ?_
  obtain rfl | rfl : w = v ∨ w = !v := by cases w <;> cases v <;> decide
  · exact hown ▸ List.tail_suffix _
  · exact hother

/-- Program order does not depend on which class is named first. -/
theorem joinByte_eq {s : State} (h : InOrder s) (v : Bool) (q : Nat) :
    s.joinByte q = ((laterStore (bufLast (s.buffer v) q) (bufLast (s.buffer !v) q)).map (·.2)).getD (s.memByte q) := by
  have hcomm : laterStore (bufLast (s.buffer false) q) (bufLast (s.buffer true) q) =
      laterStore (bufLast (s.buffer true) q) (bufLast (s.buffer false) q) := by
    refine laterStore_comm fun p hp r hr => ?_
    obtain ⟨a, ha, hseqa, -⟩ := exists_of_mem_bufLast hp
    obtain ⟨b, hb, hseqb, -⟩ := exists_of_mem_bufLast hr
    exact hseqa ▸ hseqb ▸ h.distinct false a ha b hb
  cases v with
  | false => rfl
  | true => exact congrArg (fun o => (Option.map Prod.snd o).getD (s.memByte q)) hcomm

/-- A store that leaves its buffer after those that precede it takes the place in memory that it had in the join of the buffers. -/
theorem joinByte_drainOldest {s : State} (h : InOrder s) (hset : Settled s) (v : Bool) (q : Nat) :
    (s.drainOldest v).joinByte q = s.joinByte q := by
  cases hb : s.buffer v with
  | nil => rw [State.drainOldest, hb]
  | cons b rest =>
    let k := mustPrecede b (s.buffer !v)
    have hown : (s.drainOldest v).buffer v = rest := by rw [(buffer_drainOldest s v).1, hb]; rfl
    have hother : (s.drainOldest v).buffer (!v) = (s.buffer !v).drop k := by
      rw [hset.drainOldest_eq hb]
      simp [buffer_drainCount, k]
    have hrising : (b :: rest).Pairwise (fun a c => a.seq < c.seq) := hb ▸ h.rising v
    have hne := h.distinct v b (hb ▸ List.mem_cons_self)
    rw [(h.drainOldest v).joinByte_eq v, h.joinByte_eq v, hown, hother, hb, hset.memByte_drainOldest hb, bufByte_eq_bufLast,
      laterStore_cons (List.pairwise_cons.mp hrising).1 (h.rising _) (h.joined _) hne]
    cases laterStore (bufLast rest q) (bufLast ((s.buffer !v).drop k) q) <;> cases b.byteAt q <;> rfl

theorem foldl_drainOldest {s : State} (h : InOrder s) (hset : Settled s) (v : Bool) (q : Nat) (l : List BufStore) :
    let t := l.foldl (fun s _ => s.drainOldest v) s
    InOrder t ∧ Settled t ∧ t.joinByte q = s.joinByte q := by
  induction l generalizing s with
  | nil => exact ⟨h, hset, rfl⟩
  | cons b l ih =>
    obtain ⟨hord, hsettled, hjoin⟩ := ih (h.drainOldest v) (hset.drainOldest v)
    exact ⟨hord, hsettled, hjoin.trans (h.joinByte_drainOldest hset v q)⟩

/-- Memory comes to hold the join of the two buffers. -/
theorem memByte_drainAll {s : State} (h : InOrder s) (hset : Settled s) (q : Nat) : s.drainAll.memByte q = s.joinByte q := by
  obtain ⟨hord, hsettled, hjoin⟩ := h.foldl_drainOldest hset false q (s.buffer false)
  obtain ⟨-, -, hjoin'⟩ := hord.foldl_drainOldest hsettled true q _
  have hnone : s.drainAll.joinByte q = s.drainAll.memByte q := by
    have hs : s.drainAll.st.sbuf = [] := buffer_drainAll s false
    have hv : s.drainAll.st.vbuf = [] := buffer_drainAll s true
    rw [State.joinByte, hs, hv]
    rfl
  exact hnone.symm.trans (hjoin'.trans hjoin)

end InOrder

/-! ## Every store performed with respect to the core (R247, R249) -/

/-- The store, performed with respect to its strand's own core. -/
def BufStore.join (e : BufStore) : BufStore := { e with joined := true }

theorem bufLast_map_join (l : List BufStore) (q : Nat) : bufLast (l.map BufStore.join) q = bufLast l q := by
  unfold bufLast
  rw [← List.map_reverse, List.findSome?_map]
  rfl

/-- With no additions pending, joinAll marks the stores of both buffers and does nothing else. -/
theorem joinAll_of_settled {s : State} (h : Settled s) : s.joinAll =
    { s with st := { s.st with sbuf := s.st.sbuf.map BufStore.join, vbuf := s.st.vbuf.map BufStore.join } } :=
  flushScatter_of_none h.adds

section
variable {s : State} (hset : Settled s)
include hset

theorem buffer_joinAll (v : Bool) : s.joinAll.buffer v = (s.buffer v).map BufStore.join := by
  rw [joinAll_of_settled hset]
  cases v <;> rfl

theorem memByte_joinAll (q : Nat) : s.joinAll.memByte q = s.memByte q := by
  rw [joinAll_of_settled hset]
  rfl

theorem joinByte_joinAll (q : Nat) : s.joinAll.joinByte q = s.joinByte q := by
  have hs : s.joinAll.st.sbuf = s.st.sbuf.map BufStore.join := buffer_joinAll hset false
  have hv : s.joinAll.st.vbuf = s.st.vbuf.map BufStore.join := buffer_joinAll hset true
  rw [State.joinByte, State.joinByte, hs, hv, bufLast_map_join, bufLast_map_join, memByte_joinAll hset]

theorem settled_joinAll : Settled s.joinAll := by
  rw [joinAll_of_settled hset]
  exact ⟨hset.wf, hset.adds⟩

theorem inOrder_joinAll (hnodup : ((s.st.sbuf ++ s.st.vbuf).map (·.seq)).Nodup) (hscalar : (s.st.sbuf.map (·.seq)).Pairwise (· < ·))
    (hvector : (s.st.vbuf.map (·.seq)).Pairwise (· < ·)) : InOrder s.joinAll where
  joined v e he := by
    obtain ⟨a, -, rfl⟩ := List.mem_map.mp (buffer_joinAll hset v ▸ he)
    rfl
  rising v := by
    rw [buffer_joinAll hset, List.pairwise_map]
    cases v with
    | false => exact List.pairwise_map.mp hscalar
    | true => exact List.pairwise_map.mp hvector
  distinct v a ha b hb := by
    obtain ⟨c, hc, rfl⟩ := List.mem_map.mp (buffer_joinAll hset v ▸ ha)
    obtain ⟨d, hd, rfl⟩ := List.mem_map.mp (buffer_joinAll hset _ ▸ hb)
    have hne : ∀ c ∈ s.st.sbuf, ∀ d ∈ s.st.vbuf, c.seq ≠ d.seq := fun c hc d hd => by
      rw [List.map_append] at hnodup
      exact (List.nodup_append.mp hnodup).2.2 _ (List.mem_map_of_mem hc) _ (List.mem_map_of_mem hd)
    cases v with
    | false => exact hne c hc d hd
    | true => exact (hne d hd c hc).symm

end

/-- Each class sees the stores of both in program order. -/
theorem InOrder.viewByte {s : State} (h : InOrder s) (v : Bool) (q : Nat) : s.viewByte v q = s.joinByte q := by
  have hall : (s.buffer !v).filter (·.joined) = s.buffer !v := List.filter_eq_self.mpr (h.joined _)
  rw [State.viewByte, hall, h.joinByte_eq v]

/-- Settles O13: an unjoined buffer drains alone, store over store; of joined ones the oldest leaves after the older stores of the other
class that it overlaps, so that every drained store keeps the join of the buffers over memory. -/
theorem drainPerformsBufferedStores : Obligations.DrainPerformsBufferedStores := by
  intro s q hwf
  refine ⟨(buffer_drainBuffer s false).1, (buffer_drainBuffer s true).1, buffer_drainAll s false, buffer_drainAll s true,
    fun hunjoined hadds => ?_, fun hadds hnodup hscalar hvector => ?_⟩
  · have hset : Settled s := ⟨hwf, hadds⟩
    have hs : s.Unjoined false := fun e he => hunjoined e (List.mem_append_left _ he)
    have hv : s.Unjoined true := fun e he => hunjoined e (List.mem_append_right _ he)
    have hviews := viewByte_of_unjoined (v := false) hv q
    have hviewv := viewByte_of_unjoined (v := true) hs q
    obtain ⟨hmems, -, hstays⟩ := drainBuffer_of_unjoined (v := false) hset hv q
    obtain ⟨hmemv, -, -⟩ := drainBuffer_of_unjoined (v := true) hset hs q
    refine ⟨hviews, hviewv, hmems.trans hviews.symm, hmemv.trans hviewv.symm, memByte_drainAll_of_unjoined hset hv q, fun pa n => ?_⟩
    have hdone : s.scalarDone pa n = s.drainScalar :=
      drainTo_of_none fun e he => by simp [hv e (hstays ▸ he)]
    rw [hdone]
    exact ⟨hmems.trans hviews.symm, (buffer_drainBuffer s false).1⟩
  · have hset : Settled s := ⟨hwf, hadds⟩
    have hord := inOrder_joinAll hset hnodup hscalar hvector
    have hjoin := joinByte_joinAll hset q
    exact ⟨(hord.viewByte false q).trans hjoin, (hord.viewByte true q).trans hjoin, memByte_joinAll hset q,
      (hord.memByte_drainAll (settled_joinAll hset) q).trans hjoin⟩

end Sys2Proof.Machine

/-! What the fences wait for and leave performed (10 R242, R247, R248, R250, 15 R340, 16 R359, R360). -/

namespace Sys2Proof.Machine

/-! ## The acknowledgements of .SYS (R359, R360) -/

theorem sysWait_of_unacknowledged {s : State} (h : s.fab.reqs.any (fun q => q.owner == s.st.id && q.kind == .write) = true) :
    s.sysWait = .error s := if_pos h

theorem sysWait_of_failed {s : State} (h : s.fab.reqs.any (fun q => q.owner == s.st.id && q.kind == .write) = false) {va : Word}
    {rest : List Word} (hfail : s.st.failedStores = va :: rest) :
    s.sysWait = .error (({ s with st := { s.st with failedStores := [] } } : State).trapA 0xA1 2 va) := by
  rw [State.sysWait, h, hfail]
  rfl

/-! ## Each fence, in speculation and at the head -/

/-- What a FENCE adds once the accesses it orders are performed: an acquire for kinds 1 and 3 at .PKG and .SYS (R247, R288). -/
def State.fenced (s : State) (k : BitVec 2) (scope : BitVec 3) : State := if k != 2 && scope.toNat ≥ 3 then s.acquire else s

theorem fenced_below_package (s : State) (k : BitVec 2) {scope : BitVec 3} (h : scope.toNat < 3) : s.fenced k scope = s :=
  if_neg (by simp [h])

theorem fenced_stores (s : State) (scope : BitVec 3) : s.fenced 2 scope = s := if_neg (by simp)

theorem fenced_loads (s : State) {k : BitVec 2} (hk : k ≠ 2) {scope : BitVec 3} (h : 3 ≤ scope.toNat) : s.fenced k scope = s.acquire :=
  if_pos (Bool.and_eq_true_iff.mpr ⟨bne_iff_ne.mpr hk, decide_eq_true h⟩)

/-- The clock barrier of FSC, once the accesses of .SYS are performed: the barriers are sent once, and awaited (R340). -/
def State.clockBarrier (s : State) : Run State :=
  if s.x.replies.isEmpty then
    if s.sendBarriers.barriersDone then .ok s.sendBarriers.acquire.advance
    else .error { s.sendBarriers with x := { s.sendBarriers.x with replies := [.data []] } }
  else do
    check s.barriersDone s
    .ok s.acquire.advance

section
variable {s : State} (hcore : s.st.place.master? ≠ none)
include hcore

theorem finish_gate_any (i : Instr) (k : Unit → Run State) : finish (gate i Need.any s >>= k) = finish (k ()) := by
  rw [gate_admits i Need.any s (admits_any s (core_of_master hcore).2)]
  rfl

theorem exec_fsv : exec .fsv s = .next (if s.spec then s else s.drainScalar).advance := finish_gate_any hcore .fsv _

theorem exec_fvs_of_spec (hspec : s.spec = true) : exec .fvs s = .next s.advance :=
  (finish_gate_any hcore .fvs _).trans (congrArg finish (if_pos hspec))

theorem exec_fence_of_spec (hspec : s.spec = true) (k : BitVec 2) (scope : BitVec 3) :
    exec (.fence k scope) s = .next ((if scope = 4 ∧ k ≠ 1 then s.owe false else s).fenced k scope).advance :=
  (finish_gate_any hcore (.fence k scope) _).trans (congrArg finish (if_pos hspec))

theorem exec_fsc_of_spec (hspec : s.spec = true) : exec .fsc s = .next (s.owe true).acquire.advance :=
  (finish_gate_any hcore .fsc _).trans (congrArg finish (if_pos hspec))

variable (hspec : s.spec = false) (hheld : s.noneHeld = true)
include hspec hheld

/-- Outside speculation, with no access waiting in a queue, nothing holds an ordering instruction up. -/
theorem finish_ordering (i : Instr) (spec head : Run State) :
    finish (gate i Need.any s >>= fun _ => if s.spec then spec else check s.noneHeld s >>= fun _ => head) = finish head := by
  rw [finish_gate_any hcore, hspec, hheld]
  rfl

theorem exec_fvs_of_head : exec .fvs s = .next (s.drainVector.flushScatter s.st.id).advance :=
  finish_ordering hcore hspec hheld .fvs _ _

theorem exec_fence_loads (scope : BitVec 3) : exec (.fence 1 scope) s = .next (s.fenced 1 scope).advance :=
  finish_ordering hcore hspec hheld (.fence 1 scope) _ _

theorem exec_fence_stores {k : BitVec 2} (hk : k ≠ 1) {scope : BitVec 3} (hscope : scope ≠ 4) :
    exec (.fence k scope) s = .next ((if scope.toNat ≤ 1 then s.joinAll else s.release).fenced k scope).advance :=
  (finish_ordering hcore hspec hheld (.fence k scope) _ _).trans (congrArg finish ((if_neg hk).trans (if_neg hscope)))

theorem exec_fence_system {k : BitVec 2} (hk : k ≠ 1) : exec (.fence k 4) s =
    finish ((s.drainAll.flushScatter s.st.id).sysWait >>= fun _ => .ok ((s.drainAll.flushScatter s.st.id).fenced k 4).advance) := by
  rw [← release_of_head hspec]
  exact (finish_ordering hcore hspec hheld (.fence k 4) _ _).trans (congrArg finish ((if_neg hk).trans (if_pos rfl)))

theorem exec_fsc_of_head : exec .fsc s =
    finish ((s.drainAll.flushScatter s.st.id).sysWait >>= fun _ => (s.drainAll.flushScatter s.st.id).clockBarrier) := by
  rw [← release_of_head hspec]
  refine (finish_ordering hcore hspec hheld .fsc _ _).trans (congrArg finish ?_)
  rw [State.releaseSys]
  cases s.release.sysWait <;> rfl

/-- Every ordering instruction of .SYS first performs the strand's accesses and waits for the fabric's answers. -/
theorem exec_system_ordering : ∀ i ∈ [Instr.fsc, .fence 2 4, .fence 3 4], ∃ k : Unit → Run State,
    exec i s = finish ((s.drainAll.flushScatter s.st.id).sysWait >>= k) := by
  simp only [List.mem_cons, List.not_mem_nil, or_false, forall_eq_or_imp, forall_eq]
  exact ⟨⟨_, exec_fsc_of_head hcore hspec hheld⟩, ⟨_, exec_fence_system hcore hspec hheld (by decide)⟩,
    ⟨_, exec_fence_system hcore hspec hheld (by decide)⟩⟩

end

/-! ## What each leaves (R247, R248, R250) -/

theorem fences_of_head {s : State} (hcore : s.st.place.master? ≠ none) (hspec : s.spec = false) (hheld : s.noneHeld = true) :
    exec .fvs s = .next (s.drainVector.flushScatter s.st.id).advance ∧
      (∀ scope : BitVec 3, scope.toNat < 3 → exec (.fence 1 scope) s = .next s.advance) ∧
      (∀ scope : BitVec 3, scope = 3 ∨ scope = 4 → exec (.fence 1 scope) s = .next s.acquire.advance) ∧
      (∀ scope : BitVec 3, scope.toNat ≤ 1 → exec (.fence 2 scope) s = .next s.joinAll.advance ∧
        exec (.fence 3 scope) s = .next s.joinAll.advance) ∧
      (∀ scope : BitVec 3, scope = 2 ∨ scope = 3 → exec (.fence 2 scope) s = .next s.release.advance) ∧
      exec (.fence 3 2) s = .next s.release.advance ∧ exec (.fence 3 3) s = .next s.release.acquire.advance := by
  have hloads := exec_fence_loads hcore hspec hheld
  have hstores {k : BitVec 2} (hk : k ≠ 1) {scope : BitVec 3} (h4 : scope ≠ 4) := exec_fence_stores hcore hspec hheld hk h4
  refine ⟨exec_fvs_of_head hcore hspec hheld, fun scope h => ?_, fun scope h => ?_, fun scope h => ?_, fun scope h => ?_, ?_, ?_⟩
  · rw [hloads, fenced_below_package _ _ h]
  · rw [hloads, fenced_loads _ (by decide) (by obtain rfl | rfl := h <;> decide)]
  · have h4 : scope ≠ 4 := by rintro rfl; exact absurd h (by decide)
    rw [hstores (by decide) h4, hstores (by decide) h4, if_pos h, fenced_stores, fenced_below_package _ _ (by omega)]
    exact ⟨rfl, rfl⟩
  · rw [hstores (by decide) (by obtain rfl | rfl := h <;> decide), fenced_stores, if_neg (by obtain rfl | rfl := h <;> decide)]
  · rw [hstores (by decide) (by decide), fenced_below_package _ _ (by decide)]
    rfl
  · rw [hstores (by decide) (by decide), fenced_loads _ (by decide) (by decide)]
    rfl

/-- What the chunk owes after an ordering instruction in speculation (R250). -/
theorem owe_eq (s : State) (barrier : Bool) : ∃ o : Owed, o ≠ .nothing ∧ (barrier = true → o = .barrier) ∧
    s.owe barrier = { s with x := { s.x with owed := o } } := by
  refine ⟨if barrier || s.x.owed == .barrier then .barrier else .sys, ?_, fun h => by simp [h], rfl⟩
  split_ifs <;> exact Owed.noConfusion

theorem fences_of_spec {s : State} (hcore : s.st.place.master? ≠ none) (hspec : s.spec = true) :
    exec .fsv s = .next s.advance ∧ exec .fvs s = .next s.advance ∧
      (∀ scope : BitVec 3, scope.toNat < 3 → ∀ k : BitVec 2, exec (.fence k scope) s = .next s.advance) ∧
      exec (.fence 2 3) s = .next s.advance ∧
      (∀ k : BitVec 2, k = 1 ∨ k = 3 → exec (.fence k 3) s = .next s.acquire.advance) ∧
      exec (.fence 1 4) s = .next s.acquire.advance ∧
      ∀ i ∈ [Instr.fence 2 4, .fence 3 4, .fsc], ∃ o : Owed, o ≠ .nothing ∧ (i = .fsc → o = .barrier) ∧
        exec i s = .next (if i = .fence 2 4 then { s with x := { s.x with owed := o } } else
          State.acquire { s with x := { s.x with owed := o } }).advance := by
  have hfence := exec_fence_of_spec hcore hspec
  refine ⟨by rw [exec_fsv hcore, if_pos hspec], exec_fvs_of_spec hcore hspec, fun scope h k => ?_, ?_, fun k h => ?_, ?_, ?_⟩
  · have h4 : scope ≠ 4 := by rintro rfl; exact absurd h (by decide)
    rw [hfence, fenced_below_package _ _ h, if_neg (fun hc => h4 hc.1)]
  · rw [hfence, fenced_stores]
    rfl
  · rw [hfence, fenced_loads _ (by obtain rfl | rfl := h <;> decide) (by decide)]
    rfl
  · rw [hfence, fenced_loads _ (by decide) (by decide)]
    rfl
  · obtain ⟨o, ho, -, hsys⟩ := owe_eq s false
    obtain ⟨p, hp, hbarrier, hall⟩ := owe_eq s true
    intro i hi
    obtain rfl | rfl | rfl : i = .fence 2 4 ∨ i = .fence 3 4 ∨ i = .fsc := by simpa using hi
    · refine ⟨o, ho, nofun, ?_⟩
      rw [hfence, fenced_stores, if_pos ⟨rfl, by decide⟩, hsys, if_pos rfl]
    · refine ⟨o, ho, nofun, ?_⟩
      rw [hfence, fenced_loads _ (by decide) (by decide), if_pos ⟨rfl, by decide⟩, hsys, if_neg (by decide)]
    · refine ⟨p, hp, fun _ => hbarrier rfl, ?_⟩
      rw [exec_fsc_of_spec hcore hspec, hall, if_neg nofun]

theorem fences : Sys2Proof.Parts.Fences := fun _ hcore =>
  ⟨fun hspec => by rw [exec_fsv hcore, hspec]; rfl, fun hspec hheld => fences_of_head hcore hspec hheld,
    fun hspec => fences_of_spec hcore hspec⟩

theorem sequentialFence : Sys2Proof.Parts.SequentialFence := by
  intro s hcore hspec hheld u hreqs hfail
  have hexec : exec .fsc s = finish u.clockBarrier := by
    rw [exec_fsc_of_head hcore hspec hheld, sysWait_of_none_failed hreqs hfail]
    rfl
  rw [hexec, State.clockBarrier]
  refine ⟨fun hsent hdone => ?_, fun hunsent hdone => ?_, fun hunsent hdone => ?_⟩
  · rw [if_neg (by simpa using hsent), hdone]
    rfl
  · rw [if_pos (by simp [hunsent]), if_pos hdone]
    rfl
  · rw [if_pos (by simp [hunsent]), if_neg (by simp [hdone])]
    exact ⟨_, rfl, rfl, rfl, rfl⟩

theorem systemFenceWaits : Sys2Proof.Parts.SystemFenceWaits := by
  intro s hcore hspec hheld u
  have hstops {t : State} (h : u.sysWait = .error t) : ∀ i ∈ [Instr.fsc, .fence 2 4, .fence 3 4], exec i s = .next t := fun i hi => by
    obtain ⟨k, hk⟩ := exec_system_ordering hcore hspec hheld i hi
    exact hk.trans (finish_bind_of_error h k)
  refine ⟨fun hreqs => ?_, fun hreqs va rest hfail => hstops (sysWait_of_failed hreqs hfail), fun hreqs hfail => ?_⟩
  · have h := hstops (sysWait_of_unacknowledged hreqs)
    exact ⟨h _ (by simp), h _ (by simp), h _ (by simp)⟩
  · have hfence {k : BitVec 2} (hk : k ≠ 1) : exec (.fence k 4) s = .next (u.fenced k 4).advance := by
      rw [exec_fence_system hcore hspec hheld hk, sysWait_of_none_failed hreqs hfail]
      rfl
    rw [hfence (by decide), hfence (by decide), fenced_stores, fenced_loads _ (by decide) (by decide)]
    exact ⟨rfl, rfl⟩

/-- Settles O16: past its gate and its wait for the queues, a fence is one change of state; those of .SYS perform the strand's accesses
and then wait for the fabric, which either stops them or lets the rest follow. -/
theorem fencesComplete : Obligations.FencesComplete := ⟨fences, sequentialFence, systemFenceWaits⟩

end Sys2Proof.Machine

/-! Vcaches by identifier: VCDEF, VCDEL and VCQRY (11 R262, R272, R273). -/

namespace Sys2Proof.Machine

/-! ## Vcaches by identifier -/

theorem id_of_vcache? {s : State} {id : Nat} {v : Vcache} (h : s.vcache? id = some v) : v.id = id := by
  simpa using List.find?_some h

/-- A change of vcaches that keeps their identifiers changes what is found under each. -/
theorem vcache?_of_map {s t : State} {f : Vcache → Vcache} (hf : ∀ v, (f v).id = v.id)
    (h : t.cache.vcaches = s.cache.vcaches.map f) (id : Nat) : t.vcache? id = (s.vcache? id).map f := by
  have hid : (fun v : Vcache => v.id == id) ∘ f = fun v => v.id == id := by
    funext v
    simp [hf]
  rw [State.vcache?, h, List.find?_map, hid]
  rfl

theorem vcache?_setVcache (s : State) (v : Vcache) (id : Nat) :
    (s.setVcache v).vcache? id = (s.vcache? id).map (fun u => if u.id = v.id then v else u) :=
  vcache?_of_map (fun u => by split_ifs with h; exacts [h.symm, rfl]) rfl id

theorem vcache?_setVcache_same {s : State} {u v : Vcache} (h : s.vcache? v.id = some u) : (s.setVcache v).vcache? v.id = some v := by
  rw [vcache?_setVcache, h, Option.map_some, if_pos (id_of_vcache? h)]

theorem vcache?_setVcache_ne (s : State) {v : Vcache} {id : Nat} (h : id ≠ v.id) : (s.setVcache v).vcache? id = s.vcache? id := by
  rw [vcache?_setVcache]
  cases hu : s.vcache? id with
  | none => rfl
  | some u => rw [Option.map_some, if_neg (id_of_vcache? hu ▸ h)]

/-- A result is written after changes that leave the chunk alone. -/
theorem result_of_x {s t : State} (h : t.x = s.x) (d : BitVec 5) (v : Word) :
    (t.result d v).x.pc = s.x.pc + 4 ∧ s.Got (t.result d v) d v ∧ (t.result d v).mem = t.mem ∧
      ∀ id, (t.result d v).vcache? id = t.vcache? id := by
  have hw := wrote_result t d v
  refine ⟨by simp [State.result, h], ⟨hw.dest, fun r hr => ?_⟩, by simp [State.result], fun id => by simp [State.vcache?, State.result]⟩
  rw [hw.others r hr, State.getS, h, State.getS]

theorem admits_plats {s : State} (hs : s.st.place ≠ .saved) (hfeat : s.feature 2 = true) (hlvl : 1 ≤ s.lvl) :
    s.admits { feat := some 2, lvl := 1, mgmt := true } := by
  refine ⟨fun b hb => Option.some.inj hb ▸ hfeat, hlvl, ?_⟩
  cases hp : s.st.place <;> simp_all [Need.runsOn]

/-! ## Lines that leave their holders change lines and packets alone -/

/-- `t` is `s` but for cached lines and packets. -/
def LinesOnly (s t : State) : Prop := ∃ (lines : List CLine) (net : Net), t = { s with net := net, cache := { s.cache with lines := lines } }

namespace LinesOnly

theorem refl (s : State) : LinesOnly s s := ⟨_, _, rfl⟩

theorem trans {s t u : State} : LinesOnly s t → LinesOnly t u → LinesOnly s u := by
  rintro ⟨_, _, rfl⟩ ⟨_, _, rfl⟩
  exact ⟨_, _, rfl⟩

theorem foldl {α : Type} {f : State → α → State} (hf : ∀ s a, LinesOnly s (f s a)) (l : List α) (s : State) :
    LinesOnly s (l.foldl f s) := foldl_keeps refl trans hf l s

theorem evictLine (s : State) (c : CLine) : LinesOnly s (s.evictLine c) := by
  unfold State.evictLine
  split_ifs
  · exact ⟨_, _, rfl⟩
  · exact refl s
  · exact ⟨_, _, rfl⟩

theorem evictAll (s : State) (p : CLine → Bool) : LinesOnly s (s.evictAll p) := foldl evictLine _ s

section
variable {s t : State} (h : LinesOnly s t)
include h

theorem x : t.x = s.x := by obtain ⟨_, _, rfl⟩ := h; rfl
theorem mem : t.mem = s.mem := by obtain ⟨_, _, rfl⟩ := h; rfl
theorem vcaches : t.cache.vcaches = s.cache.vcaches := by obtain ⟨_, _, rfl⟩ := h; rfl
theorem vcache? (id : Nat) : t.vcache? id = s.vcache? id := by obtain ⟨_, _, rfl⟩ := h; rfl

end

end LinesOnly

/-! ## VCDEF (R262) -/

/-- The issuer may not name this owner, or the identifier is another's (R262). -/
def State.barsPlat (s : State) (p : Plat) : Bool :=
  s.lvl == 1 && (p.owner != s.st.vf.toNat || (s.vcache? p.id).any s.foreignVcache)

/-- The identifier drains, or is being deleted. -/
def State.stillDrains (s : State) (id : Nat) : Bool := (s.vcache? id).any (fun v => v.draining.isSome || v.deleting)

theorem vcdefStatus_of_malformed {bs : List Byte} (h : readPlat bs = none) (s : State) : s.vcdefStatus bs = (2, none) := by
  rw [State.vcdefStatus, h]

theorem vcdefStatus_of_plat {bs : List Byte} {p : Plat} (h : readPlat bs = some p) (s : State) :
    s.vcdefStatus bs = if p.id ≤ 1 then (5, none) else if s.barsPlat p then (4, none) else if s.stillDrains p.id then (1, none)
      else if s.platTaken p then (3, none) else (0, some p) := by
  rw [State.vcdefStatus, h]
  dsimp only
  unfold State.barsPlat State.stillDrains
  cases s.vcache? p.id <;> rfl

theorem foreignVcache_iff {s : State} {v : Vcache} :
    s.foreignVcache v = false ↔ (s.lvl = 1 → ∀ p, v.plat? = some p → p.owner = s.st.vf.toNat) := by
  unfold State.foreignVcache
  cases hp : v.plat? with
  | none => simp
  | some p => simp

theorem barsPlat_iff {s : State} {p : Plat} :
    s.barsPlat p = false ↔
      (s.lvl = 1 → p.owner = s.st.vf.toNat ∧ ∀ v q, s.vcache? p.id = some v → v.plat? = some q → q.owner = s.st.vf.toNat) := by
  unfold State.barsPlat
  by_cases hl : s.lvl = 1
  · cases hv : s.vcache? p.id with
    | none => simp [hl]
    | some v =>
      have hall : (∀ w q, v = w → w.plat? = some q → q.owner = s.st.vf.toNat) ↔ ∀ q, v.plat? = some q → q.owner = s.st.vf.toNat :=
        ⟨fun h q => h v q rfl, fun h w q e => e ▸ h q⟩
      simp [hl, foreignVcache_iff, hall]
  · simp [hl]

theorem stillDrains_iff {s : State} {id : Nat} :
    s.stillDrains id = true ↔ ∃ v, s.vcache? id = some v ∧ (v.draining ≠ none ∨ v.deleting = true) := by
  unfold State.stillDrains
  cases s.vcache? id with
  | none => simp
  | some v => simp [Option.isSome_iff_ne_none]

theorem mem_plats {v : Vcache} {q : Plat} : q ∈ v.plats ↔ v.current = some q ∨ v.draining = some q := by
  simp [Vcache.plats]

theorem platTaken_iff {s : State} {p : Plat} : s.platTaken p = true ↔
    (∃ c ∈ s.cache.fenced, p.map.getLsbD (c.toNat / 16) = true ∧ p.waymask.getLsbD (c.toNat % 16) = true) ∨
      ∃ v ∈ s.cache.vcaches, v.id ≠ p.id ∧ ∃ q, (v.current = some q ∨ v.draining = some q) ∧ q.map &&& p.map ≠ 0 ∧
        q.waymask &&& p.waymask ≠ 0 := by
  simp only [State.platTaken, Plat.hasParcel, parcelBank, parcelWay, Bool.or_eq_true, List.any_eq_true, Bool.and_eq_true, bne_iff_ne,
    mem_plats]

/-- Vcache 1 has given up the parcels of a plat. -/
def State.cleared (s : State) (p : Plat) : State :=
  s.evictAll (fun l => l.holder == .vcache 1 && p.hasParcel (sysBank (l.line * 64)) l.way)

/-- The lines of a vcache have become those of its draining generation. -/
def State.aged (s : State) (id : Nat) : State := { s with cache := { s.cache with lines := s.cache.lines.map (ageLines id) } }

theorem linesOnly_cleared (s : State) (p : Plat) : LinesOnly s (s.cleared p) := LinesOnly.evictAll s _

theorem linesOnly_aged (s : State) (id : Nat) : LinesOnly s (s.aged id) := ⟨_, _, rfl⟩

/-- What a definition makes of an identifier that has no vcache. -/
def State.newVcache (s : State) (p : Plat) : Vcache :=
  { id := p.id, current := some p, draining := none, deleting := false, degraded := false, issuer := s.issuer, moved := 0, written := 0 }

/-- What a definition makes of a vcache: its plat begins to drain. -/
def State.renewed (s : State) (v : Vcache) (p : Plat) : Vcache :=
  { v with current := some p, draining := v.current, issuer := s.issuer, moved := 0, written := 0 }

theorem installPlat_of_none {s : State} {p : Plat} (h : s.vcache? p.id = none) : s.installPlat p =
    { s.cleared p with cache := { (s.cleared p).cache with vcaches := (s.cleared p).cache.vcaches ++ [(s.cleared p).newVcache p] } } := by
  rw [← (linesOnly_cleared s p).vcache?] at h
  unfold State.cleared at h
  simp only [State.installPlat, h]
  rfl

theorem installPlat_of_some {s : State} {p : Plat} {v : Vcache} (h : s.vcache? p.id = some v) :
    s.installPlat p = ((s.cleared p).aged p.id).setVcache (((s.cleared p).aged p.id).renewed v p) := by
  rw [← (linesOnly_cleared s p).vcache?] at h
  unfold State.cleared at h
  simp only [State.installPlat, h]
  rfl

/-- A legal definition leaves the chunk and memory, gives the identifier its plat, and lets the old one drain. -/
theorem installPlat_spec (s : State) (p : Plat) : (s.installPlat p).x = s.x ∧ (s.installPlat p).mem = s.mem ∧
    (∃ v, (s.installPlat p).vcache? p.id = some v ∧ v.current = some p ∧ v.draining = (s.vcache? p.id).bind (·.current)) ∧
    ∀ id, id ≠ p.id → (s.installPlat p).vcache? id = s.vcache? id := by
  cases hv : s.vcache? p.id with
  | none =>
    have hlines := linesOnly_cleared s p
    have hfind (id : Nat) : (s.installPlat p).vcache? id =
        (s.vcache? id).or ([(s.cleared p).newVcache p].find? (fun v => v.id == id)) := by
      rw [installPlat_of_none hv, ← hlines.vcache? id]
      exact List.find?_append
    refine ⟨installPlat_of_none hv ▸ hlines.x, installPlat_of_none hv ▸ hlines.mem,
      ⟨(s.cleared p).newVcache p, ?_, rfl, rfl⟩, fun id hid => ?_⟩
    · rw [hfind, hv, Option.none_or]
      exact List.find?_cons_of_pos (by simp [State.newVcache])
    · rw [hfind, List.find?_cons_of_neg (by simpa [State.newVcache] using hid.symm), List.find?_nil, Option.or_none]
  | some v =>
    have hlines := (linesOnly_cleared s p).trans (linesOnly_aged _ p.id)
    have hid := id_of_vcache? hv
    rw [installPlat_of_some hv]
    generalize (s.cleared p).aged p.id = u at hlines
    have hu : u.vcache? v.id = some v := (hlines.vcache? _).trans (hid.symm ▸ hv)
    refine ⟨hlines.x, hlines.mem, ⟨u.renewed v p, hid ▸ vcache?_setVcache_same hu, rfl, rfl⟩, fun id hne => ?_⟩
    exact (vcache?_setVcache_ne u (hid.symm ▸ hne)).trans (hlines.vcache? id)

section
variable {s : State} (hs : s.st.place ≠ .saved) (hfeat : s.feature 2 = true) (hlvl : 1 ≤ s.lvl) (hspec : s.spec = false)
include hs hfeat hlvl hspec

theorem exec_vcdef_of_misaligned {a : BitVec 5} (h : (s.getS a).toNat % 128 ≠ 0) (d : BitVec 5) :
    exec (.vcdef d a) s = .next (s.result d 2) := by
  simp only [exec, execVcdef, gate_admits _ _ _ (admits_plats hs hfeat hlvl), headWait_head s hspec, bind, Except.bind, if_pos h,
    finish_ok]

theorem exec_vcdef_of_memRead {a : BitVec 5} (h : (s.getS a).toNat % 128 = 0) {u : State} {bs : List Byte}
    (hread : s.memRead (s.getS a) 128 = .ok (u, bs)) (d : BitVec 5) : exec (.vcdef d a) s =
      .next (((u.vcdefStatus bs).2.elim u u.installPlat).result d (BitVec.ofNat 64 (u.vcdefStatus bs).1)) := by
  simp only [exec, execVcdef, gate_admits _ _ _ (admits_plats hs hfeat hlvl), headWait_head s hspec, bind, Except.bind, hread,
    if_neg (not_not.mpr h)]
  obtain ⟨code, p⟩ := u.vcdefStatus bs
  cases p <;> rfl

end

theorem vcacheDefine : Sys2Proof.Parts.VcacheDefine := by
  intro s d a hs hfeat hlvl hspec va
  refine ⟨fun h => ⟨_, exec_vcdef_of_misaligned hs hfeat hlvl hspec h d, wrote_result s d 2⟩, fun u bs hread => ?_⟩
  have hexec : exec (.vcdef d a) s =
      .next (((u.vcdefStatus bs).2.elim u u.installPlat).result d (BitVec.ofNat 64 (u.vcdefStatus bs).1)) := by
    obtain ⟨haligned, hread⟩ | ⟨x, hplain, hro, rfl, rfl⟩ := hread
    · exact exec_vcdef_of_memRead hs hfeat hlvl hspec haligned hread d
    · exact exec_vcdef_of_memRead hs hfeat hlvl hspec hplain.aligned.2 (memRead_of_plain hplain hro) d
  rw [hexec]
  refine ⟨fun hbad => by rw [vcdefStatus_of_malformed hbad]; rfl, fun p hp => ?_⟩
  rw [vcdefStatus_of_plat hp]
  intro mine draining taken
  have hmine : mine ↔ u.barsPlat p = false := barsPlat_iff.symm
  have hdraining : draining ↔ u.stillDrains p.id = true := stillDrains_iff.symm
  have htaken : taken ↔ u.platTaken p = true := platTaken_iff.symm
  rw [hmine, hdraining, htaken]
  refine ⟨fun h => ?_, fun h hm => ?_, fun h hm hd => ?_, fun h hm hd ht => ?_, fun h hm hd ht => ?_⟩
  · rw [if_pos h]; rfl
  · rw [if_neg (by omega), if_pos (by simpa using hm)]; rfl
  · rw [if_neg (by omega), if_neg (by simp [hm]), if_pos hd]; rfl
  · rw [if_neg (by omega), if_neg (by simp [hm]), if_neg hd, if_pos ht]; rfl
  · rw [if_neg (by omega), if_neg (by simp [hm]), if_neg hd, if_neg ht]
    obtain ⟨hx, hmem, ⟨v, hv, hcurrent, hold⟩, hothers⟩ := installPlat_spec u p
    obtain ⟨hpc, hgot, hmem', hvc⟩ := result_of_x hx d 0
    exact ⟨_, v, rfl, hpc, hgot, hmem'.trans hmem, (hvc _).trans hv, hcurrent, hold, fun id hid => (hvc id).trans (hothers id hid)⟩

/-! ## VCDEL (R272) -/

theorem vcdelStatus_of_large {v : Word} (h : 255 < v.toNat) (s : State) : s.vcdelStatus v = (6, none) := if_pos h

theorem vcdelStatus_of_reserved {v : Word} (h : v.toNat ≤ 1) (s : State) : s.vcdelStatus v = (5, none) := by
  rw [State.vcdelStatus, if_neg (by omega), if_pos h]

theorem vcdelStatus_of_none {s : State} {v : Word} (h : 2 ≤ v.toNat) (hnone : s.vcache? v.toNat = none) :
    s.vcdelStatus v = (6, none) := by
  unfold State.vcdelStatus
  split_ifs
  · rfl
  · omega
  · rw [hnone]

theorem vcdelStatus_of_some {s : State} {v : Word} {c : Vcache} (hlo : 2 ≤ v.toNat) (hhi : v.toNat ≤ 255)
    (hc : s.vcache? v.toNat = some c) : s.vcdelStatus v =
      if s.foreignVcache c then (4, none) else if c.draining.isSome || c.deleting then (1, none) else (0, some c) := by
  rw [State.vcdelStatus, if_neg (by omega), if_neg (by omega), hc]

/-- The whole plat of a vcache begins to drain, with no current one (R272). -/
def State.startDelete (s : State) (c : Vcache) : State :=
  (s.aged c.id).setVcache
    { c with current := none, draining := c.current, deleting := true, issuer := s.issuer, moved := 0, written := 0 }

theorem vcache?_startDelete_same {s : State} {id : Nat} {c : Vcache} (h : s.vcache? id = some c) : (s.startDelete c).vcache? id =
    some { c with current := none, draining := c.current, deleting := true, issuer := s.issuer, moved := 0, written := 0 } := by
  obtain rfl := id_of_vcache? h
  exact vcache?_setVcache_same (u := c) h

theorem vcache?_startDelete_ne (s : State) {c : Vcache} {id : Nat} (h : id ≠ c.id) : (s.startDelete c).vcache? id = s.vcache? id :=
  vcache?_setVcache_ne _ h

theorem exec_vcdel {s : State} (hs : s.st.place ≠ .saved) (hfeat : s.feature 2 = true) (hlvl : 1 ≤ s.lvl) (hspec : s.spec = false)
    (d a : BitVec 5) : exec (.vcdel d a) s =
      .next (((s.vcdelStatus (s.getS a)).2.elim s s.startDelete).result d (BitVec.ofNat 64 (s.vcdelStatus (s.getS a)).1)) := by
  simp only [exec, execVcdel, gate_admits _ _ _ (admits_plats hs hfeat hlvl), headWait_head s hspec, bind, Except.bind]
  obtain ⟨code, c⟩ := s.vcdelStatus (s.getS a)
  cases c <;> rfl

/-! ## VCQRY (R273) -/

theorem popCount_eq_countP (x n : Nat) : popCount x n = (List.range n).countP (fun i => x.testBit i) := by
  induction n generalizing x with
  | zero => rfl
  | succ n ih =>
    have hshift : (fun i => x.testBit i) ∘ (· + 1) = fun i => (x / 2).testBit i := by
      funext i
      simp [Nat.testBit_succ]
    have hlow : x % 2 = if x.testBit 0 then 1 else 0 := by
      rw [Nat.testBit_zero]
      have := Nat.mod_two_eq_zero_or_one x
      split <;> simp_all
    rw [popCount, ih, List.range_succ_eq_map, List.countP_cons, List.countP_map, hshift, hlow, Nat.add_comm]

theorem foldl_count_le {α : Type} {f : Nat → α → Nat} {k : Nat} (hf : ∀ n a, f n a ≤ n + k) (l : List α) (n : Nat) :
    l.foldl f n ≤ n + k * l.length := by
  induction l generalizing n with
  | nil => simp
  | cons a l ih =>
    have h := ih (f n a)
    have h' := hf n a
    rw [List.foldl_cons, List.length_cons, Nat.mul_succ]
    omega

theorem countParcels_le (s : State) (f : Nat → Nat → Bool) : s.countParcels f ≤ 8192 := by
  refine (foldl_count_le (k := 16) (fun n b => ?_) (List.range 512) 0).trans (by simp)
  refine (foldl_count_le (k := 1) (fun n w => ?_) (List.range 16) n).trans (by simp)
  split <;> omega

/-- The fields of a summary, each within its width, read back (R273). -/
theorem vcSummary_fields (drn deg repl : Bool) {owner policy line ways banks parcels : Nat} (howner : owner < 256) (hpolicy : policy < 8)
    (hline : line < 4) (hways : ways < 32) (hbanks : banks < 1024) (hparcels : parcels < 2 ^ 27) :
    let v := vcSummary drn deg owner policy repl line ways banks parcels
    bit v 63 = true ∧ bit v 62 = drn ∧ bit v 61 = deg ∧ bits v 48 8 = owner ∧ bits v 45 3 = policy ∧ bit v 44 = repl ∧
      bits v 42 2 = line ∧ bits v 37 5 = ways ∧ bits v 27 10 = banks := by
  have hb2n (b : Bool) (w : Nat) : b2n b w = b.toNat * w := by cases b <;> simp [b2n]
  have hbit (v : Word) (i : Nat) (b : Bool) (h : v.toNat / 2 ^ i % 2 = b.toNat) : bit v i = b := by
    rw [bit, BitVec.getLsbD, Nat.testBit_eq_decide_div_mod_eq, h]
    cases b <;> rfl
  have hd := Bool.toNat_le drn
  have hg := Bool.toNat_le deg
  have hr := Bool.toNat_le repl
  intro v
  have hv : v.toNat = 2 ^ 63 + drn.toNat * 2 ^ 62 + deg.toNat * 2 ^ 61 + owner * 2 ^ 48 + policy * 2 ^ 45 + repl.toNat * 2 ^ 44 +
      line * 2 ^ 42 + ways * 2 ^ 37 + banks * 2 ^ 27 + parcels := by
    simp only [v, vcSummary, hb2n, BitVec.toNat_ofNat]
    omega
  refine ⟨hbit v 63 true ?_, hbit v 62 drn ?_, hbit v 61 deg ?_, ?_, ?_, hbit v 44 repl ?_, ?_, ?_, ?_⟩ <;>
    simp only [bits, nbits, hv, Bool.toNat_true] <;> omega

theorem exec_vcqry {s : State} (hs : s.st.place ≠ .saved) (d a : BitVec 5) :
    exec (.vcqry d a) s = .next (s.result d (s.vcQuery (s.getS a) s.st.vf.toNat)) := by
  simp only [exec, execVcqry, gate_admits _ _ _ (admits_any s hs), bind, Except.bind, finish_ok]

theorem vcQuery_of_zero {s : State} {v : Word} (h : v.toNat = 0) (vf : Nat) : s.vcQuery v vf = 0x8000000000000000 := by
  unfold State.vcQuery
  split
  · norm_num
  · omega
  next h0 _ => exact absurd h h0

theorem vcQuery_of_undefined {s : State} {v : Word} (h : 2 ≤ v.toNat) (hnone : s.vcache? v.toNat = none) (vf : Nat) :
    s.vcQuery v vf = 0 := by
  unfold State.vcQuery
  split
  · omega
  · omega
  · rw [hnone]

theorem vcQuery_of_plat {s : State} {v : Word} {c : Vcache} {p : Plat} (h : 2 ≤ v.toNat) (hc : s.vcache? v.toNat = some c)
    (hp : c.plat? = some p) (vf : Nat) : s.vcQuery v vf = if p.owner ≠ 0xFF ∧ p.owner ≠ vf then 0 else
      vcSummary (c.draining.isSome || c.deleting) c.degraded p.owner p.policy p.repl p.line (popCount p.waymask.toNat 16)
        (bankCount p.map) (s.countParcels c.holdsParcel) := by
  unfold State.vcQuery
  split
  · omega
  · omega
  · simp only [hc, hp]

theorem vcacheDeleteAndQuery : Sys2Proof.Parts.VcacheDeleteAndQuery := by
  intro s d a hs id
  refine ⟨fun hfeat hlvl hspec => ?_, _, _, exec_vcqry hs d a, wrote_result s d _, fun h => ?_, fun h hnone => ?_,
    fun c p h hc hp h1 h2 => ?_, fun c p h hc hp howner hpolicy hline => ?_⟩
  · rw [exec_vcdel hs hfeat hlvl hspec]
    intro answers
    have fails {code : Nat} (h : s.vcdelStatus (s.getS a) = (code, none)) : answers (BitVec.ofNat 64 code) := by
      refine ⟨_, rfl, ?_⟩
      rw [h]
      exact wrote_result s d _
    refine ⟨fun h => fails (vcdelStatus_of_large h s), fun h => fails (vcdelStatus_of_reserved h s),
      fun h hnone => fails (vcdelStatus_of_none h hnone), fun v hhi hlo hv => ?_⟩
    intro mine
    have hmine : mine ↔ s.foreignVcache v = false := foreignVcache_iff.symm
    have hstatus := vcdelStatus_of_some hlo hhi hv
    rw [hmine]
    refine ⟨fun h => fails (by rw [hstatus, if_pos (by simpa using h)]), fun h hd => fails ?_, fun h hd hdel => ?_⟩
    · rw [hstatus, if_neg (by simp [h]), if_pos (by simpa [Option.isSome_iff_ne_none] using hd)]
    · rw [hstatus, if_neg (by simp [h]), if_neg (by simp [hd, hdel])]
      obtain ⟨hpc, hgot, hmem, hvc⟩ := result_of_x (s := s) (t := s.startDelete v) rfl d 0
      exact ⟨_, _, rfl, hpc, hgot, hmem, (hvc id).trans (vcache?_startDelete_same hv), rfl, rfl, rfl, fun i hi =>
        (hvc i).trans (vcache?_startDelete_ne s (id_of_vcache? hv ▸ hi))⟩
  · have hzero : (s.getS a).toNat = 0 := h
    exact vcQuery_of_zero hzero _
  · exact vcQuery_of_undefined h hnone _
  · rw [vcQuery_of_plat h hc hp, if_pos ⟨h1, h2⟩]
  · have hways : popCount p.waymask.toNat 16 = (List.range 16).countP (fun i => p.waymask.getLsbD i) := popCount_eq_countP _ _
    have hbanks : bankCount p.map = (List.range 512).countP (fun i => p.map.getLsbD i) := List.countP_eq_length_filter.symm
    have howner' : p.owner < 256 := by
      have := s.st.vf.isLt
      omega
    have hparcels := countParcels_le s c.holdsParcel
    rw [vcQuery_of_plat h hc hp, if_neg (by omega), hways, hbanks]
    exact vcSummary_fields _ _ _ howner' hpolicy hline
      (Nat.lt_of_le_of_lt List.countP_le_length (by simp)) (Nat.lt_of_le_of_lt List.countP_le_length (by simp)) (by omega)

end Sys2Proof.Machine

/-! VCSYNC and VCFLUSH over the pages of a range (11 R274). -/

namespace Sys2Proof.Machine

/-! ## Lines that leave, and lines that become clean -/

/-- On its way out of its holder, or on its way in. -/
def CLine.gone (l : CLine) : Prop := l.state = .evictPending ∨ l.state = .pendingFill

/-- A line that leaves is on its way out, or its holder has it no longer; the others are as they were. -/
theorem mem_lines_evictLine {s : State} {c l : CLine} (h : l ∈ (s.evictLine c).cache.lines) :
    l.gone ∨ (l ∈ s.cache.lines ∧ l ≠ c) := by
  unfold State.evictLine at h
  split_ifs at h with hdirty hgone
  · obtain ⟨q, hq, hql⟩ := List.mem_map.mp h
    dsimp only at hql
    split_ifs at hql with hsame
    · exact .inl (.inl (hql ▸ rfl))
    · exact .inr ⟨hql ▸ hq, fun e => hsame (by rw [hql, e]; exact ⟨rfl, rfl⟩)⟩
  · by_cases e : l = c
    · exact .inl (e ▸ hgone)
    · exact .inr ⟨h, e⟩
  · obtain ⟨hl, hne⟩ := List.mem_filter.mp h
    exact .inr ⟨hl, fun e => by simp [e] at hne⟩

/-- A line of another holder, or another line, stays. -/
theorem mem_evictLine_of_apart {s : State} {c l : CLine} (hl : l ∈ s.cache.lines) (h : l.holder ≠ c.holder ∨ l.line ≠ c.line) :
    l ∈ (s.evictLine c).cache.lines := by
  have hapart : ¬ (l.holder = c.holder ∧ l.line = c.line) := fun ⟨h1, h2⟩ => h.elim (· h1) (· h2)
  unfold State.evictLine
  split_ifs
  · exact List.mem_map.mpr ⟨l, hl, if_neg hapart⟩
  · exact hl
  · exact List.mem_filter.mpr ⟨hl, by simpa [not_and_or] using h⟩

/-- Of a fold that handles lines one by one: a line that is there afterwards was there before and has not been handled, unless it is
as handling leaves one. -/
theorem mem_lines_foldl {P : CLine → Prop} {f : State → CLine → State}
    (hf : ∀ s c l, l ∈ (f s c).cache.lines → P l ∨ (l ∈ s.cache.lines ∧ l ≠ c)) {cs : List CLine} {s : State} {l : CLine}
    (h : l ∈ (cs.foldl f s).cache.lines) : P l ∨ (l ∈ s.cache.lines ∧ l ∉ cs) := by
  induction cs generalizing s with
  | nil => exact .inr ⟨h, by simp⟩
  | cons c cs ih =>
    obtain hp | ⟨hl, hcs⟩ := ih h
    · exact .inl hp
    · obtain hp | ⟨hl, hc⟩ := hf s c l hl
      · exact .inl hp
      · exact .inr ⟨hl, by simp [hc, hcs]⟩

/-- Once every line that `p` picks has left, those it picks are gone, and the rest were there. -/
theorem mem_lines_evictAll {s : State} {p : CLine → Bool} {l : CLine} (h : l ∈ (s.evictAll p).cache.lines) :
    l.gone ∨ (l ∈ s.cache.lines ∧ p l = false) := by
  obtain hg | ⟨hl, hne⟩ := mem_lines_foldl (fun _ _ _ => mem_lines_evictLine) h
  · exact .inl hg
  · exact .inr ⟨hl, by simpa [hl] using hne⟩

/-- A line stays that shares its holder and place with none that leaves. -/
theorem mem_evictAll_of_apart {s : State} {p : CLine → Bool} {l : CLine} (hl : l ∈ s.cache.lines)
    (h : ∀ c ∈ s.cache.lines, p c = true → l.holder ≠ c.holder ∨ l.line ≠ c.line) : l ∈ (s.evictAll p).cache.lines := by
  have key (cs : List CLine) (hcs : ∀ c ∈ cs, l.holder ≠ c.holder ∨ l.line ≠ c.line) (s : State) (hl : l ∈ s.cache.lines) :
      l ∈ (cs.foldl State.evictLine s).cache.lines := by
    induction cs generalizing s with
    | nil => exact hl
    | cons c cs ih => exact ih (fun q hq => hcs q (by simp [hq])) _ (mem_evictLine_of_apart hl (hcs c (by simp)))
  exact key _ (fun c hc => h c (List.mem_filter.mp hc).1 (List.mem_filter.mp hc).2) s hl

theorem isDirty_iff {c : LineState} : isDirty c = true ↔ c = .modified ∨ c = .owned := by cases c <;> simp [isDirty]

theorem isDirty_cleaned (c : LineState) : isDirty (cleaned c) = false := by cases c <;> rfl

/-! ## What counting at a bank leaves alone (R435) -/

/-- `t` is `s` but for bank counters, and for what their wraps have sent to supervisors or logged. -/
def Counts (s t : State) : Prop :=
  ∃ (bankCtr : Vector Word 128) (hubOut : List HubMsg) (out : List FabOut) (sent : Vector (BitVec 48) 32) (tail : BitVec 64)
    (sram : List Host.Cell) (undef : Nat),
    t = { s with cp := { s.cp with bankCtr := bankCtr, hubOut := hubOut }, fab := { s.fab with out := out, sent := sent }
                 mg := { s.mg with tail := tail }, sram := sram, undef := undef }

namespace Counts

theorem refl (s : State) : Counts s s := ⟨_, _, _, _, _, _, _, rfl⟩

theorem trans {s t u : State} : Counts s t → Counts t u → Counts s u := by
  rintro ⟨_, _, _, _, _, _, _, rfl⟩ ⟨_, _, _, _, _, _, _, rfl⟩
  exact ⟨_, _, _, _, _, _, _, rfl⟩

theorem foldl {α : Type} {f : State → α → State} (hf : ∀ s a, Counts s (f s a)) (l : List α) (s : State) :
    Counts s (l.foldl f s) := foldl_keeps refl trans hf l s

theorem log (s : State) (die cause : Nat) : Counts s (s.log die cause) := by
  unfold State.log State.logEntry
  exact ⟨_, _, _, _, _, _, _, rfl⟩

theorem fabOut (s : State) (ep : Nat) (a : Word) (p : List Byte) : Counts s (s.fabOut ep a p) := by
  unfold State.fabOut
  split_ifs
  · exact refl s
  · split
    · exact refl s
    · exact ⟨_, _, _, _, _, _, _, rfl⟩

theorem hubSend (s : State) (r : Except Nat Receiver) (m : Msg) : Counts s (s.hubSend r m) := by
  unfold State.hubSend
  split
  · exact log s 0 0
  · exact ⟨_, _, _, _, _, _, _, rfl⟩
  · exact fabOut s _ _ _

theorem tellSupervisor (s : State) (v r : Nat) : Counts s (s.tellSupervisor v r) := by
  unfold State.tellSupervisor
  dsimp only
  split_ifs
  · exact refl s
  · exact hubSend s _ _

theorem bankAdd (s : State) (v k n : Nat) : Counts s (s.bankAdd v k n) := by
  have put (ctr : Vector Word 128) : Counts s { s with cp := { s.cp with bankCtr := ctr } } := ⟨_, _, _, _, _, _, _, rfl⟩
  unfold State.bankAdd
  dsimp only
  split_ifs
  · exact put _
  · exact (put _).trans (tellSupervisor _ _ _)
  · exact put _

theorem countBank (s : State) (ev vc : Nat) (req : Option Nat) : Counts s (s.countBank ev vc req) := by
  unfold State.countBank
  split
  · exact refl s
  · refine foldl (fun s k => ?_) _ s
    split_ifs
    · exact bankAdd s _ k 1
    · exact refl s

theorem countHeld (s : State) (ev : Nat) (a : Agent) : Counts s (s.countHeld ev a) := by
  cases a with
  | vcache id => exact countBank s ev id none
  | l1 _ | host | shelf _ | engine _ | fabric => exact refl s

theorem cache {s t : State} : Counts s t → t.cache = s.cache := by
  rintro ⟨_, _, _, _, _, _, _, rfl⟩
  rfl

end Counts

/-- Where no counter is enabled for an event, nothing counts it. -/
theorem countBank_of_countsNone {s : State} {ev : Nat} (h : s.countsNone [ev] = true) (vc : Nat) : s.countBank ev vc none = s := by
  unfold State.countBank
  cases hf : s.bankFunction vc none with
  | none => rfl
  | some v =>
    have hv : v < 32 := by
      unfold State.bankFunction at hf
      split at hf
      · split_ifs at hf with howner
        exact Option.some.inj hf ▸ howner
      · cases hf
    have hoff (k : Nat) (hk : k ∈ List.range 4) :
        (s.bankCounts v k && bits (vget s.cp.bankCtr 0 (v * 4 + k)) 48 8 == ev) = false := by
      have hk := List.mem_range.mp hk
      have hnone : (!bit (vget s.cp.bankCtr 0 (v * 4 + k)) 63 || !([ev].contains (bits (vget s.cp.bankCtr 0 (v * 4 + k)) 48 8))) = true :=
        List.all_eq_true.mp h (v * 4 + k) (List.mem_range.mpr (by omega))
      rw [← Bool.not_eq_true]
      simp only [State.bankCounts, Bool.and_eq_true, beq_iff_eq]
      rintro ⟨⟨hon, -⟩, hev⟩
      rw [hon, hev] at hnone
      simp at hnone
    have key (l : List Nat) (hl : ∀ k ∈ l, k ∈ List.range 4) : l.foldl (fun (s : State) k =>
        if s.bankCounts v k && bits (vget s.cp.bankCtr 0 (v * 4 + k)) 48 8 == ev then s.bankAdd v k 1 else s) s = s := by
      induction l with
      | nil => rfl
      | cons k l ih => rw [List.foldl_cons, hoff k (hl k (by simp)), if_neg Bool.false_ne_true, ih fun j hj => hl j (by simp [hj])]
    exact key _ fun _ hk => hk

/-! ## Lines that become clean (R274) -/

theorem mem_lines_cleanLine {s : State} {c l : CLine} (h : l ∈ (s.cleanLine c).cache.lines) :
    isDirty l.state = false ∨ (l ∈ s.cache.lines ∧ l ≠ c) := by
  unfold State.cleanLine at h
  split_ifs at h with hclean
  · by_cases e : l = c
    · exact .inl (by simpa [e] using hclean)
    · exact .inr ⟨h, e⟩
  · obtain ⟨q, hq, hql⟩ := List.mem_map.mp h
    rw [(Counts.countHeld _ _ _).cache] at hq
    dsimp only at hql
    split_ifs at hql with hsame
    · exact .inl (hql ▸ isDirty_cleaned _)
    · exact .inr ⟨hql ▸ hq, fun e => hsame (by rw [hql, e]; exact ⟨rfl, rfl⟩)⟩

/-- `t` is `s` but for cached lines, packets and bank counters, and for what the wraps of these have sent. -/
def LinesCounted (s t : State) : Prop :=
  ∃ (lines : List CLine) (net : Net) (bankCtr : Vector Word 128) (hubOut : List HubMsg) (out : List FabOut)
    (sent : Vector (BitVec 48) 32) (tail : BitVec 64) (sram : List Host.Cell) (undef : Nat),
    t = { s with net := net, cache := { s.cache with lines := lines }
                 cp := { s.cp with bankCtr := bankCtr, hubOut := hubOut }, fab := { s.fab with out := out, sent := sent }
                 mg := { s.mg with tail := tail }, sram := sram, undef := undef }

namespace LinesCounted

theorem of_linesOnly {s t : State} : LinesOnly s t → LinesCounted s t := by
  rintro ⟨_, _, rfl⟩
  exact ⟨_, _, _, _, _, _, _, _, _, rfl⟩

theorem of_counts {s t : State} : Counts s t → LinesCounted s t := by
  rintro ⟨_, _, _, _, _, _, _, rfl⟩
  exact ⟨_, _, _, _, _, _, _, _, _, rfl⟩

theorem trans {s t u : State} : LinesCounted s t → LinesCounted t u → LinesCounted s u := by
  rintro ⟨_, _, _, _, _, _, _, _, _, rfl⟩ ⟨_, _, _, _, _, _, _, _, _, rfl⟩
  exact ⟨_, _, _, _, _, _, _, _, _, rfl⟩

theorem cleanLine (s : State) (c : CLine) : LinesCounted s (s.cleanLine c) := by
  have sent (net : Net) : LinesCounted s { s with net := net } := of_linesOnly ⟨_, _, rfl⟩
  have set (t : State) (c : CLine) : LinesCounted t (t.setLine c) := of_linesOnly ⟨_, _, rfl⟩
  unfold State.cleanLine
  split_ifs
  · exact of_linesOnly (.refl s)
  · exact ((sent _).trans (of_counts (Counts.countHeld _ 6 c.holder))).trans (set _ _)

end LinesCounted

theorem countHeld_of_countsNone {s : State} {ev : Nat} (h : s.countsNone [ev] = true) (a : Agent) : s.countHeld ev a = s := by
  cases a with
  | vcache id => exact countBank_of_countsNone h id
  | l1 _ | host | shelf _ | engine _ | fabric => rfl

theorem linesOnly_cleanLine {s : State} (h : s.countsNone [6] = true) (c : CLine) : LinesOnly s (s.cleanLine c) := by
  unfold State.cleanLine
  split_ifs
  · exact .refl s
  · dsimp only
    rw [countHeld_of_countsNone (by exact h)]
    exact ⟨_, _, rfl⟩

/-! ## Pages of a range -/

/-- The run of a range operation, after its dispatch checks. -/
def State.rangeRun (s : State) (a b : BitVec 5) (f : State → Xl → Nat → State) : Run State := do
  s.rangeCheck (s.getS a) (s.getS b)
  let t ← s.eachPage (s.getS a).toNat (s.getS b).toNat f
  .ok t.advance

theorem exec_vcsync {s : State} (hcore : s.st.place.master? ≠ none) (a b : BitVec 5) :
    exec (.vcsync a b) s = finish (s.rangeRun a b State.syncPiece) := by
  simp only [exec, execVcsync, gate_admits _ _ _ (admits_core hcore)]
  rfl

theorem exec_vcflush {s : State} (hcore : s.st.place.master? ≠ none) (a b : BitVec 5) :
    exec (.vcflush a b) s = finish (s.rangeRun a b State.flushPiece) := by
  simp only [exec, execVcflush, gate_admits _ _ _ (admits_core hcore)]
  rfl

/-- Of the two range operations the same holds where it holds of every operation on pages. -/
theorem exec_range_ops {s : State} (hcore : s.st.place.master? ≠ none) {a b : BitVec 5} {t : State}
    (h : ∀ f, finish (s.rangeRun a b f) = .next t) : ∀ i ∈ [Instr.vcsync a b, .vcflush a b], exec i s = .next t := by
  intro i hi
  obtain rfl | rfl : i = .vcsync a b ∨ i = .vcflush a b := by simpa using hi
  · exact (exec_vcsync hcore a b).trans (h _)
  · exact (exec_vcflush hcore a b).trans (h _)

/-- The part of a range in the page with number k: its first byte, and its length. -/
def pagePart (va n k : Nat) : Nat × Nat :=
  (max va (k * 65536), min (va + n) ((k + 1) * 65536) - max va (k * 65536))

theorem pagePieces_of_ne_zero {n : Nat} (hn : n ≠ 0) (va : Nat) : pagePieces va n =
    (List.range ((va + n - 1) / 65536 - va / 65536 + 1)).map (fun i => pagePart va n (va / 65536 + i)) := if_neg hn

theorem pagePieces_head {n : Nat} (hn : n ≠ 0) (va : Nat) : ∃ len rest, pagePieces va n = (va, len) :: rest := by
  have hva : (pagePart va n (va / 65536)).1 = va := max_eq_left (Nat.div_mul_le_self va 65536)
  rw [pagePieces_of_ne_zero hn, List.range_succ_eq_map, List.map_cons]
  exact ⟨_, _, congrArg (· :: _) (Prod.ext hva rfl)⟩

theorem pagePieces_of_one_page {va n : Nat} (hn : n ≠ 0) (h : va % 65536 + n ≤ 65536) : pagePieces va n = [(va, n)] := by
  have hpages : (va + n - 1) / 65536 - va / 65536 + 1 = 1 := by omega
  have hpart : pagePart va n (va / 65536) = (va, n) := Prod.ext (by simp only [pagePart]; omega) (by simp only [pagePart]; omega)
  rw [pagePieces_of_ne_zero hn, hpages]
  exact congrArg (fun p => [p]) hpart

theorem mem_pagePieces {va n q : Nat} (hlo : va ≤ q) (hhi : q < va + n) : pagePart va n (q / 65536) ∈ pagePieces va n := by
  rw [pagePieces_of_ne_zero (by omega)]
  exact List.mem_map.mpr ⟨q / 65536 - va / 65536, List.mem_range.mpr (by omega), by rw [Nat.add_sub_cancel' (by omega)]⟩

/-- The line of a byte is among those that its page's part of the range touches. -/
theorem line_mem_pagePart {va n q : Nat} (hlo : va ≤ q) (hhi : q < va + n) (pa : Nat) :
    (pa + (q - max va (q / 65536 * 65536))) / 64 ∈ linesOf pa (pagePart va n (q / 65536)).2 := by
  rw [mem_linesOf]
  simp only [pagePart]
  omega

theorem rangeRun_of_empty {s : State} {a b : BitVec 5} (h : (s.getS b).toNat = 0) (f : State → Xl → Nat → State) :
    finish (s.rangeRun a b f) = .next s.advance := by
  have hzero : s.getS b = 0 := BitVec.eq_of_toNat_eq h
  unfold State.rangeRun State.rangeCheck
  rw [hzero]
  rfl

theorem rangeRun_of_far {s : State} {a b : BitVec 5} (h : (s.getS b).toNat ≠ 0) (hfar : 2 ^ 54 < (s.getS a).toNat + (s.getS b).toNat)
    (f : State → Xl → Nat → State) : finish (s.rangeRun a b f) = .next (s.trapA 0x20 1 (s.getS a)) := by
  have hne : s.getS b ≠ 0 := fun e => h (by rw [e]; rfl)
  have hcheck : s.rangeCheck (s.getS a) (s.getS b) = .error (s.trapA 0x20 1 (s.getS a)) := by
    rw [State.rangeCheck, beq_eq_false_iff_ne.mpr hne, decide_eq_false (by omega)]
    rfl
  exact finish_bind_of_error hcheck _

theorem rangeCheck_of_near {s : State} {a n : Word} (h : a.toNat + n.toNat ≤ 2 ^ 54) : s.rangeCheck a n = .ok () := by
  rw [State.rangeCheck, decide_eq_true h, Bool.or_true]
  rfl

/-- A translation that fails ends the access with its cause. -/
theorem reach_of_fault {s : State} (hcore : s.st.place.master? ≠ none) {k : Acc} {va : Nat} {c : BitVec 8} (hkept : s.keptXl va = none)
    (h : (s.xlate s.walkRead s.space k va).2 = .error c) :
    s.reach k va = .error ((s.xlate s.walkRead s.space k va).1.trapA c k.akind (BitVec.ofNat 64 va)) := by
  rcases hx : s.xlate s.walkRead s.space k va with ⟨t, r⟩
  rw [hx] at h
  obtain rfl : r = .error c := h
  simp [State.reach, State.locate, hkept, hx, (core_of_master hcore).1]

theorem rangeRun_of_fault {s : State} (hcore : s.st.place.master? ≠ none) {a b : BitVec 5} (hn : (s.getS b).toNat ≠ 0)
    (hnear : (s.getS a).toNat + (s.getS b).toNat ≤ 2 ^ 54) {c : BitVec 8} (hkept : s.keptXl (s.getS a).toNat = none)
    (h : (s.xlate s.walkRead s.space .read (s.getS a).toNat).2 = .error c) (f : State → Xl → Nat → State) :
    finish (s.rangeRun a b f) = .next ((s.xlate s.walkRead s.space .read (s.getS a).toNat).1.trapA c 1 (s.getS a)) := by
  obtain ⟨len, rest, hpieces⟩ := pagePieces_head hn (s.getS a).toNat
  have hreach := reach_of_fault hcore hkept h
  rw [BitVec.ofNat_toNat, BitVec.setWidth_eq] at hreach
  unfold State.rangeRun State.eachPage
  rw [rangeCheck_of_near hnear, hpieces, List.foldlM_cons, hreach]
  rfl

/-! ## Each page of a range, where the translation buffer answers -/

/-- A read of the focus at the address leads to `x`: the translation buffer answers, and no try has kept a translation. -/
def State.Leads (s : State) (va : Nat) (x : Xl) : Prop := s.keptXl va = none ∧ s.hits .read va x = true

theorem reach_of_leads {s : State} (hcore : s.st.place.master? ≠ none) {va : Nat} {x : Xl} (h : s.Leads va x) :
    s.reach .read va = .ok (s, .mem x) := by
  simp [State.reach, State.locate, h.1, xlate_of_hits s _ _ _ _ h.2, (core_of_master hcore).1]

/-- `t` is `s` but for copies of the read-only path, cached lines, packets and bank counters, and for what the wraps of these have sent. -/
def Ranged (s t : State) : Prop := ∃ roCopies : List RoCopy, LinesCounted { s with roCopies := roCopies } t

namespace Ranged

theorem of_linesCounted {s t : State} (h : LinesCounted s t) : Ranged s t := ⟨s.roCopies, h⟩

theorem trans {s t u : State} : Ranged s t → Ranged t u → Ranged s u := by
  rintro ⟨_, _, _, _, _, _, _, _, _, _, rfl⟩ ⟨ro, _, _, _, _, _, _, _, _, _, rfl⟩
  exact ⟨ro, _, _, _, _, _, _, _, _, _, rfl⟩

section
variable {s t : State} (h : Ranged s t)
include h

theorem place : t.st.place = s.st.place := by obtain ⟨_, _, _, _, _, _, _, _, _, _, rfl⟩ := h; rfl
theorem leads {va : Nat} {x : Xl} (hl : s.Leads va x) : t.Leads va x := by obtain ⟨_, _, _, _, _, _, _, _, _, _, rfl⟩ := h; exact hl
theorem policy (vc : Nat) : t.policy vc = s.policy vc := by obtain ⟨_, _, _, _, _, _, _, _, _, _, rfl⟩ := h; rfl
theorem coreid : t.coreid = s.coreid := by obtain ⟨_, _, _, _, _, _, _, _, _, _, rfl⟩ := h; rfl
theorem vcLines (x : Xl) (n : Nat) : t.vcLines x n = s.vcLines x n := by obtain ⟨_, _, _, _, _, _, _, _, _, _, rfl⟩ := h; rfl

end

end Ranged

/-- What an operation on pages does to one part of a range; a page of fabric kind is skipped. -/
def State.onPart (f : State → Xl → Nat → State) (xs : Nat → Xl) (s : State) (p : Nat × Nat) : State :=
  if (xs p.1).fabric then s else f s (xs p.1) p.2

/-- A run over a list none of whose steps ends it is a fold. -/
theorem foldlM_ok {α : Type} {R : State → Prop} {g : State → α → Run State} {f : State → α → State} {l : List α}
    (hok : ∀ t, R t → ∀ a ∈ l, g t a = .ok (f t a)) (hkeeps : ∀ t a, R t → R (f t a)) {s : State} (hs : R s) :
    l.foldlM g s = .ok (l.foldl f s) := by
  induction l generalizing s with
  | nil => rfl
  | cons a l ih =>
    rw [List.foldlM_cons, hok s hs a (by simp)]
    exact ih (fun t ht b hb => hok t ht b (by simp [hb])) (hkeeps s a hs)

/-- What one element of a fold does stands between two states of it. -/
theorem foldl_passes {α : Type} {R : State → State → Prop} (hrefl : ∀ s, R s s) (htrans : ∀ {s t u}, R s t → R t u → R s u)
    {f : State → α → State} (hf : ∀ s a, R s (f s a)) {l : List α} {a : α} (ha : a ∈ l) (s : State) :
    ∃ t, R s t ∧ R (f t a) (l.foldl f s) := by
  obtain ⟨l₁, l₂, rfl⟩ := List.append_of_mem ha
  rw [List.foldl_append, List.foldl_cons]
  exact ⟨_, foldl_keeps hrefl htrans hf l₁ s, foldl_keeps hrefl htrans hf l₂ _⟩

theorem ranged_onPart {f : State → Xl → Nat → State} (hf : ∀ t x n, Ranged t (f t x n)) (xs : Nat → Xl) (s : State) (p : Nat × Nat) :
    Ranged s (s.onPart f xs p) := by
  unfold State.onPart
  split_ifs
  · exact .of_linesCounted (.of_linesOnly (.refl s))
  · exact hf s _ _

theorem eachPage_of_leads {s : State} (hcore : s.st.place.master? ≠ none) {f : State → Xl → Nat → State}
    (hf : ∀ t x n, Ranged t (f t x n)) {va n : Nat} {xs : Nat → Xl} (h : ∀ p ∈ pagePieces va n, s.Leads p.1 (xs p.1)) :
    s.eachPage va n f = .ok ((pagePieces va n).foldl (State.onPart f xs) s) := by
  refine foldlM_ok (R := Ranged s) (fun t ht p hp => ?_) (fun t p ht => ht.trans (ranged_onPart hf xs t p))
    (.of_linesCounted (.of_linesOnly (.refl s)))
  rw [reach_of_leads (ht.place ▸ hcore) (ht.leads (h p hp))]
  rfl

theorem rangeRun_of_leads {s : State} (hcore : s.st.place.master? ≠ none) {f : State → Xl → Nat → State}
    (hf : ∀ t x n, Ranged t (f t x n)) {a b : BitVec 5} (hnear : (s.getS a).toNat + (s.getS b).toNat ≤ 2 ^ 54) {xs : Nat → Xl}
    (h : ∀ p ∈ pagePieces (s.getS a).toNat (s.getS b).toNat, s.Leads p.1 (xs p.1)) : finish (s.rangeRun a b f) =
      .next ((pagePieces (s.getS a).toNat (s.getS b).toNat).foldl (State.onPart f xs) s).advance := by
  unfold State.rangeRun
  rw [rangeCheck_of_near hnear, eachPage_of_leads hcore hf h]
  rfl

/-! ## VCSYNC on a page -/

theorem spanUnder_pos (p : Option Plat) : 0 < spanUnder p := by
  cases p with
  | none => exact Nat.one_pos
  | some p => exact Nat.two_pow_pos _

theorem mem_sectorsUnder {p : Option Plat} {l k : Nat} : l ∈ sectorsUnder p k ↔ l / spanUnder p = k / spanUnder p := by
  have hpos := spanUnder_pos p
  simp only [sectorsUnder, lineBase, List.mem_map, List.mem_range]
  constructor
  · rintro ⟨i, hi, rfl⟩
    rw [Nat.mul_comm, Nat.mul_add_div hpos, Nat.div_eq_of_lt hi, Nat.add_zero]
  · intro h
    exact ⟨l % spanUnder p, Nat.mod_lt _ hpos, by rw [← h, Nat.mul_comm, Nat.div_add_mod]⟩

/-- The whole lines of the vcache that the bytes touch. -/
theorem mem_vcLines {s : State} {x : Xl} {n l : Nat} : l ∈ s.vcLines x n ↔ n ≠ 0 ∧
    x.pa / 64 / spanUnder (s.platOf x.vc) ≤ l / spanUnder (s.platOf x.vc) ∧
      l / spanUnder (s.platOf x.vc) ≤ (x.pa + n - 1) / 64 / spanUnder (s.platOf x.vc) := by
  have hpos := spanUnder_pos (s.platOf x.vc)
  simp only [State.vcLines, List.mem_eraseDups, List.mem_flatMap, mem_linesOf, mem_sectorsUnder]
  generalize spanUnder (s.platOf x.vc) = span at hpos
  constructor
  · rintro ⟨k, ⟨hn, hlo, hhi⟩, h⟩
    exact ⟨hn, h ▸ Nat.div_le_div_right hlo, h ▸ Nat.div_le_div_right hhi⟩
  · rintro ⟨hn, hlo, hhi⟩
    have hends : x.pa / 64 ≤ (x.pa + n - 1) / 64 := Nat.div_le_div_right (by omega)
    obtain h | h := Nat.eq_or_lt_of_le hlo
    · exact ⟨x.pa / 64, ⟨hn, le_rfl, hends⟩, h.symm⟩
    · refine ⟨l / span * span, ⟨hn, ?_, ?_⟩, (Nat.mul_div_cancel _ hpos).symm⟩
      · exact Nat.le_of_lt ((Nat.div_lt_iff_lt_mul hpos).mp h)
      · exact (Nat.le_div_iff_mul_le hpos).mp hhi

theorem line_mem_vcLines {s : State} {x : Xl} {n l : Nat} (h : l ∈ linesOf x.pa n) : l ∈ s.vcLines x n := by
  obtain ⟨hn, hlo, hhi⟩ := mem_linesOf.mp h
  exact mem_vcLines.mpr ⟨hn, Nat.div_le_div_right hlo, Nat.div_le_div_right hhi⟩

/-- A cached line that VCSYNC drops for a part of a range: of the issuing core's L1, or of the vcache. -/
def State.syncs (s : State) (x : Xl) (n : Nat) (l : CLine) : Bool :=
  (s.vcLines x n).contains l.line && (l.holder == .l1 s.coreid || l.holder == .vcache x.vc)

/-- The read-only path has dropped its copies for a part of a range. -/
def State.uncopied (s : State) (x : Xl) (n : Nat) : State :=
  { s with roCopies := s.roCopies.filter (fun c => !(c.vcache == x.vc && (s.vcLines x n).contains c.line)) }

theorem syncPiece_of_other {s : State} {x : Xl} (h : s.policy x.vc ≠ 3) (n : Nat) : s.syncPiece x n = s := by
  simp [State.syncPiece, h]

theorem syncPiece_of_readOnly {s : State} {x : Xl} (h : s.policy x.vc = 3) (n : Nat) :
    s.syncPiece x n = (s.uncopied x n).evictAll (s.syncs x n) := by
  simp only [State.syncPiece, h, bne_self_eq_false, Bool.false_eq_true, if_false]
  rfl

theorem syncs_iff {s : State} {x : Xl} {n : Nat} {l : CLine} :
    s.syncs x n l = true ↔ l.line ∈ s.vcLines x n ∧ (l.holder = .l1 s.coreid ∨ l.holder = .vcache x.vc) := by
  simp [State.syncs]

theorem mem_copies_syncPiece {s : State} {x : Xl} (h : s.policy x.vc = 3) {n : Nat} {c : RoCopy} :
    c ∈ (s.syncPiece x n).roCopies ↔ c ∈ s.roCopies ∧ ¬ (c.vcache = x.vc ∧ c.line ∈ s.vcLines x n) := by
  rw [syncPiece_of_readOnly h]
  obtain ⟨_, _, e⟩ := LinesOnly.evictAll (s.uncopied x n) (s.syncs x n)
  rw [e]
  refine List.mem_filter.trans (and_congr_right fun _ => ?_)
  simp only [Bool.not_eq_true', Bool.eq_false_iff, ne_eq, Bool.and_eq_true, beq_iff_eq, List.contains_iff_mem]

/-- From `s` to `t` copies have been dropped, and cached lines have left. -/
structure Synced (s t : State) : Prop where
  form : ∃ roCopies : List RoCopy, LinesOnly { s with roCopies := roCopies } t
  copies : ∀ c ∈ t.roCopies, c ∈ s.roCopies
  lines : ∀ l ∈ t.cache.lines, l.gone ∨ l ∈ s.cache.lines

namespace Synced

theorem refl (s : State) : Synced s s := ⟨⟨_, .refl s⟩, fun _ h => h, fun _ h => .inr h⟩

theorem trans {s t u : State} (h : Synced s t) (k : Synced t u) : Synced s u where
  form := by
    obtain ⟨_, _, _, rfl⟩ := h.form
    obtain ⟨ro, _, _, rfl⟩ := k.form
    exact ⟨ro, _, _, rfl⟩
  copies c hc := h.copies c (k.copies c hc)
  lines l hl := (k.lines l hl).elim .inl (h.lines l)

theorem syncPiece (s : State) (x : Xl) (n : Nat) : Synced s (s.syncPiece x n) := by
  by_cases h : s.policy x.vc = 3
  · refine ⟨⟨(s.uncopied x n).roCopies, ?_⟩, fun c hc => ((mem_copies_syncPiece h).mp hc).1, fun l hl => ?_⟩
    · exact syncPiece_of_readOnly h n ▸ LinesOnly.evictAll (s.uncopied x n) _
    · rw [syncPiece_of_readOnly h] at hl
      exact (mem_lines_evictAll hl).imp_right (·.1)
  · rw [syncPiece_of_other h]
    exact refl s

theorem ranged {s t : State} (h : Synced s t) : Ranged s t := by
  obtain ⟨ro, hlines⟩ := h.form
  exact ⟨ro, .of_linesOnly hlines⟩

theorem onPart (xs : Nat → Xl) (s : State) (p : Nat × Nat) : Synced s (s.onPart State.syncPiece xs p) := by
  unfold State.onPart
  split_ifs
  · exact refl s
  · exact syncPiece s _ _

end Synced

/-- What VCSYNC leaves of a line that a part of its range touches. -/
theorem synced_of_part {s t : State} {xs : Nat → Xl} {p : Nat × Nat} {line : Nat} (hst : Synced s t) (hkind : (xs p.1).kind ≠ 1)
    (hro : s.policy (xs p.1).vc = 3) (hline : line ∈ linesOf (xs p.1).pa p.2) {u : State}
    (hu : Synced (t.onPart State.syncPiece xs p) u) :
    (∀ c ∈ u.roCopies, ¬ (c.vcache = (xs p.1).vc ∧ c.line = line)) ∧
      ∀ l ∈ u.cache.lines, l.line = line → l.holder = .l1 s.coreid ∨ l.holder = .vcache (xs p.1).vc → l.gone := by
  have hpart : t.onPart State.syncPiece xs p = t.syncPiece (xs p.1) p.2 := if_neg (by simpa [Xl.fabric] using hkind)
  have hro : t.policy (xs p.1).vc = 3 := (hst.ranged.policy _).trans hro
  have hmem : line ∈ t.vcLines (xs p.1) p.2 := line_mem_vcLines hline
  rw [hpart] at hu
  refine ⟨fun c hc ⟨hvc, hl⟩ => ?_, fun l hl hline hholder => ?_⟩
  · exact ((mem_copies_syncPiece hro).mp (hu.copies c hc)).2 ⟨hvc, hl ▸ hmem⟩
  · obtain hg | hl := hu.lines l hl
    · exact hg
    · rw [syncPiece_of_readOnly hro] at hl
      refine (mem_lines_evictAll hl).resolve_right fun ⟨_, hno⟩ => ?_
      have hyes := syncs_iff.mpr ⟨hline ▸ hmem, hst.ranged.coreid ▸ hholder⟩
      rw [hyes] at hno
      cases hno

/-! ## VCFLUSH on a page -/

/-- A cached line whose dirty data VCFLUSH sends home for a part of a range: of the issuing core's L1, or of a vcache. -/
def State.flushes (s : State) (x : Xl) (n : Nat) (l : CLine) : Bool :=
  (l.holder == .l1 s.coreid && (linesOf x.pa n).contains l.line) ||
    (isVcacheHolder l.holder && (s.sectorsOf l).any (fun q => (linesOf x.pa n).contains q.line))

theorem flushPiece_eq (s : State) (x : Xl) (n : Nat) :
    s.flushPiece x n = (s.cache.lines.filter (s.flushes x n)).foldl State.cleanLine s := rfl

theorem sameLine_self (s : State) (c : CLine) : s.sameLine c c = true := by
  unfold State.sameLine
  cases c.holder <;> simp

theorem flushes_of_line {s : State} {x : Xl} {n : Nat} {l : CLine} (hl : l ∈ s.cache.lines) (hline : l.line ∈ linesOf x.pa n)
    (h : l.holder = .l1 s.coreid ∨ ∃ v, l.holder = .vcache v) : s.flushes x n l = true := by
  unfold State.flushes
  obtain h | ⟨v, h⟩ := h
  · simp [h, hline]
  · have hself : (s.sectorsOf l).any (fun q => (linesOf x.pa n).contains q.line) = true :=
      List.any_eq_true.mpr ⟨l, List.mem_filter.mpr ⟨hl, sameLine_self s l⟩, List.contains_iff_mem.mpr hline⟩
    rw [hself, h]
    simp [isVcacheHolder]

/-- From `s` to `t` lines have become clean, and write-backs have been counted. -/
structure Flushed (s t : State) : Prop where
  form : LinesCounted s t
  uncounted : s.countsNone [6] = true → LinesOnly s t
  lines : ∀ l ∈ t.cache.lines, isDirty l.state = true → l ∈ s.cache.lines

namespace Flushed

theorem refl (s : State) : Flushed s s := ⟨.of_linesOnly (.refl s), fun _ => .refl s, fun _ h _ => h⟩

theorem trans {s t u : State} (h : Flushed s t) (k : Flushed t u) : Flushed s u where
  form := h.form.trans k.form
  uncounted hs := by
    have hst := h.uncounted hs
    refine hst.trans (k.uncounted ?_)
    obtain ⟨_, _, rfl⟩ := hst
    exact hs
  lines l hl hd := h.lines l (k.lines l hl hd) hd

theorem cleanLine (s : State) (c : CLine) : Flushed s (s.cleanLine c) where
  form := .cleanLine s c
  uncounted hs := linesOnly_cleanLine hs c
  lines l hl hd := ((mem_lines_cleanLine hl).resolve_left (by simp [hd])).1

theorem flushPiece (s : State) (x : Xl) (n : Nat) : Flushed s (s.flushPiece x n) := foldl_keeps refl trans cleanLine _ s

theorem ranged {s t : State} (h : Flushed s t) : Ranged s t := .of_linesCounted h.form

theorem onPart (xs : Nat → Xl) (s : State) (p : Nat × Nat) : Flushed s (s.onPart State.flushPiece xs p) := by
  unfold State.onPart
  split_ifs
  · exact refl s
  · exact flushPiece s _ _

end Flushed

/-- What VCFLUSH leaves of a line that a part of its range touches. -/
theorem flushed_of_part {s t : State} {xs : Nat → Xl} {p : Nat × Nat} (hst : Flushed s t) (hkind : (xs p.1).kind ≠ 1) {u : State}
    (hu : Flushed (t.onPart State.flushPiece xs p) u) {l : CLine} (hl : l ∈ u.cache.lines) (hline : l.line ∈ linesOf (xs p.1).pa p.2)
    (hholder : l.holder = .l1 s.coreid ∨ ∃ v, l.holder = .vcache v) : isDirty l.state = false := by
  have hpart : t.onPart State.flushPiece xs p = t.flushPiece (xs p.1) p.2 := if_neg (by simpa [Xl.fabric] using hkind)
  rw [hpart, flushPiece_eq] at hu
  by_contra hdirty
  obtain h | ⟨hlt, hnot⟩ := mem_lines_foldl (fun _ _ _ => mem_lines_cleanLine) (hu.lines l hl (by simpa using hdirty))
  · exact hdirty h
  · exact hnot (List.mem_filter.mpr ⟨hlt, flushes_of_line hlt hline (hst.ranged.coreid ▸ hholder)⟩)

/-! ## The range operations (R274, R435) -/

section
variable {s : State} (hcore : s.st.place.master? ≠ none) {a b : BitVec 5}
  (hnear : (s.getS a).toNat + (s.getS b).toNat ≤ 2 ^ 54) {xs : Nat → Xl}
  (hleads : ∀ p ∈ pagePieces (s.getS a).toNat (s.getS b).toNat, s.Leads p.1 (xs p.1))
include hcore hnear hleads

theorem exec_vcsync_of_leads : exec (.vcsync a b) s =
    .next ((pagePieces (s.getS a).toNat (s.getS b).toNat).foldl (State.onPart State.syncPiece xs) s).advance :=
  (exec_vcsync hcore a b).trans (rangeRun_of_leads hcore (fun t x n => (Synced.syncPiece t x n).ranged) hnear hleads)

theorem exec_vcflush_of_leads : exec (.vcflush a b) s =
    .next ((pagePieces (s.getS a).toNat (s.getS b).toNat).foldl (State.onPart State.flushPiece xs) s).advance :=
  (exec_vcflush hcore a b).trans (rangeRun_of_leads hcore (fun t x n => (Flushed.flushPiece t x n).ranged) hnear hleads)

end

theorem vcacheRangeOperations : Sys2Proof.Parts.VcacheRangeOperations := by
  intro s a b hcore va n pages maps gone
  have leads {p : Nat} {x : Xl} (h : maps p x) : s.Leads p x := ⟨h.1, hits_of_xlate hcore h.2⟩
  refine ⟨fun h => exec_range_ops hcore (rangeRun_of_empty h), fun h hfar => exec_range_ops hcore (rangeRun_of_far h hfar),
    fun hn hnear => ⟨fun c hkept hc => exec_range_ops hcore (rangeRun_of_fault hcore hn hnear hkept hc), fun xs hmaps => ?_,
      fun x hone hx => ?_⟩⟩
  · intro at_ page
    have hleads : ∀ p ∈ pagePieces va n, s.Leads p.1 (xs p.1) := by
      intro p hp
      rw [pagePieces_of_ne_zero hn] at hp
      obtain ⟨i, hi, rfl⟩ := List.mem_map.mp hp
      exact leads (hmaps _ (List.mem_map.mpr ⟨i, hi, rfl⟩))
    constructor
    · rw [exec_vcsync_of_leads hcore hnear hleads]
      have hall : Synced s ((pagePieces va n).foldl (State.onPart State.syncPiece xs) s) :=
        foldl_keeps Synced.refl Synced.trans (Synced.onPart xs) _ s
      refine ⟨_, rfl, ?_, fun q hlo hhi hkind hro => ?_⟩
      · obtain ⟨_, _, _, e⟩ := hall.form
        rw [e]
        rfl
      · obtain ⟨t, hst, htu⟩ := foldl_passes Synced.refl Synced.trans (Synced.onPart xs) (mem_pagePieces hlo hhi) s
        have hsynced := synced_of_part hst hkind hro (line_mem_pagePart hlo hhi _) htu
        exact hsynced
    · rw [exec_vcflush_of_leads hcore hnear hleads]
      have hall : Flushed s ((pagePieces va n).foldl (State.onPart State.flushPiece xs) s) :=
        foldl_keeps Flushed.refl Flushed.trans (Flushed.onPart xs) _ s
      refine ⟨_, rfl, ?_, fun hnone => ?_, fun q hlo hhi hkind l hl hline hholder => ?_⟩
      · obtain ⟨_, _, _, _, _, _, _, _, _, e⟩ := hall.form
        rw [e]
        rfl
      · obtain ⟨_, _, e⟩ := hall.uncounted hnone
        rw [e]
        rfl
      · obtain ⟨t, hst, htu⟩ := foldl_passes Flushed.refl Flushed.trans (Flushed.onPart xs) (mem_pagePieces hlo hhi) s
        have hclean := flushed_of_part hst hkind htu hl (hline ▸ line_mem_pagePart hlo hhi _) hholder
        rw [← Bool.not_eq_true, isDirty_iff, not_or] at hclean
        exact hclean
  · have hone := pagePieces_of_one_page hn hone
    have hleads : ∀ p ∈ pagePieces va n, s.Leads p.1 ((fun _ => x) p.1) := fun p hp => by
      rw [hone] at hp
      exact List.mem_singleton.mp hp ▸ leads hx
    have hsync := exec_vcsync_of_leads (xs := fun _ => x) hcore hnear hleads
    have hflush := exec_vcflush_of_leads (xs := fun _ => x) hcore hnear hleads
    rw [show pagePieces (s.getS a).toNat (s.getS b).toNat = [(va, n)] from hone, List.foldl_cons, List.foldl_nil] at hsync hflush
    refine ⟨fun hkind i hi => ?_, fun hkind hro => ?_, fun hkind hro => ?_⟩
    · have hskip (f : State → Xl → Nat → State) : s.onPart f (fun _ => x) (va, n) = s := if_pos (by simpa [Xl.fabric] using hkind)
      rw [hskip] at hsync hflush
      obtain rfl | rfl : i = .vcsync a b ∨ i = .vcflush a b := by simpa using hi
      · exact hsync
      · exact hflush
    · have hpart : s.onPart State.syncPiece (fun _ => x) (va, n) = s.syncPiece x n := if_neg (by simpa [Xl.fabric] using hkind)
      rw [hsync, hpart, syncPiece_of_other hro]
    · intro span touched
      have hpart : s.onPart State.syncPiece (fun _ => x) (va, n) = s.syncPiece x n := if_neg (by simpa [Xl.fabric] using hkind)
      have hspan : span = spanUnder (s.platOf x.vc) := rfl
      have htouched (l : Nat) : touched l ↔ l ∈ s.vcLines x n := by
        rw [mem_vcLines, ← hspan]
        exact (and_iff_right hn).symm
      rw [hpart] at hsync
      refine ⟨_, hsync, fun c => (mem_copies_syncPiece hro).trans (by rw [htouched]), fun l hl hnot => ?_⟩
      rw [htouched] at hnot
      change l ∈ (s.syncPiece x n).cache.lines
      rw [syncPiece_of_readOnly hro]
      refine mem_evictAll_of_apart hl fun c _ hc => ?_
      obtain ⟨hline, hholder⟩ := syncs_iff.mp hc
      by_contra hsame
      rw [not_or, not_not, not_not] at hsame
      exact hnot ⟨hsame.2 ▸ hline, hsame.1 ▸ hholder⟩

/-- Settles O38: a definition and a deletion change what is found under one identifier alone; on each page of a range lines leave or become
clean one by one, and the translation of no later page sees it. -/
theorem virtualCaches : Obligations.VirtualCaches := ⟨vcacheDefine, vcacheDeleteAndQuery, vcacheRangeOperations⟩

end Sys2Proof.Machine

/-! Far atomics at a bank and additions at the scatter-add units (11 R269, R270, 13 R293), and the bank events that count (24 R435, R436). -/

namespace Sys2Proof.Machine

/-! ## Bytes a store leaves, as a number -/

theorem two_pow_bits (n : Nat) : 2 ^ (8 * n) = 256 ^ n := Nat.pow_mul 2 8 n

theorem leNat_append (a b : List Byte) : leNat (a ++ b) = leNat a + 256 ^ a.length * leNat b := by
  induction a with
  | nil => simp [leNat]
  | cons x a ih => rw [List.cons_append, leNat, leNat, ih, List.length_cons, Nat.pow_succ']; ring

theorem leNat_take_add_drop (bs : List Byte) {n : Nat} (h : n ≤ bs.length) :
    leNat bs = leNat (bs.take n) + 256 ^ n * leNat (bs.drop n) := by
  conv_lhs => rw [← List.take_append_drop n bs, leNat_append, List.length_take_of_le h]

theorem leNat_take (bs : List Byte) {n : Nat} (h : n ≤ bs.length) : leNat (bs.take n) = leNat bs % 256 ^ n := by
  have hlt := leNat_lt (bs.take n)
  rw [List.length_take_of_le h] at hlt
  rw [leNat_take_add_drop bs h, Nat.add_mul_mod_self_left, Nat.mod_eq_of_lt hlt]

theorem memBytes_take (s : State) (pa : Nat) {m n : Nat} (h : n ≤ m) : (s.memBytes pa m).take n = s.memBytes pa n := by
  simp [State.memBytes, Memory.readBytes, ← List.map_take, List.take_range, h]

@[simp] theorem length_memBytes (s : State) (pa n : Nat) : (s.memBytes pa n).length = n := by simp [State.memBytes, Memory.readBytes]

/-- A performed store is read back. -/
theorem memBytes_perform {s : State} (hwf : s.memWf = true) (own : Bool) (pa : Nat) (bs : List Byte) {n : Nat} (h : n ≤ bs.length) :
    (s.perform own pa bs).memBytes pa n = bs.take n := by
  refine List.ext_getElem (by simp [h]) fun i _ hi => ?_
  rw [List.length_take_of_le h] at hi
  rw [List.getElem_take, ← memByte_perform_in s own pa i bs hwf (by omega)]
  simp only [State.memBytes, Memory.readBytes, List.getElem_map, List.getElem_range]
  rfl

/-! ## A far atomic at its bank (R269, R293) -/

theorem mem_atomicHeld (s : State) (a n : Nat) : ((s.bankHolds a n).farFrom a).mem = s.mem := mem_bankHolds s a n

section
variable {s : State} {pa : BitVec 52} {op : BitVec 5} {n : Nat}

/-- The bank may perform the operation (R269). -/
def State.ableAtBank (s : State) (pa : BitVec 52) (op : BitVec 5) (n : Nat) : Prop :=
  op.toNat ≤ 10 ∧ pa.toNat % n = 0 ∧ (isHbm pa.toNat || isHostMem pa.toNat || isPool pa.toNat) = true ∧ s.poisoned pa.toNat = false ∧
    s.inDoubt pa.toNat n = false ∧ s.hostLines true pa.toNat n = []

theorem ableAtBank_iff : (decide (op.toNat > 10) || pa.toNat % n != 0 || !(isHbm pa.toNat || isHostMem pa.toNat || isPool pa.toNat) ||
    s.poisoned pa.toNat || s.blocked true pa.toNat n) = false ↔ s.ableAtBank pa op n := by
  unfold State.ableAtBank State.blocked
  generalize (isHbm pa.toNat || isHostMem pa.toNat || isPool pa.toNat) = real
  simp [and_assoc]

end

/-- An operation at a bank that may perform it: the bytes become what it stores, if it stores; no other byte changes. -/
theorem farAtomic_of_able {s : State} (hwf : s.memWf = true) {pa : BitVec 52} {wide : Bool} {op : BitVec 5} {n : Nat}
    (hn : n = if wide then 8 else 4) (h : s.ableAtBank pa op n) (x cmp : Word) :
    ∃ t, exec (.farAtomicAtBank pa wide op x cmp) s = .next t ∧
      (∀ q, q < pa.toNat ∨ pa.toNat + n ≤ q → t.memByte q = s.memByte q) ∧
      leNat (t.memBytes pa.toNat n) =
        ((atomicNew op.toNat (8 * n) (leNat (s.memBytes pa.toNat n)) (x.toNat % 2 ^ (8 * n)) (cmp.toNat % 2 ^ (8 * n))).map
          (· % 2 ^ (8 * n))).getD (leNat (s.memBytes pa.toNat n)) := by
  have hmem := mem_atomicHeld s pa.toNat n
  have hcheck := ableAtBank_iff.mpr h
  subst hn
  simp only [exec, execFarAtomicAtBank, hcheck, Bool.false_eq_true, if_false]
  cases atomicNew op.toNat _ _ _ _ with
  | none => exact ⟨_, rfl, fun q _ => congrArg (Memory.read · unlisted q) hmem, congrArg leNat (memBytes_of_mem hmem _ _)⟩
  | some v =>
    refine ⟨_, rfl, fun q hq => ?_, ?_⟩
    · exact (memByte_perform_out _ _ _ _ _ (by rwa [length_leBytes])).trans (congrArg (Memory.read · unlisted q) hmem)
    · rw [memBytes_perform (wf_of_mem hmem hwf) _ _ _ (by rw [length_leBytes]), List.take_of_length_le (by rw [length_leBytes]),
        leNat_leBytes, ← two_pow_bits]
      rfl

theorem farAtomic_of_not_able {s : State} {pa : BitVec 52} {wide : Bool} {op : BitVec 5} {n : Nat} (hn : n = if wide then 8 else 4)
    (h : ¬ s.ableAtBank pa op n) (x cmp : Word) : exec (.farAtomicAtBank pa wide op x cmp) s = .next s := by
  have hcheck := Bool.eq_true_of_not_eq_false (mt ableAtBank_iff.mp h)
  subst hn
  simp only [exec, execFarAtomicAtBank, hcheck, if_true]

/-! ## A chain of additions (R270) -/

/-- Bytes that an addition is exact on. -/
def Scatter.bytes (c : Scatter) : Nat := if c.wide then 8 else 4

theorem step_eq {c : Scatter} (hop : c.op = 0) (bs : List Byte) : Scatter.step bs c =
    leBytes c.bytes ((leNat (bs.take c.bytes) + c.value.toNat) % 2 ^ (8 * c.bytes)) ++ bs.drop c.bytes := by
  simp [Scatter.step, hop, atomicNew, Scatter.bytes]

theorem length_step {c : Scatter} (hop : c.op = 0) {bs : List Byte} (h : c.bytes ≤ bs.length) : (Scatter.step bs c).length = bs.length := by
  rw [step_eq hop, List.length_append, length_leBytes, List.length_drop]
  omega

/-- Within the width of an addition the bytes gain its value. -/
theorem leNat_step_mod {c : Scatter} (hop : c.op = 0) {bs : List Byte} (h : c.bytes ≤ bs.length) {m : Nat} (hm : m ∣ 256 ^ c.bytes) :
    leNat (Scatter.step bs c) % m = (leNat bs + c.value.toNat) % m := by
  rw [step_eq hop, leNat_append, length_leBytes, leNat_leBytes, two_pow_bits, Nat.mod_mod, leNat_take bs h]
  rw [Nat.add_mod, Nat.mod_eq_zero_of_dvd (hm.mul_right _), Nat.add_zero, Nat.mod_mod, Nat.mod_mod_of_dvd _ hm, Nat.add_mod,
    Nat.mod_mod_of_dvd _ hm, ← Nat.add_mod]

theorem foldl_step {es : List Scatter} (hop : ∀ e ∈ es, e.op = 0) {bs : List Byte} (h : ∀ e ∈ es, e.bytes ≤ bs.length) :
    (es.foldl Scatter.step bs).length = bs.length ∧ ∀ m, (∀ e ∈ es, m ∣ 256 ^ e.bytes) →
      leNat (es.foldl Scatter.step bs) % m = (leNat bs + (es.map (fun e => e.value.toNat)).sum) % m := by
  induction es generalizing bs with
  | nil => simp
  | cons e es ih =>
    have hlen := length_step (hop e (by simp)) (h e (by simp))
    obtain ⟨hlen', hsum⟩ := ih (bs := Scatter.step bs e) (fun d hd => hop d (by simp [hd])) (fun d hd => hlen ▸ h d (by simp [hd]))
    refine ⟨hlen'.trans hlen, fun m hm => ?_⟩
    rw [List.foldl_cons, hsum m fun d hd => hm d (by simp [hd]), Nat.add_mod, leNat_step_mod (hop e (by simp)) (h e (by simp))
      (hm e (by simp)), ← Nat.add_mod, List.map_cons, List.sum_cons, Nat.add_assoc]

/-- The command processor, with its bank counters, and the additions that pend stay as they are when a store is performed. -/
def BanksStay (s t : State) : Prop := t.cp = s.cp ∧ t.scatter = s.scatter

theorem banksStay_perform (s : State) (own : Bool) (pa : Nat) (bs : List Byte) : BanksStay s (s.perform own pa bs) := by
  have htrans {s t u : State} (h : BanksStay s t) (k : BanksStay t u) : BanksStay s u := ⟨k.1.trans h.1, k.2.trans h.2⟩
  have hseen (s : State) (l : Nat) : BanksStay s (s.writeSeen own l) := by cases own <;> exact ⟨rfl, rfl⟩
  have hmap (s : State) (id : StrandId) (f : Strand → Strand) : BanksStay s (s.mapStrand id f) := by
    unfold State.mapStrand
    split_ifs <;> exact ⟨rfl, rfl⟩
  have hdisturb (s : State) (l : Nat) : BanksStay s (s.disturb l) := by
    unfold State.disturb State.releaseAt
    split_ifs
    · exact foldl_keeps (R := BanksStay) (fun _ => ⟨rfl, rfl⟩) htrans (fun s w => hmap s _ _) _ { s with waiters := _ }
    · exact ⟨rfl, rfl⟩
  exact foldl_keeps (R := BanksStay) (fun _ => ⟨rfl, rfl⟩) htrans (fun s l => htrans (hseen s l) (hdisturb _ l)) _ (s.pokeBytes pa bs)

theorem exec_scatterAddApply (s : State) (pa : BitVec 52) : exec (.scatterAddApply pa) s = .next (s.applyScatter pa.toNat) := rfl

theorem applyScatter_of_none {s : State} {pa : Nat} (h : s.scatter.filter (fun c => c.pa == pa) = []) : s.applyScatter pa = s := by
  simp only [State.applyScatter, h]

/-- The bytes that a chain of additions spans. -/
def chainBytes (chain : List Scatter) : Nat := if chain.any (·.wide) then 8 else 4

/-- The bytes that a chain leaves at its address. -/
def State.chained (s : State) (pa : Nat) (chain : List Scatter) : List Byte :=
  chain.foldl Scatter.step (s.memBytes pa (chainBytes chain))

/-- The additions that pend at an address have been taken from their unit. -/
def State.unchained (s : State) (pa : Nat) : State := { s with scatter := s.scatter.filter (fun c => c.pa != pa) }

/-- A chain is counted for the vcache of its oldest addition, and performed as one store. -/
theorem applyScatter_of_chain {s : State} {pa : Nat} {c : Scatter} {rest : List Scatter}
    (h : s.scatter.filter (fun c => c.pa == pa) = c :: rest) : ∃ (req : Option Nat) (own : Bool), s.applyScatter pa =
      (((s.unchained pa).countBank 5 c.vc req).recallFrom none (pa / 64)).perform own pa (s.chained pa (c :: rest)) := by
  simp only [State.applyScatter, h, State.chained]
  exact ⟨_, _, rfl⟩

theorem bytes_le_chain {chain : List Scatter} {e : Scatter} (h : e ∈ chain) : e.bytes ≤ chainBytes chain := by
  unfold Scatter.bytes chainBytes
  split_ifs with hwide hany
  · exact le_rfl
  · exact absurd (List.any_eq_true.mpr ⟨e, h, hwide⟩) hany
  · decide
  · exact le_rfl

theorem chainBytes_bounds (chain : List Scatter) : 4 ≤ chainBytes chain ∧ chainBytes chain ≤ 8 := by
  unfold chainBytes
  split_ifs <;> decide

theorem chainBytes_of_wide {chain : List Scatter} (hne : chain ≠ []) (h : ∀ e ∈ chain, e.wide = true) : chainBytes chain = 8 := by
  obtain ⟨e, he⟩ := List.exists_mem_of_ne_nil chain hne
  exact if_pos (List.any_eq_true.mpr ⟨e, he, h e he⟩)

theorem chainBytes_of_narrow {chain : List Scatter} (h : ∀ e ∈ chain, e.wide = false) : chainBytes chain = 4 := by
  have hnone : chain.any (·.wide) = false := List.any_eq_false.mpr fun e he => by simp [h e he]
  rw [chainBytes, hnone]
  rfl

section
variable {chain : List Scatter} (hop : ∀ e ∈ chain, e.op = 0) (s : State) (pa : Nat)
include hop

theorem length_chained : (s.chained pa chain).length = chainBytes chain :=
  (foldl_step hop fun e he => by rw [length_memBytes]; exact bytes_le_chain he).1.trans (length_memBytes s pa _)

/-- The first n bytes gain the sum of a chain none of whose additions is narrower. -/
theorem leNat_chained {n : Nat} (hn : n ≤ chainBytes chain) (h : ∀ e ∈ chain, n ≤ e.bytes) :
    leNat ((s.chained pa chain).take n) = (leNat (s.memBytes pa n) + (chain.map (fun e => e.value.toNat)).sum) % 256 ^ n := by
  have hlen := length_memBytes s pa (chainBytes chain)
  obtain ⟨-, hsum⟩ := foldl_step hop fun e he => by rw [hlen]; exact bytes_le_chain he
  rw [leNat_take _ (by rw [length_chained hop]; exact hn), State.chained, hsum _ fun e he => pow_dvd_pow 256 (h e he),
    ← memBytes_take s pa hn, leNat_take _ (by rw [hlen]; exact hn), Nat.mod_add_mod]

end

/-- What the store of a chain leaves (R270). -/
theorem chain_spec {s u : State} (hwf : s.memWf = true) (hmem : u.mem = s.mem) {pa : Nat} {chain : List Scatter}
    (hop : ∀ e ∈ chain, e.op = 0) (own : Bool) :
    let t := u.perform own pa (s.chained pa chain)
    let sum := (chain.map (fun e => e.value.toNat)).sum
    leNat (t.memBytes pa 4) = (leNat (s.memBytes pa 4) + sum) % 256 ^ 4 ∧
      (chain ≠ [] → (∀ e ∈ chain, e.wide = true) → leNat (t.memBytes pa 8) = (leNat (s.memBytes pa 8) + sum) % 256 ^ 8) ∧
      (∀ q, q < pa ∨ pa + 8 ≤ q → t.memByte q = s.memByte q) ∧
      ((∀ e ∈ chain, e.wide = false) → ∀ q, pa + 4 ≤ q → t.memByte q = s.memByte q) := by
  intro t sum
  have hlen := length_chained hop s pa
  obtain ⟨hlo, hhi⟩ := chainBytes_bounds chain
  have hin {n : Nat} (hn : n ≤ chainBytes chain) : t.memBytes pa n = (s.chained pa chain).take n :=
    memBytes_perform (wf_of_mem hmem hwf) _ _ _ (by rwa [hlen])
  have hout (q : Nat) (hq : q < pa ∨ pa + chainBytes chain ≤ q) : t.memByte q = s.memByte q :=
    (memByte_perform_out _ _ _ _ _ (by rwa [hlen])).trans (congrArg (Memory.read · unlisted q) hmem)
  have hbytes (e : Scatter) : 4 ≤ e.bytes := by
    unfold Scatter.bytes
    split_ifs <;> decide
  refine ⟨?_, fun hne hwide => ?_, fun q hq => hout q (by omega), fun hnarrow q hq => hout q ?_⟩
  · rw [hin hlo, leNat_chained hop s pa hlo fun e _ => hbytes e]
  · have hall := (chainBytes_of_wide hne hwide).ge
    rw [hin hall, leNat_chained hop s pa hall fun e he => by rw [Scatter.bytes, if_pos (hwide e he)]]
  · rw [chainBytes_of_narrow hnarrow]
    exact .inr hq

/-- Counting a chain and recalling its line leave memory, and the additions that still pend. -/
theorem chain_frame (s : State) (vc line : Nat) (req : Option Nat) : let u := (s.countBank 5 vc req).recallFrom none line
    u.mem = s.mem ∧ u.scatter = s.scatter ∧ u.cp = (s.countBank 5 vc req).cp := by
  intro u
  obtain ⟨_, _, _, _, _, _, hmove⟩ := LinesMove.recallFrom (s.countBank 5 vc req) none line
  obtain ⟨_, _, _, _, _, _, _, hcount⟩ := Counts.countBank s 5 vc req
  refine ⟨(mem_recallFrom _ _ _).trans (mem_countBank _ _ _ _), ?_, ?_⟩
  · rw [show u = _ from hmove, hcount]
  · rw [show u = _ from hmove]

theorem bankArithmeticPart : Sys2Proof.Parts.BankArithmetic := by
  intro s pa wide op x cmp hwf n a old able
  have hn : n = if wide then 8 else 4 := rfl
  refine ⟨fun h => farAtomic_of_not_able hn h x cmp, fun h => ?_, fun h => ?_, fun c rest hchain hop => ?_⟩
  · obtain ⟨t, hexec, hframe, hnew⟩ := farAtomic_of_able hwf hn h x cmp
    refine ⟨t, hexec, hframe, fun hop => ?_, fun hop => ?_, fun hop => ?_, fun new hsome => ?_⟩
    · rw [hnew, hop]
      simp [atomicNew, old, a]
    · rw [hnew, hop]
      simp [atomicNew]
    · rw [hnew, hop]
      change ((if old = cmp.toNat % 2 ^ (8 * n) then some (x.toNat % 2 ^ (8 * n)) else none).map (· % 2 ^ (8 * n))).getD old = _
      split_ifs
      · exact Nat.mod_mod _ _
      · rfl
    · rw [hnew, hsome]
      rfl
  · have hnone : s.scatter.filter (fun c => c.pa == a) = [] := List.filter_eq_nil_iff.mpr fun c hc => by simpa using h c hc
    exact (exec_scatterAddApply s pa).trans (congrArg _ (applyScatter_of_none hnone))
  · obtain ⟨req, own, happly⟩ := applyScatter_of_chain hchain
    obtain ⟨hmem, hscatter, -⟩ := chain_frame (s.unchained a) c.vc (a / 64) req
    obtain ⟨hlow, hwide, hout, hnarrow⟩ := chain_spec hwf hmem hop own (pa := a)
    refine ⟨_, (exec_scatterAddApply s pa).trans (congrArg _ happly), ?_, hlow, hwide (by simp), hout, hnarrow⟩
    exact (banksStay_perform _ _ _ _).2.trans hscatter

/-! ## Events that count (R435, R436) -/

theorem cp_fabOut (s : State) (ep : Nat) (a : Word) (p : List Byte) : (s.fabOut ep a p).cp = s.cp := by
  unfold State.fabOut
  split_ifs
  · rfl
  · split <;> rfl

theorem bankCtr_hubSend (s : State) (r : Except Nat Receiver) (m : Msg) : (s.hubSend r m).cp.bankCtr = s.cp.bankCtr := by
  unfold State.hubSend
  split
  · rfl
  · rfl
  · rw [cp_fabOut]

theorem bankCtr_tellSupervisor (s : State) (v r : Nat) : (s.tellSupervisor v r).cp.bankCtr = s.cp.bankCtr := by
  unfold State.tellSupervisor
  dsimp only
  split_ifs
  · rfl
  · exact bankCtr_hubSend _ _ _

theorem vget_bankAdd_ne (s : State) {v k i : Nat} (n : Nat) (h : v * 4 + k ≠ i) :
    vget (s.bankAdd v k n).cp.bankCtr 0 i = vget s.cp.bankCtr 0 i := by
  unfold State.bankAdd
  dsimp only
  split_ifs
  · exact vget_vset_ne _ _ _ _ _ h
  · rw [bankCtr_tellSupervisor]
    exact vget_vset_ne _ _ _ _ _ h
  · exact vget_vset_ne _ _ _ _ _ h

/-- A count below its largest goes up by one. -/
theorem putBits_count_succ {w : Word} (h : w.toNat % 2 ^ 48 < 2 ^ 48 - 1) : putBits w 0 48 (bits w 0 48 + 1) = w + 1 := by
  have hlow := bits_putBits_same w 0 48 (bits w 0 48 + 1) (by decide)
  have hhigh := bits_putBits_apart w 0 48 (bits w 0 48 + 1) 48 16 (.inr (by decide))
  apply BitVec.eq_of_toNat_eq
  have h1 := w.isLt
  have h2 := (putBits w 0 48 (bits w 0 48 + 1)).isLt
  generalize putBits w 0 48 (bits w 0 48 + 1) = u at hlow hhigh h2 ⊢
  have hone : (1 : Word).toNat = 1 := rfl
  simp only [bits, nbits, BitVec.toNat_add, hone, Nat.pow_zero, Nat.div_one] at hlow hhigh ⊢
  omega

theorem vget_bankAdd_same {s : State} {v k : Nat} (hv : v < 32) (hk : k < 4)
    (h : (vget s.cp.bankCtr 0 (v * 4 + k)).toNat % 2 ^ 48 < 2 ^ 48 - 1) :
    vget (s.bankAdd v k 1).cp.bankCtr 0 (v * 4 + k) = vget s.cp.bankCtr 0 (v * 4 + k) + 1 := by
  have hroom : bits (vget s.cp.bankCtr 0 (v * 4 + k)) 0 48 + 1 < 2 ^ 48 := by
    simp only [bits, nbits]
    omega
  unfold State.bankAdd
  rw [if_pos hroom, vget_vset_same _ _ _ _ (by omega), putBits_count_succ h]

/-- Counter k of function v at an event: it counts it, if it is enabled for it and not frozen. -/
def State.bankStep (ev v : Nat) (s : State) (k : Nat) : State :=
  if s.bankCounts v k && bits (vget s.cp.bankCtr 0 (v * 4 + k)) 48 8 == ev then s.bankAdd v k 1 else s

theorem countBank_eq {s : State} {vc v : Nat} {req : Option Nat} (h : s.bankFunction vc req = some v) (ev : Nat) :
    s.countBank ev vc req = (List.range 4).foldl (State.bankStep ev v) s := by
  simp only [State.countBank, h]
  rfl

theorem vget_bankStep_ne (s : State) (ev : Nat) {v k i : Nat} (h : v * 4 + k ≠ i) :
    vget (s.bankStep ev v k).cp.bankCtr 0 i = vget s.cp.bankCtr 0 i := by
  unfold State.bankStep
  split_ifs
  · exact vget_bankAdd_ne s 1 h
  · rfl

theorem counts_bankStep (ev v : Nat) (s : State) (k : Nat) : Counts s (s.bankStep ev v k) := by
  unfold State.bankStep
  split_ifs
  · exact Counts.bankAdd s v k 1
  · exact Counts.refl s

theorem vget_foldl_bankStep_ne (s : State) (ev : Nat) {v i : Nat} {l : List Nat} (h : ∀ k ∈ l, v * 4 + k ≠ i) :
    vget (l.foldl (State.bankStep ev v) s).cp.bankCtr 0 i = vget s.cp.bankCtr 0 i := by
  induction l generalizing s with
  | nil => rfl
  | cons k l ih => rw [List.foldl_cons, ih _ fun j hj => h j (by simp [hj]), vget_bankStep_ne s ev (h k (by simp))]

/-- Each counter of the function takes its one step, at what it and its freeze were before. -/
theorem vget_countBank_same {s : State} {vc v k : Nat} {req : Option Nat} (h : s.bankFunction vc req = some v) (hk : k < 4) (ev : Nat) :
    ∃ u : State, vget u.cp.bankCtr 0 (v * 4 + k) = vget s.cp.bankCtr 0 (v * 4 + k) ∧ u.cp.bankFrozen = s.cp.bankFrozen ∧
      vget (s.countBank ev vc req).cp.bankCtr 0 (v * 4 + k) = vget (u.bankStep ev v k).cp.bankCtr 0 (v * 4 + k) := by
  obtain ⟨l₁, l₂, hl⟩ := List.append_of_mem (List.mem_range.mpr hk)
  have hnodup := List.nodup_middle.mp (hl ▸ List.nodup_range)
  have hnot : k ∉ l₁ ∧ k ∉ l₂ := by simpa using (List.nodup_cons.mp hnodup).1
  have hne {l : List Nat} (hkl : k ∉ l) : ∀ j ∈ l, v * 4 + j ≠ v * 4 + k := fun j hj e => hkl ((show j = k by omega) ▸ hj)
  obtain ⟨_, _, _, _, _, _, _, hu⟩ := Counts.foldl (counts_bankStep ev v) l₁ s
  refine ⟨l₁.foldl (State.bankStep ev v) s, vget_foldl_bankStep_ne s ev (hne hnot.1), by rw [hu], ?_⟩
  rw [countBank_eq h, hl, List.foldl_append, List.foldl_cons, vget_foldl_bankStep_ne _ ev (hne hnot.2)]

/-- What an event for function v leaves of counter k of function f, where that counter is set to count such events. -/
theorem vget_countBank {s : State} {ev vc v f k : Nat} {req : Option Nat} (h : s.bankFunction vc req = some v) (hv : v < 32) (hk : k < 4)
    (hev : bits (vget s.cp.bankCtr 0 (4 * f + k)) 48 8 = ev) :
    let b := vget s.cp.bankCtr 0 (4 * f + k)
    let c := vget (s.countBank ev vc req).cp.bankCtr 0 (4 * f + k)
    (v = f → bit b 63 = true → s.cp.bankFrozen.getLsbD f = false → b.toNat % 2 ^ 48 < 2 ^ 48 - 1 → c = b + 1) ∧
      (v ≠ f ∨ bit b 63 = false ∨ s.cp.bankFrozen.getLsbD f = true → c = b) := by
  intro b c
  by_cases hvf : v = f
  · subst hvf
    obtain ⟨u, hctr, hfrozen, hc⟩ := vget_countBank_same h hk ev
    simp only [b, c, Nat.mul_comm 4 v] at hev ⊢
    rw [hc, State.bankStep, State.bankCounts, hctr, hfrozen, hev]
    refine ⟨fun _ hon hrun hroom => ?_, fun hoff => ?_⟩
    · rw [hon, hrun, if_pos (by simp), vget_bankAdd_same hv hk (by rwa [hctr]), hctr]
    · have hcond : ¬ (bit (vget s.cp.bankCtr 0 (v * 4 + k)) 63 && !s.cp.bankFrozen.getLsbD v && ev == ev) = true := by
        obtain h | h | h := hoff
        · exact absurd rfl h
        · rw [h]
          exact Bool.false_ne_true
        · rw [h, Bool.not_true, Bool.and_false]
          exact Bool.false_ne_true
      rw [if_neg hcond, hctr]
  · refine ⟨fun e => absurd e hvf, fun _ => ?_⟩
    simp only [b, c]
    rw [countBank_eq h]
    exact vget_foldl_bankStep_ne s ev fun j hj => by have := List.mem_range.mp hj; omega

theorem bankFunction_of_owner {s : State} {vc : Nat} {v : Vcache} {p : Plat} (hv : s.vcache? vc = some v) (hp : v.plat? = some p)
    (howner : p.owner < 32) (req : Option Nat) : s.bankFunction vc req = some p.owner := by
  rw [State.bankFunction, hv, Option.bind_some, hp]
  exact if_pos howner

theorem exec_writebackAck_of_pending {s : State} {a : Agent} {pa : BitVec 52} {l : CLine} (hl : s.cline? a (pa.toNat / 64) = some l)
    (hstate : l.state = .evictPending) : exec (.writebackAck a pa) s =
      .next (((s.countHeld 6 a).dropLine a (pa.toNat / 64)).dirLeave a (pa.toNat / 64)) := by
  simp only [exec, execWritebackAck, hl, hstate, if_true]

theorem bankEvents : Sys2Proof.Parts.BankEvents := by
  intro s i ev vc pa v p f k hf hk hv hp howner hi b hev
  obtain ⟨rfl, rfl, c, rest, hchain, rfl⟩ | ⟨rfl, rfl, l, hl, hstate⟩ := hi
  · obtain ⟨req, own, happly⟩ := applyScatter_of_chain hchain
    obtain ⟨-, -, hcp⟩ := chain_frame (s.unchained pa.toNat) c.vc (pa.toNat / 64) req
    refine ⟨_, (exec_scatterAddApply s pa).trans (congrArg _ happly), ?_⟩
    rw [(banksStay_perform _ _ _ _).1, hcp]
    exact vget_countBank (s := s.unchained pa.toNat) (bankFunction_of_owner (by exact hv) hp howner req) howner hk hev
  · refine ⟨_, exec_writebackAck_of_pending hl hstate, ?_⟩
    exact vget_countBank (bankFunction_of_owner hv hp howner none) howner hk hev

end Sys2Proof.Machine

/-! Drains of a vcache (11 R263, R264, R272) and fenced parcels (R268). -/

namespace Sys2Proof.Machine

/-! ## A step of a drain (R263) -/

/-- A free way of the current plat for a draining line, where that plat has lines of its size. -/
def State.drainWay (s : State) (v : Vcache) (old : Plat) (line : Nat) : Option Nat :=
  v.current.bind (fun p => if p.line = old.line then s.freeWay (some p) line else none)

/-- A sector of the line holds dirty data. -/
def State.dirtyLine (s : State) (l : CLine) : Bool := (s.sectorsOf l).any (fun q => isDirty q.state)

theorem dirtyLine_iff {s : State} {l : CLine} : s.dirtyLine l = true ↔
    ∃ c ∈ s.cache.lines, s.sameLine l c = true ∧ (c.state = .modified ∨ c.state = .owned) := by
  simp [State.dirtyLine, State.sectorsOf, isDirty_iff]

theorem drainLine_of_dropped {s : State} {old : Plat} {l : CLine} (h : old.policy = 3 ∨ s.dirtyLine l = false) (v : Vcache) :
    s.drainLine v old l = s.evictAll (s.sameLine l) := by
  unfold State.dirtyLine at h
  exact if_pos (by simpa using h)

theorem drainLine_of_dirty {s : State} {old : Plat} {l : CLine} (hro : old.policy ≠ 3) (h : s.dirtyLine l = true) (v : Vcache) :
    s.drainLine v old l = (s.drainWay v old l.line).elim ((s.evictAll (s.sameLine l)).countDrain v.id false)
      (fun w => (s.moveLine l w).countDrain v.id true) := by
  unfold State.dirtyLine at h
  unfold State.drainLine State.drainWay
  rw [h, if_neg (by simp [hro])]
  cases v.current with
  | none => rfl
  | some p =>
    simp only [beq_iff_eq, Option.bind_some]
    split_ifs
    · cases s.freeWay (some p) l.line <;> rfl
    · rfl

theorem vcache?_countDrain {s : State} {id : Nat} {v : Vcache} (h : s.vcache? id = some v) (moved : Bool) :
    (s.countDrain v.id moved).vcache? id = some (if moved then { v with moved := v.moved + 1 } else { v with written := v.written + 1 }) := by
  rw [vcache?_of_map (fun u => by split_ifs <;> rfl) rfl id, h, Option.map_some, if_neg (by simp [id_of_vcache? h])]

/-- A line leaves its holder whole: its sectors are on their way out, or are gone; other lines stay, and so does memory. -/
theorem evictAll_sectors (s : State) (l : CLine) : let t := s.evictAll (s.sameLine l)
    t.mem = s.mem ∧
      (∀ c ∈ s.cache.lines, (∀ d ∈ s.cache.lines, s.sameLine l d = true → d.holder ≠ c.holder ∨ d.line ≠ c.line) → c ∈ t.cache.lines) ∧
      ∀ c ∈ t.cache.lines, s.sameLine l c = true → c.state = .evictPending ∨ c.state = .pendingFill := by
  refine ⟨mem_evictAll s _, fun c hc h => ?_, fun c hc hsame => ?_⟩
  · exact mem_evictAll_of_apart hc fun d hd hsame => (h d hd hsame).imp Ne.symm Ne.symm
  · exact (mem_lines_evictAll hc).resolve_right fun ⟨_, hno⟩ => by rw [hsame] at hno; cases hno

section
variable {s : State} {id : BitVec 8} {v : Vcache} {old : Plat} (hv : s.vcache? id.toNat = some v) (hold : v.draining = some old)
include hv hold

theorem exec_vcacheDrainStep_of_line {l : CLine} (hl : s.cache.lines.find? (drains id.toNat) = some l) :
    exec (.vcacheDrainStep id) s = .next (s.drainLine v old l) := by
  simp only [exec, execVcacheDrainStep, hv, hold, hl]

theorem exec_vcacheDrainStep_of_none (hl : s.cache.lines.find? (drains id.toNat) = none) : exec (.vcacheDrainStep id) s = .next s := by
  simp only [exec, execVcacheDrainStep, hv, hold, hl]

end

/-! ## The end of a drain (R263, R272) -/

theorem lines_remain_iff (s : State) (id : Nat) : s.cache.lines.any (fun l => l.holder == .vcache id && !l.current) = true ↔
    ∃ l ∈ s.cache.lines, l.holder = .vcache id ∧ l.current = false := by
  simp

theorem exec_drainComplete_of_remaining {s : State} {id : BitVec 8} {v : Vcache} (hv : s.vcache? id.toNat = some v)
    (h : ∃ l ∈ s.cache.lines, l.holder = .vcache id.toNat ∧ l.current = false) :
    exec (.drainComplete id) s = .next s := by
  simp only [exec, execDrainComplete, hv, (lines_remain_iff s id.toNat).mpr h, Bool.or_true, if_true]

/-- The copies that a read-only plat of the vcache served are gone. -/
def State.withoutServed (s : State) (v : Vcache) (old : Plat) : State :=
  if old.policy = 3 then { s with roCopies := s.roCopies.filter (fun c => c.vcache != v.id) } else s

/-- The drain of the old plat has ended; with a deletion the identifier is free. -/
def State.drainEnded (s : State) (v : Vcache) (old : Plat) : State :=
  let u := s.withoutServed v old
  if v.deleting then { u with cache := { u.cache with vcaches := u.cache.vcaches.filter (fun w => w.id != v.id) } }
  else u.setVcache { v with draining := none }

theorem exec_drainComplete_of_empty {s : State} {id : BitVec 8} {v : Vcache} {old : Plat} (hv : s.vcache? id.toNat = some v)
    (hold : v.draining = some old) (h : ∀ l ∈ s.cache.lines, ¬ (l.holder = .vcache id.toNat ∧ l.current = false)) :
    exec (.drainComplete id) s = .next ((s.drainEnded v old).drainMessage v) := by
  have hnone : s.cache.lines.any (fun l => l.holder == .vcache id.toNat && !l.current) = false := by
    simpa using h
  simp only [exec, execDrainComplete, hv, hold, hnone, Option.isNone_some, Bool.or_self, Bool.false_eq_true, if_false, Option.map_some,
    Option.some.injEq, State.drainEnded, State.withoutServed]

theorem withoutServed_spec (s : State) (v : Vcache) (old : Plat) : let u := s.withoutServed v old
    u.cache = s.cache ∧ u.cp = s.cp ∧ u.mem = s.mem ∧
      u.roCopies = (if old.policy = 3 then s.roCopies.filter (fun c => c.vcache != v.id) else s.roCopies) := by
  unfold State.withoutServed
  split_ifs <;> exact ⟨rfl, rfl, rfl, rfl⟩

theorem drainEnded_of_deletion {v : Vcache} (h : v.deleting = true) (s : State) (old : Plat) : s.drainEnded v old =
    { s.withoutServed v old with cache := { (s.withoutServed v old).cache with
      vcaches := (s.withoutServed v old).cache.vcaches.filter (fun w => w.id != v.id) } } := if_pos h

theorem drainEnded_of_definition {v : Vcache} (h : ¬ v.deleting = true) (s : State) (old : Plat) :
    s.drainEnded v old = (s.withoutServed v old).setVcache { v with draining := none } := if_neg h

theorem drainEnded_spec {s : State} {id : Nat} {v : Vcache} (hv : s.vcache? id = some v) (old : Plat) : let t := s.drainEnded v old
    t.vcache? id = (if v.deleting then none else some { v with draining := none }) ∧
      t.roCopies = (if old.policy = 3 then s.roCopies.filter (fun c => c.vcache != v.id) else s.roCopies) ∧
      t.cp = s.cp ∧ t.mem = s.mem := by
  obtain rfl := id_of_vcache? hv
  obtain ⟨hcache, hcp, hmem, hcopies⟩ := withoutServed_spec s v old
  by_cases hdel : v.deleting = true
  · rw [drainEnded_of_deletion hdel s old, if_pos hdel]
    exact ⟨List.find?_eq_none.mpr (by simp), hcopies, hcp, hmem⟩
  · rw [drainEnded_of_definition hdel s old, if_neg hdel]
    have hfind : (s.withoutServed v old).vcache? v.id = some v := by
      rw [State.vcache?, hcache]
      exact hv
    exact ⟨vcache?_setVcache_same (v := { v with draining := none }) hfind, hcopies, hcp, hmem⟩

theorem record_cons (o w x : Nat) (fs : List (Nat × Nat × Nat)) : record ((o, w, x) :: fs) = x % 256 ^ w * 256 ^ o + record fs := by
  simp only [record, ← List.foldl_map (f := fun f : Nat × Nat × Nat => f.2.2 % 256 ^ f.2.1 * 256 ^ f.1), ← List.sum_eq_foldl, List.map_cons,
    List.sum_cons]

theorem vcacheEvent_eq (kind id a b : Nat) :
    vcacheEvent kind id a b = kind % 2 ^ 16 + id % 2 ^ 8 * 2 ^ 16 + a % 2 ^ 32 * 2 ^ 32 + b % 2 ^ 32 * 2 ^ 64 := by
  rw [vcacheEvent, record_cons, record_cons, record_cons, record_cons, record, List.foldl_nil]
  omega

/-- The fields of a record of R264. -/
theorem vcacheEvent_fields (kind id a b : Nat) : let p := (BitVec.ofNat 512 (vcacheEvent kind id a b)).toNat
    p % 2 ^ 16 = kind % 2 ^ 16 ∧ p / 2 ^ 16 % 2 ^ 8 = id % 2 ^ 8 ∧ p / 2 ^ 32 % 2 ^ 32 = a % 2 ^ 32 ∧ p / 2 ^ 64 % 2 ^ 32 = b % 2 ^ 32 := by
  have hlt : vcacheEvent kind id a b < 2 ^ 96 := by
    rw [vcacheEvent_eq]
    omega
  rw [BitVec.toNat_ofNat, Nat.mod_eq_of_lt (hlt.trans_le (Nat.pow_le_pow_right two_pos (n := 2) (by decide : 96 ≤ 512))), vcacheEvent_eq]
  omega

/-- The message of a drain that a strand has issued. -/
def drainMsg (v : Vcache) : Msg := { payload := BitVec.ofNat 512 (vcacheEvent 1 v.id v.moved v.written), sender := hubSender 4 }

theorem drainMessage_of_issuer {v : Vcache} {q : StrandId} (h : v.issuer = some q) (s : State) :
    s.drainMessage v = { s with cp := { s.cp with hubOut := s.cp.hubOut ++ [{ rcv := some q, msg := drainMsg v }] } } := by
  simp only [State.drainMessage, h]
  rfl

theorem vcacheDrain : Sys2Proof.Parts.VcacheDrain := by
  intro s id v old hv hold
  refine ⟨fun l hl => ?_, exec_vcacheDrainStep_of_none hv hold, exec_drainComplete_of_remaining hv, fun q hempty hissuer => ?_⟩
  · intro dirty left way
    have hdirty : dirty ↔ s.dirtyLine l = true := dirtyLine_iff.symm
    obtain ⟨hmem, hstay, hgone⟩ := evictAll_sectors s l
    rw [exec_vcacheDrainStep_of_line hv hold hl, hdirty]
    refine ⟨fun h => ⟨_, rfl, ?_⟩, fun hro hd => ⟨fun w hw => ⟨_, rfl, ?_⟩, fun hw => ⟨_, rfl, ?_⟩⟩⟩
    · rw [drainLine_of_dropped (h.imp_right Bool.eq_false_of_not_eq_true)]
      exact ⟨⟨hmem, hstay, hgone⟩, (LinesOnly.evictAll s _).vcaches⟩
    · rw [drainLine_of_dirty hro hd, show s.drainWay v old l.line = some w from hw, Option.elim_some]
      refine ⟨?_, vcache?_countDrain (s := s.moveLine l w) hv true, rfl⟩
      exact congrFun (List.filterMap_eq_map (f := fun c => if s.sameLine l c then { c with current := true, way := w } else c)) _
    · rw [drainLine_of_dirty hro hd, show s.drainWay v old l.line = none from hw, Option.elim_none]
      exact ⟨⟨hmem, hstay, hgone⟩, vcache?_countDrain (((LinesOnly.evictAll s _).vcache? _).trans hv) false⟩
  · obtain ⟨hvc, hcopies, hcp, hmem⟩ := drainEnded_spec hv old
    refine ⟨_, drainMsg v, (exec_drainComplete_of_empty hv hold hempty).trans (congrArg _ (drainMessage_of_issuer hissuer _)), hvc, hcopies,
      ?_, hmem, vcacheEvent_fields 1 v.id v.moved v.written⟩
    simp only [hcp]

/-! ## Fenced parcels (R268) -/

theorem mem_insertNat {a b : Nat} {l : List Nat} : b ∈ insertNat a l ↔ b = a ∨ b ∈ l := by
  induction l with
  | nil => simp [insertNat]
  | cons c l ih =>
    unfold insertNat
    split_ifs with hlt heq
    · simp
    · simp [heq]
    · simp only [List.mem_cons, ih]
      exact or_left_comm

/-- Marks change the poison marks alone, and every line that is marked is among them. -/
theorem markPoison_foldl (ls : List Nat) (s : State) : ∃ poison : List Nat, ls.foldl State.markPoison s = { s with poison := poison } ∧
    (∀ l ∈ s.poison, l ∈ poison) ∧ ∀ l ∈ ls, l ∈ poison := by
  induction ls generalizing s with
  | nil => exact ⟨s.poison, rfl, fun _ h => h, by simp⟩
  | cons a ls ih =>
    obtain ⟨poison, e, hkeep, hmark⟩ := ih (s.markPoison a)
    refine ⟨poison, e, fun l hl => hkeep l (mem_insertNat.mpr (.inr hl)), fun l hl => ?_⟩
    obtain rfl | hl := List.mem_cons.mp hl
    · exact hkeep l (mem_insertNat.mpr (.inl rfl))
    · exact hmark l hl

/-- The vcache that a parcel belongs to; none for vcache 1. -/
def State.parcelOwner (s : State) (c : BitVec 13) : Option Vcache :=
  s.cache.vcaches.find? (fun v => v.holdsParcel (c.toNat / 16) (c.toNat % 16))

/-- The lines whose dirty data is lost with a parcel. -/
def State.lostIn (s : State) (c : BitVec 13) : List Nat :=
  ((s.cache.lines.filter (s.lineInParcel (c.toNat / 16) (c.toNat % 16))).filter (fun l => isDirty l.state)).map (·.line)

/-- The parcel is fenced and its lines are gone; without a vcache of its own, vcache 1 is degraded. -/
def State.withoutParcel (s : State) (c : BitVec 13) : State :=
  { s with cache := { s.cache with
    fenced := s.cache.fenced ++ [c]
    lines := s.cache.lines.filter (fun l => !s.lineInParcel (c.toNat / 16) (c.toNat % 16) l)
    sysDegraded := s.cache.sysDegraded || (s.parcelOwner c).isNone } }

/-- The lines whose data is lost with the parcel are marked (R268). -/
def State.fenceParcel (s : State) (c : BitVec 13) : State := (s.lostIn c).foldl State.markPoison (s.withoutParcel c)

theorem exec_parcelError_of_fenced {s : State} {c : BitVec 13} (h : c ∈ s.cache.fenced) : exec (.parcelError c) s = .next s := by
  simp only [exec, execParcelError, List.contains_iff_mem.mpr h, if_true]

theorem exec_parcelError_of_free {s : State} {c : BitVec 13} (h : c ∉ s.cache.fenced) (hnone : s.parcelOwner c = none) :
    exec (.parcelError c) s = .next (s.fenceParcel c) := by
  unfold State.fenceParcel State.withoutParcel
  unfold State.parcelOwner at hnone ⊢
  simp only [exec, execParcelError, List.contains_iff_mem, h, if_false, parcelBank, parcelWay, hnone]
  rfl

/-- The vcache of the parcel is degraded, and its function's supervisor may be told. -/
theorem exec_parcelError_of_owned {s : State} {c : BitVec 13} (h : c ∉ s.cache.fenced) {v : Vcache} (hv : s.parcelOwner c = some v) :
    ∃ t, exec (.parcelError c) s = .next t ∧ Counts ((s.fenceParcel c).setVcache { v with degraded := true }) t := by
  unfold State.fenceParcel State.withoutParcel
  unfold State.parcelOwner at hv ⊢
  simp only [exec, execParcelError, List.contains_iff_mem, h, if_false, parcelBank, parcelWay, hv]
  cases v.plat? with
  | none => exact ⟨_, rfl, .refl _⟩
  | some p =>
    refine ⟨_, rfl, ?_⟩
    split_ifs
    · exact Counts.tellSupervisor _ _ _
    · exact .refl _

/-- What a fence leaves, in every part but the vcaches. -/
structure Fenced (s : State) (c : BitVec 13) (t : State) : Prop where
  fenced : t.cache.fenced = s.cache.fenced ++ [c]
  mem : t.mem = s.mem
  x : t.x = s.x
  st : t.st = s.st
  lines : t.cache.lines = s.cache.lines.filter (fun l => !s.lineInParcel (c.toNat / 16) (c.toNat % 16) l)
  poison : ∀ l ∈ s.lostIn c, l ∈ t.poison
  sys : t.cache.sysDegraded = (s.cache.sysDegraded || (s.parcelOwner c).isNone)

theorem fenced_fenceParcel (s : State) (c : BitVec 13) : Fenced s c (s.fenceParcel c) := by
  obtain ⟨poison, e, -, hmark⟩ := markPoison_foldl (s.lostIn c) (s.withoutParcel c)
  rw [show s.fenceParcel c = _ from e]
  exact ⟨rfl, rfl, rfl, rfl, rfl, hmark, rfl⟩

theorem vcache?_fenceParcel (s : State) (c : BitVec 13) (id : Nat) : (s.fenceParcel c).vcache? id = s.vcache? id := by
  obtain ⟨poison, e, -⟩ := markPoison_foldl (s.lostIn c) (s.withoutParcel c)
  rw [show s.fenceParcel c = _ from e]
  rfl

theorem Fenced.degraded {s t : State} {c : BitVec 13} {u : State} {v : Vcache} (h : Fenced s c u) (k : Counts (u.setVcache v) t) :
    Fenced s c t := by
  obtain ⟨_, _, _, _, _, _, _, rfl⟩ := k
  exact ⟨h.fenced, h.mem, h.x, h.st, h.lines, h.poison, h.sys⟩

theorem parcelFenced : Sys2Proof.Parts.ParcelFenced := by
  intro s c
  refine ⟨exec_parcelError_of_fenced, fun h => ?_⟩
  have key {t : State} (ht : Fenced s c t) : t.cache.fenced = s.cache.fenced ++ [c] ∧ t.mem = s.mem ∧ t.x = s.x ∧ t.st = s.st ∧
      (∀ l, l ∈ t.cache.lines ↔ l ∈ s.cache.lines ∧ s.lineInParcel (c.toNat / 16) (c.toNat % 16) l = false) ∧
      ∀ l ∈ s.cache.lines, s.lineInParcel (c.toNat / 16) (c.toNat % 16) l = true → l.state = .modified ∨ l.state = .owned →
        l.line ∈ t.poison := by
    refine ⟨ht.fenced, ht.mem, ht.x, ht.st, fun l => by rw [ht.lines]; simp, fun l hl hin hdirty => ht.poison _ ?_⟩
    exact List.mem_map.mpr ⟨l, by simp [hl, hin, isDirty_iff.mpr hdirty], rfl⟩
  cases howner : s.parcelOwner c with
  | none =>
    have ht := fenced_fenceParcel s c
    obtain ⟨h1, h2, h3, h4, h5, h6⟩ := key ht
    refine ⟨_, exec_parcelError_of_free h howner, h1, h2, h3, h4, h5, h6, fun _ => ?_, fun v hv => ?_⟩
    · rw [ht.sys, howner]
      exact Bool.or_true _
    · cases howner.symm.trans hv
  | some v =>
    obtain ⟨t, hexec, hcounts⟩ := exec_parcelError_of_owned h howner
    obtain ⟨h1, h2, h3, h4, h5, h6⟩ := key ((fenced_fenceParcel s c).degraded hcounts)
    refine ⟨t, hexec, h1, h2, h3, h4, h5, h6, fun hnone => ?_, fun w hw => ?_⟩
    · have := List.find?_some howner
      rw [hnone v (List.mem_of_find?_eq_some howner)] at this
      cases this
    · obtain rfl : v = w := Option.some.inj (howner.symm.trans hw)
      have hfind : t.vcache? v.id = ((s.fenceParcel c).setVcache { v with degraded := true }).vcache? v.id := by
        rw [State.vcache?, hcounts.cache]
        rfl
      rw [hfind, vcache?_setVcache, vcache?_fenceParcel]
      refine Option.map_congr fun u hu => if_pos (id_of_vcache? hu)

/-- Settles O39: what a bank stores is what its operation gives; a count and a store change parts of the state that do not meet; a drain
moves the sectors of one line at a time; a fence drops the parcel's lines. -/
theorem bankArithmetic : Obligations.BankArithmetic := ⟨bankArithmeticPart, bankEvents, vcacheDrain, parcelFenced⟩

end Sys2Proof.Machine

/-! The walk of the page tables, level by level (12 R276, R279 to R281). -/

namespace Sys2Proof.Machine

/-! ## One level of a walk -/

section
variable {s : State} {rd : Nat → Option Word} {vf va fuel t lv a : Nat} {e : Word}
  (hlv : 3 - fuel = lv) (ha : a = t + 8 * vaIndex lv va)
include hlv ha

/-- An entry that the strand has yet to store holds the walk (R281). -/
theorem walkFrom_of_unread (h : rd a = none) : s.walkFrom rd vf va (fuel + 1) t = .error mustWait := by
  subst hlv ha
  simp only [State.walkFrom, h]

/-- The entries that end a walk with a cause (R279, R280). -/
theorem walkFrom_of_bad (h : rd a = some e) :
    (s.poisoned a = true → s.walkFrom rd vf va (fuel + 1) t = .error 0xC0) ∧
      (s.poisoned a = false → pteV e = false → s.walkFrom rd vf va (fuel + 1) t = .error 0x22) ∧
      (s.poisoned a = false → pteV e = true → s.malformed vf e lv = true → s.walkFrom rd vf va (fuel + 1) t = .error 0x24) := by
  subst hlv ha
  exact ⟨fun hp => by simp [State.walkFrom, h, hp], fun hp hv => by simp [State.walkFrom, h, hp, hv],
    fun hp hv hm => by simp [State.walkFrom, h, hp, hv, hm]⟩

/-- An entry that ends no walk is a leaf, or names the next table. -/
theorem walkFrom_of_fine (h : rd a = some e) (hfine : s.poisoned a = false ∧ pteV e = true ∧ s.malformed vf e lv = false) :
    s.walkFrom rd vf va (fuel + 1) t =
      if pteLf e then .ok { entry := e, large := lv == 2, at_ := a } else s.walkFrom rd vf va fuel (ptePpn e * 2 ^ 16) := by
  obtain ⟨hp, hv, hm⟩ := hfine
  subst hlv ha
  conv_lhs => unfold State.walkFrom
  simp [h, hp, hv, hm]

end

/-- Level 1 has no leaves, and level 3 nothing else (R279). -/
theorem pteLf_of_wellFormed {s : State} {vf : Nat} {e : Word} :
    (s.malformed vf e 1 = false → pteLf e = false) ∧ (s.malformed vf e 3 = false → pteLf e = true) := by
  cases h : pteLf e <;> simp [State.malformed, h]

/-! ## Where a walk begins -/

theorem walk_of_far (s : State) (rd : Nat → Option Word) (ptroot : Word) (vf : Nat) {va : Nat} (h : 2 ^ 54 ≤ va) :
    s.walk rd ptroot vf va = .error 0x20 := if_pos h

theorem walk_of_near (s : State) (rd : Nat → Option Word) {ptroot : Word} (vf : Nat) {va root : Nat} (h : va < 2 ^ 54)
    (hroot : root = ptroot.toNat / 2 ^ 16 % 2 ^ 36 * 2 ^ 16) : s.walk rd ptroot vf va =
      if isHbm root && s.allowed vf root 65536 then s.walkFrom rd vf va 3 root else .error 0x24 := by
  have hbits : bits ptroot 16 36 * 2 ^ 16 = root := hroot.symm
  unfold State.walk
  dsimp only
  rw [if_neg (Nat.not_le.mpr h), hbits]
  cases isHbm root <;> cases s.allowed vf root 65536 <;> rfl

theorem vaIndex_one {va : Nat} (h : va < 2 ^ 54) : vaIndex 1 va = va / 2 ^ 42 := by
  unfold vaIndex
  rw [if_pos rfl]
  omega

/-- Settles O36: each level reads one entry, which ends the walk or says where the next level stands; levels 1 and 3 leave no choice
between a leaf and a table. -/
theorem translationWalk : Obligations.TranslationWalk := by
  intro s rd ptroot vf va e1 e2 e3 root at1 at2 at3 w ends fine down down2
  have hfar : 2 ^ 54 ≤ va → w = .error 0x20 := walk_of_far s rd ptroot vf
  have hnear (hva : va < 2 ^ 54) :
      w = if isHbm root && s.allowed vf root 65536 then s.walkFrom rd vf va 3 root else .error 0x24 :=
    walk_of_near s rd vf hva rfl
  have hat1 (hva : va < 2 ^ 54) : at1 = root + 8 * vaIndex 1 va := by rw [vaIndex_one hva]
  have hat2 : at2 = ptePpn e1 * 2 ^ 16 + 8 * vaIndex 2 va := rfl
  have hat3 : at3 = ptePpn e2 * 2 ^ 16 + 8 * vaIndex 3 va := rfl
  clear_value w at3 at2 at1 root
  refine ⟨hfar, fun hva hroot => ?_, fun hva hhbm hallowed => ?_⟩
  · rw [hnear hva, if_neg]
    obtain h | h := hroot <;> simp [h]
  · have hw1 : w = s.walkFrom rd vf va 3 root := (hnear hva).trans (if_pos (Bool.and_eq_true_iff.mpr ⟨hhbm, hallowed⟩))
    have hw2 : down → w = s.walkFrom rd vf va 2 (ptePpn e1 * 2 ^ 16) := fun ⟨hfine, hread⟩ => by
      rw [hw1, walkFrom_of_fine rfl (hat1 hva) hread hfine, if_neg (by simp [pteLf_of_wellFormed.1 hfine.2.2])]
    have hw3 : down2 → w = s.walkFrom rd vf va 1 (ptePpn e2 * 2 ^ 16) := fun ⟨hdown, hread, hfine, hlf⟩ => by
      rw [hw2 hdown, walkFrom_of_fine rfl hat2 hread hfine, if_neg (by simp [hlf])]
    refine ⟨fun hread => ?_, fun h hread => ⟨?_, fun hfine hlf => ?_⟩, fun h hread => ⟨?_, fun hfine => ?_⟩, ?_⟩
    · dsimp only [ends]
      rw [hw1]
      exact walkFrom_of_bad rfl (hat1 hva) hread
    · dsimp only [ends]
      rw [hw2 h]
      exact walkFrom_of_bad rfl hat2 hread
    · rw [hw2 h, walkFrom_of_fine rfl hat2 hread hfine, if_pos hlf]
      rfl
    · dsimp only [ends]
      rw [hw3 h]
      exact walkFrom_of_bad rfl hat3 hread
    · rw [hw3 h, walkFrom_of_fine rfl hat3 hread hfine, if_pos (pteLf_of_wellFormed.2 hfine.2.2)]
      rfl
    · rintro (hread | ⟨h, hread⟩ | ⟨h, hread⟩)
      · exact hw1.trans (walkFrom_of_unread rfl (hat1 hva) hread)
      · exact (hw2 h).trans (walkFrom_of_unread rfl hat2 hread)
      · exact (hw3 h).trans (walkFrom_of_unread rfl hat3 hread)

end Sys2Proof.Machine

/-! TLBINV, TLOGA and ATRAN, and the logs that the dies apply (12 R287 to R289). -/

namespace Sys2Proof.Machine

/-! ## TLBINV, TLOGA and ATRAN (R289) -/

theorem admits_privileged {s : State} (hcore : s.st.place.master? ≠ none) (hlvl : 1 ≤ s.lvl) : s.admits { lvl := 1 } :=
  ⟨(admits_core hcore).1, hlvl, (admits_core hcore).2.2⟩

section
variable {s : State} (hcore : s.st.place.master? ≠ none) (hlvl : 1 ≤ s.lvl)
include hcore hlvl

/-- Above user level a ring or gateway core begins each of the four instructions. -/
theorem finish_gate_privileged (i : Instr) (k : Unit → Run State) : finish (gate i { lvl := 1 } s >>= k) = finish (k ()) := by
  rw [gate_admits i _ s (admits_privileged hcore hlvl)]
  rfl

theorem exec_tlbinv (a : BitVec 5) : exec (.tlbinv a) s =
    .next (if a = 0 then { s with tlb := s.tlb.filter (fun t => t.master != s.masterNo) }
      else s.tlbDrop s.masterNo s.st.asid (s.getS a).toNat).advance := finish_gate_privileged hcore hlvl (.tlbinv a) _

theorem exec_tloga : exec .tloga s = .next (s.applyLog s.die).advance := finish_gate_privileged hcore hlvl .tloga _

/-- The access that a kind field of ATRAN asks about. -/
def probeKind (k : BitVec 2) : Acc := if k = 0 then .read else if k = 1 then .write else .exec

section
variable {d a : BitVec 5} {k : BitVec 2}

theorem exec_atran_of_ok {x : Xl} (h : s.xlateProbe s.walkRead s.space (probeKind k) (s.getS a).toNat = .ok x) :
    exec (.atran d a k) s = .next (s.result d (atranResult x)) := by
  refine (finish_gate_privileged hcore hlvl (.atran d a k) _).trans ?_
  dsimp only
  rw [← probeKind, h]
  rfl

theorem exec_atran_of_error {c : BitVec 8} (h : s.xlateProbe s.walkRead s.space (probeKind k) (s.getS a).toNat = .error c) :
    exec (.atran d a k) s = .next (if c = mustWait then s else if c = 0xC0 then s.trapA 0xC0 (probeKind k).akind (s.getS a)
      else s.result d (BitVec.ofNat 64 (2 ^ 63 + c.toNat))) := by
  refine (finish_gate_privileged hcore hlvl (.atran d a k) _).trans ?_
  dsimp only
  rw [← probeKind, h]
  dsimp only
  split_ifs <;> rfl

end

end

/-- The translations that TLBINV of a page leaves. -/
theorem mem_tlbDrop {s : State} {m : Nat} {asid : Word} {va : Nat} {e : TlbEntry} : e ∈ (s.tlbDrop m asid va).tlb ↔
    e ∈ s.tlb ∧ ¬ (e.master = m ∧ (pteG e.entry = true ∨ e.asid = asid.setWidth 16) ∧
      e.vpage = va / (if e.large then 2 ^ 29 else 2 ^ 16)) := by
  simp only [State.tlbDrop, List.mem_filter, TlbEntry.covers, apply_ite (va / ·), Bool.not_eq_true', ← Bool.not_eq_true,
    Bool.and_eq_true, Bool.or_eq_true, beq_iff_eq, and_assoc]

theorem translationInstructions : Sys2Proof.Parts.TranslationInstructions := by
  intro s d a k m hm
  have hcore : s.st.place.master? ≠ none := by simp [hm]
  have hmaster : s.masterNo = m := by rw [State.masterNo, hm]; rfl
  refine ⟨fun hlvl => ?_, fun hlvl => ⟨fun ha => ?_, fun ha => ?_, exec_tloga hcore hlvl, fun x hx => ?_, fun c hc => ⟨?_, ?_, ?_⟩⟩⟩
  · have stop (i : Instr) := gate_of_level (n := { lvl := 1 }) rfl (s := s) (by rw [hlvl]; decide) i
    simp only [List.forall_mem_cons, List.not_mem_nil, false_implies, implies_true, and_true]
    exact ⟨finish_bind_of_error (stop _) _, finish_bind_of_error (stop _) _, finish_bind_of_error (stop _) _,
      finish_bind_of_error (stop _) _⟩
  · rw [exec_tlbinv hcore hlvl, if_pos ha, hmaster]
  · refine ⟨_, exec_tlbinv hcore hlvl a, ?_⟩
    rw [if_neg ha, hmaster]
    exact ⟨rfl, fun e => mem_tlbDrop⟩
  · exact ⟨_, exec_atran_of_ok hcore hlvl hx, wrote_result s d _⟩
  · intro hpoison hwait
    refine ⟨_, exec_atran_of_error hcore hlvl hc, ?_⟩
    rw [if_neg hwait, if_neg hpoison]
    exact wrote_result s d _
  · rintro rfl
    exact exec_atran_of_error hcore hlvl hc
  · rintro rfl
    exact exec_atran_of_error hcore hlvl hc

/-! ## Words of memory -/

theorem mem64_of_mem {s t : State} (h : t.mem = s.mem) (pa : Nat) : t.mem64 pa = s.mem64 pa := by
  rw [State.mem64, memBytes_of_mem h, State.mem64]

theorem memByte_of_mem {s t : State} (h : t.mem = s.mem) (pa : Nat) : t.memByte pa = s.memByte pa := by
  rw [State.memByte, h, State.memByte]

/-- A word is its eight bytes. -/
theorem mem64_congr {s t : State} {pa : Nat} (h : ∀ q, pa ≤ q → q < pa + 8 → t.memByte q = s.memByte q) :
    t.mem64 pa = s.mem64 pa := by
  have hbytes : t.memBytes pa 8 = s.memBytes pa 8 :=
    List.map_congr_left fun i hi => h (pa + i) (by omega) (by simp at hi; omega)
  rw [State.mem64, hbytes, State.mem64]

theorem mem64_pokeBytes_apart (s : State) {pa q : Nat} {bs : List Byte} (h : q + 8 ≤ pa ∨ pa + bs.length ≤ q) :
    (s.pokeBytes pa bs).mem64 q = s.mem64 q :=
  mem64_congr fun p _ _ => memByte_pokeBytes_out s pa p bs (by omega)

theorem mem64_pokeBytes_same {s : State} (hwf : s.memWf = true) (pa : Nat) (v : Word) :
    (s.pokeBytes pa (leBytes 8 v.toNat)).mem64 pa = v := by
  have hbytes : (s.pokeBytes pa (leBytes 8 v.toNat)).memBytes pa 8 = leBytes 8 v.toNat := by
    refine List.ext_getElem (by simp) fun i _ hi => ?_
    rw [← memByte_pokeBytes_in s pa i (leBytes 8 v.toNat) hwf hi]
    simp [State.memBytes, Memory.readBytes, State.memByte]
  rw [State.mem64, hbytes, leNat_leBytes]
  simp [Nat.mod_eq_of_lt v.isLt]

theorem memByte_pokeBytes_singleton {s : State} (hwf : s.memWf = true) (pa : Nat) (b : Byte) : (s.pokeBytes pa [b]).memByte pa = b :=
  memByte_pokeBytes_in s pa 0 [b] hwf Nat.zero_lt_one

/-! ## A log is applied (R288) -/

/-- The entry at place c of log d names the translation (R287). -/
def State.logEntryNames (s : State) (d c : Nat) (e : TlbEntry) : Bool :=
  let a := s.logBase d + 64 + c % 4092 * 16
  logNames (s.mem64 a).toNat (leNat (s.memBytes (a + 8) 2)) (s.memByte (a + 10)).toNat e

/-- How many entries of log d are not yet applied, the counts going round at 2^64. -/
def State.logPending (s : State) (d : Nat) : Nat :=
  ((s.mem64 (s.logBase d)).toNat + 2 ^ 64 - (s.mem64 (s.logBase d + 8)).toNat) % 2 ^ 64

/-- Log d has overflowed. -/
def State.logOverflowed (s : State) (d : Nat) : Bool := (s.memByte (s.logBase d + 16)).getLsbD 0

/-- Applying log d drops the translation. -/
def State.logDrops (s : State) (d : Nat) (e : TlbEntry) : Bool :=
  masterOnDie e.master d && (s.logOverflowed d || (List.range (min (s.logPending d) 4092)).any
    (fun i => s.logEntryNames d (((s.mem64 (s.logBase d + 8)).toNat + i) % 2 ^ 64) e))

/-- The state without the translations that applying log d drops. -/
def State.withoutLogged (s : State) (d : Nat) : State := { s with tlb := s.tlb.filter (fun e => !s.logDrops d e) }

/-- The count of the entries of log d that are applied is set to that of those appended, and its overflow mark cleared. -/
def State.markApplied (s : State) (d : Nat) : State :=
  ((s.pokeBytes (s.logBase d + 8) (leBytes 8 (s.mem64 (s.logBase d)).toNat)).pokeBytes (s.logBase d + 16)
    [s.memByte (s.logBase d + 16) &&& 0xFE]).writeSeen false (s.logBase d / 64)

theorem applyLog_eq (s : State) {d : Nat} (hd : d ≤ 8) : s.applyLog d =
    if s.logPending d = 0 ∧ s.logOverflowed d = false then s.withoutLogged d else (s.withoutLogged d).markApplied d := by
  unfold State.applyLog
  rw [if_neg (Nat.not_lt.mpr hd)]
  simp only [List.any_map, Bool.not_eq_true']
  rfl

theorem markApplied_spec {s : State} (hwf : s.memWf = true) (d : Nat) :
    (s.markApplied d).mem64 (s.logBase d) = s.mem64 (s.logBase d) ∧
      (s.markApplied d).mem64 (s.logBase d + 8) = s.mem64 (s.logBase d) ∧
      ((s.markApplied d).memByte (s.logBase d + 16)).getLsbD 0 = false ∧
      ∀ q, q < s.logBase d + 8 ∨ s.logBase d + 17 ≤ q → (s.markApplied d).memByte q = s.memByte q := by
  have hseen := mem_writeSeen ((s.pokeBytes (s.logBase d + 8) (leBytes 8 (s.mem64 (s.logBase d)).toNat)).pokeBytes (s.logBase d + 16)
    [s.memByte (s.logBase d + 16) &&& 0xFE]) false (s.logBase d / 64)
  have hcount := mem64_pokeBytes_same hwf (s.logBase d + 8) (s.mem64 (s.logBase d))
  refine ⟨?_, ?_, ?_, fun q hq => ?_⟩
  · exact (mem64_of_mem hseen _).trans ((mem64_pokeBytes_apart _ (by omega)).trans (mem64_pokeBytes_apart _ (by omega)))
  · exact (mem64_of_mem hseen _).trans ((mem64_pokeBytes_apart _ (by omega)).trans hcount)
  · rw [State.markApplied, memByte_of_mem hseen, memByte_pokeBytes_singleton (wf_pokeBytes s _ _ hwf), BitVec.getLsbD_and]
    exact Bool.and_false _
  · rw [State.markApplied, memByte_of_mem hseen, memByte_pokeBytes_out _ _ _ _ (by simp only [List.length_singleton]; omega),
      memByte_pokeBytes_out _ _ _ _ (by simp only [length_leBytes]; omega)]

theorem tlb_writeSeen (s : State) (own : Bool) (l : Nat) : (s.writeSeen own l).tlb = s.tlb := by
  unfold State.writeSeen
  cases own <;> rfl

theorem tlb_applyLog (s : State) {d : Nat} (hd : d ≤ 8) : (s.applyLog d).tlb = s.tlb.filter (fun e => !s.logDrops d e) := by
  rw [applyLog_eq s hd]
  split_ifs
  · rfl
  · exact tlb_writeSeen _ _ _

section
variable {s : State} {d : Nat} (hle : (s.mem64 (s.logBase d + 8)).toNat ≤ (s.mem64 (s.logBase d)).toNat)
include hle

theorem logPending_of_le : s.logPending d = (s.mem64 (s.logBase d)).toNat - (s.mem64 (s.logBase d + 8)).toNat := by
  have := (s.mem64 (s.logBase d)).isLt
  unfold State.logPending
  omega

/-- With no more entries pending than a log has room for, those pending are the ones from the applied count up to the appended one. -/
theorem logDrops_iff (hroom : (s.mem64 (s.logBase d)).toNat ≤ (s.mem64 (s.logBase d + 8)).toNat + 4092) (e : TlbEntry) :
    s.logDrops d e = true ↔ dieOfMaster e.master = d ∧ (s.logOverflowed d = true ∨
      ∃ c, (s.mem64 (s.logBase d + 8)).toNat ≤ c ∧ c < (s.mem64 (s.logBase d)).toNat ∧ s.logEntryNames d c e = true) := by
  have hlt := (s.mem64 (s.logBase d)).isLt
  have hpending := logPending_of_le hle
  simp only [State.logDrops, masterOnDie, Bool.and_eq_true, Bool.or_eq_true, beq_iff_eq, List.any_eq_true, List.mem_range]
  refine and_congr_right fun _ => or_congr_right ⟨fun ⟨i, hi, h⟩ => ⟨_, Nat.le_add_right _ i, ?_, ?_⟩, fun ⟨c, hlo, hhi, h⟩ => ?_⟩
  · omega
  · rwa [Nat.mod_eq_of_lt (by omega)] at h
  · refine ⟨c - (s.mem64 (s.logBase d + 8)).toNat, by omega, ?_⟩
    rwa [Nat.add_sub_cancel' hlo, Nat.mod_eq_of_lt (by omega)]

/-- A log counts as applied, and no byte but its applied count and its overflow mark has changed. -/
theorem applied_applyLog (hwf : s.memWf = true) (hd : d ≤ 8) :
    (s.applyLog d).mem64 (s.logBase d) = s.mem64 (s.logBase d) ∧ (s.applyLog d).mem64 (s.logBase d + 8) = s.mem64 (s.logBase d) ∧
      ((s.applyLog d).memByte (s.logBase d + 16)).getLsbD 0 = false ∧
      ∀ q, q < s.logBase d + 8 ∨ s.logBase d + 17 ≤ q → (s.applyLog d).memByte q = s.memByte q := by
  rw [applyLog_eq s hd]
  split_ifs with hnone
  · obtain ⟨hcount, hovf⟩ := hnone
    have hsame : s.mem64 (s.logBase d + 8) = s.mem64 (s.logBase d) :=
      BitVec.eq_of_toNat_eq (by rw [logPending_of_le hle] at hcount; omega)
    exact ⟨rfl, hsame, hovf, fun _ _ => rfl⟩
  · exact markApplied_spec (s := s.withoutLogged d) hwf d

end

theorem translationLogApplied : Sys2Proof.Parts.TranslationLogApplied := by
  intro s d hwf hd base app done ovf t hle hroom
  obtain ⟨happ, hdone, hmark, hrest⟩ := applied_applyLog hle hwf hd
  refine ⟨fun e => ?_, happ, hdone, hmark, hrest⟩
  rw [show t.tlb = _ from tlb_applyLog s hd, List.mem_filter, Bool.not_eq_true', ← Bool.not_eq_true, logDrops_iff hle hroom]
  rfl

end Sys2Proof.Machine

/-! TLOGW: a record joins the nine logs, or a page loses its class (12 R284, R287, R289). -/

namespace Sys2Proof.Machine

/-! ## What a release leaves of a strand outside a fork -/

/-- A strand outside a fork stays outside one, its context as it was. -/
def Unforked (s t : State) : Prop := s.st.fork = none → t.x = s.x ∧ t.st.fork = none

namespace Unforked

theorem refl (s : State) : Unforked s s := fun h => ⟨rfl, h⟩

theorem trans {s t u : State} (h : Unforked s t) (k : Unforked t u) : Unforked s u := fun hs =>
  have ⟨hx, ht⟩ := h hs
  ⟨(k ht).1.trans hx, (k ht).2⟩

theorem foldl {α : Type} {f : State → α → State} (hf : ∀ s a, Unforked s (f s a)) (l : List α) (s : State) :
    Unforked s (l.foldl f s) := foldl_keeps refl trans hf l s

theorem of_chunkStays {s t : State} (h : ChunkStays s t) : Unforked s t := fun hs => ⟨h.1, h.2.trans hs⟩

theorem of_linesMove {s t : State} (h : LinesMove s t) : Unforked s t := of_chunkStays (.of_linesMove h)

theorem writeSeen (s : State) (own : Bool) (l : Nat) : Unforked s (s.writeSeen own l) := fun h => by
  cases own with
  | true => exact ⟨rfl, h⟩
  | false =>
    rw [writeSeen_of_no_fork h]
    exact ⟨rfl, h⟩

theorem perform (s : State) (own : Bool) (pa : Nat) (bs : List Byte) : Unforked s (s.perform own pa bs) :=
  foldl (fun s l => (writeSeen s own l).trans (of_chunkStays (.disturb _ l))) _ (s.pokeBytes pa bs)

theorem applyScatter (s : State) (pa : Nat) : Unforked s (s.applyScatter pa) := by
  unfold State.applyScatter
  dsimp only
  split
  · exact refl s
  · refine ((trans ?_ (of_chunkStays (.countBank _ _ _ _))).trans (of_linesMove (.recallFrom _ _ _))).trans (perform _ _ _ _)
    exact fun h => ⟨rfl, h⟩

theorem flushScatter (s : State) (id : StrandId) : Unforked s (s.flushScatter id) :=
  foldl (fun s (c : Scatter) => applyScatter s c.pa) _ s

theorem drainOne (s : State) (b : BufStore) : Unforked s (s.drainOne b) :=
  (of_linesMove (.storePackets s _ _ _)).trans (perform _ true _ _)

theorem drainCount (s : State) (v : Bool) (k : Nat) : Unforked s (s.drainCount v k) := by
  refine trans (t := s.setBuffer v ((s.buffer v).drop k)) (fun h => ?_) (foldl drainOne _ _)
  cases v <;> exact ⟨rfl, h⟩

theorem drainOldest (s : State) (v : Bool) : Unforked s (s.drainOldest v) := by
  unfold State.drainOldest
  split
  · exact refl s
  · refine (trans ?_ (drainCount _ _ _)).trans (drainCount _ _ _)
    split_ifs
    · exact flushScatter s _
    · exact refl s

theorem drainBuffer (s : State) (v : Bool) : Unforked s (s.drainBuffer v) := foldl (fun s _ => drainOldest s v) _ s

theorem release (s : State) : Unforked s s.release := by
  unfold State.release
  split_ifs
  · exact refl s
  · exact ((drainBuffer s false).trans (drainBuffer _ true)).trans (flushScatter _ _)

end Unforked

/-! ## A record is appended to a log (R287) -/

/-- Where log n takes its next entry. -/
def State.logSlot (s : State) (n : Nat) : Nat := s.logBase n + 64 + (s.mem64 (s.logBase n)).toNat % 4092 * 16

/-- Log n has no room. -/
def State.logFull (s : State) (n : Nat) : Prop := s.mem64 (s.logBase n) - s.mem64 (s.logBase n + 8) = 4092

theorem appendLog_of_full {s : State} {n : Nat} (h : s.logFull n) (ent : List Byte) : s.appendLog ent n =
    (s.pokeBytes (s.logBase n + 16) [s.memByte (s.logBase n + 16) ||| 1]).writeSeen false (s.logBase n / 64) := by
  unfold State.logFull at h
  unfold State.appendLog
  dsimp only
  rw [if_pos h]

theorem appendLog_of_room {s : State} {n : Nat} (h : ¬ s.logFull n) (ent : List Byte) : s.appendLog ent n =
    (((s.pokeBytes (s.logSlot n) ent).writeSeen false (s.logSlot n / 64)).pokeBytes (s.logBase n)
      (leBytes 8 (s.mem64 (s.logBase n) + 1).toNat)).writeSeen false (s.logBase n / 64) := by
  unfold State.logFull at h
  unfold State.appendLog State.logSlot
  dsimp only
  rw [if_neg h]

/-- From `s` to `t` the record has come to stand in log n, or the log has been marked overflowed. -/
structure Appended (ent : List Byte) (n : Nat) (s t : State) : Prop where
  mbx : t.mbx = s.mbx
  room : ¬ s.logFull n → t.mem64 (s.logBase n) = s.mem64 (s.logBase n) + 1 ∧ ∀ i, i < 16 → t.memByte (s.logSlot n + i) = ent.getD i 0
  full : s.logFull n → t.mem64 (s.logBase n) = s.mem64 (s.logBase n) ∧ (t.memByte (s.logBase n + 16)).getLsbD 0 = true

theorem logSlot_bounds (s : State) (n : Nat) : s.logBase n + 64 ≤ s.logSlot n ∧ s.logSlot n + 16 ≤ s.logBase n + 65536 := by
  unfold State.logSlot
  omega

theorem mbx_writeSeen (s : State) (own : Bool) (l : Nat) : (s.writeSeen own l).mbx = s.mbx := by
  unfold State.writeSeen
  cases own <;> rfl

section
variable (s : State) (ent : List Byte) (n : Nat)

theorem mbx_appendLog : (s.appendLog ent n).mbx = s.mbx := by
  by_cases h : s.logFull n
  · rw [appendLog_of_full h, mbx_writeSeen]
    rfl
  · rw [appendLog_of_room h, mbx_writeSeen]
    exact mbx_writeSeen _ _ _

theorem unforked_appendLog : Unforked s (s.appendLog ent n) := by
  have poke (t : State) (pa : Nat) (bs : List Byte) : Unforked t (t.pokeBytes pa bs) := fun h => ⟨rfl, h⟩
  by_cases h : s.logFull n
  · rw [appendLog_of_full h]
    exact (poke _ _ _).trans (.writeSeen _ _ _)
  · rw [appendLog_of_room h]
    exact (((poke _ _ _).trans (.writeSeen _ _ _)).trans (poke _ _ _)).trans (.writeSeen _ _ _)

end

section
variable {s : State} {ent : List Byte}

theorem memWf_appendLog (hwf : s.memWf = true) (n : Nat) : (s.appendLog ent n).memWf = true := by
  by_cases h : s.logFull n
  · rw [appendLog_of_full h]
    exact wf_of_mem (mem_writeSeen _ _ _) (wf_pokeBytes _ _ _ hwf)
  · rw [appendLog_of_room h]
    exact wf_of_mem (mem_writeSeen _ _ _) (wf_pokeBytes _ _ _ (wf_of_mem (mem_writeSeen _ _ _) (wf_pokeBytes _ _ _ hwf)))

/-- Appending to a log changes no byte outside it. -/
theorem memByte_appendLog_out (hlen : ent.length = 16) {n q : Nat} (h : q < s.logBase n ∨ s.logBase n + 65536 ≤ q) :
    (s.appendLog ent n).memByte q = s.memByte q := by
  have ⟨hlo, hhi⟩ := logSlot_bounds s n
  by_cases hfull : s.logFull n
  · rw [appendLog_of_full hfull, memByte_of_mem (mem_writeSeen _ _ _)]
    exact memByte_pokeBytes_out _ _ _ _ (by simp only [List.length_singleton]; omega)
  · rw [appendLog_of_room hfull, memByte_of_mem (mem_writeSeen _ _ _),
      memByte_pokeBytes_out _ _ _ _ (by simp only [length_leBytes]; omega), memByte_of_mem (mem_writeSeen _ _ _)]
    exact memByte_pokeBytes_out _ _ _ _ (by omega)

theorem appended_appendLog (hwf : s.memWf = true) (hlen : ent.length = 16) (n : Nat) : Appended ent n s (s.appendLog ent n) := by
  have ⟨hlo, hhi⟩ := logSlot_bounds s n
  refine ⟨mbx_appendLog s ent n, fun h => ?_, fun h => ?_⟩
  · rw [appendLog_of_room h]
    have hwf' := wf_of_mem (mem_writeSeen _ false (s.logSlot n / 64)) (wf_pokeBytes s (s.logSlot n) ent hwf)
    refine ⟨(mem64_of_mem (mem_writeSeen _ _ _) _).trans (mem64_pokeBytes_same hwf' _ _), fun i hi => ?_⟩
    rw [memByte_of_mem (mem_writeSeen _ _ _), memByte_pokeBytes_out _ _ _ _ (by simp only [length_leBytes]; omega),
      memByte_of_mem (mem_writeSeen _ _ _), memByte_pokeBytes_in s _ i ent hwf (by omega), List.getD_eq_getElem]
  · rw [appendLog_of_full h]
    refine ⟨(mem64_of_mem (mem_writeSeen _ _ _) _).trans (mem64_pokeBytes_apart s (by omega)), ?_⟩
    rw [memByte_of_mem (mem_writeSeen _ _ _), memByte_pokeBytes_singleton hwf, BitVec.getLsbD_or]
    exact Bool.or_true _

end

/-! ## The nine logs are apart -/

/-- Log n of `t` stands where that of `s` does, and holds the same bytes. -/
def SameLog (n : Nat) (s t : State) : Prop :=
  t.mbx = s.mbx ∧ ∀ q, s.logBase n ≤ q → q < s.logBase n + 65536 → t.memByte q = s.memByte q

theorem SameLog.trans {n : Nat} {s t u : State} (h : SameLog n s t) (k : SameLog n t u) : SameLog n s u := by
  have hbase : t.logBase n = s.logBase n := by rw [State.logBase, h.1, State.logBase]
  exact ⟨k.1.trans h.1, fun q hlo hhi => (k.2 q (hbase ▸ hlo) (hbase ▸ hhi)).trans (h.2 q hlo hhi)⟩

theorem SameLog.refl (n : Nat) (s : State) : SameLog n s s := ⟨rfl, fun _ _ _ => rfl⟩

/-- Whether a record has come to stand in a log can be told from that log alone. -/
theorem Appended.congr {ent : List Byte} {n : Nat} {s s' t t' : State} (h : Appended ent n s' t) (hs : SameLog n s s')
    (ht : SameLog n t t') : Appended ent n s t' := by
  have hbase : s'.logBase n = s.logBase n := by rw [State.logBase, hs.1, State.logBase]
  have htbase : t.logBase n = s.logBase n := by rw [State.logBase, h.mbx, hs.1, State.logBase]
  have ⟨hlo, hhi⟩ := logSlot_bounds s n
  have happ : s'.mem64 (s.logBase n) = s.mem64 (s.logBase n) := mem64_congr fun q _ _ => hs.2 q (by omega) (by omega)
  have hdone : s'.mem64 (s.logBase n + 8) = s.mem64 (s.logBase n + 8) := mem64_congr fun q _ _ => hs.2 q (by omega) (by omega)
  have hfull : s'.logFull n ↔ s.logFull n := by rw [State.logFull, hbase, happ, hdone, State.logFull]
  have hslot : s'.logSlot n = s.logSlot n := by rw [State.logSlot, hbase, happ, State.logSlot]
  have happ' : t'.mem64 (s.logBase n) = t.mem64 (s.logBase n) := mem64_congr fun q _ _ => ht.2 q (by omega) (by omega)
  refine ⟨ht.1.trans (h.mbx.trans hs.1), fun hroom => ?_, fun hf => ?_⟩
  · obtain ⟨hcount, hent⟩ := h.room (hfull.not.mpr hroom)
    rw [hbase, happ] at hcount
    exact ⟨happ'.trans hcount, fun i hi => (ht.2 _ (by omega) (by omega)).trans (hslot ▸ hent i hi)⟩
  · obtain ⟨hcount, hmark⟩ := h.full (hfull.mpr hf)
    rw [hbase] at hmark
    rw [hbase, happ] at hcount
    rw [happ', ht.2 _ (by omega) (by omega)]
    exact ⟨hcount, hmark⟩

section
variable {ent : List Byte} (hlen : ent.length = 16)
include hlen

theorem sameLog_appendLog (s : State) {n m : Nat} (h : n ≠ m) : SameLog n s (s.appendLog ent m) := by
  refine ⟨mbx_appendLog s ent m, fun q hlo hhi => memByte_appendLog_out hlen ?_⟩
  unfold State.logBase at hlo hhi ⊢
  omega

theorem sameLog_foldl (l : List Nat) (s : State) {n : Nat} (h : n ∉ l) : SameLog n s (l.foldl (fun s m => s.appendLog ent m) s) := by
  induction l generalizing s with
  | nil => exact SameLog.refl n s
  | cons m l ih =>
    obtain ⟨hm, hl⟩ := not_or.mp (List.mem_cons.not.mp h)
    rw [List.foldl_cons]
    exact (sameLog_appendLog hlen s hm).trans (ih _ hl)

theorem appended_foldl {l : List Nat} (hl : l.Nodup) {s : State} (hwf : s.memWf = true) {n : Nat} (h : n ∈ l) :
    Appended ent n s (l.foldl (fun s m => s.appendLog ent m) s) := by
  induction l generalizing s with
  | nil => cases h
  | cons m l ih =>
    obtain ⟨hm, hl⟩ := List.nodup_cons.mp hl
    rw [List.foldl_cons]
    obtain rfl | hmem := List.mem_cons.mp h
    · have hrest := sameLog_foldl hlen l (s.appendLog ent n) hm
      exact (appended_appendLog hwf hlen n).congr (SameLog.refl n s) hrest
    · have hne : n ≠ m := fun e => hm (e ▸ hmem)
      exact (ih hl (memWf_appendLog hwf m) hmem).congr (sameLog_appendLog hlen s hne) (SameLog.refl n _)

end

/-! ## TLOGW (R284, R287, R289) -/

/-- A log record is well formed: an operation up to 4, and the reserved bytes 0 (R287). -/
def logRecordOk (ent : List Byte) : Bool := (ent.drop 11).all (· == 0) && decide ((ent.getD 10 0).toNat ≤ 4)

/-- What a well-formed record does once the strand's earlier accesses are performed. -/
def State.logged (s : State) (ent : List Byte) : State :=
  if (ent.getD 10 0).toNat = 4 then s.resetClass (leNat (ent.take 8) / 65536 % 2 ^ 36)
  else (List.range 9).foldl (fun s n => s.appendLog ent n) s

section
variable {s : State} (hcore : s.st.place.master? ≠ none) (hlvl : 1 ≤ s.lvl) (a : BitVec 5)
include hcore hlvl

theorem exec_tlogw_of_fork (h : s.st.active = true) : exec (.tlogw a) s = .next (s.trapS 0x27 (wordOf (.tlogw a))) := by
  refine (finish_gate_privileged hcore hlvl (.tlogw a) _).trans ?_
  rw [State.inFork, h]
  rfl

section
variable (hfork : s.st.active = false)
include hfork

theorem exec_tlogw_of_misaligned (h : (s.getS a).toNat % 16 ≠ 0) : exec (.tlogw a) s = .next (s.trapA 0x21 1 (s.getS a)) := by
  refine (finish_gate_privileged hcore hlvl (.tlogw a) _).trans ?_
  dsimp only
  rw [State.inFork, hfork, decide_eq_false h]
  rfl

theorem exec_tlogw_of_read (h : (s.getS a).toNat % 16 = 0) {u : State} {ent : List Byte}
    (hread : s.memRead (s.getS a) 16 = .ok (u, ent)) : exec (.tlogw a) s =
      .next (if logRecordOk ent = true then (if u.noneHeld = true then (u.release.logged ent).advance else u)
        else u.trapS 0x26 (s.getS a)) := by
  refine (finish_gate_privileged hcore hlvl (.tlogw a) _).trans ?_
  dsimp only
  rw [State.inFork, hfork, decide_eq_true h, hread]
  change finish (check (logRecordOk ent) _ >>= fun _ => check u.noneHeld u >>= _) = _
  cases logRecordOk ent
  · rfl
  · cases u.noneHeld
    · rfl
    · dsimp only [State.logged]
      rw [if_pos rfl, if_pos rfl]
      split_ifs <;> rfl

end

end

theorem logRecordOk_iff {ent : List Byte} : logRecordOk ent = true ↔ (∀ b ∈ ent.drop 11, b = 0) ∧ (ent.getD 10 0).toNat ≤ 4 := by
  simp [logRecordOk]

theorem linesMove_resetClass (s : State) (page : Nat) : LinesMove s (s.resetClass page) :=
  (LinesMove.emptyPage s page).trans ⟨_, _, _, _, _, _, rfl⟩

theorem unforked_logged (s : State) (ent : List Byte) : Unforked s (s.logged ent) := by
  unfold State.logged
  split_ifs
  · exact .of_linesMove (linesMove_resetClass s _)
  · exact .foldl (fun s n => unforked_appendLog s ent n) _ s

/-- The page has lost its class, and no holder but the host still has a line of it. -/
theorem resetClass_spec (s : State) (page : Nat) : (∀ c ∈ (s.resetClass page).classes, c.1 ≠ page) ∧
    ∀ c ∈ (s.resetClass page).cache.lines, c.line / 1024 = page → c.holder = .host ∨ c.gone := by
  refine ⟨fun c hc => ?_, fun c hc hpage => ?_⟩
  · simpa using (List.mem_filter.mp hc).2
  · obtain hg | ⟨-, hkept⟩ := mem_lines_evictAll (s := s) hc
    · exact .inr hg
    · exact .inl (by simpa [hpage] using hkept)

theorem translationLogAppend : Sys2Proof.Parts.TranslationLogAppend := by
  intro s a hcore hlvl va
  refine ⟨exec_tlogw_of_fork hcore hlvl a, exec_tlogw_of_misaligned hcore hlvl a, ?_⟩
  intro x hplain hro bs u w op zero
  have hread : s.memRead va 16 = .ok (u, bs) := memRead_of_plain hplain hro
  have hexec := exec_tlogw_of_read hcore hlvl a hplain.alone.2 hplain.aligned.2 hread
  have hmove : LinesMove s u := linesMove_atRead s x 16
  have hst : u.st = s.st := by obtain ⟨_, _, _, _, _, _, e⟩ := hmove; rw [e]
  have hmem : u.mem = s.mem := by obtain ⟨_, _, _, _, _, _, e⟩ := hmove; rw [e]
  have hheld : u.noneHeld = s.noneHeld := by rw [State.noneHeld, hst, State.noneHeld]
  have hw : (w.logged bs).x = s.x := by
    have hsame := ((Unforked.of_linesMove hmove).trans (.release u)).trans (unforked_logged w bs)
    exact (hsame hplain.alone.1).1
  have hwf : w.memWf = true := memWf_release u (wf_of_mem hmem hplain.wf)
  have hdone (hz : zero) (hop : op ≤ 4) (hq : s.noneHeld = true) : exec (.tlogw a) s = .next (w.logged bs).advance := by
    rw [hexec, if_pos (logRecordOk_iff.mpr ⟨hz, hop⟩), if_pos (hheld.trans hq)]
  refine ⟨fun hbad => ?_, fun hz hop hq => ?_, fun hz hop hq => ?_, fun hz hop hq => ?_⟩
  · rw [hexec, if_neg]
    rw [logRecordOk_iff]
    rintro ⟨hz, hop⟩
    exact hbad.elim (· hz) (Nat.not_lt.mpr hop)
  · rw [hexec, if_pos (logRecordOk_iff.mpr ⟨hz, hop⟩), if_neg (by simp [hheld, hq])]
  · refine ⟨_, hdone hz hop.le hq, by rw [advance_x_pc, hw], by rw [advance_x_sreg, hw], ?_⟩
    rw [advance_classes, advance_cache, show w.logged bs = w.resetClass _ from if_pos hop]
    exact resetClass_spec w _
  · refine ⟨_, hdone hz hop.le hq, by rw [advance_x_pc, hw], by rw [advance_x_sreg, hw], fun n hn => ?_⟩
    have happended : Appended bs n w (w.logged bs) := by
      rw [show w.logged bs = _ from if_neg hop.ne]
      exact appended_foldl (by simp [bs]) List.nodup_range hwf (List.mem_range.mpr hn)
    obtain ⟨-, hroom, hfull⟩ := happended
    simp only [State.logFull, State.logSlot, State.logBase] at hroom hfull
    exact ⟨hroom, hfull⟩

/-- Settles O37: TLBINV filters the buffers and ATRAN writes what the probe answers; the entries that an application names are those from
the applied count up to the appended one; the nine logs stand apart, so that a record appended to one leaves the others as they were. -/
theorem translationMaintenance : Obligations.TranslationMaintenance :=
  ⟨translationInstructions, translationLogApplied, translationLogAppend⟩

end Sys2Proof.Machine
